-- ==== Sys2Proof/Word.lean ====
section
/-! DEFINITION. The word types of the Sirjan 8 (R5, R58) and their plainest arithmetic. -/

namespace Sys2Proof

/-- One byte of memory. -/
abbrev Byte := BitVec 8

/-- A 32-bit register (R3, R106). -/
abbrev Word := BitVec 32

/-- A 64-bit value: an even register and the one after it (R33). -/
abbrev DWord := BitVec 64

/-- An instruction word of 96 bits (R58). -/
abbrev IWord := BitVec 96

/-- A set of the 32 lanes of a warp: bit t is lane t (R85). -/
abbrev Lanes := BitVec 32

end Sys2Proof
end

