-- ==== Sys2Proof/Config.lean ====
section
/-! DEFINITION. What an implementation fixes, and the values the spec leaves open. An `opaque` constant here has no body: no proof can see its value, so a theorem about it holds for every value. -/

namespace Sys2Proof.Config

/-- R3: cores of the device. -/
def cores : Nat := 160
/-- R3: clusters of four cores. -/
def clusters : Nat := 40
/-- R3: shared-cache slices, one wellhead each. -/
def slices : Nat := 64
/-- R3, R82: warp slots of a core. -/
def slotsPerCore : Nat := 64
/-- R3: register rows of one partition. -/
def rowsPerPartition : Nat := 2560
/-- R185: HBM lies below this physical address (512 GiB). -/
def hbmTop : Nat := 0x8000000000
/-- R185: host memory starts at this physical address (2^51). -/
def hostBase : Nat := 2251799813685248

/-- A free value (R11): what an undefined result reads as. The argument is the model's own counter `State.free`, so that two undefined results are not tied to each other. DESIGN CHOICE: log 3. -/
opaque freeValue : Nat → BitVec 128
/-- Which of the movable messages or issuing warps acts next, where no rule orders them. -/
opaque pick : Nat → Nat
/-- R61: whether a fetch at a main clock and an address gives the word as it stood before the stores to the code of a running kernel. -/
opaque fetchesOld : Nat → Nat → Bool
/-- R3: the skew of core n's GTIME, before it is brought within the bound of three ticks. -/
opaque coreSkew : Nat → Nat
/-- R3: the skew of slice n's GTIME, before it is brought within the bound. -/
opaque sliceSkew : Nat → Nat
/-- R442: the home slice of a 256-byte line (bits [51:8] of the physical address), before reduction modulo 64. -/
opaque homeSlice : Nat → Nat
/-- R215: the ticks a copy expects to take; the engine states them at acceptance. -/
opaque promiseTicks : Nat → Nat
/-- R167: FRSQ returns one of the two values that bracket the exact result; `true` takes the larger. -/
opaque frsqUp : BitVec 64 → Bool → Bool
/-- R167: the approximate functions: a fixed function of the input bits and STATUS.FTZ. -/
opaque fex2 : BitVec 32 → Bool → BitVec 32
opaque flg2 : BitVec 32 → Bool → BitVec 32
opaque fsin : BitVec 32 → Bool → BitVec 32
opaque fcos : BitVec 32 → Bool → BitVec 32
opaque ftanh : BitVec 32 → Bool → BitVec 32
/-- R434: whether an RSASSA-PKCS1-v1_5 signature verifies (key, message, signature); the spec gives no public exponent. DEDUCED: log 84. -/
opaque rsaVerifies : List (BitVec 8) → List (BitVec 8) → List (BitVec 8) → Bool
/-- R437: the signature of the device identity key over a message; the private key never leaves the die. -/
opaque identitySign : List (BitVec 8) → List (BitVec 8)
/-- R434: the key digest fused at manufacture. -/
opaque fusedKeyDigest : List (BitVec 8)
/-- R437: the device serial number. -/
opaque serialNumber : BitVec 64

/-- R428: spare HBM rows of the device. DEDUCED: log 78. -/
opaque spareRows : Nat

end Sys2Proof.Config
end

