-- ==== Sys2Proof/Syntax.lean ====
section
/-! DEFINITION. The steps of the machine as syntax: one constructor of `Instr` for each row of the opcode table. A word's constructor holds its guard and hints (`Ctl`) and its operands as R58 to R68 name them; a device or host event's constructor holds what its message carries. -/

namespace Sys2Proof

/-- The type codes of R67. -/
inductive Ty where
  | u32 | s32 | u64 | s64 | u16 | s16 | u8 | s8
  | f32 | f64 | bf16 | f16 | bf16x2 | f32x2 | t8 | t6
  deriving DecidableEq, Repr

/-- The rounding codes of R67 and R136. -/
inductive Rm where
  | rn | rz | rp | rm | ra
  deriving DecidableEq, Repr

/-- The scope codes of R67 and R259. -/
inductive Scope where
  | thread | warp | group | cluster | device | tenant | system
  deriving DecidableEq, Repr

/-- The system registers of R64. -/
inductive SysReg where
  | laneid | warpid | lpart | evp | evm | evh | evid
  | gtime | gband | gdepth | trapinfo | fatalx | status
  deriving DecidableEq, Repr

/-- An operand field that names something (R62, R64): a V or K register by index, an assigned special register, or the nine bits of an immediate. -/
inductive Opd where
  | v (n : BitVec 9)
  | k (n : BitVec 9)
  | s (n : Fin 16)
  | z (n : Fin 24)
  | j (n : Fin 16)
  | cf (n : Fin 12)
  | p (n : Fin 8)
  | h (n : Fin 4)
  | sys (r : SysReg)
  | imm (b : BitVec 9)
  deriving DecidableEq, Repr

/-- What every word carries besides its operands: GUARD (R69) and HINT (R70). -/
structure Ctl where
  guard : BitVec 4
  hint : BitVec 24
  deriving DecidableEq, Repr

/-- A memory operand of R34: base, optional index register, shift and two's-complement offset. -/
structure Mem where
  base : Opd
  index : Option Opd
  shift : BitVec 3
  off : BitVec 13
  deriving DecidableEq, Repr

/-- The predicate combination of ISETP and FSETP, AUX[5:0] (R157): 0 none, 1 AND, 2 OR, 3 XOR; negation; Pc. -/
structure PComb where
  op : BitVec 2
  neg : Bool
  c : BitVec 3
  deriving DecidableEq, Repr

/-- BFX and BFI take position and length from AUX or from a control operand (R156). -/
inductive BfCtl where
  | reg (ctl : Opd)
  | lit (pos len : BitVec 8)
  deriving DecidableEq, Repr

/-- The variants of LD and ST (R200). -/
inductive LsKind where
  | plain | priv | b128 | privB128 | qual | qualB128
  deriving DecidableEq, Repr

/-- The comparisons of ISETP (R157). -/
inductive ICmp where
  | eq | ne | lt | le | gt | ge
  deriving DecidableEq, Repr

/-- The comparisons of FSETP (R163), FN 0 to 13. -/
inductive FCmp where
  | eq | ne | lt | le | gt | ge | num | nan | equ | neu | ltu | leu | gtu | geu
  deriving DecidableEq, Repr

/-- The operations of REDUX, SCAN (R176) and of an ACCUM room (R314). -/
inductive RedOp where
  | add | min | max | and | or | xor
  deriving DecidableEq, Repr

/-- The operations of ATOM (R286). -/
inductive AtomOp where
  | add | sub | min | max | and | or | xor | exch | inc | dec
  deriving DecidableEq, Repr

/-- The operations of ATOMF (R287). -/
inductive AtomFOp where
  | add | min | max
  deriving DecidableEq, Repr

/-- The qualifier of an atomic (R284). -/
inductive Qual where
  | none | acq | rel | ar
  deriving DecidableEq, Repr

/-- What the three atomic forms share (R284): type, scope, qualifier, no-return, scratchpad, offset and base. -/
structure AtomCtl where
  ty : Ty
  scope : Scope
  qual : Qual
  nr : Bool
  scratch : Bool
  off : BitVec 12
  base : Opd
  deriving DecidableEq, Repr

/-- The room modes of R317. -/
inductive Room where
  | read | write | accum | push | pop
  deriving DecidableEq, Repr

/-- The memory operand of RLD, RST and RACC: hold slot, shift and an 11-bit offset in AUX (R336). -/
structure RoomMem where
  slot : BitVec 2
  base : Opd
  index : Option Opd
  shift : BitVec 3
  off : BitVec 11
  deriving DecidableEq, Repr

/-- The operand types of MMA (R352). -/
inductive MmaTy where
  | t8 | t6 | int8 | bf16 | f32 | f64
  deriving DecidableEq, Repr

/-- The steps of the device: first the instruction words, each with its operands; then the steps of the rest of the device and of its host, whose operands stand in the message that the step delivers (`State.msg`). -/
inductive Instr where
  /- Control (R98 to R105) -/
  | nop (c : Ctl)
  | bra (c : Ctl) (off : BitVec 8)
  | brak (c : Ctl) (a : Opd)
  | brx (c : Ctl) (a : Opd)
  | call (c : Ctl) (d : Opd) (off : BitVec 8)
  | callk (c : Ctl) (d a : Opd)
  | ret (c : Ctl) (a : Opd)
  | exit (c : Ctl)
  | reconv (c : Ctl) (a : Opd)
  | yield (c : Ctl) (a : Opd)
  | sread (c : Ctl) (d a : Opd)
  | sreadId (c : Ctl) (d : Opd) (n : BitVec 3)
  | sreadExt (c : Ctl) (d : Opd) (n : BitVec 3)
  | sreadNum (c : Ctl) (d : Opd) (n : BitVec 3)
  | sreadBind (c : Ctl) (d : Opd) (n : BitVec 3)
  | swrite (c : Ctl) (d a : Opd)
  /- Registers and streams (R123 to R131) -/
  | mov (c : Ctl) (d a : Opd)
  | mov64 (c : Ctl) (d a : Opd)
  | movk (c : Ctl) (d a : Opd)
  | movk64 (c : Ctl) (d a : Opd)
  | bcast (c : Ctl) (d a b : Opd)
  | limm (c : Ctl) (d a b : Opd)
  | limmIns (c : Ctl) (d a b : Opd)
  | sel (c : Ctl) (neg : Bool) (n : BitVec 3) (d a b : Opd)
  | sel64 (c : Ctl) (neg : Bool) (n : BitVec 3) (d a b : Opd)
  | plog (c : Ctl) (pc : BitVec 3) (lut : BitVec 8) (d a b : Opd)
  | plogTov (c : Ctl) (d : Opd)
  | plogFromv (c : Ctl) (a : Opd)
  | sbindLd (c : Ctl) (e : BitVec 12) (d a : Opd)
  | sbindSt (c : Ctl) (e : BitVec 12) (d a : Opd)
  | sstop (c : Ctl) (a : Opd)
  | sflags (c : Ctl) (d a : Opd)
  /- Integer forms (R151 to R158) -/
  | iadd (c : Ctl) (sat : Bool) (ty : Ty) (d a b : Opd)
  | iaddc (c : Ctl) (ty : Ty) (n : BitVec 3) (d a b : Opd)
  | isub (c : Ctl) (sat : Bool) (ty : Ty) (d a b : Opd)
  | imul (c : Ctl) (wide : Bool) (ty : Ty) (d a b : Opd)
  | imulh (c : Ctl) (ty : Ty) (d a b : Opd)
  | imad (c : Ctl) (wide : Bool) (ty : Ty) (d a b : Opd)
  | imin (c : Ctl) (ty : Ty) (d a b : Opd)
  | imax (c : Ctl) (ty : Ty) (d a b : Opd)
  | iabs (c : Ctl) (sat : Bool) (ty : Ty) (d a : Opd)
  | and (c : Ctl) (ty : Ty) (d a b : Opd)
  | or (c : Ctl) (ty : Ty) (d a b : Opd)
  | xor (c : Ctl) (ty : Ty) (d a b : Opd)
  | andn (c : Ctl) (ty : Ty) (d a b : Opd)
  | shl (c : Ctl) (ty : Ty) (d a b : Opd)
  | shr (c : Ctl) (ty : Ty) (d a b : Opd)
  | sar (c : Ctl) (ty : Ty) (d a b : Opd)
  | rotl (c : Ctl) (ty : Ty) (d a b : Opd)
  | popc (c : Ctl) (ty : Ty) (d a : Opd)
  | clz (c : Ctl) (ty : Ty) (d a : Opd)
  | ctz (c : Ctl) (ty : Ty) (d a : Opd)
  | brev (c : Ctl) (ty : Ty) (d a : Opd)
  | bfx (c : Ctl) (ty : Ty) (f : BfCtl) (d a : Opd)
  | bfi (c : Ctl) (ty : Ty) (f : BfCtl) (d a : Opd)
  | isetp (c : Ctl) (cmp : ICmp) (ty : Ty) (q : PComb) (d a b : Opd)
  | agen (c : Ctl) (signed : Bool) (ty : Ty) (d : Opd) (m : Mem)
  /- Floating point (R159 to R167) -/
  | fadd (c : Ctl) (ty : Ty) (r : Rm) (d a b : Opd)
  | fsub (c : Ctl) (ty : Ty) (r : Rm) (d a b : Opd)
  | fmul (c : Ctl) (ty : Ty) (r : Rm) (d a b : Opd)
  | fma (c : Ctl) (ty : Ty) (r : Rm) (d a b : Opd)
  | fms (c : Ctl) (ty : Ty) (r : Rm) (d a b : Opd)
  | fmin (c : Ctl) (num : Bool) (ty : Ty) (d a b : Opd)
  | fmax (c : Ctl) (num : Bool) (ty : Ty) (d a b : Opd)
  | fsetp (c : Ctl) (cmp : FCmp) (ty : Ty) (q : PComb) (d a b : Opd)
  | fclass (c : Ctl) (ty : Ty) (mask : BitVec 10) (d a : Opd)
  | frnd (c : Ctl) (ty : Ty) (r : Rm) (d a : Opd)
  | frcp (c : Ctl) (ty : Ty) (r : Rm) (d a : Opd)
  | frsq (c : Ctl) (ty : Ty) (d a : Opd)
  | fsqrt (c : Ctl) (ty : Ty) (r : Rm) (d a : Opd)
  | fdiv (c : Ctl) (ty : Ty) (r : Rm) (d a b : Opd)
  | fex2 (c : Ctl) (d a : Opd)
  | flg2 (c : Ctl) (d a : Opd)
  | fsin (c : Ctl) (d a : Opd)
  | fcos (c : Ctl) (d a : Opd)
  | ftanh (c : Ctl) (d a : Opd)
  /- Conversion (R168 to R170) -/
  | cvt (c : Ctl) (dst src : Ty) (r : Rm) (d a : Opd)
  | cvtPack (c : Ctl) (r : Rm) (d a b : Opd)
  | cvtHi (c : Ctl) (dst : Ty) (r : Rm) (d a : Opd)
  | cvtSat (c : Ctl) (dst src : Ty) (r : Rm) (d a : Opd)
  /- Lane exchange (R175 to R184, R413, R414) -/
  | lpartset (c : Ctl) (a : Opd)
  | shflIdx (c : Ctl) (ty : Ty) (vp : Option (BitVec 3)) (d a b : Opd)
  | shflUp (c : Ctl) (ty : Ty) (vp : Option (BitVec 3)) (d a b : Opd)
  | shflDown (c : Ctl) (ty : Ty) (vp : Option (BitVec 3)) (d a b : Opd)
  | shflXor (c : Ctl) (ty : Ty) (vp : Option (BitVec 3)) (d a b : Opd)
  | voteAll (c : Ctl) (neg : Bool) (d a : Opd)
  | voteAny (c : Ctl) (neg : Bool) (d a : Opd)
  | voteEq (c : Ctl) (neg : Bool) (d a : Opd)
  | voteBallot (c : Ctl) (neg : Bool) (d a : Opd)
  | redux (c : Ctl) (op : RedOp) (ty : Ty) (r : Rm) (d a : Opd)
  | scan (c : Ctl) (excl : Bool) (op : RedOp) (ty : Ty) (r : Rm) (d a : Opd)
  | matchLanes (c : Ctl) (ty : Ty) (d a : Opd)
  | lanepfx (c : Ctl) (neg : Bool) (d a : Opd)
  | compress (c : Ctl) (neg : Bool) (ty : Ty) (d a b : Opd)
  | expand (c : Ctl) (neg : Bool) (ty : Ty) (d a b : Opd)
  | slideup (c : Ctl) (ty : Ty) (d a b : Opd)
  | slidedn (c : Ctl) (ty : Ty) (d a b : Opd)
  | cstore (c : Ctl) (ty : Ty) (scope : Scope) (neg : Bool) (n : BitVec 3) (off : BitVec 12) (d a b : Opd)
  /- Memory (R200 to R208) and the steps of the memory system (R192 to R258) -/
  | ld (c : Ctl) (kind : LsKind) (ty : Ty) (scope : Scope) (d : Opd) (m : Mem)
  | st (c : Ctl) (kind : LsKind) (ty : Ty) (scope : Scope) (d : Opd) (m : Mem)
  | ldx (c : Ctl) (b128 : Bool) (ty : Ty) (scope : Scope) (d : Opd) (m : Mem)
  | stx (c : Ctl) (b128 : Bool) (ty : Ty) (scope : Scope) (d : Opd) (m : Mem)
  | prefL1 (c : Ctl) (m : Mem)
  | prefCc (c : Ctl) (m : Mem)
  | prefSl (c : Ctl) (m : Mem)
  | invr (c : Ctl) (scope : Scope) (a b : Opd)
  | wbr (c : Ctl) (scope : Scope) (a b : Opd)
  | invd (c : Ctl) (scope : Scope) (a b : Opd)
  /- Fences and atomics (R266 to R289) -/
  | fenceAr (c : Ctl) (scope : Scope)
  | fenceRel (c : Ctl) (scope : Scope)
  | fenceAcq (c : Ctl) (scope : Scope)
  | fenceAll (c : Ctl) (scope : Scope)
  | atom (c : Ctl) (op : AtomOp) (t : AtomCtl) (d : Option Opd) (b : Opd)
  | atomf (c : Ctl) (op : AtomFOp) (t : AtomCtl) (d : Option Opd) (b : Opd)
  | cas (c : Ctl) (b128 : Bool) (t : AtomCtl) (d b : Opd)
  /- Scratchpad and copies (R209 to R237) -/
  | lds (c : Ctl) (b128 : Bool) (ty : Ty) (d : Opd) (m : Mem)
  | sts (c : Ctl) (b128 fill : Bool) (ty : Ty) (d : Opd) (m : Mem)
  | lmarkEmpty (c : Ctl) (a b : Opd)
  | lmarkFull (c : Ctl) (a b : Opd)
  | lmarkQ (c : Ctl) (d a : Opd)
  | tdesc (c : Ctl) (h a : Opd)
  | cpyLoad (c : Ctl) (scope : Scope) (t : Bool) (layout : BitVec 3) (d a b : Opd)
  | cpyBstack (c : Ctl) (scope : Scope) (t : Bool) (layout : BitVec 3) (d a b : Opd)
  | cpyStore (c : Ctl) (scope : Scope) (t : Bool) (d a b : Opd)
  | cpyg (c : Ctl) (scope : Scope) (pool comp : BitVec 2) (d a b : Opd)
  | cpys (c : Ctl) (scope : Scope) (d a b : Opd)
  | cpyqStat (c : Ctl) (d a : Opd)
  | cpyqCancel (c : Ctl) (a : Opd)
  | sleept (c : Ctl) (a : Opd)
  | sleeptP (c : Ctl) (d a b : Opd)
  | sleeptT (c : Ctl) (a b : Opd)
  /- Barriers, events, mailboxes (R302 to R310) -/
  | barinit (c : Ctl) (a b : Opd)
  | barinitInval (c : Ctl) (a : Opd)
  | bararr (c : Ctl) (lanes : Bool) (scope : Scope) (d : Option Opd) (a : Opd)
  | barexp (c : Ctl) (arr : Bool) (scope : Scope) (d : Option Opd) (a b : Opd)
  | barwait (c : Ctl) (scope : Scope) (d a b : Opd)
  | evarm (c : Ctl) (n : BitVec 4) (a : Opd)
  | evarmOne (c : Ctl) (n : BitVec 3) (a : Opd)
  | evmask (c : Ctl) (a : Opd)
  | evmaskOr (c : Ctl) (a : Opd)
  | evmaskAndn (c : Ctl) (a : Opd)
  | evclr (c : Ctl) (a : Opd)
  | evclrDisarm (c : Ctl) (a : Opd)
  | waitany (c : Ctl)
  | mbxinit (c : Ctl) (d a b : Opd)
  | mbxinitFree (c : Ctl) (a : Opd)
  | mbxsend (c : Ctl) (scope : Scope) (d a b : Opd)
  | mbxsendSt (c : Ctl) (scope : Scope) (d a b : Opd)
  | mbxpop (c : Ctl) (scope : Scope) (n : BitVec 3) (d a : Opd)
  /- Rooms (R332 to R340) and wellheads (R319 to R330) -/
  | rdesc (c : Ctl) (d a : Opd)
  | rfree (c : Ctl) (a : Opd)
  | rdemand (c : Ctl) (mode : Room) (a h : Opd)
  | rdemandWait (c : Ctl) (mode : Room) (d a h : Opd)
  | rleave (c : Ctl) (h : Opd)
  | rld (c : Ctl) (ty : Ty) (d : Opd) (m : RoomMem)
  | rst (c : Ctl) (ty : Ty) (d : Opd) (m : RoomMem)
  | racc (c : Ctl) (op : RedOp) (ty : Ty) (d : Opd) (m : RoomMem)
  | rpush (c : Ctl) (ty : Ty) (d a h : Opd)
  | rpop (c : Ctl) (ty : Ty) (n : BitVec 3) (d h : Opd)
  | rquery (c : Ctl) (d h : Opd)
  | rqueryR (c : Ctl) (d a : Opd)
  /- Matrix (R348 to R365) -/
  | jset (c : Ctl) (d a : Opd)
  | jsetQ (c : Ctl) (d a : Opd)
  | mma (c : Ctl) (ty : MmaTy) (ha hb : Bool) (j : BitVec 4) (hA hB : BitVec 5) (z a b : Opd)
  | mfenceOp (c : Ctl)
  | zclr (c : Ctl) (z a : Opd)
  | zld (c : Ctl) (half : Option Bool) (d z b : Opd)
  | zst (c : Ctl) (half : Option Bool) (d z b : Opd)
  | bload (c : Ctl) (d a b : Opd)
  | qhist (c : Ctl) (ty : Ty) (z a : Opd)
  | qhistRows (c : Ctl) (z a b : Opd)
  | qhistClr (c : Ctl) (z : Opd)
  | qscale (c : Ctl) (t6 : Bool) (d z b : Opd)
  | qpack (c : Ctl) (t6 : Bool) (p : BitVec 8) (d z : Opd)
  | qpackE (c : Ctl) (t6 : Bool) (d z b : Opd)
  /- Graphs (R373 to R392) -/
  | gfire (c : Ctl) (d : Option Opd) (a : Opd)
  | gfireEnd (c : Ctl)
  | gtoken (c : Ctl) (d : Option Opd) (a b : Opd)
  | gfail (c : Ctl) (a : Opd)
  | garg (c : Ctl) (d a : Opd)
  | gargAddr (c : Ctl) (d : Opd)
  | gargIndex (c : Ctl) (d : Opd)
  | gstat (c : Ctl) (d a : Opd)
  | gstatG (c : Ctl) (d a : Opd)
  | gstatD (c : Ctl) (d : Opd)
  /- Traps, records, pre-emption (R401 to R411) -/
  | trap (c : Ctl) (a : Opd)
  | trapRd (c : Ctl) (d a : Opd)
  | rte (c : Ctl)
  | rteNext (c : Ctl)
  | rteAt (c : Ctl) (a : Opd)
  | rteFail (c : Ctl)
  /- Steps that are no words (R84 to R441): the operands are those of the message of the same name -/
  | yieldExpire | streamFetchDone | specialFunctionDone | cstoreComplete | memoryReply | parkTableRetry
  | loadParkTimeout | frespResolve | frespDeny | pushArrive | pushAck | releaseComplete | revokeArrive
  | revokeAck | redirectionArrive | writebackArrive | writebackAck | recall | clusterEvict | l1Evict
  | kernelBoundary | atomicApply | lineFillWake | copyAccept | copyChunkLand | copyDone | copyLate | copyStop
  | sleepWake | timerExpire | mbxAppend | mbxReply | demandArrive | demandRetry | leaveArrive
  | publicationComplete | grantArrive | drainOverdue | probeSend | probeAtWellhead | probeAtWarp
  | refusalArrive | mmaComplete | raisedCopyStop | inlineFireRetest | graphLaunch | nodeDispatch
  | nodeComplete | nodeFail | nodeWorkStopped | groupPlacement | warpRetire | groupRetire | warpUrgent
  | fatalRecord | eviction | warpResume | groupStateSave | postedWrite | hostRead | hostSnoop | bisnp
  | bisnpResponse | hostWriteback | reset | resetKillTimeout | resetComplete | ptroot | invaddr
  | invalidationComplete | launch | fqhead | tqhead | fatalxClear | preempt | collOpen | registerWrite
  | msixUnmask | bucketRefill | eccCorrected | eccUncorrectable | errorWindowExpire | retrain | trainingEnd
  | flitReceive | linkDown | downevClear | collContribute | embxRequest | collEnd | collAbort | powerOn
  | supplyStable | romStage | verify | memoryStage | ready | bootimg | attreq | attestationDone | limitSample
  | clockStepChange | shutdown | hostLinkReset | supplyLoss | acquireComplete | tileWordComplete
  | functionLevelReset | virtualFunctionEnable
  deriving DecidableEq, Repr

end Sys2Proof
end

