-- ==== Sys2Proof/WellFormed.lean ====
section
/-! DEFINITION. Which instruction terms stand for legal words (R62 to R72 and the encoding rows of the entries), within the largest limits a launch can have: 320 V registers and 24 tiles. Written on the terms themselves, apart from the decoder; a device or host event is not a word. -/

namespace Sys2Proof

/-- R67: bytes of one value of a type; T6 has no byte size. -/
def Ty.size : Ty → Nat
  | .u8 | .s8 | .t8 => 1
  | .u16 | .s16 | .bf16 | .f16 => 2
  | .u32 | .s32 | .f32 | .bf16x2 | .t6 => 4
  | .u64 | .s64 | .f64 | .f32x2 => 8

/-- R33: 32-bit registers of one value of a type. -/
def Ty.regs (ty : Ty) : Nat := if ty.size = 8 then 2 else 1

/-- Types 0x0 to 0x3: the integers of 32 and 64 bits. -/
def Ty.isInt : Ty → Bool
  | .u32 | .s32 | .u64 | .s64 => true
  | _ => false

/-- Types 0x0 to 0x7: every integer type. -/
def Ty.isAnyInt : Ty → Bool
  | .u32 | .s32 | .u64 | .s64 | .u16 | .s16 | .u8 | .s8 => true
  | _ => false

/-- Types 0x8 to 0xB: the scalar floating-point types. -/
def Ty.isFloat : Ty → Bool
  | .f32 | .f64 | .bf16 | .f16 => true
  | _ => false

/-- Types 0x8 to 0xC. -/
def Ty.isFloatOrPair (ty : Ty) : Bool := ty.isFloat || ty == .bf16x2

/-- Types 0x0 and 0x2, the two of R176. -/
def Ty.isU : Ty → Bool
  | .u32 | .u64 => true
  | _ => false

namespace WF

/-- R66: w registers from index n, aligned and inside `top`. -/
def idx (top w : Nat) (n : BitVec 9) : Bool := n.toNat % w == 0 && n.toNat + w ≤ top

/-- A V register, pair or quad. -/
def v (w : Nat) : Opd → Bool
  | .v n => idx 320 w n
  | _ => false

/-- A K register, pair or quad. -/
def k (w : Nat) : Opd → Bool
  | .k n => idx 512 w n
  | _ => false

def vk (w : Nat) (o : Opd) : Bool := v w o || k w o

def imm : Opd → Bool
  | .imm _ => true
  | _ => false

def s : Opd → Bool
  | .s _ => true
  | _ => false

def p : Opd → Bool
  | .p _ => true
  | _ => false

def h : Opd → Bool
  | .h _ => true
  | _ => false

def j : Opd → Bool
  | .j _ => true
  | _ => false

def z : Opd → Bool
  | .z _ => true
  | _ => false

/-- R361: an even tile whose successor exists. -/
def zPair : Opd → Bool
  | .z n => n.val % 2 == 0
  | _ => false

def vki (o : Opd) : Bool := v 1 o || k 1 o || imm o

/-- R149: an integer source of 1 or 2 registers. -/
def isrc (w : Nat) (o : Opd) : Bool := v w o || k w o || imm o || (w == 1 && s o)

/-- R149: a floating-point source; never an immediate. -/
def fsrc (w : Nat) (o : Opd) : Bool := v w o || k w o || (w == 1 && s o)

/-- R149: a destination that is only written. -/
def dst (w : Nat) (o : Opd) : Bool := v w o || (w == 1 && s o)

/-- An optional operand that is absent or one V register. -/
def vOpt : Option Opd → Bool
  | none => true
  | some o => v 1 o

/-- A K block whose index is a multiple of `a` and at most `top`. -/
def kBlock (a top : Nat) : Opd → Bool
  | .k n => n.toNat % a == 0 && n.toNat ≤ top
  | _ => false

/-- R34: base of w registers, index a V register or absent. -/
def mem (w : Nat) (m : Mem) : Bool := vk w m.base && vOpt m.index

/-- R72: SET of a fixed-latency or no-counter form is 15. -/
def set15 (c : Ctl) : Bool := c.hint.extractLsb' 16 4 == 15

/-- R70, R72: SET of a variable-latency form is 0 to 11, or 15. -/
def setVar (c : Ctl) : Bool := c.hint.extractLsb' 16 4 == 15 || (c.hint.extractLsb' 16 4).toNat ≤ 11

/-- R157: with no combination the other bits are zero. -/
def comb (q : PComb) : Bool := q.op != 0 || (q.neg == false && q.c == 0)

def scopeFrom (a b : Nat) (x : Scope) : Bool :=
  let n := match x with
    | .thread => 0 | .warp => 1 | .group => 2 | .cluster => 3 | .device => 4 | .tenant => 5 | .system => 6
  a ≤ n && n ≤ b

/-- R200 and R230: types with a byte size. -/
def ldTy : Ty → Bool
  | .t6 => false
  | _ => true

/-- The register width, base width and rules of an LD or ST variant (R200). -/
def ls (kind : LsKind) (ty : Ty) (sc : Scope) (m : Mem) : Bool :=
  match kind with
  | .plain | .qual => ldTy ty && mem 2 m
  | .b128 | .qualB128 => ty == .u32 && mem 2 m
  | .priv => ldTy ty && sc == .thread && mem 1 m
  | .privB128 => ty == .u32 && sc == .thread && mem 1 m

def lsRegs (kind : LsKind) (ty : Ty) : Nat :=
  match kind with
  | .plain | .qual | .priv => ty.regs
  | .b128 | .qualB128 | .privB128 => 4

/-- R203: LDX and STX take U32, U64, or B128 with type 0x0. -/
def lsx (b128 : Bool) (ty : Ty) : Bool := if b128 then ty == .u32 else ty.isU

def lsxRegs (b128 : Bool) (ty : Ty) : Nat := if b128 then 4 else ty.regs

/-- R284 and R285: scope by address space, base width, SET by return. -/
def atomic (c : Ctl) (t : AtomCtl) : Bool :=
  (if t.scratch then scopeFrom 0 2 t.scope && vk 1 t.base else vk 2 t.base)
    && (if t.nr then set15 c else setVar c)

/-- R284: the return destination of ATOM and ATOMF. -/
def atomicDst (t : AtomCtl) (w : Nat) : Option Opd → Bool
  | none => t.nr
  | some o => !t.nr && v w o

def roomMem (m : RoomMem) : Bool := vk 2 m.base && vOpt m.index

/-- R314: the types of an accumulation. -/
def accTy : Ty → Bool
  | .u32 | .s32 | .u64 | .s64 | .f32 | .f64 | .bf16 => true
  | _ => false

/-- R176: REDUX and SCAN. -/
def redOp (op : RedOp) (ty : Ty) (r : Rm) : Bool :=
  (ty.isInt && r == .rn) ||
  (ty == .f32 && match op with
    | .add => true
    | .min | .max => r == .rn
    | .and | .or | .xor => false)

/-- Operands of a copy word (R233). -/
def copy (c : Ctl) (sc : Scope) (d a b : Opd) : Bool :=
  setVar c && scopeFrom 2 6 sc && v 4 d && kBlock 4 500 a && (k 1 b || imm b)

/-- R99: a branch offset is -127 to 127 words. -/
def off (x : BitVec 8) : Bool := x != 0x80

/-- R126: a position is at most 3. -/
def pos3 : Opd → Bool
  | .imm b => (b.extractLsb' 0 8).toNat ≤ 3
  | _ => false

end WF

open WF in
/-- A term that stands for a legal word. -/
def Instr.wf : Instr → Bool
  | .nop c | .exit c | .waitany c | .gfireEnd c | .rte c | .rteNext c | .rteFail c => set15 c
  | .bra c o => set15 c && off o
  | .brak c a => set15 c && k 1 a
  | .brx c a | .ret c a => set15 c && v 1 a
  | .call c d o => set15 c && off o && v 1 d
  | .callk c d a => set15 c && v 1 d && k 1 a
  | .reconv c a | .lpartset c a | .evmask c a | .evmaskOr c a | .evmaskAndn c a | .evclr c a
  | .evclrDisarm c a | .gfail c a | .trap c a | .rteAt c a => set15 c && vki a
  | .yield c a => set15 c && imm a
  | .sread c d a => set15 c && (match a with
      | .sys .gtime => v 2 d
      | .sys _ | .cf _ => v 1 d
      | _ => false)
  | .sreadId c d _ | .sreadExt c d _ | .sreadNum c d _ | .sreadBind c d _ => set15 c && v 1 d
  | .swrite c d a => set15 c && vki a && (match d with
      | .sys .status | .sys .evh | .sys .gdepth => true
      | _ => false)
  | .mov c d a => set15 c && dst 1 d && isrc 1 a
  | .mov64 c d a => set15 c && v 2 d && isrc 2 a
  | .movk c d a => set15 c && k 1 d && isrc 1 a
  | .movk64 c d a => set15 c && k 2 d && isrc 2 a
  | .bcast c d a b => set15 c && dst 1 d && dst 1 a && (k 1 b || imm b)
  | .limm c d a b => set15 c && dst 1 d && imm a && pos3 b
  | .limmIns c d a b => set15 c && v 1 d && imm a && pos3 b
  | .sel c _ _ d a b => set15 c && dst 1 d && isrc 1 a && isrc 1 b
  | .sel64 c _ _ d a b => set15 c && v 2 d && isrc 2 a && isrc 2 b
  | .plog c _ _ d a b => set15 c && p d && p a && p b
  | .plogTov c d => set15 c && dst 1 d
  | .plogFromv c a => set15 c && isrc 1 a
  | .sbindLd c _ d a | .sbindSt c _ d a => set15 c && s d && kBlock 2 500 a
  | .sstop c a => setVar c && s a
  | .sflags c d a => set15 c && dst 1 d && s a
  | .iadd c _ ty d a b | .isub c _ ty d a b =>
    set15 c && ty.isInt && dst ty.regs d && isrc ty.regs a && isrc ty.regs b
  | .iaddc c ty _ d a b => set15 c && ty.isU && dst ty.regs d && isrc ty.regs a && isrc ty.regs b
  | .imul c wide ty d a b => set15 c && ty.isInt && (if wide then ty.size == 4 && v 2 d else dst ty.regs d)
      && isrc ty.regs a && isrc ty.regs b
  | .imad c wide ty d a b => set15 c && ty.isInt && (if wide then ty.size == 4 && v 2 d else v ty.regs d)
      && isrc ty.regs a && isrc ty.regs b
  | .imulh c ty d a b | .imin c ty d a b | .imax c ty d a b | .and c ty d a b | .or c ty d a b
  | .xor c ty d a b | .andn c ty d a b =>
    set15 c && ty.isInt && dst ty.regs d && isrc ty.regs a && isrc ty.regs b
  | .iabs c _ ty d a => set15 c && (ty == .s32 || ty == .s64) && dst ty.regs d && isrc ty.regs a
  | .shl c ty d a b | .shr c ty d a b | .sar c ty d a b | .rotl c ty d a b =>
    set15 c && ty.isInt && dst ty.regs d && isrc ty.regs a && isrc 1 b
  | .popc c ty d a | .clz c ty d a | .ctz c ty d a => set15 c && ty.isInt && dst 1 d && isrc ty.regs a
  | .brev c ty d a => set15 c && ty.isInt && dst ty.regs d && isrc ty.regs a
  | .bfx c ty f d a => set15 c && ty.isInt && dst ty.regs d && isrc ty.regs a && (match f with
      | .reg b => isrc 1 b
      | .lit _ _ => true)
  | .bfi c ty f d a => set15 c && ty.isInt && v ty.regs d && isrc ty.regs a && (match f with
      | .reg b => isrc 1 b
      | .lit _ _ => true)
  | .isetp c _ ty q d a b => set15 c && ty.isInt && comb q && p d && isrc ty.regs a && isrc ty.regs b
  | .agen c _ ty d m => set15 c && ty.isU && dst ty.regs d && fsrc ty.regs m.base && (match m.index with
      | none => true
      | some o => dst 1 o)
  | .fadd c ty _ d a b | .fsub c ty _ d a b | .fmul c ty _ d a b =>
    set15 c && ty.isFloatOrPair && dst ty.regs d && fsrc ty.regs a && fsrc ty.regs b
  | .fma c ty _ d a b | .fms c ty _ d a b =>
    set15 c && ty.isFloatOrPair && v ty.regs d && fsrc ty.regs a && fsrc ty.regs b
  | .fmin c _ ty d a b | .fmax c _ ty d a b =>
    set15 c && ty.isFloatOrPair && dst ty.regs d && fsrc ty.regs a && fsrc ty.regs b
  | .fsetp c _ ty q d a b => set15 c && ty.isFloat && comb q && p d && fsrc ty.regs a && fsrc ty.regs b
  | .fclass c ty _ d a => set15 c && ty.isFloat && p d && fsrc ty.regs a
  | .frnd c ty _ d a => set15 c && ty.isFloat && dst ty.regs d && fsrc ty.regs a
  | .frcp c ty _ d a | .fsqrt c ty _ d a | .frsq c ty d a =>
    setVar c && (ty == .f32 || ty == .f64) && dst ty.regs d && fsrc ty.regs a
  | .fdiv c ty _ d a b =>
    setVar c && (ty == .f32 || ty == .f64) && dst ty.regs d && fsrc ty.regs a && fsrc ty.regs b
  | .fex2 c d a | .flg2 c d a | .fsin c d a | .fcos c d a | .ftanh c d a => setVar c && dst 1 d && fsrc 1 a
  | .cvt c dt sty r d a => set15 c && dt != .bf16x2 && dt != .f32x2 && sty != .f32x2
      && (!(dt == .t8 || dt == .t6) || r == .rn) && dst dt.regs d
      && (fsrc sty.regs a || (sty.isAnyInt && imm a))
  | .cvtPack c _ d a b => set15 c && dst 1 d && fsrc 1 a && fsrc 1 b
  | .cvtHi c dt _ d a => set15 c && dt.isFloat && dst dt.regs d && fsrc 1 a
  | .cvtSat c dt sty _ d a => set15 c && dt.isAnyInt && sty.isAnyInt && dst dt.regs d && isrc sty.regs a
  | .shflIdx c ty _ d a b | .shflUp c ty _ d a b | .shflDown c ty _ d a b | .shflXor c ty _ d a b =>
    set15 c && ty.isU && v ty.regs d && v ty.regs a && vki b
  | .voteAll c _ d a | .voteAny c _ d a | .voteEq c _ d a => set15 c && p d && p a
  | .voteBallot c _ d a | .lanepfx c _ d a => set15 c && v 1 d && p a
  | .redux c op ty r d a | .scan c _ op ty r d a => set15 c && redOp op ty r && v ty.regs d && v ty.regs a
  | .matchLanes c ty d a => set15 c && ty.isU && v 1 d && v ty.regs a
  | .compress c _ ty d a b | .expand c _ ty d a b => set15 c && ty.isU && v ty.regs d && v ty.regs a && p b
  | .slideup c ty d a b | .slidedn c ty d a b => set15 c && ty.isU && v ty.regs d && v ty.regs a && k 1 b
  | .cstore c ty _ _ _ _ d a b => setVar c && (ty == .u32 || ty == .u64 || ty == .u16 || ty == .u8)
      && v 1 d && vk 2 a && v ty.regs b
  | .ld c kind ty sc d m => setVar c && ls kind ty sc m && v (lsRegs kind ty) d
  | .st c kind ty sc d m => setVar c && ls kind ty sc m && vk (lsRegs kind ty) d
  | .ldx c b128 ty _ d m => setVar c && lsx b128 ty && mem 2 m && v (lsxRegs b128 ty) d
  | .stx c b128 ty _ d m => setVar c && lsx b128 ty && mem 2 m && vk (lsxRegs b128 ty) d
  | .prefL1 c m | .prefCc c m | .prefSl c m => set15 c && mem 2 m
  | .invr c sc a b | .wbr c sc a b => setVar c && scopeFrom 2 6 sc && vk 2 a && vki b
  | .invd c sc a b => setVar c && scopeFrom 4 6 sc && vk 2 a && vki b
  | .fenceAr c _ | .fenceRel c _ | .fenceAcq c _ | .fenceAll c _ => setVar c
  | .atom c _ t d b => atomic c t && t.ty.isInt && atomicDst t t.ty.regs d
      && (vk t.ty.regs b || (t.ty.regs == 1 && imm b))
  | .atomf c _ t d b => atomic c t && (t.ty == .f32 || t.ty == .f64 || t.ty == .bf16 || t.ty == .bf16x2 || t.ty == .f32x2)
      && atomicDst t t.ty.regs d && vk t.ty.regs b
  | .cas c b128 t d b => atomic c t && (if b128 then t.ty == .u32 && v 4 d && vk 4 b
      else t.ty.isInt && v t.ty.regs d && vk t.ty.regs b)
  | .lds c b128 ty d m => setVar c && mem 1 m && (if b128 then ty == .u32 && v 4 d else ldTy ty && v ty.regs d)
  | .sts c b128 _ ty d m => setVar c && mem 1 m && (if b128 then ty == .u32 && vk 4 d else ldTy ty && vk ty.regs d)
  | .lmarkEmpty c a b | .lmarkFull c a b => setVar c && vk 1 a && vki b
  | .lmarkQ c d a => setVar c && v 1 d && vk 1 a
  | .tdesc c hh a => set15 c && (k 1 hh || imm hh) && kBlock 4 496 a
  | .cpyLoad c sc _ l d a b | .cpyBstack c sc _ l d a b => copy c sc d a b && l.toNat ≤ 5
  | .cpyStore c sc _ d a b => copy c sc d a b
  | .cpyg c sc pool comp d a b => copy c sc d a b && pool != 3 && comp != 3
  | .cpys c sc d a b => copy c sc d a b
  | .cpyqStat c d a => setVar c && v 1 d && vk 1 a
  | .cpyqCancel c a => setVar c && vk 1 a
  | .sleept c a => set15 c && vk 2 a
  | .sleeptP c d a b => set15 c && p d && vk 2 a && vki b
  | .sleeptT c a b => set15 c && vk 2 a && vki b
  | .barinit c a b => setVar c && vk 1 a && vki b
  | .barinitInval c a | .mbxinitFree c a => setVar c && vk 1 a
  | .bararr c _ sc d a => setVar c && scopeFrom 2 6 sc && vOpt d && vk 1 a
  | .barexp c _ sc d a b => setVar c && scopeFrom 2 6 sc && vOpt d && vk 1 a && vki b
  | .barwait c sc d a b => set15 c && scopeFrom 2 6 sc && p d && vk 1 a && vk 1 b
  | .evarm c n a => set15 c && 1 ≤ n.toNat && n.toNat ≤ 8 && kBlock 4 (512 - 4 * n.toNat) a
  | .evarmOne c _ a => set15 c && kBlock 4 508 a
  | .mbxinit c d a b => setVar c && v 1 d && vk 1 a && vki b
  | .mbxsend c sc d a b => setVar c && scopeFrom 2 6 sc && p d && vk 1 a && vk 4 b
  | .mbxsendSt c sc d a b => setVar c && scopeFrom 2 6 sc && v 1 d && vk 1 a && vk 4 b
  | .mbxpop c sc _ d a => setVar c && scopeFrom 2 6 sc && v 4 d && vk 1 a
  | .rdesc c d a => setVar c && v 1 d && vk 2 a
  | .rfree c a => setVar c && vk 1 a
  | .rdemand c _ a hh => set15 c && vk 1 a && h hh
  | .rdemandWait c _ d a hh => set15 c && p d && vk 1 a && h hh
  | .rleave c hh => setVar c && h hh
  | .rld c ty d m => setVar c && ldTy ty && v ty.regs d && roomMem m
  | .rst c ty d m => setVar c && ldTy ty && vk ty.regs d && roomMem m
  | .racc c _ ty d m => set15 c && accTy ty && vk ty.regs d && roomMem m
  | .rpush c ty d a hh => setVar c && ty.isU && p d && vk ty.regs a && h hh
  | .rpop c ty _ d hh => setVar c && ty.isU && v ty.regs d && h hh
  | .rquery c d hh => setVar c && v 1 d && h hh
  | .rqueryR c d a => setVar c && v 1 d && vk 1 a
  | .jset c d a => set15 c && j d && vki a
  | .jsetQ c d a => set15 c && v 1 d && j a
  | .mma c _ ha hb _ hA hB zz a b => setVar c && z zz && (if ha then kBlock 4 500 a else hA == 0 && vk 1 a)
      && (if hb then kBlock 4 500 b else hB == 0 && vk 1 b)
  | .mfenceOp c => setVar c
  | .zclr c zz a => setVar c && z zz && vki a
  | .zld c half d zz b | .zst c half d zz b => setVar c && v 4 d && vki b && (match half with
      | none => z zz
      | some _ => zPair zz)
  | .bload c d a b => setVar c && vki d && vk 1 a && vk 1 b
  | .qhist c ty zz a => setVar c && (ty == .f32 || ty == .bf16 || ty == .f16) && z zz && vk 1 a
  | .qhistRows c zz a b => setVar c && z zz && vki a && vki b
  | .qhistClr c zz => setVar c && z zz
  | .qscale c _ d zz b => setVar c && v 1 d && z zz && vki b
  | .qpack c _ _ d zz => setVar c && vk 1 d && z zz
  | .qpackE c _ d zz b => setVar c && vk 1 d && z zz && vki b
  | .gfire c d a => setVar c && vOpt d && vk 2 a
  | .gtoken c d a b => setVar c && vOpt d && vk 2 a && vki b
  | .garg c d a => setVar c && v 1 d && vki a
  | .gargAddr c d => setVar c && v 2 d
  | .gargIndex c d | .gstatD c d => setVar c && v 1 d
  | .gstat c d a | .gstatG c d a => setVar c && v 1 d && vk 2 a
  | .trapRd c d a => set15 c && v 1 d && vki a
  | .yieldExpire | .streamFetchDone | .specialFunctionDone | .cstoreComplete | .memoryReply | .parkTableRetry
  | .loadParkTimeout | .frespResolve | .frespDeny | .pushArrive | .pushAck | .releaseComplete | .revokeArrive
  | .revokeAck | .redirectionArrive | .writebackArrive | .writebackAck | .recall | .clusterEvict | .l1Evict
  | .kernelBoundary | .atomicApply | .lineFillWake | .copyAccept | .copyChunkLand | .copyDone | .copyLate
  | .copyStop | .sleepWake | .timerExpire | .mbxAppend | .mbxReply | .demandArrive | .demandRetry
  | .leaveArrive | .publicationComplete | .grantArrive | .drainOverdue | .probeSend | .probeAtWellhead
  | .probeAtWarp | .refusalArrive | .mmaComplete | .raisedCopyStop | .inlineFireRetest | .graphLaunch
  | .nodeDispatch | .nodeComplete | .nodeFail | .nodeWorkStopped | .groupPlacement | .warpRetire
  | .groupRetire | .warpUrgent | .fatalRecord | .eviction | .warpResume | .groupStateSave | .postedWrite
  | .hostRead | .hostSnoop | .bisnp | .bisnpResponse | .hostWriteback | .reset | .resetKillTimeout
  | .resetComplete | .ptroot | .invaddr | .invalidationComplete | .launch | .fqhead | .tqhead | .fatalxClear
  | .preempt | .collOpen | .registerWrite | .msixUnmask | .bucketRefill | .eccCorrected | .eccUncorrectable
  | .errorWindowExpire | .retrain | .trainingEnd | .flitReceive | .linkDown | .downevClear | .collContribute
  | .embxRequest | .collEnd | .collAbort | .powerOn | .supplyStable | .romStage | .verify | .memoryStage
  | .ready | .bootimg | .attreq | .attestationDone | .limitSample | .clockStepChange | .shutdown
  | .hostLinkReset | .supplyLoss | .acquireComplete | .tileWordComplete | .functionLevelReset
  | .virtualFunctionEnable => false

end Sys2Proof
end

