-- ==== Sys2Proof/Machine/Flags.lean ====
section
/-! DEFINITION. Number formats, rounding and the conditions of floating-point forms (R133 to R148, R160 to R170), written on exact integers. -/

namespace Sys2Proof.Machine

/-- The conditions of R160. -/
structure Conds where
  nv : Bool := false
  dz : Bool := false
  ofl : Bool := false
  uf : Bool := false
  nx : Bool := false
  deriving DecidableEq, Repr

/-- Conditions of two elements or lanes together. -/
def condsOr (a b : Conds) : Conds :=
  ⟨a.nv || b.nv, a.dz || b.dz, a.ofl || b.ofl, a.uf || b.uf, a.nx || b.nx⟩

/-- The sticky bits of STATUS that conditions set (R97). -/
def condsBits (c : Conds) : Word :=
  let b (x : Bool) (n : Nat) : Word := if x then BitVec.twoPow 32 n else 0
  b c.nv 4 ||| b c.dz 5 ||| b c.ofl 6 ||| b c.uf 7 ||| b c.nx 8

/-- R160: the conditions that trap under ARITHEN, as DETAIL of ARITH (R398). -/
def arithDetail (c : Conds) : Nat := c.nv.toNat + 2 * c.dz.toNat + 4 * c.ofl.toNat

/-- A binary format: exponent and fraction bits (R133). -/
structure FFmt where
  eb : Nat
  fb : Nat
  deriving DecidableEq, Repr

def fmtBF16 : FFmt := ⟨8, 7⟩
def fmtF16 : FFmt := ⟨5, 10⟩
def fmtF32 : FFmt := ⟨8, 23⟩
def fmtF64 : FFmt := ⟨11, 52⟩

/-- The format of a floating-point type; a packed pair's elements are BF16, and FP32 for F32X2. -/
def fmtOf : Ty → FFmt
  | .f64 => fmtF64
  | .bf16 | .bf16x2 => fmtBF16
  | .f16 => fmtF16
  | _ => fmtF32

def fmtBias (f : FFmt) : Nat := 2 ^ (f.eb - 1) - 1
def fmtWidth (f : FFmt) : Nat := f.eb + f.fb + 1
/-- R133: bit patterns of +infinity, the default NaN, the largest finite value and the sign. -/
def fmtInf (f : FFmt) : Nat := (2 ^ f.eb - 1) * 2 ^ f.fb
def fmtNaN (f : FFmt) : Nat := fmtInf f + 2 ^ (f.fb - 1)
def fmtMax (f : FFmt) : Nat := fmtInf f - 1
def fmtSign (f : FFmt) (s : Bool) : Nat := if s then 2 ^ (f.eb + f.fb) else 0
/-- Exponent of the least significant bit of a subnormal. -/
def fmtLow (f : FFmt) : Int := 1 - (fmtBias f : Int) - (f.fb : Int)

/-- A number as its exact value: NaN (signalling or not), an infinity, or (-1)^s m 2^e. -/
inductive Fp where
  | nan (signalling : Bool)
  | inf (s : Bool)
  | fin (s : Bool) (m : Nat) (e : Int)
  deriving DecidableEq, Repr

/-- R133, R138: the value of a bit pattern; under FTZ a subnormal reads as a zero of its sign. -/
def fpOf (f : FFmt) (ftz : Bool) (bits : Nat) : Fp :=
  let s := bits / 2 ^ (f.eb + f.fb) % 2 == 1
  let ex := bits / 2 ^ f.fb % 2 ^ f.eb
  let fr := bits % 2 ^ f.fb
  if ex = 2 ^ f.eb - 1 then
    if fr = 0 then .inf s else .nan (fr < 2 ^ (f.fb - 1))
  else if ex = 0 then
    .fin s (if ftz then 0 else fr) (fmtLow f)
  else .fin s (fr + 2 ^ f.fb) (fmtLow f + (ex : Int) - 1)

/-- Whether rounding goes up from the lower neighbour in magnitude: the lower value is odd, the rest compared with half, the rest is not zero. -/
def roundUp (rmode : Rm) (s odd : Bool) (half : Ordering) (rest : Bool) : Bool :=
  match rmode with
  | .rn => half == .gt || (half == .eq && odd)
  | .ra => half == .gt || half == .eq
  | .rz => false
  | .rp => rest && !s
  | .rm => rest && s

/-- The magnitude (q + sticky fraction) 2^e as a whole multiple of 2^g, rounded; and whether that was exact. -/
def roundGrid (rmode : Rm) (s : Bool) (q : Nat) (e : Int) (sticky : Bool) (g : Int) : Nat × Bool :=
  if g ≤ e then (q * 2 ^ (e - g).toNat, !sticky)
  else
    let d := (g - e).toNat
    let n := q / 2 ^ d
    let r := q % 2 ^ d
    let half := if r * 2 < 2 ^ d then .lt else if r * 2 = 2 ^ d && !sticky then .eq else .gt
    let rest := r != 0 || sticky
    (if roundUp rmode s (n % 2 == 1) half rest then n + 1 else n, !rest)

/-- R137, R138, R160: the rounded bit pattern of a non-zero magnitude (q + sticky fraction) 2^e of sign s, with its conditions. A sticky q has more bits than the format. -/
def roundMag (f : FFmt) (rmode : Rm) (ftz s : Bool) (q : Nat) (e : Int) (sticky : Bool) : Nat × Conds :=
  if q = 0 then (fmtSign f s, {}) else
  let top : Int := (q.log2 : Int) + e
  let low := fmtLow f
  let g := max (top - f.fb) low
  let (n, exact) := roundGrid rmode s q e sticky g
  let bits := (g - low).toNat * 2 ^ f.fb + n
  if bits ≥ fmtInf f then
    let r := match rmode with
      | .rn | .ra => fmtInf f
      | .rz => fmtMax f
      | .rp => if s then fmtMax f else fmtInf f
      | .rm => if s then fmtInf f else fmtMax f
    (fmtSign f s + r, { ofl := true, nx := true })
  else
    let tiny := top < low + f.fb && (roundGrid rmode s q e sticky (top - f.fb)).1 < 2 ^ (low + f.fb - (top - f.fb)).toNat
    if ftz && n != 0 && n < 2 ^ f.fb && g = low then (fmtSign f s, { uf := true, nx := true })
    else (fmtSign f s + bits, { uf := tiny && !exact, nx := !exact })

/-- R137: a value rounded to a format. -/
def roundFp (f : FFmt) (rmode : Rm) (ftz : Bool) : Fp → Nat × Conds
  | .nan sg => (fmtNaN f, { nv := sg })
  | .inf s => (fmtSign f s + fmtInf f, {})
  | .fin s m e => roundMag f rmode ftz s m e false

/-- Whether a value is a signalling NaN. -/
def fpSig : Fp → Bool
  | .nan sg => sg
  | _ => false

def fpNaN : Fp → Bool
  | .nan _ => true
  | _ => false

def fpNeg : Fp → Fp
  | .nan x => .nan x
  | .inf s => .inf !s
  | .fin s m e => .fin (!s) m e

/-- The signed integer m 2^(e - g) of a finite value, for g at most e. -/
def fpInt (s : Bool) (m : Nat) (e g : Int) : Int :=
  let x : Int := (m * 2 ^ (e - g).toNat : Nat)
  if s then -x else x

/-- R137 item 3: the exact sum of two finite values. -/
def finAdd (rmode : Rm) (s1 : Bool) (m1 : Nat) (e1 : Int) (s2 : Bool) (m2 : Nat) (e2 : Int) : Fp :=
  let g := min e1 e2
  let x := fpInt s1 m1 e1 g + fpInt s2 m2 e2 g
  if x = 0 then .fin (if s1 = s2 then s1 else rmode == .rm) 0 g
  else .fin (x < 0) x.natAbs g

/-- The exact sum, and whether it is invalid (R159). -/
def fpAdd (rmode : Rm) : Fp → Fp → Fp × Bool
  | .nan a, .nan b => (.nan false, a || b)
  | .nan a, _ => (.nan false, a)
  | _, .nan b => (.nan false, b)
  | .inf s, .inf t => if s = t then (.inf s, false) else (.nan false, true)
  | .inf s, _ => (.inf s, false)
  | _, .inf t => (.inf t, false)
  | .fin s1 m1 e1, .fin s2 m2 e2 => (finAdd rmode s1 m1 e1 s2 m2 e2, false)

/-- The exact product, and whether it is invalid. -/
def fpMul : Fp → Fp → Fp × Bool
  | .nan a, .nan b => (.nan false, a || b)
  | .nan a, _ => (.nan false, a)
  | _, .nan b => (.nan false, b)
  | .inf s, .inf t => (.inf (s != t), false)
  | .inf s, .fin t m _ => if m = 0 then (.nan false, true) else (.inf (s != t), false)
  | .fin s m _, .inf t => if m = 0 then (.nan false, true) else (.inf (s != t), false)
  | .fin s1 m1 e1, .fin s2 m2 e2 => (.fin (s1 != s2) (m1 * m2) (e1 + e2), false)

/-- Rounds an exact result, adding the invalid condition. -/
def finish (f : FFmt) (rmode : Rm) (ftz : Bool) (r : Fp × Bool) : Nat × Conds :=
  let (b, c) := roundFp f rmode ftz r.1
  (b, { c with nv := c.nv || r.2 })

/-- R159: a + b. -/
def fAdd (f : FFmt) (rmode : Rm) (ftz : Bool) (a b : Nat) : Nat × Conds :=
  finish f rmode ftz (fpAdd rmode (fpOf f ftz a) (fpOf f ftz b))

/-- R159: a - b. -/
def fSub (f : FFmt) (rmode : Rm) (ftz : Bool) (a b : Nat) : Nat × Conds :=
  finish f rmode ftz (fpAdd rmode (fpOf f ftz a) (fpNeg (fpOf f ftz b)))

/-- R159: a * b. -/
def fMul (f : FFmt) (rmode : Rm) (ftz : Bool) (a b : Nat) : Nat × Conds :=
  finish f rmode ftz (fpMul (fpOf f ftz a) (fpOf f ftz b))

/-- R159: a * b + d, or - d, with one rounding. -/
def fFma (f : FFmt) (rmode : Rm) (ftz neg : Bool) (a b d : Nat) : Nat × Conds :=
  let p := fpMul (fpOf f ftz a) (fpOf f ftz b)
  let x := fpOf f ftz d
  let r := fpAdd rmode p.1 (if neg then fpNeg x else x)
  finish f rmode ftz (r.1, r.2 || p.2)

/-- The order of two values that are no NaN: -0 equals +0. -/
def fpCmp : Fp → Fp → Ordering
  | .inf s, .inf t => if s = t then .eq else if s then .lt else .gt
  | .inf s, _ => if s then .lt else .gt
  | _, .inf t => if t then .gt else .lt
  | .fin s1 m1 e1, .fin s2 m2 e2 =>
    let g := min e1 e2
    compare (fpInt s1 m1 e1 g) (fpInt s2 m2 e2 g)
  | _, _ => .eq

/-- The sign of a value. -/
def fpSign : Fp → Bool
  | .nan _ => false
  | .inf s => s
  | .fin s _ _ => s

/-- R162: whether a goes before b, with -0 less than +0. -/
def fpLess (a b : Fp) : Bool :=
  match fpCmp a b with
  | .lt => true
  | .gt => false
  | .eq => fpSign a && !fpSign b

/-- R162: minimum or maximum; `num` is .NUM. Never rounded: the bits of the chosen operand, a flushed subnormal as a zero. -/
def fMinMax (f : FFmt) (isMax num ftz : Bool) (a b : Nat) : Nat × Conds :=
  let x := fpOf f ftz a
  let y := fpOf f ftz b
  let c : Conds := { nv := fpSig x || fpSig y }
  let pick (z : Fp) : Nat := (roundFp f .rn false z).1
  if fpNaN x && fpNaN y then (fmtNaN f, c)
  else if fpNaN x then (if num then pick y else fmtNaN f, c)
  else if fpNaN y then (if num then pick x else fmtNaN f, c)
  else (pick (if fpLess x y == isMax then y else x), c)

/-- R163: the comparisons of FSETP. -/
def fCompare (cmp : FCmp) (x y : Fp) : Bool :=
  let un := fpNaN x || fpNaN y
  let o := fpCmp x y
  match cmp with
  | .eq => !un && o == .eq | .ne => !un && o != .eq
  | .lt => !un && o == .lt | .le => !un && o != .gt
  | .gt => !un && o == .gt | .ge => !un && o != .lt
  | .num => !un | .nan => un
  | .equ => un || o == .eq | .neu => un || o != .eq
  | .ltu => un || o == .lt | .leu => un || o != .gt
  | .gtu => un || o == .gt | .geu => un || o != .lt

/-- R164: the number of the class of a bit pattern. -/
def fClass (f : FFmt) (bits : Nat) : Nat :=
  match fpOf f false bits with
  | .nan sg => if sg then 0 else 1
  | .inf s => if s then 2 else 9
  | .fin s m _ =>
    if m = 0 then (if s then 5 else 6)
    else if m < 2 ^ f.fb then (if s then 4 else 7)
    else if s then 3 else 8

/-- A magnitude m 2^e rounded to an integer, and whether that was exact (R165, R170). -/
def roundInt (rmode : Rm) (s : Bool) (m : Nat) (e : Int) : Nat × Bool := roundGrid rmode s m e false 0

/-- R165: FRND. -/
def fRnd (f : FFmt) (rmode : Rm) (ftz : Bool) (a : Nat) : Nat × Conds :=
  match fpOf f ftz a with
  | .nan sg => (fmtNaN f, { nv := sg })
  | .inf s => (fmtSign f s + fmtInf f, {})
  | .fin s m e => ((roundMag f .rn false s (roundInt rmode s m e).1 0 false).1, {})

/-- The integer square root, bit by bit: the largest r below 2^n with r * r at most x, from r so far. -/
def isqrt (x : Nat) : Nat → Nat → Nat
  | 0, r => r
  | n + 1, r => let r' := r + 2 ^ n; isqrt x n (if r' * r' ≤ x then r' else r)

/-- The square root of m 2^e as (q, exponent, sticky), with more bits than any format. -/
def sqrtParts (m : Nat) (e : Int) : Nat × Int × Bool :=
  let k : Nat := 128 + (e % 2).toNat
  let x := m * 2 ^ k
  let h := (e - k) / 2
  let r := isqrt x (x.log2 / 2 + 1) 0
  (r, h, r * r != x)

/-- 1 / √(m 2^e) as (q, exponent, sticky), rounded down once. -/
def rsqParts (m : Nat) (e : Int) : Nat × Int × Bool :=
  let n := m * 2 ^ (e % 2).toNat
  let k : Nat := 128 + n.log2
  let x := 4 ^ k / n
  let q := isqrt x (x.log2 / 2 + 1) 0
  (q, -((e - e % 2) / 2) - k, q * q * n != 4 ^ k)

/-- m1 2^e1 / (m2 2^e2) as (q, exponent, sticky). -/
def divParts (m1 : Nat) (e1 : Int) (m2 : Nat) (e2 : Int) : Nat × Int × Bool :=
  let k : Nat := 128 + m2.log2
  let x := m1 * 2 ^ k
  (x / m2, e1 - e2 - k, x % m2 != 0)

/-- R166, R167: FDIV. -/
def fDiv (f : FFmt) (rmode : Rm) (ftz : Bool) (a b : Nat) : Nat × Conds :=
  match fpOf f ftz a, fpOf f ftz b with
  | .nan x, .nan y => (fmtNaN f, { nv := x || y })
  | .nan x, _ => (fmtNaN f, { nv := x })
  | _, .nan y => (fmtNaN f, { nv := y })
  | .inf _, .inf _ => (fmtNaN f, { nv := true })
  | .inf s, .fin t _ _ => (fmtSign f (s != t) + fmtInf f, {})
  | .fin s _ _, .inf t => (fmtSign f (s != t), {})
  | .fin s m1 e1, .fin t m2 e2 =>
    if m2 = 0 then
      if m1 = 0 then (fmtNaN f, { nv := true }) else (fmtSign f (s != t) + fmtInf f, { dz := true })
    else if m1 = 0 then (fmtSign f (s != t), {})
    else let (q, e, st) := divParts m1 e1 m2 e2; roundMag f rmode ftz (s != t) q e st

/-- The pattern of 1.0. -/
def fmtOne (f : FFmt) : Nat := fmtBias f * 2 ^ f.fb

/-- R166, R167: FRCP. -/
def fRcp (f : FFmt) (rmode : Rm) (ftz : Bool) (a : Nat) : Nat × Conds := fDiv f rmode ftz (fmtOne f) a

/-- R166, R167: FSQRT. -/
def fSqrt (f : FFmt) (rmode : Rm) (ftz : Bool) (a : Nat) : Nat × Conds :=
  match fpOf f ftz a with
  | .nan sg => (fmtNaN f, { nv := sg })
  | .inf s => if s then (fmtNaN f, { nv := true }) else (fmtInf f, {})
  | .fin s m e =>
    if m = 0 then (fmtSign f s, {})
    else if s then (fmtNaN f, { nv := true })
    else let (q, h, st) := sqrtParts m e; roundMag f rmode ftz false q h st

/-- R167: FRSQ: exact for 4^n, otherwise one of the two values that bracket the exact result, which Config leaves open. -/
def fRsq (f : FFmt) (ftz : Bool) (a : Nat) : Nat × Conds :=
  match fpOf f ftz a with
  | .nan sg => (fmtNaN f, { nv := sg })
  | .inf s => if s then (fmtNaN f, { nv := true }) else (0, {})
  | .fin s m e =>
    if m = 0 then (fmtSign f s + fmtInf f, { dz := true })
    else if s then (fmtNaN f, { nv := true })
    else
      let (q, g, st) := rsqParts m e
      let up := Config.frsqUp (BitVec.ofNat 64 a) ftz
      roundMag f (if up then .rp else .rz) ftz false q g st

/-! ### Integers -/

/-- R132: the width of an integer type. -/
def tyBits (ty : Ty) : Nat := 8 * ty.size

def tySigned : Ty → Bool
  | .s32 | .s64 | .s16 | .s8 => true
  | _ => false

/-- R132: the value of the low bits, signed for a signed type. -/
def intVal (ty : Ty) (x : Nat) : Int :=
  let w := tyBits ty
  let n := x % 2 ^ w
  if tySigned ty && n ≥ 2 ^ (w - 1) then (n : Int) - 2 ^ w else n

def tyMin (ty : Ty) : Int := if tySigned ty then -(2 ^ (tyBits ty - 1)) else 0
def tyMax (ty : Ty) : Int := if tySigned ty then 2 ^ (tyBits ty - 1) - 1 else 2 ^ tyBits ty - 1

/-- Reduced modulo 2^w. -/
def wrapTo (w : Nat) (x : Int) : Nat := (x % 2 ^ w).toNat

/-- R152: clamped to the type's range. -/
def clampTo (ty : Ty) (x : Int) : Int := min (max x (tyMin ty)) (tyMax ty)

/-- R132: an integer result as its registers hold it: 8 and 16 bits extended to 32. -/
def intRes (ty : Ty) (x : Int) : Nat :=
  if tyBits ty ≤ 16 then wrapTo 32 (intVal ty (wrapTo (tyBits ty) x)) else wrapTo (tyBits ty) x

/-! ### Tapered formats (R139 to R141) and E8 scales (R142) -/

/-- The length of the run of bits equal to `b` in c, from bit i down, at most `fuel`. -/
def tapRun (c : Nat) (b : Bool) : Nat → Nat
  | 0 => 0
  | i + 1 => if (c.testBit i) = b then 1 + tapRun c b i else 0

/-- R139: the magnitude 2^e' m of a positive code of n bits. -/
def tapMag (n c : Nat) : Nat × Int :=
  let b := c.testBit (n - 2)
  let m := tapRun c b (n - 1)
  let left := n - 1 - m - 1
  let k : Int := if b then (m : Int) - 1 else -(m : Int)
  let e := if left ≥ 1 ∧ m < n - 1 then (if c.testBit (left - 1) then 1 else 0) else 0
  let fbits := left - 1
  let frac := c % 2 ^ fbits
  (2 ^ fbits + frac, 2 * k + e - fbits)

/-- R139: the value of a code; NaR is a NaN (R140). -/
def tapOf (n c : Nat) : Fp :=
  let c := c % 2 ^ n
  if c = 0 then .fin false 0 0
  else if c = 2 ^ (n - 1) then .nan false
  else
    let s := c.testBit (n - 1)
    let (m, e) := tapMag n (if s then 2 ^ n - c else c)
    .fin s m e

/-- Compares m1 2^e1 with m2 2^e2. -/
def cmpMag (m1 : Nat) (e1 : Int) (m2 : Nat) (e2 : Int) : Ordering :=
  let g := min e1 e2
  compare (m1 * 2 ^ (e1 - g).toNat) (m2 * 2 ^ (e2 - g).toNat)

/-- The largest positive code, at most `c`, whose value is at most m 2^e; 0 when there is none. -/
def tapBelow (n m : Nat) (e : Int) : Nat → Nat
  | 0 => 0
  | c + 1 =>
    let (x, y) := tapMag n (c + 1)
    if cmpMag x y m e != .gt then c + 1 else tapBelow n m e c

/-- R141: EncodeT8 (n = 8) or EncodeT6 (n = 6). -/
def tapEncode (n : Nat) : Fp → Nat
  | .nan _ => 2 ^ (n - 1)
  | .inf s => if s then 2 ^ n - (2 ^ (n - 1) - 1) else 2 ^ (n - 1) - 1
  | .fin s m e =>
    if m = 0 then 0
    else
      let top := 2 ^ (n - 1) - 1
      let lo := tapBelow n m e top
      let c :=
        if lo = 0 then 1
        else if lo = top then top
        else
          let (x1, y1) := tapMag n lo
          let (x2, y2) := tapMag n (lo + 1)
          let g := min y1 y2
          match cmpMag m (e + 1) (x1 * 2 ^ (y1 - g).toNat + x2 * 2 ^ (y2 - g).toNat) g with
          | .lt => lo
          | .gt => lo + 1
          | .eq => if lo % 2 = 0 then lo else lo + 1
      if s then 2 ^ n - c else c

/-- R142: the E8 scale 2^(e - 127), or NaN. -/
def e8Of (e : Nat) : Fp := if e = 255 then .nan false else .fin false 1 ((e : Int) - 127)

/-! ### Reading and writing elements by type -/

/-- R134, R140: the exact value of a register value of a floating-point or tapered type. -/
def tyFp (ty : Ty) (ftz : Bool) (x : Nat) : Fp :=
  match ty with
  | .t8 => tapOf 8 x
  | .t6 => tapOf 6 x
  | _ => let f := fmtOf ty; fpOf f ftz (x % 2 ^ fmtWidth f)

/-- Applies an operation of two operands to the element of a scalar type, or to both elements of a packed BF16 pair (R159). -/
def elems2 (ty : Ty) (op : Nat → Nat → Nat × Conds) (a b : Nat) : Nat × Conds :=
  match ty with
  | .bf16x2 =>
    let (x, c) := op (a % 65536) (b % 65536)
    let (y, d) := op (a / 65536 % 65536) (b / 65536 % 65536)
    (x + 65536 * y, condsOr c d)
  | .f32x2 =>
    let (x, c) := op (a % 2 ^ 32) (b % 2 ^ 32)
    let (y, d) := op (a / 2 ^ 32 % 2 ^ 32) (b / 2 ^ 32 % 2 ^ 32)
    (x + 2 ^ 32 * y, condsOr c d)
  | _ => let m := 2 ^ fmtWidth (fmtOf ty); op (a % m) (b % m)

/-- The same for three operands. -/
def elems3 (ty : Ty) (op : Nat → Nat → Nat → Nat × Conds) (a b d : Nat) : Nat × Conds :=
  match ty with
  | .bf16x2 =>
    let (x, c) := op (a % 65536) (b % 65536) (d % 65536)
    let (y, e) := op (a / 65536 % 65536) (b / 65536 % 65536) (d / 65536 % 65536)
    (x + 65536 * y, condsOr c e)
  | _ => let m := 2 ^ fmtWidth (fmtOf ty); op (a % m) (b % m) (d % m)

/-! ### Conversion (R168 to R170) -/

/-- R170: conversion of an exact value to an integer type. -/
def toInt (ty : Ty) (rmode : Rm) : Fp → Int × Conds
  | .nan _ => (0, { nv := true })
  | .inf s => (if s then tyMin ty else tyMax ty, { nv := true })
  | .fin s m e =>
    let (n, exact) := roundInt rmode s m e
    let x : Int := if s then -(n : Int) else n
    if x < tyMin ty then (tyMin ty, { nv := true })
    else if x > tyMax ty then (tyMax ty, { nv := true })
    else (x, { nx := !exact })

/-- R169: CVT of one value from a source type to a destination type, FN 0; a packed source is given as its element. -/
def convert (dst src : Ty) (rmode : Rm) (ftz : Bool) (x : Nat) : Nat × Conds :=
  let isTap (t : Ty) : Bool := t == .t8 || t == .t6
  if src.isAnyInt then
    let v := intVal src x
    if dst.isAnyInt then (intRes dst v, {})
    else
      let y : Fp := .fin (v < 0) v.natAbs 0
      if isTap dst then (tapEncode (if dst == .t8 then 8 else 6) y, {})
      else roundFp (fmtOf dst) rmode ftz y
  else
    let y := tyFp src ftz x
    if dst.isAnyInt then let (n, c) := toInt dst rmode y; (intRes dst n, c)
    else if isTap dst then (tapEncode (if dst == .t8 then 8 else 6) y, {})
    else roundFp (fmtOf dst) rmode ftz y

/-! ### Histograms (R145, R146) -/

/-- R146: ScaleAt, on the bins as a function of their index. -/
def scaleAt (h : Nat → Nat) (p x : Nat) : Nat :=
  let n := (List.range 254).foldl (fun a i => a + h (i + 1)) 0
  if n = 0 then 127
  else
    let need := (p * n + 255) / 256
    let b := ((List.range 254).foldl (fun (acc : Nat × Option Nat) i =>
      let t := acc.1 + h (i + 1)
      (t, if acc.2.isNone && t ≥ need then some (i + 1) else acc.2)) (0, none)).2.getD 254
    min (b + 1 - x) 254

/-- R145: the bin of an FP32 pattern. -/
def histBin (x : Nat) : Nat := x / 2 ^ 23 % 256

end Sys2Proof.Machine
end

