-- ==== Sys2Proof/Machine/Atomic.lean ====
section
/-! DEFINITION. What the atomic ALUs compute (R286 to R288), and the operations of REDUX, SCAN and ACCUM rooms (R179, R323). -/

namespace Sys2Proof.Machine

/-- R286: the new value of an integer atomic, modulo 2^w. -/
def intAtom (op : AtomOp) (ty : Ty) (old v : Nat) : Nat :=
  let w := tyBits ty
  let a := old % 2 ^ w
  let b := v % 2 ^ w
  match op with
  | .add => (a + b) % 2 ^ w
  | .sub => (a + 2 ^ w - b) % 2 ^ w
  | .min => if intVal ty a ≤ intVal ty b then a else b
  | .max => if intVal ty b ≤ intVal ty a then a else b
  | .and => a &&& b
  | .or => a ||| b
  | .xor => a ^^^ b
  | .exch => b
  | .inc => if a ≥ b then 0 else a + 1
  | .dec => if a = 0 ∨ a > b then b else a - 1

/-- R287: the new value of a floating-point atomic: RN, without flush-to-zero. -/
def floatAtom (op : AtomFOp) (ty : Ty) (old v : Nat) : Nat :=
  let f := fmtOf ty
  let r := match op with
    | .add => elems2 ty (fAdd f .rn false) old v
    | .min => elems2 ty (fMinMax f false false false) old v
    | .max => elems2 ty (fMinMax f true false false) old v
  r.1

/-- R288: compare and swap. -/
def casNew (old v cmp : Nat) : Nat := if old = cmp then v else old

/-- The new value that an atomic word leaves. -/
def atomNew (i : Instr) (old v cmp : Nat) : Nat :=
  match i with
  | .atom _ op t _ _ => intAtom op t.ty old v
  | .atomf _ op t _ _ => floatAtom op t.ty old v
  | .cas .. => casNew old v cmp
  | _ => old

/-- R323: Op of an ACCUM room: integers wrap, floating-point rounds RN without flush-to-zero. -/
def accOp (op : RedOp) (ty : Ty) (p v : Nat) : Nat :=
  if ty.isAnyInt then
    match op with
    | .add => intAtom .add ty p v
    | .min => intAtom .min ty p v
    | .max => intAtom .max ty p v
    | .and => intAtom .and ty p v
    | .or => intAtom .or ty p v
    | .xor => intAtom .xor ty p v
  else
    match op with
    | .min => floatAtom .min ty p v
    | .max => floatAtom .max ty p v
    | _ => floatAtom .add ty p v

end Sys2Proof.Machine
end

