-- ==== Sys2Proof/Decode.lean ====
section
/-! DEFINITION. The 96-bit word (R58), the checks of R79 in their order with their detail codes, the decoder, and after it the encoder. -/

namespace Sys2Proof

/-- The fields of R58. -/
structure Fields where
  opc : BitVec 8
  fn : BitVec 4
  guard : BitVec 4
  fd : BitVec 11
  fa : BitVec 11
  fb : BitVec 11
  md : BitVec 7
  aux : BitVec 16
  hint : BitVec 24
  deriving DecidableEq, Repr

/-- R58: the fields of a word. -/
def fieldsOf (w : IWord) : Fields where
  opc := w.extractLsb' 88 8
  fn := w.extractLsb' 84 4
  guard := w.extractLsb' 80 4
  fd := w.extractLsb' 69 11
  fa := w.extractLsb' 58 11
  fb := w.extractLsb' 47 11
  md := w.extractLsb' 40 7
  aux := w.extractLsb' 24 16
  hint := w.extractLsb' 0 24

/-- R58: the word of the fields. -/
def wordOf (f : Fields) : IWord :=
  f.opc ++ f.fn ++ f.guard ++ f.fd ++ f.fa ++ f.fb ++ f.md ++ f.aux ++ f.hint

/-- R62, R64: what the running warp may name: its V allotment and its group's tiles. -/
structure Limits where
  vregs : Nat
  tiles : Nat
  deriving DecidableEq, Repr

/-- The largest limits of any launch (R3). DEDUCED: log 17. -/
def maxLimits : Limits := ⟨320, 24⟩

/-! ### Code tables (R64, R67) -/

def tyOf (b : BitVec 4) : Ty :=
  match b.toNat with
  | 0 => .u32 | 1 => .s32 | 2 => .u64 | 3 => .s64 | 4 => .u16 | 5 => .s16 | 6 => .u8 | 7 => .s8
  | 8 => .f32 | 9 => .f64 | 10 => .bf16 | 11 => .f16 | 12 => .bf16x2 | 13 => .f32x2 | 14 => .t8 | _ => .t6

def tyCode : Ty → BitVec 4
  | .u32 => 0 | .s32 => 1 | .u64 => 2 | .s64 => 3 | .u16 => 4 | .s16 => 5 | .u8 => 6 | .s8 => 7
  | .f32 => 8 | .f64 => 9 | .bf16 => 10 | .f16 => 11 | .bf16x2 => 12 | .f32x2 => 13 | .t8 => 14 | .t6 => 15

/-- R67: codes 5 to 7 are illegal. -/
def rmOf (b : BitVec 3) : Option Rm :=
  match b.toNat with
  | 0 => some .rn | 1 => some .rz | 2 => some .rp | 3 => some .rm | 4 => some .ra | _ => none

def rmCode : Rm → BitVec 3
  | .rn => 0 | .rz => 1 | .rp => 2 | .rm => 3 | .ra => 4

/-- R67: code 7 is illegal. -/
def scopeOf (b : BitVec 3) : Option Scope :=
  match b.toNat with
  | 0 => some .thread | 1 => some .warp | 2 => some .group | 3 => some .cluster
  | 4 => some .device | 5 => some .tenant | 6 => some .system | _ => none

def scopeCode : Scope → BitVec 3
  | .thread => 0 | .warp => 1 | .group => 2 | .cluster => 3 | .device => 4 | .tenant => 5 | .system => 6

def sysOf (c : Nat) : Option SysReg :=
  match c with
  | 0x80 => some .laneid | 0x81 => some .warpid | 0x82 => some .lpart | 0x83 => some .evp
  | 0x84 => some .evm | 0x85 => some .evh | 0x86 => some .evid | 0x88 => some .gtime
  | 0x8A => some .gband | 0x8B => some .gdepth | 0x8C => some .trapinfo | 0x8D => some .fatalx
  | 0x8E => some .status | _ => none

def sysCode : SysReg → BitVec 9
  | .laneid => 0x80 | .warpid => 0x81 | .lpart => 0x82 | .evp => 0x83 | .evm => 0x84 | .evh => 0x85
  | .evid => 0x86 | .gtime => 0x88 | .gband => 0x8A | .gdepth => 0x8B | .trapinfo => 0x8C
  | .fatalx => 0x8D | .status => 0x8E

/-- R64: the special register of a code; `none` for a code not assigned. -/
def specialOf (b : BitVec 9) : Option Opd :=
  let c := b.toNat
  if h : c < 16 then some (.s ⟨c, h⟩)
  else if h : c - 0x10 < 24 ∧ 0x10 ≤ c then some (.z ⟨c - 0x10, h.1⟩)
  else if h : c - 0x30 < 16 ∧ 0x30 ≤ c then some (.j ⟨c - 0x30, h.1⟩)
  else if h : c - 0x40 < 12 ∧ 0x40 ≤ c then some (.cf ⟨c - 0x40, h.1⟩)
  else if h : c - 0x50 < 8 ∧ 0x50 ≤ c then some (.p ⟨c - 0x50, h.1⟩)
  else if h : c - 0x58 < 4 ∧ 0x58 ≤ c then some (.h ⟨c - 0x58, h.1⟩)
  else (sysOf c).map .sys

/-- R62: the operand a field names. -/
def opdOf (b : BitVec 11) : Option Opd :=
  let x := b.extractLsb' 0 9
  match (b.extractLsb' 9 2).toNat with
  | 0 => some (.v x)
  | 1 => some (.k x)
  | 2 => specialOf x
  | _ => some (.imm x)

/-- R62, R64: the field of an operand. -/
def opdField : Opd → BitVec 11
  | .v n => (0 : BitVec 2) ++ n
  | .k n => (1 : BitVec 2) ++ n
  | .s n => (2 : BitVec 2) ++ BitVec.ofNat 9 n.val
  | .z n => (2 : BitVec 2) ++ BitVec.ofNat 9 (0x10 + n.val)
  | .j n => (2 : BitVec 2) ++ BitVec.ofNat 9 (0x30 + n.val)
  | .cf n => (2 : BitVec 2) ++ BitVec.ofNat 9 (0x40 + n.val)
  | .p n => (2 : BitVec 2) ++ BitVec.ofNat 9 (0x50 + n.val)
  | .h n => (2 : BitVec 2) ++ BitVec.ofNat 9 (0x58 + n.val)
  | .sys r => (2 : BitVec 2) ++ sysCode r
  | .imm b => (3 : BitVec 2) ++ b

/-- R65: an unused operand field. -/
def unusedField : BitVec 11 := 0x600

/-! ### Operand positions (R62 to R66) -/

/-- The special registers a position accepts. -/
inductive SpSet where
  | none | s | z | zPair | j | p | h | sread | swrite
  deriving DecidableEq, Repr

def SpSet.has (sp : SpSet) (tiles : Nat) : Opd → Bool
  | .s _ => sp == .s
  | .z n => (sp == .z && n.val < tiles) || (sp == .zPair && n.val % 2 == 0 && n.val + 1 < tiles)
  | .j _ => sp == .j
  | .p _ => sp == .p
  | .h _ => sp == .h
  | .cf _ => sp == .sread
  | .sys r => sp == .sread || (sp == .swrite && (r == .status || r == .evh || r == .gdepth))
  | _ => false

/-- An operand position of an entry: unused, or the kinds it accepts, with the registers of a value, a limit on a K block, and whether the field may be left unused. -/
structure Pos where
  used : Bool := true
  opt : Bool := false
  v : Bool := false
  k : Bool := false
  sp : SpSet := .none
  i : Bool := false
  w : Nat := 1
  kAlign : Nat := 1
  kTop : Nat := 511
  deriving DecidableEq, Repr

/-- R79 detail 6: the kind of a field is accepted in its position. DEDUCED: log 14. -/
def kindOk (q : Pos) (f : BitVec 11) : Bool :=
  if q.used then
    (q.opt && f == unusedField) ||
    match (f.extractLsb' 9 2).toNat with
    | 0 => q.v
    | 1 => q.k
    | 2 => q.sp != .none
    | _ => q.i
  else f == unusedField

/-- R79 detail 7: the index or special code is legal (R62, R64, R66). -/
def indexOk (lim : Limits) (q : Pos) (f : BitVec 11) : Bool :=
  if q.used && !(q.opt && f == unusedField) then
    match opdOf f with
    | none => false
    | some (.v n) => WF.idx (min 320 lim.vregs) q.w n
    | some (.k n) => WF.idx 512 q.w n && n.toNat % q.kAlign == 0 && n.toNat ≤ q.kTop
    | some (.imm _) => true
    | some o => q.sp.has lim.tiles o
  else true

namespace Pos

def unused : Pos := { used := false }
def vreg (w : Nat) : Pos := { v := true, w := w }
def vregOpt : Pos := { v := true, opt := true }
def kreg (w : Nat) : Pos := { k := true, w := w }
def vk (w : Nat) : Pos := { v := true, k := true, w := w }
def vki (w : Nat) : Pos := { v := true, k := true, i := true, w := w }
def ki : Pos := { k := true, i := true }
def immOnly : Pos := { i := true }
def pred : Pos := { sp := .p }
def stream : Pos := { sp := .s }
def hold : Pos := { sp := .h }
def jreg : Pos := { sp := .j }
def tile : Pos := { sp := .z }
def tilePair : Pos := { sp := .zPair }
/-- R149: an integer source; S only at 32 bits (R117). DEDUCED: log 13. -/
def isrc (w : Nat) : Pos := { v := true, k := true, i := true, w := w, sp := if w == 1 then .s else .none }
/-- R149: a floating-point source. -/
def fsrc (w : Nat) : Pos := { v := true, k := true, w := w, sp := if w == 1 then .s else .none }
/-- R149: a destination. -/
def dst (w : Nat) : Pos := { v := true, w := w, sp := if w == 1 then .s else .none }
def dstOpt : Pos := { v := true, sp := .s, opt := true }
/-- A K block (R118, R224, R232, R305). -/
def kBlock (a top : Nat) : Pos := { k := true, kAlign := a, kTop := top }

end Pos

/-- R72: the counter class of a form. -/
inductive SetClass where
  | fixed | variable | noCounter
  deriving DecidableEq, Repr

/-- R70, R72. -/
def setOk (cls : SetClass) (hint : BitVec 24) : Bool :=
  let x := (hint.extractLsb' 16 4).toNat
  match cls with
  | .fixed | .noCounter => x == 15
  | .variable => x == 15 || x ≤ 11

/-- What an entry says of a word of its form: whether MOD and AUX are legal, its operand positions, a further check of detail 7, its counter class, and the instruction. -/
structure Form where
  md : Bool := true
  aux : Bool := true
  fd : Pos := .unused
  fa : Pos := .unused
  fb : Pos := .unused
  x7 : Bool := true
  cls : SetClass
  ins : Instr

/-- R79: the checks 4 to 8 in order, each with its detail. -/
def Form.check (lim : Limits) (f : Fields) (m : Form) : Except Nat Instr :=
  if !m.md then .error 4
  else if !m.aux then .error 5
  else if !(kindOk m.fd f.fd && kindOk m.fa f.fa && kindOk m.fb f.fb) then .error 6
  else if !(indexOk lim m.fd f.fd && indexOk lim m.fa f.fa && indexOk lim m.fb f.fb && m.x7) then .error 7
  else if !setOk m.cls f.hint then .error 8
  else .ok m.ins

namespace Fields

/-- The operand of a field; the fallback is met only where a check has failed. -/
def opd (b : BitVec 11) : Opd := (opdOf b).getD (.imm 0)
def ctl (f : Fields) : Ctl := ⟨f.guard, f.hint⟩
def d (f : Fields) : Opd := opd f.fd
def a (f : Fields) : Opd := opd f.fa
def b (f : Fields) : Opd := opd f.fb
def dOpt (f : Fields) : Option Opd := if f.fd == unusedField then none else some f.d
def ty (f : Fields) : Ty := tyOf (f.md.extractLsb' 3 4)
/-- The second type of CVT, AUX[3:0]. -/
def ty2 (f : Fields) : Ty := tyOf (f.aux.extractLsb' 0 4)
def low (f : Fields) : BitVec 3 := f.md.extractLsb' 0 3
def rm (f : Fields) : Rm := (rmOf f.low).getD .rn
def rmOk (f : Fields) : Bool := (rmOf f.low).isSome
def scope (f : Fields) : Scope := (scopeOf f.low).getD .thread
def scopeOk (f : Fields) (a b : Nat) : Bool := a ≤ f.low.toNat && f.low.toNat ≤ b
def mdTy0 (f : Fields) : Bool := f.md.extractLsb' 3 4 == 0
def auxBits (f : Fields) (lo len : Nat) : BitVec len := f.aux.extractLsb' lo len
def auxBit (f : Fields) (n : Nat) : Bool := f.aux.getLsbD n
/-- AUX has no one at or above bit n. -/
def auxBelow (f : Fields) (n : Nat) : Bool := f.aux.toNat < 2 ^ n
def mem (f : Fields) : Mem :=
  ⟨f.a, if f.fb == unusedField then none else some f.b, f.auxBits 13 3, f.auxBits 0 13⟩
def roomMem (f : Fields) : RoomMem :=
  ⟨f.auxBits 14 2, f.a, if f.fb == unusedField then none else some f.b, f.auxBits 11 3, f.auxBits 0 11⟩
def comb (f : Fields) : PComb := ⟨f.auxBits 4 2, f.auxBit 3, f.auxBits 0 3⟩
/-- R157: AUX of ISETP and FSETP. -/
def combOk (f : Fields) : Bool := f.auxBelow 6 && (f.auxBits 4 2 != 0 || f.auxBits 0 4 == 0)

end Fields

/-! ### The entries, class by class. `none` is an FN that is not listed (detail 3). -/

open Fields Pos

/-- R98 to R105. -/
def formControl (f : Fields) : Option Form :=
  let c := f.ctl
  let z := f.md == 0
  let n := f.auxBits 0 3
  match f.opc.toNat, f.fn.toNat with
  | 0x00, 0 => some { md := z, aux := f.aux == 0, cls := .noCounter, ins := .nop c }
  | 0x01, 0 => some { md := z, aux := f.auxBelow 8 && f.aux != 0x80, cls := .noCounter, ins := .bra c (f.auxBits 0 8) }
  | 0x02, 0 => some { md := z, aux := f.aux == 0, fa := kreg 1, cls := .noCounter, ins := .brak c f.a }
  | 0x03, 0 => some { md := z, aux := f.aux == 0, fa := vreg 1, cls := .noCounter, ins := .brx c f.a }
  | 0x04, 0 => some { md := z, aux := f.auxBelow 8 && f.aux != 0x80, fd := vreg 1, cls := .noCounter, ins := .call c f.d (f.auxBits 0 8) }
  | 0x05, 0 => some { md := z, aux := f.aux == 0, fd := vreg 1, fa := kreg 1, cls := .noCounter, ins := .callk c f.d f.a }
  | 0x06, 0 => some { md := z, aux := f.aux == 0, fa := vreg 1, cls := .noCounter, ins := .ret c f.a }
  | 0x07, 0 => some { md := z, aux := f.aux == 0, cls := .noCounter, ins := .exit c }
  | 0x08, 0 => some { md := z, aux := f.aux == 0, fa := vki 1, cls := .noCounter, ins := .reconv c f.a }
  | 0x09, 0 => some { md := z, aux := f.aux == 0, fa := immOnly, cls := .noCounter, ins := .yield c f.a }
  | 0x0A, 0 => some { md := z, aux := f.aux == 0, fd := vreg (if f.a == .sys .gtime then 2 else 1), fa := { sp := .sread }, cls := .fixed, ins := .sread c f.d f.a }
  | 0x0A, 1 => some { md := z, aux := f.auxBelow 3, fd := vreg 1, cls := .fixed, ins := .sreadId c f.d n }
  | 0x0A, 2 => some { md := z, aux := f.auxBelow 3, fd := vreg 1, cls := .fixed, ins := .sreadExt c f.d n }
  | 0x0A, 3 => some { md := z, aux := f.auxBelow 3, fd := vreg 1, cls := .fixed, ins := .sreadNum c f.d n }
  | 0x0A, 4 => some { md := z, aux := f.auxBelow 3, fd := vreg 1, cls := .fixed, ins := .sreadBind c f.d n }
  | 0x0B, 0 => some { md := z, aux := f.aux == 0, fd := { sp := .swrite }, fa := vki 1, cls := .noCounter, ins := .swrite c f.d f.a }
  | _, _ => none

/-- R123 to R131. -/
def formRegister (f : Fields) : Option Form :=
  let c := f.ctl
  let z := f.md == 0
  let a0 := f.aux == 0
  let x3 := (f.fb.extractLsb' 0 8).toNat ≤ 3
  match f.opc.toNat, f.fn.toNat with
  | 0x10, 0 => some { md := z, aux := a0, fd := dst 1, fa := isrc 1, cls := .fixed, ins := .mov c f.d f.a }
  | 0x10, 1 => some { md := z, aux := a0, fd := vreg 2, fa := isrc 2, cls := .fixed, ins := .mov64 c f.d f.a }
  | 0x11, 0 => some { md := z, aux := a0, fd := kreg 1, fa := isrc 1, cls := .fixed, ins := .movk c f.d f.a }
  | 0x11, 1 => some { md := z, aux := a0, fd := kreg 2, fa := isrc 2, cls := .fixed, ins := .movk64 c f.d f.a }
  | 0x12, 0 => some { md := z, aux := a0, fd := dst 1, fa := dst 1, fb := ki, cls := .fixed, ins := .bcast c f.d f.a f.b }
  | 0x13, 0 => some { md := z, aux := a0, fd := dst 1, fa := immOnly, fb := immOnly, x7 := x3, cls := .fixed, ins := .limm c f.d f.a f.b }
  | 0x13, 1 => some { md := z, aux := a0, fd := vreg 1, fa := immOnly, fb := immOnly, x7 := x3, cls := .fixed, ins := .limmIns c f.d f.a f.b }
  | 0x14, 0 => some { md := z, aux := f.auxBelow 4, fd := dst 1, fa := isrc 1, fb := isrc 1, cls := .fixed, ins := .sel c (f.auxBit 3) (f.auxBits 0 3) f.d f.a f.b }
  | 0x14, 1 => some { md := z, aux := f.auxBelow 4, fd := vreg 2, fa := isrc 2, fb := isrc 2, cls := .fixed, ins := .sel64 c (f.auxBit 3) (f.auxBits 0 3) f.d f.a f.b }
  | 0x15, 0 => some { md := z, aux := f.auxBelow 11, fd := pred, fa := pred, fb := pred, cls := .fixed, ins := .plog c (f.auxBits 8 3) (f.auxBits 0 8) f.d f.a f.b }
  | 0x15, 1 => some { md := z, aux := a0, fd := dst 1, cls := .fixed, ins := .plogTov c f.d }
  | 0x15, 2 => some { md := z, aux := a0, fa := isrc 1, cls := .fixed, ins := .plogFromv c f.a }
  | 0x16, 0 => some { md := z, aux := f.auxBelow 12, fd := stream, fa := kBlock 2 500, cls := .noCounter, ins := .sbindLd c (f.auxBits 0 12) f.d f.a }
  | 0x16, 1 => some { md := z, aux := f.auxBelow 12, fd := stream, fa := kBlock 2 500, cls := .noCounter, ins := .sbindSt c (f.auxBits 0 12) f.d f.a }
  | 0x17, 0 => some { md := z, aux := a0, fa := stream, cls := .variable, ins := .sstop c f.a }
  | 0x18, 0 => some { md := z, aux := a0, fd := dst 1, fa := stream, cls := .fixed, ins := .sflags c f.d f.a }
  | _, _ => none

/-- R151: two-source forms of one type. -/
def intForm (f : Fields) (ok : Bool) (dw bw : Nat) (ins : Instr) : Option Form :=
  some { md := ok && f.low == 0, aux := f.aux == 0, fd := dst dw, fa := isrc f.ty.regs, fb := isrc bw, cls := .fixed, ins := ins }

/-- R151: one-source forms. -/
def intForm1 (f : Fields) (ok : Bool) (dw : Nat) (ins : Instr) : Option Form :=
  some { md := ok && f.low == 0, aux := f.aux == 0, fd := dst dw, fa := isrc f.ty.regs, cls := .fixed, ins := ins }

def icmpOf (n : Nat) : Option ICmp :=
  match n with
  | 0 => some .eq | 1 => some .ne | 2 => some .lt | 3 => some .le | 4 => some .gt | 5 => some .ge | _ => none

def icmpCode : ICmp → BitVec 4
  | .eq => 0 | .ne => 1 | .lt => 2 | .le => 3 | .gt => 4 | .ge => 5

def fcmpOf (n : Nat) : Option FCmp :=
  match n with
  | 0 => some .eq | 1 => some .ne | 2 => some .lt | 3 => some .le | 4 => some .gt | 5 => some .ge
  | 6 => some .num | 7 => some .nan | 8 => some .equ | 9 => some .neu | 10 => some .ltu | 11 => some .leu
  | 12 => some .gtu | 13 => some .geu | _ => none

def fcmpCode : FCmp → BitVec 4
  | .eq => 0 | .ne => 1 | .lt => 2 | .le => 3 | .gt => 4 | .ge => 5 | .num => 6 | .nan => 7
  | .equ => 8 | .neu => 9 | .ltu => 10 | .leu => 11 | .gtu => 12 | .geu => 13

/-- R151 to R158. -/
def formInteger (f : Fields) : Option Form :=
  let c := f.ctl
  let t := f.ty
  let w := t.regs
  let i := t.isInt
  let fn := f.fn.toNat
  match f.opc.toNat with
  | 0x20 => if fn ≤ 1 then intForm f i w w (.iadd c (fn == 1) t f.d f.a f.b) else none
  | 0x21 => if fn == 0 then
      some { md := t.isU && f.low == 0, aux := f.auxBelow 3, fd := dst w, fa := isrc w, fb := isrc w, cls := .fixed, ins := .iaddc c t (f.auxBits 0 3) f.d f.a f.b }
    else none
  | 0x22 => if fn ≤ 1 then intForm f i w w (.isub c (fn == 1) t f.d f.a f.b) else none
  | 0x23 => if fn == 0 then intForm f i w w (.imul c false t f.d f.a f.b)
    else if fn == 1 then
      some { md := i && t.size == 4 && f.low == 0, aux := f.aux == 0, fd := vreg 2, fa := isrc 1, fb := isrc 1, cls := .fixed, ins := .imul c true t f.d f.a f.b }
    else none
  | 0x24 => if fn == 0 then intForm f i w w (.imulh c t f.d f.a f.b) else none
  | 0x25 => if fn == 0 then
      some { md := i && f.low == 0, aux := f.aux == 0, fd := vreg w, fa := isrc w, fb := isrc w, cls := .fixed, ins := .imad c false t f.d f.a f.b }
    else if fn == 1 then
      some { md := i && t.size == 4 && f.low == 0, aux := f.aux == 0, fd := vreg 2, fa := isrc 1, fb := isrc 1, cls := .fixed, ins := .imad c true t f.d f.a f.b }
    else none
  | 0x26 => if fn == 0 then intForm f i w w (.imin c t f.d f.a f.b) else none
  | 0x27 => if fn == 0 then intForm f i w w (.imax c t f.d f.a f.b) else none
  | 0x28 => if fn ≤ 1 then intForm1 f (t == .s32 || t == .s64) w (.iabs c (fn == 1) t f.d f.a) else none
  | 0x29 => if fn == 0 then intForm f i w w (.and c t f.d f.a f.b) else none
  | 0x2A => if fn == 0 then intForm f i w w (.or c t f.d f.a f.b) else none
  | 0x2B => if fn == 0 then intForm f i w w (.xor c t f.d f.a f.b) else none
  | 0x2C => if fn == 0 then intForm f i w w (.andn c t f.d f.a f.b) else none
  | 0x2D => if fn == 0 then intForm f i w 1 (.shl c t f.d f.a f.b) else none
  | 0x2E => if fn == 0 then intForm f i w 1 (.shr c t f.d f.a f.b) else none
  | 0x2F => if fn == 0 then intForm f i w 1 (.sar c t f.d f.a f.b) else none
  | 0x30 => if fn == 0 then intForm f i w 1 (.rotl c t f.d f.a f.b) else none
  | 0x31 => if fn == 0 then intForm1 f i 1 (.popc c t f.d f.a) else none
  | 0x32 => if fn == 0 then intForm1 f i 1 (.clz c t f.d f.a) else none
  | 0x33 => if fn == 0 then intForm1 f i 1 (.ctz c t f.d f.a) else none
  | 0x34 => if fn == 0 then intForm1 f i w (.brev c t f.d f.a) else none
  | 0x35 => if fn == 0 then intForm f i w 1 (.bfx c t (.reg f.b) f.d f.a)
    else if fn == 1 then
      some { md := i && f.low == 0, fd := dst w, fa := isrc w, cls := .fixed, ins := .bfx c t (.lit (f.auxBits 0 8) (f.auxBits 8 8)) f.d f.a }
    else none
  | 0x36 => if fn == 0 then
      some { md := i && f.low == 0, aux := f.aux == 0, fd := vreg w, fa := isrc w, fb := isrc 1, cls := .fixed, ins := .bfi c t (.reg f.b) f.d f.a }
    else if fn == 1 then
      some { md := i && f.low == 0, fd := vreg w, fa := isrc w, cls := .fixed, ins := .bfi c t (.lit (f.auxBits 0 8) (f.auxBits 8 8)) f.d f.a }
    else none
  | 0x37 => match icmpOf fn with
    | some cmp => some { md := i && f.low == 0, aux := f.combOk, fd := pred, fa := isrc w, fb := isrc w, cls := .fixed, ins := .isetp c cmp t f.comb f.d f.a f.b }
    | none => none
  | 0x38 => if fn ≤ 1 then
      some { md := t.isU && f.low == 0, fd := dst w, fa := fsrc w, fb := dstOpt, cls := .fixed, ins := .agen c (fn == 1) t f.d f.mem }
    else none
  | _ => none

/-- R159: fixed-latency forms of two sources; `acc` when the destination is read. -/
def fpForm (f : Fields) (acc : Bool) (ins : Instr) : Option Form :=
  if f.fn == 0 then
    some { md := f.ty.isFloatOrPair && f.rmOk, aux := f.aux == 0, fd := if acc then vreg f.ty.regs else dst f.ty.regs, fa := fsrc f.ty.regs, fb := fsrc f.ty.regs, cls := .fixed, ins := ins }
  else none

/-- R166: special functions. -/
def sfForm (f : Fields) (wide anyRm two : Bool) (ins : Instr) : Option Form :=
  if f.fn == 0 then
    some { md := (f.ty == .f32 || (wide && f.ty == .f64)) && (if anyRm then f.rmOk else f.low == 0), aux := f.aux == 0, fd := dst f.ty.regs, fa := fsrc f.ty.regs, fb := if two then fsrc f.ty.regs else .unused, cls := .variable, ins := ins }
  else none

/-- R168: the source position of a conversion. -/
def cvtSrc (t : Ty) : Pos := if t.isAnyInt then isrc t.regs else fsrc t.regs

/-- R159 to R170. -/
def formFloat (f : Fields) : Option Form :=
  let c := f.ctl
  let t := f.ty
  let w := t.regs
  let r := f.rm
  let fn := f.fn.toNat
  match f.opc.toNat with
  | 0x50 => fpForm f false (.fadd c t r f.d f.a f.b)
  | 0x51 => fpForm f false (.fsub c t r f.d f.a f.b)
  | 0x52 => fpForm f false (.fmul c t r f.d f.a f.b)
  | 0x53 => fpForm f true (.fma c t r f.d f.a f.b)
  | 0x54 => fpForm f true (.fms c t r f.d f.a f.b)
  | 0x55 => if fn ≤ 1 then
      some { md := t.isFloatOrPair && f.low == 0, aux := f.aux == 0, fd := dst w, fa := fsrc w, fb := fsrc w, cls := .fixed, ins := .fmin c (fn == 1) t f.d f.a f.b }
    else none
  | 0x56 => if fn ≤ 1 then
      some { md := t.isFloatOrPair && f.low == 0, aux := f.aux == 0, fd := dst w, fa := fsrc w, fb := fsrc w, cls := .fixed, ins := .fmax c (fn == 1) t f.d f.a f.b }
    else none
  | 0x57 => match fcmpOf fn with
    | some cmp => some { md := t.isFloat && f.low == 0, aux := f.combOk, fd := pred, fa := fsrc w, fb := fsrc w, cls := .fixed, ins := .fsetp c cmp t f.comb f.d f.a f.b }
    | none => none
  | 0x58 => if fn == 0 then
      some { md := t.isFloat && f.low == 0, aux := f.auxBelow 10, fd := pred, fa := fsrc w, cls := .fixed, ins := .fclass c t (f.auxBits 0 10) f.d f.a }
    else none
  | 0x59 => sfForm f true true false (.frcp c t r f.d f.a)
  | 0x5A => sfForm f true false false (.frsq c t f.d f.a)
  | 0x5B => sfForm f true true false (.fsqrt c t r f.d f.a)
  | 0x5C => sfForm f true true true (.fdiv c t r f.d f.a f.b)
  | 0x5D => sfForm f false false false (.fex2 c f.d f.a)
  | 0x5E => sfForm f false false false (.flg2 c f.d f.a)
  | 0x5F => sfForm f false false false (.fsin c f.d f.a)
  | 0x60 => sfForm f false false false (.fcos c f.d f.a)
  | 0x61 => sfForm f false false false (.ftanh c f.d f.a)
  | 0x62 => if fn == 0 then
      some { md := t.isFloat && f.rmOk, aux := f.aux == 0, fd := dst w, fa := fsrc w, cls := .fixed, ins := .frnd c t r f.d f.a }
    else none
  | 0x63 =>
    let s := f.ty2
    let hi0 := f.auxBelow 4
    match fn with
    | 0 => some { md := t != .bf16x2 && t != .f32x2 && f.rmOk && (!(t == .t8 || t == .t6) || f.low == 0), aux := hi0 && s != .f32x2, fd := dst w, fa := cvtSrc s, cls := .fixed, ins := .cvt c t s r f.d f.a }
    | 1 => some { md := t == .bf16x2 && f.rmOk, aux := hi0 && s == .f32, fd := dst 1, fa := fsrc 1, fb := fsrc 1, cls := .fixed, ins := .cvtPack c r f.d f.a f.b }
    | 2 => some { md := t.isFloat && f.rmOk, aux := hi0 && s == .bf16x2, fd := dst w, fa := fsrc 1, cls := .fixed, ins := .cvtHi c t r f.d f.a }
    | 3 => some { md := t.isAnyInt && f.rmOk, aux := hi0 && s.isAnyInt, fd := dst w, fa := isrc s.regs, cls := .fixed, ins := .cvtSat c t s r f.d f.a }
    | _ => none
  | _ => none

def redOpOf (n : Nat) : Option RedOp :=
  match n with
  | 0 => some .add | 1 => some .min | 2 => some .max | 3 => some .and | 4 => some .or | 5 => some .xor | _ => none

def redOpCode : RedOp → BitVec 4
  | .add => 0 | .min => 1 | .max => 2 | .and => 3 | .or => 4 | .xor => 5

/-- R175 to R184. DEDUCED: log 16. -/
def formLane (f : Fields) : Option Form :=
  let c := f.ctl
  let t := f.ty
  let w := t.regs
  let fn := f.fn.toNat
  let u := t.isU && f.low == 0
  let neg := f.auxBit 3
  let negOk := f.auxBelow 4 && f.auxBits 0 3 == 0
  let vp := if f.auxBit 3 then some (f.auxBits 0 3) else none
  let shfl (ins : Instr) : Option Form :=
    some { md := u, aux := f.auxBelow 4 && (f.auxBit 3 || f.auxBits 0 3 == 0), fd := vreg w, fa := vreg w, fb := vki 1, cls := .fixed, ins := ins }
  match f.opc.toNat, fn with
  | 0x80, 0 => some { md := f.md == 0, aux := f.aux == 0, fa := vki 1, cls := .fixed, ins := .lpartset c f.a }
  | 0x81, 0 => shfl (.shflIdx c t vp f.d f.a f.b)
  | 0x81, 1 => shfl (.shflUp c t vp f.d f.a f.b)
  | 0x81, 2 => shfl (.shflDown c t vp f.d f.a f.b)
  | 0x81, 3 => shfl (.shflXor c t vp f.d f.a f.b)
  | 0x82, 0 => some { md := f.md == 0, aux := negOk, fd := pred, fa := pred, cls := .fixed, ins := .voteAll c neg f.d f.a }
  | 0x82, 1 => some { md := f.md == 0, aux := negOk, fd := pred, fa := pred, cls := .fixed, ins := .voteAny c neg f.d f.a }
  | 0x82, 2 => some { md := f.md == 0, aux := negOk, fd := pred, fa := pred, cls := .fixed, ins := .voteEq c neg f.d f.a }
  | 0x82, 3 => some { md := f.md == 0, aux := negOk, fd := vreg 1, fa := pred, cls := .fixed, ins := .voteBallot c neg f.d f.a }
  | 0x83, _ => match redOpOf fn with
    | some op => some { md := f.rmOk && WF.redOp op t f.rm, aux := f.aux == 0, fd := vreg w, fa := vreg w, cls := .fixed, ins := .redux c op t f.rm f.d f.a }
    | none => none
  | 0x84, _ => match redOpOf fn with
    | some op => some { md := f.rmOk && WF.redOp op t f.rm, aux := f.auxBelow 1, fd := vreg w, fa := vreg w, cls := .fixed, ins := .scan c (f.auxBit 0) op t f.rm f.d f.a }
    | none => none
  | 0x85, 0 => some { md := u, aux := f.aux == 0, fd := vreg 1, fa := vreg w, cls := .fixed, ins := .matchLanes c t f.d f.a }
  | 0x86, 0 => some { md := f.md == 0, aux := negOk, fd := vreg 1, fa := pred, cls := .fixed, ins := .lanepfx c neg f.d f.a }
  | 0x87, 0 => some { md := u, aux := negOk, fd := vreg w, fa := vreg w, fb := pred, cls := .fixed, ins := .compress c neg t f.d f.a f.b }
  | 0x88, 0 => some { md := u, aux := negOk, fd := vreg w, fa := vreg w, fb := pred, cls := .fixed, ins := .expand c neg t f.d f.a f.b }
  | 0x89, 0 => some { md := u, aux := f.aux == 0, fd := vreg w, fa := vreg w, fb := kreg 1, cls := .fixed, ins := .slideup c t f.d f.a f.b }
  | 0x8A, 0 => some { md := u, aux := f.aux == 0, fd := vreg w, fa := vreg w, fb := kreg 1, cls := .fixed, ins := .slidedn c t f.d f.a f.b }
  | 0x8B, 0 => some { md := (t == .u32 || t == .u64 || t == .u16 || t == .u8) && f.scopeOk 0 6, fd := vreg 1, fa := vk 2, fb := vreg w, cls := .variable, ins := .cstore c t f.scope (f.auxBit 15) (f.auxBits 12 3) (f.auxBits 0 12) f.d f.a f.b }
  | _, _ => none

/-- R200: the variant of an FN of LD or ST. -/
def lsKindOf (n : Nat) : Option LsKind :=
  match n with
  | 0 => some .plain | 1 => some .priv | 2 => some .b128 | 3 => some .privB128 | 4 => some .qual | 6 => some .qualB128 | _ => none

def lsKindCode : LsKind → BitVec 4
  | .plain => 0 | .priv => 1 | .b128 => 2 | .privB128 => 3 | .qual => 4 | .qualB128 => 6

/-- R200 to R208. -/
def formMemory (f : Fields) : Option Form :=
  let c := f.ctl
  let t := f.ty
  let fn := f.fn.toNat
  let sc := f.scope
  let ls (load : Bool) : Option Form :=
    match lsKindOf fn with
    | none => none
    | some kind =>
      let n := WF.lsRegs kind t
      let bw := match kind with
        | .priv | .privB128 => 1
        | _ => 2
      let mdOk := match kind with
        | .plain | .qual => WF.ldTy t && f.scopeOk 0 6
        | .b128 | .qualB128 => t == .u32 && f.scopeOk 0 6
        | .priv => WF.ldTy t && f.low == 0
        | .privB128 => t == .u32 && f.low == 0
      if load then some { md := mdOk, fd := vreg n, fa := vk bw, fb := vregOpt, cls := .variable, ins := .ld c kind t sc f.d f.mem }
      else some { md := mdOk, fd := vk n, fa := vk bw, fb := vregOpt, cls := .variable, ins := .st c kind t sc f.d f.mem }
  let lsx (load b128 : Bool) : Option Form :=
    let n := WF.lsxRegs b128 t
    if load then some { md := WF.lsx b128 t && f.scopeOk 0 6, fd := vreg n, fa := vk 2, fb := vregOpt, cls := .variable, ins := .ldx c b128 t sc f.d f.mem }
    else some { md := WF.lsx b128 t && f.scopeOk 0 6, fd := vk n, fa := vk 2, fb := vregOpt, cls := .variable, ins := .stx c b128 t sc f.d f.mem }
  let pf (ins : Instr) : Option Form := some { md := f.md == 0, fa := vk 2, fb := vregOpt, cls := .noCounter, ins := ins }
  let maint (lo : Nat) (ins : Instr) : Option Form :=
    some { md := f.mdTy0 && f.scopeOk lo 6, aux := f.aux == 0, fa := vk 2, fb := vki 1, cls := .variable, ins := ins }
  match f.opc.toNat, fn with
  | 0x90, _ => ls true
  | 0x91, _ => ls false
  | 0x92, 0 => lsx true false
  | 0x92, 2 => lsx true true
  | 0x93, 0 => lsx false false
  | 0x93, 2 => lsx false true
  | 0x94, 0 => pf (.prefL1 c f.mem)
  | 0x94, 1 => pf (.prefCc c f.mem)
  | 0x94, 2 => pf (.prefSl c f.mem)
  | 0x95, 0 => maint 2 (.invr c sc f.a f.b)
  | 0x96, 0 => maint 4 (.invd c sc f.a f.b)
  | 0x97, 0 => maint 2 (.wbr c sc f.a f.b)
  | _, _ => none

/-- R230 to R237. DEDUCED: log 15. -/
def formScratch (f : Fields) : Option Form :=
  let c := f.ctl
  let t := f.ty
  let fn := f.fn.toNat
  let sc := f.scope
  let a0 := f.aux == 0
  let lds (b128 : Bool) : Option Form :=
    some { md := f.low == 0 && (if b128 then t == .u32 else WF.ldTy t), fd := vreg (if b128 then 4 else t.regs), fa := vk 1, fb := vregOpt, cls := .variable, ins := .lds c b128 t f.d f.mem }
  let sts (b128 fill : Bool) : Option Form :=
    some { md := f.low == 0 && (if b128 then t == .u32 else WF.ldTy t), fd := vk (if b128 then 4 else t.regs), fa := vk 1, fb := vregOpt, cls := .variable, ins := .sts c b128 fill t f.d f.mem }
  let cpy (auxOk : Bool) (ins : Instr) : Option Form :=
    some { md := f.mdTy0 && f.scopeOk 2 6, aux := auxOk, fd := vreg 4, fa := kBlock 4 500, fb := ki, cls := .variable, ins := ins }
  let layOk := f.auxBelow 4 && (f.auxBits 0 3).toNat ≤ 5
  match f.opc.toNat, fn with
  | 0xA0, 0 => lds false
  | 0xA0, 2 => lds true
  | 0xA1, 0 => sts false false
  | 0xA1, 1 => sts false true
  | 0xA1, 2 => sts true false
  | 0xA1, 3 => sts true true
  | 0xA2, 0 => some { md := f.md == 0, aux := a0, fa := vk 1, fb := vki 1, cls := .variable, ins := .lmarkEmpty c f.a f.b }
  | 0xA2, 1 => some { md := f.md == 0, aux := a0, fa := vk 1, fb := vki 1, cls := .variable, ins := .lmarkFull c f.a f.b }
  | 0xA2, 2 => some { md := f.md == 0, aux := a0, fd := vreg 1, fa := vk 1, cls := .variable, ins := .lmarkQ c f.d f.a }
  | 0xA3, 0 => cpy layOk (.cpyLoad c sc (f.auxBit 3) (f.auxBits 0 3) f.d f.a f.b)
  | 0xA3, 1 => cpy layOk (.cpyBstack c sc (f.auxBit 3) (f.auxBits 0 3) f.d f.a f.b)
  | 0xA3, 2 => cpy (f.auxBelow 4 && f.auxBits 0 3 == 0) (.cpyStore c sc (f.auxBit 3) f.d f.a f.b)
  | 0xA4, 0 => cpy (f.auxBelow 4 && f.auxBits 0 2 != 3 && f.auxBits 2 2 != 3) (.cpyg c sc (f.auxBits 0 2) (f.auxBits 2 2) f.d f.a f.b)
  | 0xA5, 0 => cpy a0 (.cpys c sc f.d f.a f.b)
  | 0xA6, 0 => some { md := f.md == 0, aux := a0, fd := vreg 1, fa := vk 1, cls := .variable, ins := .cpyqStat c f.d f.a }
  | 0xA6, 1 => some { md := f.md == 0, aux := a0, fa := vk 1, cls := .variable, ins := .cpyqCancel c f.a }
  | 0xA7, 0 => some { md := f.md == 0, aux := a0, fd := ki, fa := kBlock 4 496, cls := .noCounter, ins := .tdesc c f.d f.a }
  | 0xA8, 0 => some { md := f.md == 0, aux := a0, fa := vk 2, cls := .noCounter, ins := .sleept c f.a }
  | 0xA8, 1 => some { md := f.md == 0, aux := a0, fd := pred, fa := vk 2, fb := vki 1, cls := .noCounter, ins := .sleeptP c f.d f.a f.b }
  | 0xA8, 2 => some { md := f.md == 0, aux := a0, fa := vk 2, fb := vki 1, cls := .noCounter, ins := .sleeptT c f.a f.b }
  | _, _ => none

def atomOpOf (n : Nat) : Option AtomOp :=
  match n with
  | 0 => some .add | 1 => some .sub | 2 => some .min | 3 => some .max | 4 => some .and | 5 => some .or
  | 6 => some .xor | 7 => some .exch | 8 => some .inc | 9 => some .dec | _ => none

def atomOpCode : AtomOp → BitVec 4
  | .add => 0 | .sub => 1 | .min => 2 | .max => 3 | .and => 4 | .or => 5 | .xor => 6 | .exch => 7 | .inc => 8 | .dec => 9

def atomFOpOf (n : Nat) : Option AtomFOp :=
  match n with
  | 0 => some .add | 1 => some .min | 2 => some .max | _ => none

def atomFOpCode : AtomFOp → BitVec 4
  | .add => 0 | .min => 1 | .max => 2

def qualOf (b : BitVec 2) : Qual :=
  match b.toNat with
  | 0 => .none | 1 => .acq | 2 => .rel | _ => .ar

def qualCode : Qual → BitVec 2
  | .none => 0 | .acq => 1 | .rel => 2 | .ar => 3

/-- R284: the fields the atomic forms share. -/
def atomCtl (f : Fields) : AtomCtl :=
  ⟨f.ty, f.scope, qualOf (f.auxBits 14 2), f.auxBit 13, f.auxBit 12, f.auxBits 0 12, f.a⟩

/-- R266, R284 to R288. -/
def formAtomic (f : Fields) : Option Form :=
  let c := f.ctl
  let t := f.ty
  let fn := f.fn.toNat
  let q := atomCtl f
  let scOk := if q.scratch then f.scopeOk 0 2 else f.scopeOk 0 6
  let cls : SetClass := if q.nr then .noCounter else .variable
  let base := vk (if q.scratch then 1 else 2)
  let fence (ins : Instr) : Option Form :=
    some { md := f.mdTy0 && f.scopeOk 0 6, aux := f.aux == 0, cls := .variable, ins := ins }
  let d := if q.nr then none else some f.d
  match f.opc.toNat with
  | 0xB0 => match fn with
    | 0 => fence (.fenceAr c f.scope)
    | 1 => fence (.fenceRel c f.scope)
    | 2 => fence (.fenceAcq c f.scope)
    | 3 => fence (.fenceAll c f.scope)
    | _ => none
  | 0xB1 => match atomOpOf fn with
    | some op => some { md := t.isInt && scOk, fd := if q.nr then .unused else vreg t.regs, fa := base, fb := if t.regs == 1 then vki 1 else vk 2, cls := cls, ins := .atom c op q d f.b }
    | none => none
  | 0xB2 => match atomFOpOf fn with
    | some op => some { md := (t == .f32 || t == .f64 || t == .bf16 || t == .bf16x2 || t == .f32x2) && scOk, fd := if q.nr then .unused else vreg t.regs, fa := base, fb := vk t.regs, cls := cls, ins := .atomf c op q d f.b }
    | none => none
  | 0xB3 => match fn with
    | 0 => some { md := t.isInt && scOk, fd := vreg t.regs, fa := base, fb := vk t.regs, cls := cls, ins := .cas c false q f.d f.b }
    | 1 => some { md := t == .u32 && scOk, fd := vreg 4, fa := base, fb := vk 4, cls := cls, ins := .cas c true q f.d f.b }
    | _ => none
  | _ => none

/-- R302 to R310. -/
def formEvent (f : Fields) : Option Form :=
  let c := f.ctl
  let sc := f.scope
  let z := f.md == 0
  let a0 := f.aux == 0
  let scOk := f.mdTy0 && f.scopeOk 2 6
  let n4 := f.auxBits 0 4
  let one (ins : Instr) : Option Form := some { md := z, aux := a0, fa := vki 1, cls := .noCounter, ins := ins }
  match f.opc.toNat, f.fn.toNat with
  | 0xC0, 0 => some { md := z, aux := a0, fa := vk 1, fb := vki 1, cls := .variable, ins := .barinit c f.a f.b }
  | 0xC0, 1 => some { md := z, aux := a0, fa := vk 1, cls := .variable, ins := .barinitInval c f.a }
  | 0xC1, 0 => some { md := scOk, aux := a0, fd := vregOpt, fa := vk 1, cls := .variable, ins := .bararr c false sc f.dOpt f.a }
  | 0xC1, 1 => some { md := scOk, aux := a0, fd := vregOpt, fa := vk 1, cls := .variable, ins := .bararr c true sc f.dOpt f.a }
  | 0xC2, 0 => some { md := scOk, aux := a0, fd := vregOpt, fa := vk 1, fb := vki 1, cls := .variable, ins := .barexp c false sc f.dOpt f.a f.b }
  | 0xC2, 1 => some { md := scOk, aux := a0, fd := vregOpt, fa := vk 1, fb := vki 1, cls := .variable, ins := .barexp c true sc f.dOpt f.a f.b }
  | 0xC3, 0 => some { md := scOk, aux := a0, fd := pred, fa := vk 1, fb := vk 1, cls := .noCounter, ins := .barwait c sc f.d f.a f.b }
  | 0xC4, 0 => some { md := z, aux := f.auxBelow 4 && 1 ≤ n4.toNat && n4.toNat ≤ 8, fa := kBlock 4 (512 - 4 * n4.toNat), cls := .noCounter, ins := .evarm c n4 f.a }
  | 0xC4, 1 => some { md := z, aux := f.auxBelow 3, fa := kBlock 4 508, cls := .noCounter, ins := .evarmOne c (f.auxBits 0 3) f.a }
  | 0xC5, 0 => one (.evmask c f.a)
  | 0xC5, 1 => one (.evmaskOr c f.a)
  | 0xC5, 2 => one (.evmaskAndn c f.a)
  | 0xC6, 0 => one (.evclr c f.a)
  | 0xC6, 1 => one (.evclrDisarm c f.a)
  | 0xC7, 0 => some { md := z, aux := a0, cls := .noCounter, ins := .waitany c }
  | 0xC8, 0 => some { md := z, aux := a0, fd := vreg 1, fa := vk 1, fb := vki 1, cls := .variable, ins := .mbxinit c f.d f.a f.b }
  | 0xC8, 1 => some { md := z, aux := a0, fa := vk 1, cls := .variable, ins := .mbxinitFree c f.a }
  | 0xC9, 0 => some { md := scOk, aux := a0, fd := pred, fa := vk 1, fb := vk 4, cls := .variable, ins := .mbxsend c sc f.d f.a f.b }
  | 0xC9, 1 => some { md := scOk, aux := a0, fd := vreg 1, fa := vk 1, fb := vk 4, cls := .variable, ins := .mbxsendSt c sc f.d f.a f.b }
  | 0xCA, 0 => some { md := scOk, aux := f.auxBelow 3, fd := vreg 4, fa := vk 1, cls := .variable, ins := .mbxpop c sc (f.auxBits 0 3) f.d f.a }
  | _, _ => none

def roomOf (n : Nat) : Option Room :=
  match n with
  | 0 => some .read | 1 => some .write | 2 => some .accum | 3 => some .push | 4 => some .pop | _ => none

def roomCode : Room → BitVec 3
  | .read => 0 | .write => 1 | .accum => 2 | .push => 3 | .pop => 4

/-- R332 to R340. -/
def formRoom (f : Fields) : Option Form :=
  let c := f.ctl
  let t := f.ty
  let fn := f.fn.toNat
  let z := f.md == 0
  let a0 := f.aux == 0
  let modeOk := f.auxBelow 3 && (f.auxBits 0 3).toNat ≤ 4
  let mode := (roomOf (f.auxBits 0 3).toNat).getD .read
  match f.opc.toNat, fn with
  | 0xD0, 0 => some { md := z, aux := a0, fd := vreg 1, fa := vk 2, cls := .variable, ins := .rdesc c f.d f.a }
  | 0xD1, 0 => some { md := z, aux := a0, fa := vk 1, cls := .variable, ins := .rfree c f.a }
  | 0xD2, 0 => some { md := z, aux := modeOk, fa := vk 1, fb := hold, cls := .noCounter, ins := .rdemand c mode f.a f.b }
  | 0xD2, 1 => some { md := z, aux := modeOk, fd := pred, fa := vk 1, fb := hold, cls := .noCounter, ins := .rdemandWait c mode f.d f.a f.b }
  | 0xD3, 0 => some { md := z, aux := a0, fa := hold, cls := .variable, ins := .rleave c f.a }
  | 0xD4, 0 => some { md := f.low == 0 && WF.ldTy t, fd := vreg t.regs, fa := vk 2, fb := vregOpt, cls := .variable, ins := .rld c t f.d f.roomMem }
  | 0xD5, 0 => some { md := f.low == 0 && WF.ldTy t, fd := vk t.regs, fa := vk 2, fb := vregOpt, cls := .variable, ins := .rst c t f.d f.roomMem }
  | 0xD6, _ => match redOpOf fn with
    | some op => some { md := f.low == 0 && WF.accTy t, fd := vk t.regs, fa := vk 2, fb := vregOpt, cls := .noCounter, ins := .racc c op t f.d f.roomMem }
    | none => none
  | 0xD7, 0 => some { md := f.low == 0 && t.isU, aux := a0, fd := pred, fa := vk t.regs, fb := hold, cls := .variable, ins := .rpush c t f.d f.a f.b }
  | 0xD8, 0 => some { md := f.low == 0 && t.isU, aux := f.auxBelow 3, fd := vreg t.regs, fa := hold, cls := .variable, ins := .rpop c t (f.auxBits 0 3) f.d f.a }
  | 0xD9, 0 => some { md := z, aux := a0, fd := vreg 1, fa := hold, cls := .variable, ins := .rquery c f.d f.a }
  | 0xD9, 1 => some { md := z, aux := a0, fd := vreg 1, fa := vk 1, cls := .variable, ins := .rqueryR c f.d f.a }
  | _, _ => none

/-- R352: the type codes of MMA. -/
def mmaTyOf : Ty → Option MmaTy
  | .t8 => some .t8 | .t6 => some .t6 | .s8 => some .int8 | .bf16 => some .bf16 | .f32 => some .f32 | .f64 => some .f64
  | _ => none

def mmaTyCode : MmaTy → BitVec 4
  | .t8 => 0xE | .t6 => 0xF | .int8 => 0x7 | .bf16 => 0xA | .f32 => 0x8 | .f64 => 0x9

/-- R348 to R365. -/
def formMatrix (f : Fields) : Option Form :=
  let c := f.ctl
  let t := f.ty
  let fn := f.fn.toNat
  let z := f.md == 0
  let a0 := f.aux == 0
  let t6 := t == .t6
  let tap := f.low == 0 && (t == .t8 || t == .t6)
  let zmove (ins : Option Bool → Instr) : Option Form :=
    let half := if t == .f64 then some (f.auxBit 0) else none
    some { md := f.low == 0 && (t == .f32 || t == .f64), aux := if t == .f64 then f.auxBelow 1 else a0, fd := vreg 4, fa := if t == .f64 then tilePair else tile, fb := vki 1, cls := .variable, ins := ins half }
  match f.opc.toNat, fn with
  | 0xE0, 0 => some { md := z, aux := a0, fd := jreg, fa := vki 1, cls := .noCounter, ins := .jset c f.d f.a }
  | 0xE0, 1 => some { md := z, aux := a0, fd := vreg 1, fa := jreg, cls := .fixed, ins := .jsetQ c f.d f.a }
  | 0xE1, _ =>
    if fn ≤ 3 then
      let ha := f.fn.getLsbD 0
      let hb := f.fn.getLsbD 1
      let box := kBlock 4 500
      some { md := f.low == 0 && (mmaTyOf t).isSome, aux := f.auxBelow 14 && (ha || f.auxBits 4 5 == 0) && (hb || f.auxBits 9 5 == 0), fd := tile, fa := if ha then box else vk 1, fb := if hb then box else vk 1, cls := .variable, ins := .mma c ((mmaTyOf t).getD .t8) ha hb (f.auxBits 0 4) (f.auxBits 4 5) (f.auxBits 9 5) f.d f.a f.b }
    else none
  | 0xE2, 0 => some { md := z, aux := a0, cls := .variable, ins := .mfenceOp c }
  | 0xE3, 0 => some { md := z, aux := a0, fd := tile, fa := vki 1, cls := .variable, ins := .zclr c f.d f.a }
  | 0xE4, 0 => zmove (fun half => .zld c half f.d f.a f.b)
  | 0xE5, 0 => zmove (fun half => .zst c half f.d f.a f.b)
  | 0xE6, 0 => some { md := z, aux := a0, fd := vki 1, fa := vk 1, fb := vk 1, cls := .variable, ins := .bload c f.d f.a f.b }
  | 0xE7, 0 => some { md := f.low == 0 && (t == .f32 || t == .bf16 || t == .f16), aux := a0, fd := tile, fa := vk 1, cls := .variable, ins := .qhist c t f.d f.a }
  | 0xE7, 1 => some { md := z, aux := a0, fd := tile, fa := vki 1, fb := vki 1, cls := .variable, ins := .qhistRows c f.d f.a f.b }
  | 0xE7, 2 => some { md := z, aux := a0, fd := tile, cls := .variable, ins := .qhistClr c f.d }
  | 0xE8, 0 => some { md := tap, aux := a0, fd := vreg 1, fa := tile, fb := vki 1, cls := .variable, ins := .qscale c t6 f.d f.a f.b }
  | 0xE9, 0 => some { md := tap, aux := f.auxBelow 8, fd := vk 1, fa := tile, cls := .variable, ins := .qpack c t6 (f.auxBits 0 8) f.d f.a }
  | 0xE9, 1 => some { md := tap, aux := a0, fd := vk 1, fa := tile, fb := vki 1, cls := .variable, ins := .qpackE c t6 f.d f.a f.b }
  | _, _ => none

/-- R384 to R392, R401, R402. -/
def formGraph (f : Fields) : Option Form :=
  let c := f.ctl
  let z := f.md == 0
  let a0 := f.aux == 0
  match f.opc.toNat, f.fn.toNat with
  | 0xF0, 0 => some { md := z, aux := a0, fd := vregOpt, fa := vk 2, cls := .variable, ins := .gfire c f.dOpt f.a }
  | 0xF0, 1 => some { md := z, aux := a0, cls := .noCounter, ins := .gfireEnd c }
  | 0xF1, 0 => some { md := z, aux := a0, fd := vregOpt, fa := vk 2, fb := vki 1, cls := .variable, ins := .gtoken c f.dOpt f.a f.b }
  | 0xF2, 0 => some { md := z, aux := a0, fa := vki 1, cls := .noCounter, ins := .gfail c f.a }
  | 0xF3, 0 => some { md := z, aux := a0, fd := vreg 1, fa := vki 1, cls := .variable, ins := .garg c f.d f.a }
  | 0xF3, 1 => some { md := z, aux := a0, fd := vreg 2, cls := .variable, ins := .gargAddr c f.d }
  | 0xF3, 2 => some { md := z, aux := a0, fd := vreg 1, cls := .variable, ins := .gargIndex c f.d }
  | 0xF4, 0 => some { md := z, aux := a0, fd := vreg 1, fa := vk 2, cls := .variable, ins := .gstat c f.d f.a }
  | 0xF4, 1 => some { md := z, aux := a0, fd := vreg 1, fa := vk 2, cls := .variable, ins := .gstatG c f.d f.a }
  | 0xF4, 2 => some { md := z, aux := a0, fd := vreg 1, cls := .variable, ins := .gstatD c f.d }
  | 0xF6, 0 => some { md := z, aux := a0, fa := vki 1, cls := .noCounter, ins := .trap c f.a }
  | 0xF6, 1 => some { md := z, aux := a0, fd := vreg 1, fa := vki 1, cls := .fixed, ins := .trapRd c f.d f.a }
  | 0xF7, 0 => some { md := z, aux := a0, cls := .noCounter, ins := .rte c }
  | 0xF7, 1 => some { md := z, aux := a0, cls := .noCounter, ins := .rteNext c }
  | 0xF7, 2 => some { md := z, aux := a0, fa := vki 1, cls := .noCounter, ins := .rteAt c f.a }
  | 0xF7, 3 => some { md := z, aux := a0, cls := .noCounter, ins := .rteFail c }
  | _, _ => none

/-- R78, R79: the form of a word, or detail 1 (OPC 0xFF), 2 (unallocated or reserved OPC) or 3 (FN not listed). -/
def formOf (f : Fields) : Except Nat Form :=
  let o := f.opc.toNat
  let lift : Option Form → Except Nat Form
    | none => .error 3
    | some m => .ok m
  if o == 0xFF then .error 1
  else if o ≤ 0x0B then lift (formControl f)
  else if 0x10 ≤ o && o ≤ 0x18 then lift (formRegister f)
  else if 0x20 ≤ o && o ≤ 0x38 then lift (formInteger f)
  else if 0x50 ≤ o && o ≤ 0x63 then lift (formFloat f)
  else if 0x80 ≤ o && o ≤ 0x8B then lift (formLane f)
  else if 0x90 ≤ o && o ≤ 0x97 then lift (formMemory f)
  else if 0xA0 ≤ o && o ≤ 0xA8 then lift (formScratch f)
  else if 0xB0 ≤ o && o ≤ 0xB3 then lift (formAtomic f)
  else if 0xC0 ≤ o && o ≤ 0xCA then lift (formEvent f)
  else if 0xD0 ≤ o && o ≤ 0xD9 then lift (formRoom f)
  else if 0xE0 ≤ o && o ≤ 0xE9 then lift (formMatrix f)
  else if (0xF0 ≤ o && o ≤ 0xF4) || o == 0xF6 || o == 0xF7 then lift (formGraph f)
  else .error 2

/-- R79: the instruction of the fields, or the detail code of the first check that fails. -/
def decodeFields (lim : Limits) (f : Fields) : Except Nat Instr :=
  match formOf f with
  | .error e => .error e
  | .ok m => m.check lim f

/-- The instruction of a 96-bit word, or the detail code of its ILLEGAL trap (R79). -/
def decodeWord (lim : Limits) (w : IWord) : Except Nat Instr := decodeFields lim (fieldsOf w)

/-- R59: byte A + k of a word holds bits [8k + 7 : 8k]. -/
def wordOfBytes : List Byte → Nat
  | [] => 0
  | b :: bs => b.toNat + 256 * wordOfBytes bs

/-- R59: the twelve bytes of a word, from the lowest address. -/
def bytesOfWord (w : IWord) : List Byte := (List.range 12).map fun k => w.extractLsb' (8 * k) 8

/-- Decoding, total on any bytes: the first twelve are the word; `none` where fewer stand there, or where R79 refuses it. -/
def decodeBytes (lim : Limits) (bs : List Byte) : Option (Instr × List Byte) :=
  if bs.length < 12 then none
  else match decodeWord lim (BitVec.ofNat 96 (wordOfBytes (bs.take 12))) with
    | .ok i => some (i, bs.drop 12)
    | .error _ => none

/-- The instruction the decoder reads from a word whose bits are `w`; bits above `nbits` are zero. -/
def decodeTableWord (nbits w : Nat) : Option Instr :=
  (decodeBytes maxLimits (bytesOfWord (BitVec.ofNat 96 (w % 2 ^ nbits)))).map (·.1)

/-! ### The encoder, from the encoding rows of the entries -/

/-- The fields of a word: GUARD and HINT from `c`, unused operand fields 0x600, MOD and AUX zero unless given. -/
def mk (c : Ctl) (opc : BitVec 8) (fn : BitVec 4) (d : BitVec 11 := unusedField) (a : BitVec 11 := unusedField)
    (b : BitVec 11 := unusedField) (md : BitVec 7 := 0) (aux : BitVec 16 := 0) : Fields :=
  ⟨opc, fn, c.guard, d, a, b, md, aux, c.hint⟩

/-- R67: MOD of a type and its low three bits. -/
def mt (ty : Ty) (low : BitVec 3 := 0) : BitVec 7 := tyCode ty ++ low

/-- MOD of a form without a type, with a scope. -/
def ms (sc : Scope) : BitVec 7 := (0 : BitVec 4) ++ scopeCode sc

def bit (x : Bool) : BitVec 1 := if x then 1 else 0

/-- An operand that may be absent. -/
def optField : Option Opd → BitVec 11
  | none => unusedField
  | some o => opdField o

namespace Mem

def aux (m : Mem) : BitVec 16 := m.shift ++ m.off

end Mem

namespace RoomMem

def aux (m : RoomMem) : BitVec 16 := m.slot ++ m.shift ++ m.off

end RoomMem

namespace AtomCtl

def aux (t : AtomCtl) : BitVec 16 := qualCode t.qual ++ bit t.nr ++ bit t.scratch ++ t.off
def md (t : AtomCtl) : BitVec 7 := mt t.ty (scopeCode t.scope)

end AtomCtl

def aux3 (n : BitVec 3) : BitVec 16 := n.setWidth 16
def auxNeg (neg : Bool) (n : BitVec 3 := 0) : BitVec 16 := (bit neg ++ n).setWidth 16

namespace PComb

def aux (q : PComb) : BitVec 16 := (q.op ++ bit q.neg ++ q.c).setWidth 16

end PComb

/-- AUX of SHFL: bit 3 and the number of the valid-lane predicate. -/
def shflAux : Option (BitVec 3) → BitVec 16
  | none => 0
  | some n => auxNeg true n

/-- The fields of an instruction; a step that is no word has none, and gets OPC 0xFF. -/
def Instr.fields : Instr → Fields
  | .nop c => mk c 0x00 0
  | .bra c o => mk c 0x01 0 (aux := o.setWidth 16)
  | .brak c a => mk c 0x02 0 (a := opdField a)
  | .brx c a => mk c 0x03 0 (a := opdField a)
  | .call c d o => mk c 0x04 0 (opdField d) (aux := o.setWidth 16)
  | .callk c d a => mk c 0x05 0 (opdField d) (opdField a)
  | .ret c a => mk c 0x06 0 (a := opdField a)
  | .exit c => mk c 0x07 0
  | .reconv c a => mk c 0x08 0 (a := opdField a)
  | .yield c a => mk c 0x09 0 (a := opdField a)
  | .sread c d a => mk c 0x0A 0 (opdField d) (opdField a)
  | .sreadId c d n => mk c 0x0A 1 (opdField d) (aux := aux3 n)
  | .sreadExt c d n => mk c 0x0A 2 (opdField d) (aux := aux3 n)
  | .sreadNum c d n => mk c 0x0A 3 (opdField d) (aux := aux3 n)
  | .sreadBind c d n => mk c 0x0A 4 (opdField d) (aux := aux3 n)
  | .swrite c d a => mk c 0x0B 0 (opdField d) (opdField a)
  | .mov c d a => mk c 0x10 0 (opdField d) (opdField a)
  | .mov64 c d a => mk c 0x10 1 (opdField d) (opdField a)
  | .movk c d a => mk c 0x11 0 (opdField d) (opdField a)
  | .movk64 c d a => mk c 0x11 1 (opdField d) (opdField a)
  | .bcast c d a b => mk c 0x12 0 (opdField d) (opdField a) (opdField b)
  | .limm c d a b => mk c 0x13 0 (opdField d) (opdField a) (opdField b)
  | .limmIns c d a b => mk c 0x13 1 (opdField d) (opdField a) (opdField b)
  | .sel c neg n d a b => mk c 0x14 0 (opdField d) (opdField a) (opdField b) (aux := auxNeg neg n)
  | .sel64 c neg n d a b => mk c 0x14 1 (opdField d) (opdField a) (opdField b) (aux := auxNeg neg n)
  | .plog c pc lut d a b => mk c 0x15 0 (opdField d) (opdField a) (opdField b) (aux := (pc ++ lut).setWidth 16)
  | .plogTov c d => mk c 0x15 1 (opdField d)
  | .plogFromv c a => mk c 0x15 2 (a := opdField a)
  | .sbindLd c e d a => mk c 0x16 0 (opdField d) (opdField a) (aux := e.setWidth 16)
  | .sbindSt c e d a => mk c 0x16 1 (opdField d) (opdField a) (aux := e.setWidth 16)
  | .sstop c a => mk c 0x17 0 (a := opdField a)
  | .sflags c d a => mk c 0x18 0 (opdField d) (opdField a)
  | .iadd c sat t d a b => mk c 0x20 (if sat then 1 else 0) (opdField d) (opdField a) (opdField b) (mt t)
  | .iaddc c t n d a b => mk c 0x21 0 (opdField d) (opdField a) (opdField b) (mt t) (aux3 n)
  | .isub c sat t d a b => mk c 0x22 (if sat then 1 else 0) (opdField d) (opdField a) (opdField b) (mt t)
  | .imul c wide t d a b => mk c 0x23 (if wide then 1 else 0) (opdField d) (opdField a) (opdField b) (mt t)
  | .imulh c t d a b => mk c 0x24 0 (opdField d) (opdField a) (opdField b) (mt t)
  | .imad c wide t d a b => mk c 0x25 (if wide then 1 else 0) (opdField d) (opdField a) (opdField b) (mt t)
  | .imin c t d a b => mk c 0x26 0 (opdField d) (opdField a) (opdField b) (mt t)
  | .imax c t d a b => mk c 0x27 0 (opdField d) (opdField a) (opdField b) (mt t)
  | .iabs c sat t d a => mk c 0x28 (if sat then 1 else 0) (opdField d) (opdField a) (md := mt t)
  | .and c t d a b => mk c 0x29 0 (opdField d) (opdField a) (opdField b) (mt t)
  | .or c t d a b => mk c 0x2A 0 (opdField d) (opdField a) (opdField b) (mt t)
  | .xor c t d a b => mk c 0x2B 0 (opdField d) (opdField a) (opdField b) (mt t)
  | .andn c t d a b => mk c 0x2C 0 (opdField d) (opdField a) (opdField b) (mt t)
  | .shl c t d a b => mk c 0x2D 0 (opdField d) (opdField a) (opdField b) (mt t)
  | .shr c t d a b => mk c 0x2E 0 (opdField d) (opdField a) (opdField b) (mt t)
  | .sar c t d a b => mk c 0x2F 0 (opdField d) (opdField a) (opdField b) (mt t)
  | .rotl c t d a b => mk c 0x30 0 (opdField d) (opdField a) (opdField b) (mt t)
  | .popc c t d a => mk c 0x31 0 (opdField d) (opdField a) (md := mt t)
  | .clz c t d a => mk c 0x32 0 (opdField d) (opdField a) (md := mt t)
  | .ctz c t d a => mk c 0x33 0 (opdField d) (opdField a) (md := mt t)
  | .brev c t d a => mk c 0x34 0 (opdField d) (opdField a) (md := mt t)
  | .bfx c t (.reg b) d a => mk c 0x35 0 (opdField d) (opdField a) (opdField b) (mt t)
  | .bfx c t (.lit pos len) d a => mk c 0x35 1 (opdField d) (opdField a) (md := mt t) (aux := len ++ pos)
  | .bfi c t (.reg b) d a => mk c 0x36 0 (opdField d) (opdField a) (opdField b) (mt t)
  | .bfi c t (.lit pos len) d a => mk c 0x36 1 (opdField d) (opdField a) (md := mt t) (aux := len ++ pos)
  | .isetp c cmp t q d a b => mk c 0x37 (icmpCode cmp) (opdField d) (opdField a) (opdField b) (mt t) q.aux
  | .agen c sg t d m => mk c 0x38 (if sg then 1 else 0) (opdField d) (opdField m.base) (optField m.index) (mt t) m.aux
  | .fadd c t r d a b => mk c 0x50 0 (opdField d) (opdField a) (opdField b) (mt t (rmCode r))
  | .fsub c t r d a b => mk c 0x51 0 (opdField d) (opdField a) (opdField b) (mt t (rmCode r))
  | .fmul c t r d a b => mk c 0x52 0 (opdField d) (opdField a) (opdField b) (mt t (rmCode r))
  | .fma c t r d a b => mk c 0x53 0 (opdField d) (opdField a) (opdField b) (mt t (rmCode r))
  | .fms c t r d a b => mk c 0x54 0 (opdField d) (opdField a) (opdField b) (mt t (rmCode r))
  | .fmin c num t d a b => mk c 0x55 (if num then 1 else 0) (opdField d) (opdField a) (opdField b) (mt t)
  | .fmax c num t d a b => mk c 0x56 (if num then 1 else 0) (opdField d) (opdField a) (opdField b) (mt t)
  | .fsetp c cmp t q d a b => mk c 0x57 (fcmpCode cmp) (opdField d) (opdField a) (opdField b) (mt t) q.aux
  | .fclass c t m d a => mk c 0x58 0 (opdField d) (opdField a) (md := mt t) (aux := m.setWidth 16)
  | .frcp c t r d a => mk c 0x59 0 (opdField d) (opdField a) (md := mt t (rmCode r))
  | .frsq c t d a => mk c 0x5A 0 (opdField d) (opdField a) (md := mt t)
  | .fsqrt c t r d a => mk c 0x5B 0 (opdField d) (opdField a) (md := mt t (rmCode r))
  | .fdiv c t r d a b => mk c 0x5C 0 (opdField d) (opdField a) (opdField b) (mt t (rmCode r))
  | .fex2 c d a => mk c 0x5D 0 (opdField d) (opdField a) (md := mt .f32)
  | .flg2 c d a => mk c 0x5E 0 (opdField d) (opdField a) (md := mt .f32)
  | .fsin c d a => mk c 0x5F 0 (opdField d) (opdField a) (md := mt .f32)
  | .fcos c d a => mk c 0x60 0 (opdField d) (opdField a) (md := mt .f32)
  | .ftanh c d a => mk c 0x61 0 (opdField d) (opdField a) (md := mt .f32)
  | .frnd c t r d a => mk c 0x62 0 (opdField d) (opdField a) (md := mt t (rmCode r))
  | .cvt c dt sy r d a => mk c 0x63 0 (opdField d) (opdField a) (md := mt dt (rmCode r)) (aux := (tyCode sy).setWidth 16)
  | .cvtPack c r d a b => mk c 0x63 1 (opdField d) (opdField a) (opdField b) (mt .bf16x2 (rmCode r)) ((tyCode .f32).setWidth 16)
  | .cvtHi c dt r d a => mk c 0x63 2 (opdField d) (opdField a) (md := mt dt (rmCode r)) (aux := (tyCode .bf16x2).setWidth 16)
  | .cvtSat c dt sy r d a => mk c 0x63 3 (opdField d) (opdField a) (md := mt dt (rmCode r)) (aux := (tyCode sy).setWidth 16)
  | .lpartset c a => mk c 0x80 0 (a := opdField a)
  | .shflIdx c t vp d a b => mk c 0x81 0 (opdField d) (opdField a) (opdField b) (mt t) (shflAux vp)
  | .shflUp c t vp d a b => mk c 0x81 1 (opdField d) (opdField a) (opdField b) (mt t) (shflAux vp)
  | .shflDown c t vp d a b => mk c 0x81 2 (opdField d) (opdField a) (opdField b) (mt t) (shflAux vp)
  | .shflXor c t vp d a b => mk c 0x81 3 (opdField d) (opdField a) (opdField b) (mt t) (shflAux vp)
  | .voteAll c neg d a => mk c 0x82 0 (opdField d) (opdField a) (aux := auxNeg neg)
  | .voteAny c neg d a => mk c 0x82 1 (opdField d) (opdField a) (aux := auxNeg neg)
  | .voteEq c neg d a => mk c 0x82 2 (opdField d) (opdField a) (aux := auxNeg neg)
  | .voteBallot c neg d a => mk c 0x82 3 (opdField d) (opdField a) (aux := auxNeg neg)
  | .redux c op t r d a => mk c 0x83 (redOpCode op) (opdField d) (opdField a) (md := mt t (rmCode r))
  | .scan c ex op t r d a => mk c 0x84 (redOpCode op) (opdField d) (opdField a) (md := mt t (rmCode r)) (aux := (bit ex).setWidth 16)
  | .matchLanes c t d a => mk c 0x85 0 (opdField d) (opdField a) (md := mt t)
  | .lanepfx c neg d a => mk c 0x86 0 (opdField d) (opdField a) (aux := auxNeg neg)
  | .compress c neg t d a b => mk c 0x87 0 (opdField d) (opdField a) (opdField b) (mt t) (auxNeg neg)
  | .expand c neg t d a b => mk c 0x88 0 (opdField d) (opdField a) (opdField b) (mt t) (auxNeg neg)
  | .slideup c t d a b => mk c 0x89 0 (opdField d) (opdField a) (opdField b) (mt t)
  | .slidedn c t d a b => mk c 0x8A 0 (opdField d) (opdField a) (opdField b) (mt t)
  | .cstore c t sc neg n off d a b => mk c 0x8B 0 (opdField d) (opdField a) (opdField b) (mt t (scopeCode sc)) (bit neg ++ n ++ off)
  | .ld c k t sc d m => mk c 0x90 (lsKindCode k) (opdField d) (opdField m.base) (optField m.index) (mt t (scopeCode sc)) m.aux
  | .st c k t sc d m => mk c 0x91 (lsKindCode k) (opdField d) (opdField m.base) (optField m.index) (mt t (scopeCode sc)) m.aux
  | .ldx c w t sc d m => mk c 0x92 (if w then 2 else 0) (opdField d) (opdField m.base) (optField m.index) (mt t (scopeCode sc)) m.aux
  | .stx c w t sc d m => mk c 0x93 (if w then 2 else 0) (opdField d) (opdField m.base) (optField m.index) (mt t (scopeCode sc)) m.aux
  | .prefL1 c m => mk c 0x94 0 (a := opdField m.base) (b := optField m.index) (aux := m.aux)
  | .prefCc c m => mk c 0x94 1 (a := opdField m.base) (b := optField m.index) (aux := m.aux)
  | .prefSl c m => mk c 0x94 2 (a := opdField m.base) (b := optField m.index) (aux := m.aux)
  | .invr c sc a b => mk c 0x95 0 (a := opdField a) (b := opdField b) (md := ms sc)
  | .invd c sc a b => mk c 0x96 0 (a := opdField a) (b := opdField b) (md := ms sc)
  | .wbr c sc a b => mk c 0x97 0 (a := opdField a) (b := opdField b) (md := ms sc)
  | .fenceAr c sc => mk c 0xB0 0 (md := ms sc)
  | .fenceRel c sc => mk c 0xB0 1 (md := ms sc)
  | .fenceAcq c sc => mk c 0xB0 2 (md := ms sc)
  | .fenceAll c sc => mk c 0xB0 3 (md := ms sc)
  | .atom c op t d b => mk c 0xB1 (atomOpCode op) (optField d) (opdField t.base) (opdField b) t.md t.aux
  | .atomf c op t d b => mk c 0xB2 (atomFOpCode op) (optField d) (opdField t.base) (opdField b) t.md t.aux
  | .cas c w t d b => mk c 0xB3 (if w then 1 else 0) (opdField d) (opdField t.base) (opdField b) t.md t.aux
  | .lds c w t d m => mk c 0xA0 (if w then 2 else 0) (opdField d) (opdField m.base) (optField m.index) (mt t) m.aux
  | .sts c w fl t d m => mk c 0xA1 ((bit w ++ bit fl).setWidth 4) (opdField d) (opdField m.base) (optField m.index) (mt t) m.aux
  | .lmarkEmpty c a b => mk c 0xA2 0 (a := opdField a) (b := opdField b)
  | .lmarkFull c a b => mk c 0xA2 1 (a := opdField a) (b := opdField b)
  | .lmarkQ c d a => mk c 0xA2 2 (opdField d) (opdField a)
  | .tdesc c h a => mk c 0xA7 0 (opdField h) (opdField a)
  | .cpyLoad c sc t l d a b => mk c 0xA3 0 (opdField d) (opdField a) (opdField b) (ms sc) (auxNeg t l)
  | .cpyBstack c sc t l d a b => mk c 0xA3 1 (opdField d) (opdField a) (opdField b) (ms sc) (auxNeg t l)
  | .cpyStore c sc t d a b => mk c 0xA3 2 (opdField d) (opdField a) (opdField b) (ms sc) (auxNeg t)
  | .cpyg c sc pool comp d a b => mk c 0xA4 0 (opdField d) (opdField a) (opdField b) (ms sc) ((comp ++ pool).setWidth 16)
  | .cpys c sc d a b => mk c 0xA5 0 (opdField d) (opdField a) (opdField b) (ms sc)
  | .cpyqStat c d a => mk c 0xA6 0 (opdField d) (opdField a)
  | .cpyqCancel c a => mk c 0xA6 1 (a := opdField a)
  | .sleept c a => mk c 0xA8 0 (a := opdField a)
  | .sleeptP c d a b => mk c 0xA8 1 (opdField d) (opdField a) (opdField b)
  | .sleeptT c a b => mk c 0xA8 2 (a := opdField a) (b := opdField b)
  | .barinit c a b => mk c 0xC0 0 (a := opdField a) (b := opdField b)
  | .barinitInval c a => mk c 0xC0 1 (a := opdField a)
  | .bararr c ln sc d a => mk c 0xC1 (if ln then 1 else 0) (optField d) (opdField a) (md := ms sc)
  | .barexp c ar sc d a b => mk c 0xC2 (if ar then 1 else 0) (optField d) (opdField a) (opdField b) (ms sc)
  | .barwait c sc d a b => mk c 0xC3 0 (opdField d) (opdField a) (opdField b) (ms sc)
  | .evarm c n a => mk c 0xC4 0 (a := opdField a) (aux := n.setWidth 16)
  | .evarmOne c n a => mk c 0xC4 1 (a := opdField a) (aux := aux3 n)
  | .evmask c a => mk c 0xC5 0 (a := opdField a)
  | .evmaskOr c a => mk c 0xC5 1 (a := opdField a)
  | .evmaskAndn c a => mk c 0xC5 2 (a := opdField a)
  | .evclr c a => mk c 0xC6 0 (a := opdField a)
  | .evclrDisarm c a => mk c 0xC6 1 (a := opdField a)
  | .waitany c => mk c 0xC7 0
  | .mbxinit c d a b => mk c 0xC8 0 (opdField d) (opdField a) (opdField b)
  | .mbxinitFree c a => mk c 0xC8 1 (a := opdField a)
  | .mbxsend c sc d a b => mk c 0xC9 0 (opdField d) (opdField a) (opdField b) (ms sc)
  | .mbxsendSt c sc d a b => mk c 0xC9 1 (opdField d) (opdField a) (opdField b) (ms sc)
  | .mbxpop c sc n d a => mk c 0xCA 0 (opdField d) (opdField a) (md := ms sc) (aux := aux3 n)
  | .rdesc c d a => mk c 0xD0 0 (opdField d) (opdField a)
  | .rfree c a => mk c 0xD1 0 (a := opdField a)
  | .rdemand c r a h => mk c 0xD2 0 (a := opdField a) (b := opdField h) (aux := aux3 (roomCode r))
  | .rdemandWait c r d a h => mk c 0xD2 1 (opdField d) (opdField a) (opdField h) (aux := aux3 (roomCode r))
  | .rleave c h => mk c 0xD3 0 (a := opdField h)
  | .rld c t d m => mk c 0xD4 0 (opdField d) (opdField m.base) (optField m.index) (mt t) m.aux
  | .rst c t d m => mk c 0xD5 0 (opdField d) (opdField m.base) (optField m.index) (mt t) m.aux
  | .racc c op t d m => mk c 0xD6 (redOpCode op) (opdField d) (opdField m.base) (optField m.index) (mt t) m.aux
  | .rpush c t d a h => mk c 0xD7 0 (opdField d) (opdField a) (opdField h) (mt t)
  | .rpop c t n d h => mk c 0xD8 0 (opdField d) (opdField h) (md := mt t) (aux := aux3 n)
  | .rquery c d h => mk c 0xD9 0 (opdField d) (opdField h)
  | .rqueryR c d a => mk c 0xD9 1 (opdField d) (opdField a)
  | .jset c d a => mk c 0xE0 0 (opdField d) (opdField a)
  | .jsetQ c d a => mk c 0xE0 1 (opdField d) (opdField a)
  | .mma c t ha hb j hA hB z a b => mk c 0xE1 ((bit hb ++ bit ha).setWidth 4) (opdField z) (opdField a) (opdField b) (mmaTyCode t ++ (0 : BitVec 3)) ((hB ++ hA ++ j).setWidth 16)
  | .mfenceOp c => mk c 0xE2 0
  | .zclr c z a => mk c 0xE3 0 (opdField z) (opdField a)
  | .zld c h d z b => mk c 0xE4 0 (opdField d) (opdField z) (opdField b) (mt (if h.isSome then .f64 else .f32)) ((bit (h.getD false)).setWidth 16)
  | .zst c h d z b => mk c 0xE5 0 (opdField d) (opdField z) (opdField b) (mt (if h.isSome then .f64 else .f32)) ((bit (h.getD false)).setWidth 16)
  | .bload c d a b => mk c 0xE6 0 (opdField d) (opdField a) (opdField b)
  | .qhist c t z a => mk c 0xE7 0 (opdField z) (opdField a) (md := mt t)
  | .qhistRows c z a b => mk c 0xE7 1 (opdField z) (opdField a) (opdField b)
  | .qhistClr c z => mk c 0xE7 2 (opdField z)
  | .qscale c t6 d z b => mk c 0xE8 0 (opdField d) (opdField z) (opdField b) (mt (if t6 then .t6 else .t8))
  | .qpack c t6 p d z => mk c 0xE9 0 (opdField d) (opdField z) (md := mt (if t6 then .t6 else .t8)) (aux := p.setWidth 16)
  | .qpackE c t6 d z b => mk c 0xE9 1 (opdField d) (opdField z) (opdField b) (mt (if t6 then .t6 else .t8))
  | .gfire c d a => mk c 0xF0 0 (optField d) (opdField a)
  | .gfireEnd c => mk c 0xF0 1
  | .gtoken c d a b => mk c 0xF1 0 (optField d) (opdField a) (opdField b)
  | .gfail c a => mk c 0xF2 0 (a := opdField a)
  | .garg c d a => mk c 0xF3 0 (opdField d) (opdField a)
  | .gargAddr c d => mk c 0xF3 1 (opdField d)
  | .gargIndex c d => mk c 0xF3 2 (opdField d)
  | .gstat c d a => mk c 0xF4 0 (opdField d) (opdField a)
  | .gstatG c d a => mk c 0xF4 1 (opdField d) (opdField a)
  | .gstatD c d => mk c 0xF4 2 (opdField d)
  | .trap c a => mk c 0xF6 0 (a := opdField a)
  | .trapRd c d a => mk c 0xF6 1 (opdField d) (opdField a)
  | .rte c => mk c 0xF7 0
  | .rteNext c => mk c 0xF7 1
  | .rteAt c a => mk c 0xF7 2 (a := opdField a)
  | .rteFail c => mk c 0xF7 3
  | .yieldExpire | .streamFetchDone | .specialFunctionDone | .cstoreComplete | .memoryReply | .parkTableRetry
  | .loadParkTimeout | .frespResolve | .frespDeny | .pushArrive | .pushAck | .releaseComplete | .revokeArrive
  | .revokeAck | .redirectionArrive | .writebackArrive | .writebackAck | .recall | .clusterEvict | .l1Evict
  | .kernelBoundary | .atomicApply | .lineFillWake | .copyAccept | .copyChunkLand | .copyDone | .copyLate
  | .copyStop | .sleepWake | .timerExpire | .mbxAppend | .mbxReply | .demandArrive | .demandRetry
  | .leaveArrive | .publicationComplete | .grantArrive | .drainOverdue | .probeSend | .probeAtWellhead
  | .probeAtWarp | .refusalArrive | .mmaComplete | .raisedCopyStop | .inlineFireRetest | .graphLaunch
  | .nodeDispatch | .nodeComplete | .nodeFail | .nodeWorkStopped | .groupPlacement | .warpRetire
  | .groupRetire | .warpUrgent | .fatalRecord | .eviction | .warpResume | .groupStateSave | .postedWrite
  | .hostRead | .hostSnoop | .bisnp | .bisnpResponse | .hostWriteback | .reset | .resetKillTimeout
  | .resetComplete | .ptroot | .invaddr | .invalidationComplete | .launch | .fqhead | .tqhead | .fatalxClear
  | .preempt | .collOpen | .registerWrite | .msixUnmask | .bucketRefill | .eccCorrected | .eccUncorrectable
  | .errorWindowExpire | .retrain | .trainingEnd | .flitReceive | .linkDown | .downevClear | .collContribute
  | .embxRequest | .collEnd | .collAbort | .powerOn | .supplyStable | .romStage | .verify | .memoryStage
  | .ready | .bootimg | .attreq | .attestationDone | .limitSample | .clockStepChange | .shutdown
  | .hostLinkReset | .supplyLoss | .acquireComplete | .tileWordComplete | .functionLevelReset
  | .virtualFunctionEnable => mk ⟨0, 0⟩ 0xFF 0

/-- The word of an instruction (R58). -/
def Instr.encode (i : Instr) : IWord := wordOf i.fields

end Sys2Proof
end

