-- ==== Sys2Proof/Machine/Map.lean ====
section
/-! DEFINITION. Finite maps with Nat keys as lists in one canonical form: keys strictly rising. Memory, register files and tables all use it. -/

namespace Sys2Proof.Machine

/-- A finite map: pairs of key and value, keys strictly rising. -/
abbrev Map (α : Type) := List (Nat × α)

/-- The value at a key. -/
def mapGet {α : Type} : Map α → Nat → Option α
  | [], _ => none
  | (k, v) :: m, i => if i = k then some v else mapGet m i

/-- The value at a key, or the value that an unlisted key reads as. -/
def mapGetD {α : Type} (m : Map α) (i : Nat) (d : α) : α := (mapGet m i).getD d

/-- Sets the value at a key. -/
def mapSet {α : Type} : Map α → Nat → α → Map α
  | [], i, x => [(i, x)]
  | (k, v) :: m, i, x =>
    if i < k then (i, x) :: (k, v) :: m
    else if i = k then (i, x) :: m
    else (k, v) :: mapSet m i x

/-- Removes a key. -/
def mapErase {α : Type} : Map α → Nat → Map α
  | [], _ => []
  | (k, v) :: m, i => if i = k then mapErase m i else (k, v) :: mapErase m i

/-- Sets the value at a key of a map whose unlisted keys read as `d`: no entry holds `d`. -/
def mapPut {α : Type} [DecidableEq α] (d : α) (m : Map α) (i : Nat) (x : α) : Map α :=
  if x = d then mapErase m i else mapSet m i x

/-- Changes the value at a key that is listed. -/
def mapUpd {α : Type} (m : Map α) (i : Nat) (f : α → α) : Map α :=
  match mapGet m i with
  | none => m
  | some x => mapSet m i (f x)

/-- Every key of the map is above `b`. -/
def mapAbove {α : Type} (b : Nat) : Map α → Bool
  | [] => true
  | (k, _) :: m => b < k && mapAbove b m

/-- The canonical form: keys strictly rising. -/
def mapWf {α : Type} : Map α → Bool
  | [] => true
  | (k, _) :: m => mapAbove k m && mapWf m

/-- The values of a map, in ascending key. -/
def mapVals {α : Type} (m : Map α) : List α := m.map (·.2)

/-- Keeps the entries that satisfy `p`. -/
def mapFilter {α : Type} (m : Map α) (p : Nat → α → Bool) : Map α := m.filter fun e => p e.1 e.2

/-- Changes every value. -/
def mapAll {α : Type} (m : Map α) (f : Nat → α → α) : Map α := m.map fun e => (e.1, f e.1 e.2)

/-- The first key from `i` on, below `i + n`, that is not listed. -/
def mapFree {α : Type} (m : Map α) (i : Nat) : Nat → Option Nat
  | 0 => none
  | n + 1 => if (mapGet m i).isNone then some i else mapFree m (i + 1) n

end Sys2Proof.Machine
end

