-- ==== Sys2Proof/Machine/State.lean ====
section
/-! DEFINITION. The state of the device as plain data: warps, groups, launches, memory and caches, engines, tenant interfaces, bring-up. Keys of maps are Nat; their meaning stands at each field. -/

namespace Sys2Proof.Machine

/-- A demand ticket (R319): GTIME at acceptance, slice, sequence; compared in that order. -/
structure Ticket where
  time : Nat
  slice : Nat
  seq : Nat
  deriving DecidableEq, Repr

/-- A crossed-wait probe (R326, R342). `via` is the demand through which it travels. -/
structure Probe where
  originSlice : Nat
  originEntry : Nat
  round : Nat
  hops : Nat
  youngest : Option Ticket
  via : Option Ticket
  deriving DecidableEq, Repr

/-- A sample of the limits of R438: supply in millivolts, power in watts, hottest die and HBM stack in degrees, with the number of the die and of the stack. -/
structure LimitSample where
  supplyMv : Nat
  powerW : Nat
  dieC : Nat
  die : Nat
  hbmC : Nat
  stack : Nat
  deriving DecidableEq, Repr

/-! ### Warps and threads -/

/-- A register as the hazard rules name it (R111, R112). -/
inductive Reg where
  | v (n : Nat)
  | k (n : Nat)
  | p (n : Nat)
  | lpart
  deriving DecidableEq, Repr

/-- R112: results of a fixed-latency word that are readable from main clock `ready` on. -/
structure Haz where
  reg : Reg
  lanes : Lanes
  ready : Nat
  deriving DecidableEq, Repr

/-- What a waiting thread waits for (R103, R406). -/
inductive Wait where
  /-- R103: until this main clock; not a blocking point. -/
  | yield (clock : Nat)
  /-- R307. -/
  | anyEvent
  /-- R304: line index, phase, scope, predicate. -/
  | barrier (line phase : Nat) (scope : Scope) (d : Nat)
  /-- R304: the phase passed; the acquire of BARWAIT is being made by this operation. -/
  | barAcquire (op : Nat)
  /-- R237: GTIME, line address, FN 1's predicate, FN 2. -/
  | sleep (time : Nat) (line : Option Nat) (d : Option Nat) (late : Bool)
  /-- R334: hold slot, predicate. -/
  | room (slot d : Nat)
  /-- R386: a FUNC GFIRE that found its queue full, with its operation. -/
  | fire (op : Nat)
  /-- R413: a CSTORE holds its set until it is complete, a GFIRE until its address is walked; not a blocking point. -/
  | held (op : Nat)
  deriving DecidableEq, Repr

/-- R85: the condition of a thread. -/
inductive Cond where
  | ready
  | stopped (mask : Lanes)
  | waiting (w : Wait)
  | ended
  deriving DecidableEq, Repr

/-- One thread (R85). `sub` is 0 outside handlers, else the number of its parked sub-warp (R396). -/
structure Thread where
  pc : DWord := 0
  cond : Cond := .ready
  sub : Nat := 0
  /-- The step at which it became ready at its address (R87). -/
  since : Nat := 0
  evid : Word := 0
  trapinfo : Word := 0
  /-- F0 to F7 (R398); missing words are zero. -/
  frame : List Word := []
  /-- R263: the largest fill stamp of a value that a load of the thread has returned. -/
  fill : Option Nat := none
  deriving DecidableEq, Repr

/-- One element fetched for a load stream (R119, R120): its value, or the cause and address of its trap. -/
structure Elem where
  val : Word := 0
  fault : Option (Nat × Nat) := none
  deriving DecidableEq, Repr

/-- A bound stream register (R117 to R122). -/
structure Stream where
  store : Bool := false
  /-- The twelve K registers read by SBIND (R118). -/
  walk : List Word := []
  /-- AUX[11:0]: the predicates for E0 to E3. -/
  flags : BitVec 12 := 0
  /-- Groups popped or pushed. -/
  pos : Nat := 0
  queue : Bool := false
  /-- The model's number of the binding; older bindings are smaller. -/
  bind : Nat := 0
  /-- Groups fetched and not yet popped, the next one first. -/
  groups : List (List Elem) := []
  /-- A fetch is under way. -/
  fetching : Bool := false
  deriving DecidableEq, Repr

/-- R121: an element write of a store stream that failed: binding, lane, cause, address. -/
structure PushFail where
  bind : Nat
  lane : Nat
  cause : Nat
  addr : Nat
  deriving DecidableEq, Repr

/-- R318: the state of a hold slot. -/
inductive HoldSt where
  | free | pending | held | refused
  deriving DecidableEq, Repr

/-- A hold slot (R318). -/
structure Hold where
  st : HoldSt := .free
  mode : Room := .read
  handle : Word := 0
  /-- The number of the visit among the warp's visits (R323). -/
  visit : Nat := 0
  /-- R313: when to send a demand that was refused for want of an entry again. -/
  retry : Option Nat := none
  /-- R334: the set that demanded, and the address of its word. -/
  lanes : Lanes := 0
  pc : DWord := 0
  deriving DecidableEq, Repr

/-- R323: a partial of this warp for a word: slot, visit, physical address, value. -/
structure Partial where
  slot : Nat
  visit : Nat
  addr : Nat
  val : BitVec 64
  deriving DecidableEq, Repr

/-- R297: an armed entry of the event list. -/
structure EvEntry where
  typ : Nat
  repeats : Bool
  hoff : Nat
  object : Nat
  arg : Nat
  /-- R299: its line was invalidated, or its ring freed. -/
  gone : Bool := false
  /-- R298: the time of a TIMER has arrived. -/
  rung : Bool := false
  deriving DecidableEq, Repr

/-- R386: an inline frame. -/
structure Frame where
  graph : Nat
  node : Nat
  ret : DWord
  /-- The GFIRE that made it: it completes when the frame is popped. -/
  op : Nat
  marked : Bool := false
  deriving DecidableEq, Repr

/-- R395: a latched asynchronous trap. -/
structure Async where
  cause : Nat
  detail : Nat
  addr : Nat
  aux1 : Word := 0
  aux2 : Word := 0
  f6 : Word := 0
  f7 : Word := 0
  /-- The copy it comes from (R227, R353). -/
  copy : Option Nat := none
  deriving DecidableEq, Repr

/-- R74: the first word of a pair has issued; the partner issues next, for these lanes of this sub-warp, in the same clock. -/
structure PairOpen where
  lanes : Lanes
  pc : DWord
  sub : Nat
  deriving DecidableEq, Repr

/-- One warp. -/
structure Warp where
  launch : Nat := 0
  group : Nat := 0
  iface : Nat := 0
  /-- WARPID and the global warp number (R96). -/
  num : Nat := 0
  gnum : Nat := 0
  core : Nat := 0
  part : Nat := 0
  /-- The slot within the core, 0 to 63 (R82). -/
  slot : Nat := 0
  /-- R407. -/
  context : Nat := 0
  /-- False while evicted (R408). -/
  resident : Bool := true
  /-- R84: it has retired; its record stays until its group retires. -/
  retired : Bool := false
  threads : List Thread := []
  /-- V registers, key 32 n + lane. -/
  v : Map Word := []
  /-- P0 to P6, key n, bit t for lane t. -/
  preds : Map Lanes := []
  /-- CF0 to CF11, key n. -/
  cf : Map Nat := []
  /-- R109: decrements of the current main clock, which the issue conditions see from the next one on; key n. -/
  drops : Map Nat := []
  streams : Map Stream := []
  pushFails : List PushFail := []
  holds : Map Hold := []
  visits : Nat := 0
  partials : List Partial := []
  lpart : Nat := 32
  /-- R175: values written by LPARTSET that are not in force yet, with the main clock from which they are; oldest first. -/
  lpartNext : List (Nat × Nat) := []
  evp : BitVec 16 := 0
  evm : BitVec 16 := 0
  evh : Word := 0
  /-- Armed entries, key 0 to 7. -/
  events : Map EvEntry := []
  gdepth : Nat := 8
  frames : List Frame := []
  /-- STATUS without CORE and PART (R97). -/
  status : Word := 0
  /-- R160: sticky flags of fixed-latency words, with the main clock at which the word completes. -/
  flagsNext : List (Nat × Word) := []
  /-- Latched asynchronous traps, oldest first. -/
  latched : List Async := []
  haz : List Haz := []
  /-- The main clock of the last issue (R71), none before the first. -/
  issued : Option Nat := none
  /-- R115: larger is younger. -/
  age : Nat := 0
  eligible : Option Nat := none
  urgent : Bool := false
  pair : Option PairOpen := none
  /-- The next sub-warp number. -/
  subs : Nat := 0
  /-- R380: retired at its next blocking point. -/
  stop : Bool := false
  /-- Sets resumed at a GRAPH handler after the stop (R380). -/
  graphSeen : Bool := false
  /-- R101: what the end of the last thread does has been done. -/
  endDone : Bool := false
  /-- R197: private words that the warp has stored to (virtual address / 4), with the levels at which it has made a release since: 0 none, else one more than the level. -/
  privStored : Map Nat := []
  deriving DecidableEq, Repr

/-! ### Groups and launches -/

/-- R124: an unordered write of a K register: other warps may still read the old value. `seq` is `State.next` at the write: the words of the writer that issued earlier have smaller numbers. -/
structure KPend where
  k : Nat
  old : Word
  warp : Nat
  seq : Nat
  deriving DecidableEq, Repr

/-- R232: an unordered TDESC: other warps may still see the old descriptor. -/
structure DescPend where
  slot : Nat
  old : Option (List Word)
  warp : Nat
  seq : Nat
  deriving DecidableEq, Repr

/-- R209, R210: the marks of a scratchpad line. -/
structure Line where
  full : Bool := true
  bar : Bool := false
  /-- R298: a barrier in the line has been invalidated, and none was made since; a ring whose header it held has been freed, likewise. -/
  inval : Bool := false
  freed : Bool := false
  deriving DecidableEq, Repr

/-- R349: the operation of a signature. -/
structure MmaOp where
  ty : MmaTy
  ha : Bool
  hb : Bool
  aux : BitVec 14
  z : Nat
  a : Word
  b : Word
  boxA : List Word
  boxB : List Word
  descA : Option (List Word)
  descB : Option (List Word)
  deriving DecidableEq, Repr

/-- R348: a convergence register with the recorded operation and its signatures (warp, operation number). -/
structure JReg where
  size : Nat := 0
  signed : Nat := 0
  core : Nat := 0
  op : Option MmaOp := none
  signers : List (Nat × Nat) := []
  deriving DecidableEq, Repr

/-- R358: an unordered JSET. -/
structure JPend where
  j : Nat
  old : JReg
  warp : Nat
  seq : Nat
  deriving DecidableEq, Repr

/-- R355: the last write of a byte, and who knows that it can be fetched. -/
structure Unf where
  warp : Nat
  op : Nat
  copy : Option Nat := none
  /-- An MFENCE.OP of the writer, or the completion of the BLOAD or copy, has followed. -/
  fenced : Bool := false
  /-- The warps for which that has happened before their next word. -/
  known : List Nat := []
  /-- Barrier lines, with the phase, at which such a warp has arrived. -/
  lines : List (Nat × Nat) := []
  /-- J registers of which a signer of the current round is such a warp. -/
  vouch : List Nat := []
  deriving DecidableEq, Repr

/-- One group. `half` is 0 or 1: the core of the pair (R93). -/
structure Group where
  launch : Nat := 0
  iface : Nat := 0
  index : Nat := 0
  cores : List Nat := []
  /-- The placement tag on each core (R308). -/
  tags : List Nat := []
  k : Map Word := []
  kPend : List KPend := []
  j : Map JReg := []
  jPend : List JPend := []
  /-- Scratchpad bytes, key half * 2^20 + address; unlisted is zero. -/
  scratch : Map Byte := []
  /-- Marks, key half * 2^13 + line; unlisted is full and no barrier. -/
  lines : Map Line := []
  /-- Tile words, key ((half * 24 + z) * 128 + row) * 128 + column. -/
  tiles : Map Word := []
  /-- Histogram bins, key (half * 24 + z) * 256 + bin. -/
  hist : Map Nat := []
  /-- B-stack bytes, key half * 2^21 + offset; unlisted is undefined (R343). -/
  bstack : Map Byte := []
  /-- Descriptors, key 0 to 31 (R222). -/
  desc : Map (List Word) := []
  descPend : List DescPend := []
  /-- R409: the shared state is saved and the allotments are freed. -/
  saved : Bool := false
  /-- R355: scratchpad and B-stack bytes with a write that an operand fetch may not see: key as `unfKey`. -/
  unfenced : Map Unf := []
  deriving DecidableEq, Repr

/-- A parsed launch record (R89). -/
structure Record where
  codeBase : DWord := 0
  codeLen : Nat := 0
  constN : Nat := 0
  argN : Nat := 0
  levelN : Nat := 0
  levels : List Word := []
  vregs : Nat := 0
  acc : Nat := 0
  scratch : Nat := 0
  bstack : Nat := 0
  groups : Nat := 0
  /-- Reserved bits of the record that are not zero (R91 check 4). -/
  reserved : Bool := false
  trapvec : List Word := []
  argTypes : List (BitVec 4) := []
  consts : List Word := []
  deriving DecidableEq, Repr

/-- A launch that was accepted (R91). -/
structure Launch where
  iface : Nat := 0
  record : Record := {}
  count : Nat := 0
  ps : Nat := 0
  pb : Nat := 0
  /-- R443. -/
  seq : Nat := 0
  /-- The graph node that made it. -/
  node : Option (Nat × Nat) := none
  /-- R375: its node is a FUNC. -/
  func : Bool := false
  /-- The byte offset at which threads start (R375). -/
  entry : Nat := 0
  /-- K registers at placement. -/
  kinit : Map Word := []
  /-- R61: the code as it stood when the kernel began to run, from CODEBASE on; a byte that could not be read then is none. -/
  code : List (Option Byte) := []
  /-- R311: the cores on which each group stands, or stood last; key the group's index. -/
  homes : Map (List Nat) := []
  /-- Groups placed. -/
  placed : Nat := 0
  retired : Nat := 0
  /-- R380, R400: no further group is placed. -/
  cancelled : Bool := false
  /-- R400: the cause number and the address of the unrecoverable record. -/
  aborted : Option Nat := none
  abortRec : Option Nat := none
  /-- R258: the boundary has begun; pushes to be acknowledged, largest stamp. -/
  ending : Bool := false
  pushes : Nat := 0
  stamp : Nat := 0
  deriving DecidableEq, Repr

/-! ### Copies -/

inductive CopyKind where
  | load (t : Bool) (layout : Nat)
  | bstack (t : Bool) (layout : Nat)
  | store (t : Bool)
  | gather (pool comp : Nat)
  | scatter
  /-- A COPY node (R375): source, destination, length. -/
  | node (src dst len : Nat)
  deriving DecidableEq, Repr

/-- R235: the states of a copy. -/
inductive CopySt where
  | queued | running | suspended | stopped | done | cancelled
  deriving DecidableEq, Repr

structure Copy where
  kind : CopyKind
  core : Nat := 0
  slot : Nat := 0
  id : Nat := 0
  group : Nat := 0
  half : Nat := 0
  warp : Nat := 0
  iface : Nat := 0
  pc : DWord := 0
  scope : Scope := .device
  desc : List Word := []
  desc2 : List Word := []
  box : List Word := []
  promise : Nat := 0
  lateSent : Bool := false
  st : CopySt := .queued
  cause : Nat := 0
  filled : Bool := false
  cursor : Nat := 0
  /-- Bytes of the output stream (R216); the bytes that its arrival credits in full (R218, R236). -/
  bytes : Nat := 0
  credit : Nat := 0
  /-- CPYS: the memory bytes written so far, by address. -/
  wrote : List Nat := []
  /-- R214: bytes of the scratchpad that another write made undefined for it: first byte, length. -/
  spoiled : List (Nat × Nat) := []
  /-- R214: the scratchpad bytes of a store or scatter that have been written to memory: each with the physical address. -/
  landed : List (Nat × Nat) := []
  /-- R233: the memory bytes of which it writes a part of the bits: each with its value at its acceptance, and those bits. -/
  edges : List (Nat × Byte × Byte) := []
  /-- R353: the warps that signed the operation that raised it. -/
  signers : List Nat := []
  /-- R228: the first byte of the cursor chunk has landed. -/
  begun : Bool := false
  /-- R202, R217: acknowledgements of its pushes that are outstanding, and the largest stamp. -/
  acks : Nat := 0
  stamp : Option Nat := none
  bar : Option Nat := none
  /-- R353: the array operation that raised it. -/
  raised : Bool := false
  node : Option (Nat × Nat) := none
  deriving DecidableEq, Repr

/-- R221: a copy slot of a core. -/
structure CopySlot where
  gen : Nat := 0
  copy : Option Nat := none
  /-- When it was freed, in the core's order of freeing. -/
  freed : Nat := 0
  deriving DecidableEq, Repr

/-! ### Memory operations -/

/-- A memory request of a lane: a run of bytes in one page (R191, R195, R203). -/
inductive PartSt where
  | ok
  /-- R193: parked under this entry of the quadrant's table. -/
  | parked (entry : Nat)
  /-- R192: to be walked, again after a refusal for want of an entry, at this time. -/
  | retry (time : Nat)
  /-- R193: walked again after a RESOLVE; replays of one span keep this order. -/
  | replay (order : Nat)
  /-- R191: an error response; the cause. -/
  | failed (cause : Nat)
  /-- Performed. -/
  | done
  deriving DecidableEq, Repr

structure Part where
  lane : Nat
  /-- The first byte of the lane's value that this part holds. -/
  off : Nat := 0
  va : Nat
  pa : Nat := 0
  n : Nat
  /-- R187: ORD, IMMUTABLE, OLACT of the page. -/
  ord : Nat := 0
  imm : Bool := false
  olact : Nat := 0
  /-- A private access (R197). -/
  priv : Bool := false
  val : BitVec 128 := 0
  cmp : BitVec 128 := 0
  got : BitVec 128 := 0
  st : PartSt := .ok
  deriving DecidableEq, Repr

/-- How far an operation has gone. -/
inductive Phase where
  /-- Waits to be performed. -/
  | ready
  /-- R192 to R194: holds a parked part longer than 4,096 ticks (a blocking point). -/
  | longPark
  /-- R262: its release part has pushed; waits for acknowledgements and for R248. -/
  | releasing
  /-- R242: waits for a redirected read. -/
  | redirected
  /-- Performed; its own word is being pushed (R202, R248). -/
  | publishing
  /-- R263: the acquire part waits to act. -/
  | acquiring
  /-- R213: waits for empty lines. -/
  | lines
  /-- Waits for another unit's answer. -/
  | asked
  deriving DecidableEq, Repr

/-- R115: a first issue has left the second issue of its partition open. -/
structure SecondOpen where
  core : Nat
  part : Nat
  /-- The warp that issued, and the pairing class of its word (R77). -/
  warp : Nat
  cls : Nat
  deriving DecidableEq, Repr

/-- What an operation stands for. -/
inductive OpKind where
  | word (i : Instr)
  /-- A fetch of a group of a load stream (R120). -/
  | fetch (stream bind : Nat)
  /-- The element writes of one push (R121). -/
  | push (bind size : Nat)
  /-- A parked instruction fetch (R60). -/
  | code
  deriving DecidableEq, Repr

/-- A word, or a stream's access, that has issued and is not complete (R110). -/
structure Op where
  warp : Nat
  /-- The core it issued on. -/
  core : Nat := 0
  kind : OpKind
  lanes : Lanes
  pc : DWord := 0
  cf : Option Nat := none
  scope : Scope := .thread
  parts : List Part := []
  phase : Phase := .ready
  /-- Operand values taken at issue: per word of the entry. -/
  args : List Nat := []
  /-- The registers it reads and writes (R111). -/
  reads : List Reg := []
  writes : List Reg := []
  /-- R111: the lanes for which another word wrote a register that it reads. -/
  poison : Lanes := 0
  /-- R111: registers another word also writes. -/
  clobber : List (Reg × Lanes) := []
  /-- Acknowledgements or forwarded values outstanding, and the largest acknowledgement stamp (R248). -/
  acks : Nat := 0
  stamp : Option Nat := none
  /-- R267: a FENCE or an acquire held it in the memory port. -/
  held : Bool := false
  /-- GTIME at which it parked (R194). -/
  parkedAt : Nat := 0
  /-- R262: a release part has been made. -/
  released : Bool := false
  /-- The copy that a copy word asks for (R233, R234). -/
  copy : Option Copy := none
  deriving DecidableEq, Repr

/-- R192, R193: an entry of a quadrant's parked-fault table. -/
structure Park where
  iface : Nat
  page : Nat
  /-- The 256-byte line, and the address of the access that parked. -/
  line : Nat := 0
  va : Nat := 0
  access : Nat
  /-- R193: the order of parking. -/
  order : Nat := 0
  /-- What is parked: operation, copy, engine request. -/
  op : Option Nat := none
  copy : Option Nat := none
  engine : Option Nat := none
  deriving DecidableEq, Repr

/-- R240: the modifier tag of a word (slot and context number), the warp that they name, and what the translation of the access gave. `time` is the step of the access. -/
structure Tag where
  slot : Nat := 0
  context : Nat := 0
  iface : Nat := 0
  warp : Nat := 0
  va : Nat := 0
  olact : Nat := 0
  time : Nat := 0
  deriving DecidableEq, Repr

/-- A word of an L1 (R238). `priv` is 0, or 1 + 32 * warp + lane for a private word (R197). -/
structure L1Word where
  data : Word
  dirty : Bool
  imm : Bool := false
  uo : Bool := false
  priv : Nat := 0
  tag : Tag := {}
  /-- The fill stamp it came with (R263). -/
  stamp : Nat := 0
  deriving DecidableEq, Repr

/-- R238: the state of a cluster-cache word. -/
inductive CcSt where
  | valid (stamp : Nat)
  | dirty
  | core (n : Nat)
  deriving DecidableEq, Repr

structure CcWord where
  data : Word
  st : CcSt
  imm : Bool := false
  uo : Bool := false
  tag : Tag := {}
  deriving DecidableEq, Repr

/-- R246: a write-back buffer word, with the number of its write-back. -/
structure WbWord where
  id : Nat
  word : CcWord
  deriving DecidableEq, Repr

/-- R190: a cached leaf translation. -/
structure TlbEntry where
  /-- The cache that holds it: a core, or 160 and the quadrant. -/
  unit : Nat
  iface : Nat
  /-- First page number (4 KiB) and how many. -/
  page : Nat
  count : Nat
  entry : DWord
  deriving DecidableEq, Repr

/-! ### Matrix array -/

/-- R356: the tile words that a tile word writes: a whole tile, or a row of a tile (or of an FP64 pair) in the columns of some lanes (R361). -/
inductive Area where
  | tile (z : Nat)
  | row (z row : Nat) (half : Option Bool) (lanes : Lanes)
  deriving DecidableEq, Repr

/-- R352 to R354: an issued operation. -/
structure ArrayOp where
  group : Nat
  half : Nat
  core : Nat
  op : MmaOp
  /-- The number of the signature that issued it. -/
  id : Nat
  /-- The signatures: warp and operation number. -/
  signers : List (Nat × Nat)
  /-- The warp whose signature issued it, and that signature's address. -/
  warp : Nat
  pc : DWord := 0
  /-- R354: it has a place in the queue. -/
  issued : Bool := false
  copyA : Option Nat := none
  copyB : Option Nat := none
  /-- Raised copies that still wait for a slot. -/
  wantA : Bool := false
  wantB : Bool := false
  /-- R214, R355: fetched bytes that are undefined: B-stack or scratchpad, first byte, length. -/
  bad : List (Bool × Nat × Nat) := []
  /-- R356: what tile words that were not ordered with it write. -/
  mixed : List Area := []
  deriving DecidableEq, Repr

/-! ### Regions -/

inductive RoomSt where
  | idle | opened | drain | close
  deriving DecidableEq, Repr

structure Demand where
  ticket : Ticket
  warp : Nat
  slot : Nat
  visit : Nat
  mode : Room
  /-- When its last probe was sent, or when it was accepted (R326). -/
  probed : Nat
  deriving DecidableEq, Repr

structure Occupant where
  warp : Nat
  slot : Nat
  visit : Nat
  context : Nat
  deriving DecidableEq, Repr

/-- R323: a partial kept at the wellhead with its merge key (launch sequence, global warp number, visit). -/
structure KeyedPartial where
  seq : Nat
  gnum : Nat
  visit : Nat
  addr : Nat
  val : BitVec 64
  deriving DecidableEq, Repr

/-- A region entry of a wellhead (R313 to R330). -/
structure Region where
  live : Bool := false
  gen : Nat := 0
  iface : Nat := 0
  base : Nat := 0
  size : Nat := 0
  /-- The physical runs of its bytes, in order, as RDESC's walks gave them (R315). -/
  spans : List (Nat × Nat) := []
  perm : BitVec 5 := 0
  /-- Capacities by mode code. -/
  caps : List Nat := []
  accTy : Ty := .u32
  accOp : RedOp := .add
  /-- Bytes of a ring element. -/
  elsize : Nat := 4
  count : Nat := 0
  drain : Nat := 0
  st : RoomSt := .idle
  mode : Room := .read
  occupants : List Occupant := []
  queue : List Demand := []
  head : Word := 0
  tail : Word := 0
  timer : Option Nat := none
  overdue : Bool := false
  partials : List KeyedPartial := []
  /-- Probes sent; the rounds that have already refused (R326). -/
  rounds : Nat := 0
  refusedRounds : List Nat := []
  deriving DecidableEq, Repr

/-! ### Graphs -/

inductive NodeSt where
  | waiting | ready | running | done | failed | cancelled | cancelling | retry
  deriving DecidableEq, Repr

structure Node where
  kind : Nat := 0
  prio : Nat := 0
  retries : Nat := 0
  need : Nat := 0
  held : Nat := 0
  code : Nat := 0
  cause : Nat := 0
  attempts : Nat := 0
  st : NodeSt := .waiting
  target : Nat := 0
  args : Nat := 0
  succ : List Nat := []
  /-- What carries it out: a launch, a copy, a child graph. -/
  launch : Option Nat := none
  copy : Option Nat := none
  child : Option Nat := none
  inlineWarp : Option Nat := none
  /-- A SIGNAL whose argument block has been read: its value, and VECTOR and IRQ. -/
  signal : Option (Nat × Nat) := none
  deriving DecidableEq, Repr

structure Graph where
  iface : Nat := 0
  hdr : Nat := 0
  irq : Bool := false
  vector : Nat := 0
  funcrec : Nat := 0
  cword : Nat := 0
  parent : Option (Nat × Nat) := none
  runs : Word := 0
  done : Nat := 0
  cancelled : Nat := 0
  failed : Nat := 0
  nodes : List Node := []
  /-- R427: it ends RESET. -/
  resetting : Bool := false
  /-- R382: it has ended; what a warp of one of its nodes reads of it stays. -/
  ended : Bool := false
  /-- Its end has been written, and its slot is free. -/
  closed : Bool := false
  deriving DecidableEq, Repr

/-! ### Tenant interfaces and the physical function -/

/-- R418, R421: an entry of an interface's MSI-X table: where its message goes, and what it carries. -/
structure MsixEntry where
  addr : DWord := 0
  data : Word := 0
  deriving DecidableEq, Repr

/-- R425: an MSI-X message that has been sent. -/
structure MsixMsg where
  iface : Nat
  vector : Nat
  entry : MsixEntry
  deriving DecidableEq, Repr

/-- R375: a dispatched KERNEL or FUNC node, with its launch once that is accepted. -/
structure Place where
  graph : Nat
  node : Nat
  launch : Option Nat := none
  deriving DecidableEq, Repr

structure Iface where
  policy : Word := 0
  resetting : Bool := false
  ptroot : DWord := 0
  invaddr : DWord := 0
  invbusy : Bool := false
  /-- R190: the invalidations that are not complete. -/
  invs : List DWord := []
  fqbase : DWord := 0
  fqsize : Word := 0
  fqhead : Nat := 0
  fqtail : Nat := 0
  fqsump : Bool := false
  tqbase : DWord := 0
  tqsize : Word := 0
  tqhead : Nat := 0
  tqtail : Nat := 0
  tqsump : Bool := false
  olcount : Word := 0
  drops : Word := 0
  fatalx : Word := 0
  qslice : Word := 0
  qhbm : Word := 0
  qcopy : Word := 0
  qcore : Word := 0
  /-- Bucket tokens (R426). -/
  tokSlice : Nat := 0
  tokHbm : Nat := 0
  tokCopy : Nat := 0
  /-- R443. -/
  seq : Word := 0
  /-- R405: it runs no launch until reset. -/
  stopped : Bool := false
  /-- Queued graph launches (R373): header address, and the SUBGRAPH node that asks. -/
  launchq : List (Nat × Option (Nat × Nat)) := []
  /-- Ready queues by priority 0 to 3: (graph, node), the head first. -/
  ready : List (List (Nat × Nat)) := [[], [], [], []]
  /-- R375: the KERNEL and FUNC nodes dispatched, in that order: each holds back the placements behind it until it is placed. -/
  places : List Place := []
  /-- MSI-X: the table, key the vector; masked vectors and pending bits (R421, R425). -/
  vectors : Map MsixEntry := []
  masked : DWord := 0xFFFFFFFFFFFFFFFF
  pending : DWord := 0
  /-- Sequence number of the next posted write (R274). -/
  posted : Nat := 0
  /-- R427: when the remaining warps are killed. -/
  killAt : Option Nat := none
  preempt : Bool := false
  deriving DecidableEq, Repr

/-- R429: a peer link. -/
structure Link where
  up : Bool := false
  training : Bool := false
  downev : Bool := false
  rank : Nat := 0
  retries : Nat := 0
  seq : Nat := 0
  /-- Flits delivered in order. -/
  flits : Nat := 0
  deriving DecidableEq, Repr

/-- R430, R431: an open or ended collective. -/
structure Coll where
  iface : Nat := 0
  desc : Nat := 0
  ncont : Nat := 0
  ty : Nat := 0
  op : Nat := 0
  embx : Bool := false
  rank : Nat := 0
  ndev : Nat := 0
  count : Nat := 0
  /-- The physical address of the arrival word. -/
  arrive : Nat := 0
  src : Nat := 0
  dst : Nat := 0
  links : BitVec 16 := 0
  /-- The links with the ranks of their peers at the open (R429). -/
  routes : List (Nat × Nat) := []
  table : Nat := 0
  /-- EMBX, or the fold of the local contributions, has been sent. -/
  sent : Bool := false
  /-- Bits of the arrival word reported to the engine. -/
  bits : DWord := 0
  merged : Nat := 0
  acc : List Nat := []
  /-- R431: a contribution was changed after it was made: the result is undefined. -/
  spoiled : Bool := false
  st : Nat := 0
  cause : Nat := 0
  deriving DecidableEq, Repr

/-- R428: the corrected errors of a unit in the window, and whether they have reached its threshold. -/
structure ErrCount where
  cls : Nat
  number : Nat
  count : Nat
  lasting : Bool := false
  deriving DecidableEq, Repr

/-- Physical function, bring-up, limits (R428 to R441). -/
structure Sys where
  stage : Nat := 1
  error : Nat := 0
  detail : Nat := 0
  /-- BOOTSTAT as it stays readable after a shutdown (R439). -/
  kept : Option (Nat × Nat × Nat) := none
  bootimg : Word := 0
  /-- R435: the bytes of the staging window, by offset; unlisted is zero. -/
  staging : Map Byte := []
  attreq : DWord := 0
  attbusy : Bool := false
  clkstep : Nat := 0
  gband : Nat := 8
  fusedMin : Nat := 0
  /-- The header of the running firmware. -/
  firmware : List Byte := []
  errwin : Word := 30
  thresholds : Word := 0x10200810
  counts : List ErrCount := []
  windowEnd : Nat := 0
  /-- R428: retired units (class, number); cores that are retired at the next end of a graph. -/
  retired : List (Nat × Nat) := []
  retiring : List Nat := []
  /-- HBM rows that have been copied to spare rows. -/
  sparesUsed : Nat := 0
  /-- R433: the HBM stacks are trained and cleared. -/
  trained : Bool := false
  /-- R438: the samples of the current 1 ms window, and the power samples of the current 10 ms window. -/
  window : List LimitSample := []
  powers : List Nat := []
  /-- The sum of the power samples of the last full 10 ms window. -/
  lastPower : Nat := 0
  links : Map Link := []
  vfs : Nat := 0
  /-- The cause of a shutdown still stands above its release level (R439). -/
  above : Bool := false
  deriving DecidableEq, Repr

/-! ### Messages -/

/-- What a step of the rest of the device, or of its host, is given: the message of each step that is no word. -/
inductive Msg where
  | yieldExpire (warp : Nat) (lanes : Lanes)
  | streamFetchDone (warp stream : Nat)
  | specialFunctionDone (op : Nat)
  | cstoreComplete (op : Nat)
  | memoryReply (op : Nat)
  | parkTableRetry (op : Nat)
  | loadParkTimeout (op : Nat)
  | frespResolve (iface quad entry : Nat)
  | frespDeny (iface quad entry : Nat)
  /-- `push` is the number of the push, in `State.pushOut`. -/
  | pushArrive (cluster core sector : Nat) (mask : BitVec 16) (push : Nat)
  | pushAck (push stamp : Nat)
  | releaseComplete (op : Nat)
  | revokeArrive (cluster pusher sector : Nat) (mask : BitVec 16) (push : Nat)
  | revokeAck (sector : Nat) (mask : BitVec 16) (push : Nat)
  | redirectionArrive (cluster word op : Nat)
  | writebackArrive (cluster sector : Nat) (mask : BitVec 16) (id : Nat)
  | writebackAck (cluster sector : Nat) (stored : BitVec 16) (id stamp : Nat)
  | recall (sector : Nat) (mask : BitVec 16)
  | clusterEvict (cluster sector : Nat) (mask : BitVec 16)
  | l1Evict (core sector : Nat) (mask : BitVec 16)
  | kernelBoundary (launch : Nat)
  | atomicApply (op : Nat)
  | lineFillWake (group half line : Nat)
  | copyAccept (op : Nat)
  | copyChunkLand (copy : Nat)
  | copyDone (copy : Nat)
  | copyLate (copy : Nat)
  | copyStop (copy cause addr : Nat)
  | sleepWake (warp : Nat) (lanes : Lanes)
  | timerExpire (warp entry : Nat)
  | mbxAppend (op lane : Nat)
  | mbxReply (op lane status : Nat)
  | demandArrive (warp slot visit handle : Nat) (mode : Room)
  | demandRetry (warp slot : Nat)
  | leaveArrive (warp slot visit handle : Nat)
  | publicationComplete (slice entry : Nat)
  | grantArrive (warp slot visit : Nat)
  | drainOverdue (slice entry : Nat)
  | probeSend (slice entry : Nat) (ticket : Ticket)
  | probeAtWellhead (slice entry : Nat) (p : Probe)
  | probeAtWarp (warp : Nat) (p : Probe)
  | refusalArrive (slice entry : Nat) (ticket : Ticket)
  | mmaComplete (core : Nat)
  | raisedCopyStop (copy cause addr : Nat)
  | inlineFireRetest (warp : Nat)
  /-- `again`: it has its slot, and its reads were parked. -/
  | graphLaunch (iface addr : Nat) (parent : Option (Nat × Nat)) (again : Bool)
  /-- The next ready node, or a dispatched one that goes on: graph, node, its ATTEMPTS then. -/
  | nodeDispatch (iface : Nat) (node : Option (Nat × Nat × Nat))
  | nodeComplete (graph node : Nat)
  | nodeFail (graph node cause code : Nat)
  | nodeWorkStopped (graph node : Nat)
  | groupPlacement (launch : Nat) (cores : List Nat)
  | warpRetire (warp : Nat)
  | groupRetire (group : Nat)
  | warpUrgent (warp : Nat)
  | fatalRecord (iface kind : Nat)
  | eviction (warp : Nat)
  | warpResume (warp : Nat) (core : Nat)
  | groupStateSave (group : Nat)
  | postedWrite (iface addr : Nat) (data : List Byte)
  /-- `cached`: CXL.mem grants the host a cacheable copy. -/
  | hostRead (iface addr size : Nat) (cached : Bool)
  | hostSnoop (line : Nat)
  | bisnp (line : Nat)
  | bisnpResponse (line : Nat)
  | hostWriteback (line : Nat) (data : List Byte)
  | reset (iface : Nat)
  | resetKillTimeout (iface : Nat)
  | resetComplete (iface : Nat)
  | ptroot (iface : Nat) (v : DWord)
  | invaddr (iface : Nat) (v : DWord)
  | invalidationComplete (iface : Nat)
  | launch (iface : Nat) (v : DWord)
  | fqhead (iface : Nat) (v : Word)
  | tqhead (iface : Nat) (v : Word)
  | fatalxClear (iface : Nat)
  | preempt (iface : Nat)
  | collOpen (iface : Nat) (v : DWord)
  | registerWrite (iface off : Nat) (wide : Bool) (v : DWord)
  | msixUnmask (iface vector : Nat)
  /-- R421: the host programs an entry of the MSI-X table, or masks one. -/
  | msixEntry (iface vector : Nat) (e : MsixEntry)
  | msixMask (iface vector : Nat)
  | bucketRefill
  | eccCorrected (cls number : Nat)
  | eccUncorrectable (cls number addr : Nat) (op : Option Nat)
  | errorWindowExpire
  | retrain (link : Nat)
  | trainingEnd (link : Nat) (ok : Bool)
  | flitReceive (link : Nat) (crcOk : Bool)
  | linkDown (link : Nat)
  | downevClear (link : Nat)
  | collContribute (handle bit : Nat)
  | embxRequest (handle rank : Nat) (rows : List Nat)
  /-- What the other devices sent, in ascending rank: their folds, or the rows that they gathered. -/
  | collEnd (handle : Nat) (parts : List (List Byte))
  | collAbort (handle cause : Nat)
  | powerOn
  | supplyStable
  | romStage (ok : Bool)
  | verify (image : List Byte)
  | memoryStage (failedStack : Option Nat)
  | ready
  | bootimg (length : Word)
  | attreq (addr : DWord)
  | attestationDone
  | limitSample (x : LimitSample)
  | clockStepChange (n : Nat)
  | shutdown (error detail : Nat)
  | hostLinkReset
  | supplyLoss
  | acquireComplete (op : Nat)
  | tileWordComplete (op : Nat)
  | functionLevelReset
  | virtualFunctionEnable (count : Nat)
  deriving DecidableEq, Repr

/-- The step that a message is delivered by. -/
def Msg.instr : Msg → Instr
  | .yieldExpire .. => .yieldExpire
  | .streamFetchDone .. => .streamFetchDone
  | .specialFunctionDone .. => .specialFunctionDone
  | .cstoreComplete .. => .cstoreComplete
  | .memoryReply .. => .memoryReply
  | .parkTableRetry .. => .parkTableRetry
  | .loadParkTimeout .. => .loadParkTimeout
  | .frespResolve .. => .frespResolve
  | .frespDeny .. => .frespDeny
  | .pushArrive .. => .pushArrive
  | .pushAck .. => .pushAck
  | .releaseComplete .. => .releaseComplete
  | .revokeArrive .. => .revokeArrive
  | .revokeAck .. => .revokeAck
  | .redirectionArrive .. => .redirectionArrive
  | .writebackArrive .. => .writebackArrive
  | .writebackAck .. => .writebackAck
  | .recall .. => .recall
  | .clusterEvict .. => .clusterEvict
  | .l1Evict .. => .l1Evict
  | .kernelBoundary .. => .kernelBoundary
  | .atomicApply .. => .atomicApply
  | .lineFillWake .. => .lineFillWake
  | .copyAccept .. => .copyAccept
  | .copyChunkLand .. => .copyChunkLand
  | .copyDone .. => .copyDone
  | .copyLate .. => .copyLate
  | .copyStop .. => .copyStop
  | .sleepWake .. => .sleepWake
  | .timerExpire .. => .timerExpire
  | .mbxAppend .. => .mbxAppend
  | .mbxReply .. => .mbxReply
  | .demandArrive .. => .demandArrive
  | .demandRetry .. => .demandRetry
  | .leaveArrive .. => .leaveArrive
  | .publicationComplete .. => .publicationComplete
  | .grantArrive .. => .grantArrive
  | .drainOverdue .. => .drainOverdue
  | .probeSend .. => .probeSend
  | .probeAtWellhead .. => .probeAtWellhead
  | .probeAtWarp .. => .probeAtWarp
  | .refusalArrive .. => .refusalArrive
  | .mmaComplete .. => .mmaComplete
  | .raisedCopyStop .. => .raisedCopyStop
  | .inlineFireRetest .. => .inlineFireRetest
  | .graphLaunch .. => .graphLaunch
  | .nodeDispatch .. => .nodeDispatch
  | .nodeComplete .. => .nodeComplete
  | .nodeFail .. => .nodeFail
  | .nodeWorkStopped .. => .nodeWorkStopped
  | .groupPlacement .. => .groupPlacement
  | .warpRetire .. => .warpRetire
  | .groupRetire .. => .groupRetire
  | .warpUrgent .. => .warpUrgent
  | .fatalRecord .. => .fatalRecord
  | .eviction .. => .eviction
  | .warpResume .. => .warpResume
  | .groupStateSave .. => .groupStateSave
  | .postedWrite .. => .postedWrite
  | .hostRead .. => .hostRead
  | .hostSnoop .. => .hostSnoop
  | .bisnp .. => .bisnp
  | .bisnpResponse .. => .bisnpResponse
  | .hostWriteback .. => .hostWriteback
  | .reset .. => .reset
  | .resetKillTimeout .. => .resetKillTimeout
  | .resetComplete .. => .resetComplete
  | .ptroot .. => .ptroot
  | .invaddr .. => .invaddr
  | .invalidationComplete .. => .invalidationComplete
  | .launch .. => .launch
  | .fqhead .. => .fqhead
  | .tqhead .. => .tqhead
  | .fatalxClear .. => .fatalxClear
  | .preempt .. => .preempt
  | .collOpen .. => .collOpen
  | .registerWrite .. => .registerWrite
  | .msixUnmask .. => .msixUnmask
  | .msixEntry .. => .registerWrite
  | .msixMask .. => .registerWrite
  | .bucketRefill => .bucketRefill
  | .eccCorrected .. => .eccCorrected
  | .eccUncorrectable .. => .eccUncorrectable
  | .errorWindowExpire => .errorWindowExpire
  | .retrain .. => .retrain
  | .trainingEnd .. => .trainingEnd
  | .flitReceive .. => .flitReceive
  | .linkDown .. => .linkDown
  | .downevClear .. => .downevClear
  | .collContribute .. => .collContribute
  | .embxRequest .. => .embxRequest
  | .collEnd .. => .collEnd
  | .collAbort .. => .collAbort
  | .powerOn => .powerOn
  | .supplyStable => .supplyStable
  | .romStage .. => .romStage
  | .verify .. => .verify
  | .memoryStage .. => .memoryStage
  | .ready => .ready
  | .bootimg .. => .bootimg
  | .attreq .. => .attreq
  | .attestationDone => .attestationDone
  | .limitSample .. => .limitSample
  | .clockStepChange .. => .clockStepChange
  | .shutdown .. => .shutdown
  | .hostLinkReset => .hostLinkReset
  | .supplyLoss => .supplyLoss
  | .acquireComplete .. => .acquireComplete
  | .tileWordComplete .. => .tileWordComplete
  | .functionLevelReset => .functionLevelReset
  | .virtualFunctionEnable .. => .virtualFunctionEnable


/-- A message in flight. Messages of one channel arrive in order (R243). -/
structure Flight where
  chan : Option Nat
  msg : Msg
  /-- The earliest GTIME at which it arrives. -/
  due : Nat := 0
  deriving DecidableEq, Repr

/-- R245, R246: a push or a write-back that is not acknowledged: its cluster, and what waits for its acknowledgement: words, copies, launches. -/
structure PushOut where
  cluster : Nat
  waiters : List Nat
  deriving DecidableEq, Repr

/-- R250: a push at its slice that waits for revokes. -/
structure PushWait where
  push : Nat
  sector : Nat
  left : Nat
  deriving DecidableEq, Repr

/-- A fault record that waits for room in its queue (R404). -/
structure RecWait where
  iface : Nat
  words : List Word
  deriving DecidableEq, Repr

/-- A launch or a node whose read is parked (R193), to be tried again. -/
structure EngineWait where
  iface : Nat
  msg : Msg
  page : Nat := 0
  denied : Bool := false
  deriving DecidableEq, Repr

/-! ### The device -/

structure State where
  /-- Main clock, GTIME (true time), and the number of the step. -/
  clock : Nat := 0
  gtime : Nat := 0
  tick : Nat := 0
  /-- R3, R440: time since the last tick of GTIME, in thirtieths of a nanosecond. -/
  frac : Nat := 0
  /-- R115: the partitions (core, partition) whose first choice of this main clock has issued. -/
  chosen : List (Nat × Nat) := []
  /-- MODEL: the counter behind free values (log 3). -/
  free : Nat := 0
  /-- MODEL: the next number for warps, groups, launches, operations, copies, graphs. -/
  next : Nat := 1
  /-- MODEL: the warp and lanes whose word this step issues. -/
  cur : Option (Nat × Lanes) := none
  /-- R74, R115: the warp whose partner word issues next; the second issue that is open. -/
  pairing : Option Nat := none
  second : Option SecondOpen := none
  /-- MODEL: the message this step delivers. -/
  msg : Option Msg := none
  /-- MODEL: messages in flight inside the device; inputs of the outside, in order. -/
  net : List Flight := []
  inbox : List Msg := []
  /-- MODEL: what has been sent to the outside: MSI-X messages, data of host reads. -/
  msix : List MsixMsg := []
  hostData : List (Nat × List Byte) := []
  /-- MODEL: what the engines have sent to peers: handle, link, bytes (R431). -/
  peerData : List (Nat × Nat × List Byte) := []
  warps : Map Warp := []
  groups : Map Group := []
  launches : Map Launch := []
  ops : Map Op := []
  /-- Physical memory at the slices and in HBM and host memory, by byte address; unlisted reads zero (R433). -/
  mem : List Host.Cell := []
  /-- R428: bytes with an error that cannot be corrected, which an engine's access or an instruction fetch will meet; a store to the byte removes it. -/
  errors : List Nat := []
  /-- L1 words, key core * 2^50 + physical address / 4. -/
  l1 : Map L1Word := []
  /-- Cluster-cache words, key cluster * 2^50 + physical address / 4. -/
  cc : Map CcWord := []
  wbuf : Map WbWord := []
  /-- The owner of a registered word: key physical address / 4; unlisted is Home (R238). -/
  owner : Map Nat := []
  /-- Pushes and write-backs that are not acknowledged, by number. -/
  pushOut : Map PushOut := []
  pushWaits : List PushWait := []
  /-- R240: the last modifying access of a sector in a cluster cache, key cluster * 2^50 + sector. -/
  sectorMod : Map Tag := []
  /-- R254: acquire stamps by core; R258: stale-before stamps by cluster. -/
  acquired : Map Nat := []
  staleBefore : Map Nat := []
  /-- R419: host-held HBM lines; host lines cached at slices, by the core that read them. -/
  hostHeld : List Nat := []
  hostLines : List (Nat × Nat) := []
  /-- R419: dirty host lines at slices, with the cluster that pushed them. -/
  hostDirty : List (Nat × Nat) := []
  bisnps : List Nat := []
  /-- R420: lines that the host has given up for a device access that is still to be performed. -/
  granted : List Nat := []
  tlb : List TlbEntry := []
  /-- Parked-fault entries, key quadrant * 8192 + entry. -/
  parks : Map Park := []
  /-- R192: cores that stall after a refused request, with the GTIME until which they do. -/
  stalls : Map Nat := []
  recWaits : List RecWait := []
  engineWaits : Map EngineWait := []
  copies : Map Copy := []
  copySlots : Map CopySlot := []
  freed : Nat := 0
  /-- R308: placement tags by core. -/
  tags : Map Nat := []
  /-- R199: carve-outs by core, in units of 128 KiB. -/
  carve : Map Nat := []
  /-- R354: queues of the matrix arrays by core. -/
  arrays : Map (List ArrayOp) := []
  /-- Region entries, key slice * 64 + entry; ticket sequence by slice. -/
  regions : Map Region := []
  tickets : Map Nat := []
  graphs : Map Graph := []
  ifaces : Map Iface := []
  colls : Map Coll := []
  /-- R426: GTIME of the last refill of the buckets. -/
  refill : Nat := 0
  sys : Sys := {}
  deriving DecidableEq, Repr

/-- Why the machine stops with a fault. -/
inductive Fault where
  /-- `exec` of a word without an issuing set in `State.cur`. `step` always sets one: safe. -/
  | noIssuer
  /-- `exec` of an event without its message in `State.msg`. `step` always sets it: safe. -/
  | noMessage
  deriving DecidableEq, Repr

/-- Why an instruction is refused. -/
inductive Refusal where
  /-- An arm of `exec` without a meaning: safe. -/
  | notModelled (mnemonic : String)
  deriving DecidableEq, Repr

namespace State

/-- Power-on (R433): stage 1, nothing running, memory with nothing listed, every register of the interfaces at its reset column. Values that the spec does not give: DESIGN CHOICE: log 4 (memory), DESIGN CHOICE: log 5 (stamps, tags, tokens, clocks), PRESUMED: log 6 (MSI-X masks). -/
def reset : State := {}

end State

end Sys2Proof.Machine
end

