-- ==== Sys2Proof/Machine/Cache.lean ====
section
/-! DEFINITION. Memory words at their levels (R238 to R258), time (R3, R104), and translation (R185 to R191). -/

namespace Sys2Proof.Machine

/-! ### Time -/

/-- R3: a counter within three ticks of true time; `k` is its skew before it is brought within the bound. DEDUCED: log 8. -/
def skewed (g k : Nat) : Nat := g + k % 7 - 3

/-- The GTIME that a core reads. -/
def coreTime (s : State) (core : Nat) : Nat := skewed s.gtime (Config.coreSkew core)

/-- The GTIME of a slice, which its wellhead and its atomic units use. -/
def sliceTime (s : State) (slice : Nat) : Nat := skewed s.gtime (Config.sliceSkew slice)

/-- R442: the home slice of a physical address. DEDUCED: log 12. -/
def homeSlice (pa : Nat) : Nat := Config.homeSlice (pa / 256) % Config.slices

/-- R3: the cluster of a core. -/
def clusterOf (core : Nat) : Nat := core / 4

/-- R1: the quadrant of a core. -/
def quadOf (core : Nat) : Nat := core / 40

/-- R185: a physical address that exists. -/
def physOk (pa : Nat) : Bool := pa < Config.hbmTop || (Config.hostBase ≤ pa && pa < 2 ^ 52)

/-- R185: host memory. -/
def isHost (pa : Nat) : Bool := Config.hostBase ≤ pa

/-! ### Bytes and words at the slices -/

/-- One byte as the slices, HBM and host memory hold it; nothing written reads zero (R433). DESIGN CHOICE: log 4. -/
def memByte (s : State) (a : Nat) : Byte := mapGetD s.mem a 0

/-- R428: an error that cannot be corrected stands in `n` bytes from an address. -/
def hasError (s : State) (pa n : Nat) : Bool := s.errors.any fun e => pa ≤ e && e < pa + n

/-- The canonical form of the memory list. -/
def Memory.wf (m : List Host.Cell) : Bool := mapWf m && m.all fun c => c.2 != 0

/-- Writes one byte, keeping the canonical form. -/
def setMemByte (s : State) (a : Nat) (b : Byte) : State := { s with mem := mapPut 0 s.mem a b, errors := s.errors.filter (· != a) }

/-- Word `w` (bytes 4w to 4w + 3, little-endian) at its slice. -/
def memWord (s : State) (w : Nat) : Word :=
  memByte s (4 * w + 3) ++ memByte s (4 * w + 2) ++ memByte s (4 * w + 1) ++ memByte s (4 * w)

def setMemWord (s : State) (w : Nat) (x : Word) : State :=
  setMemByte (setMemByte (setMemByte (setMemByte s (4 * w) (x.extractLsb' 0 8)) (4 * w + 1) (x.extractLsb' 8 8))
    (4 * w + 2) (x.extractLsb' 16 8)) (4 * w + 3) (x.extractLsb' 24 8)

/-- The key of a word in an L1 or a cluster cache. -/
def cacheKey (unit w : Nat) : Nat := unit * 2 ^ 50 + w
/-- The words of one unit's cache. -/
def ofUnit (unit key : Nat) : Bool := key / 2 ^ 50 == unit
def wordOfKey (key : Nat) : Nat := key % 2 ^ 50

/-- R238, R246: what cluster c holds as its own: registered, dirty, or in the write-back buffer. -/
def clusterHolds (s : State) (c w : Nat) : Option CcWord :=
  match mapGet s.cc (cacheKey c w) with
  | some x => match x.st with
    | .valid _ => (mapGet s.wbuf (cacheKey c w)).map (·.word)
    | _ => some x
  | none => (mapGet s.wbuf (cacheKey c w)).map (·.word)

/-- R241, R242: the value that a read at the slice returns, forwarded to a registered owner, with its fill stamp. -/
def homeRead (s : State) (w : Nat) : Word × Nat :=
  match mapGet s.owner w with
  | none => (memWord s w, sliceTime s (homeSlice (4 * w)))
  | some c => match clusterHolds s c w with
    | some x => (x.data, coreTime s (4 * c))
    | none => (memWord s w, sliceTime s (homeSlice (4 * w)))

/-- A byte as a DEVICE-scope read sees it. -/
def devByte (s : State) (a : Nat) : Byte := (homeRead s (a / 4)).1.extractLsb' (8 * (a % 4)) 8

/-- `n` bytes from `a`, the lowest address first. -/
def devBytes (s : State) (a n : Nat) : List Byte := (List.range n).map fun i => devByte s (a + i)

/-- Little-endian value of bytes. -/
def leVal : List Byte → Nat
  | [] => 0
  | b :: bs => b.toNat + 256 * leVal bs

/-- The `n` little-endian bytes of a value. -/
def leBytes (x n : Nat) : List Byte := (List.range n).map fun i => BitVec.ofNat 8 (x / 256 ^ i)

def devNat (s : State) (a n : Nat) : Nat := leVal (devBytes s a n)

/-- R419, R420: the slice modifies the line of an address: the host holds no copy of it from then on; the step in which that happens waits until the host has given the line up (`allowed`). DEDUCED: log 37. -/
def takeLine (s : State) (a : Nat) : State :=
  { s with hostHeld := s.hostHeld.filter (· != a / 64), granted := s.granted.filter (· != a / 64) }

/-- R247: a recall: the owner returns its value and drops it; the word becomes Home. L1 words stay. -/
def recallWord (s : State) (w : Nat) : State :=
  match mapGet s.owner w with
  | none => s
  | some c =>
    let s1 := match clusterHolds s c w with
      | some x => setMemWord (takeLine s (4 * w)) w x.data
      | none => s
    let keep (x : CcWord) : Bool := match x.st with
      | .valid _ => true
      | _ => false
    let s2 := match mapGet s1.cc (cacheKey c w) with
      | some x => if keep x then s1 else { s1 with cc := mapErase s1.cc (cacheKey c w) }
      | none => s1
    { s2 with owner := mapErase s2.owner w, wbuf := mapErase s2.wbuf (cacheKey c w) }

/-- A store of bytes performed at the slices: registered words are recalled first. -/
def devWrite : State → Nat → List Byte → State
  | s, _, [] => s
  | s, a, b :: bs => devWrite (setMemByte (recallWord (takeLine s a) (a / 4)) a b) (a + 1) bs

def devWriteNat (s : State) (a n x : Nat) : State := devWrite s a (leBytes x n)

/-! ### Scopes -/

/-- R259: the level at which a scope is realised: 0 the L1, 1 the cluster cache, 2 the home slice. `two`: the group spans two cores. -/
def scopeLevel (two : Bool) : Scope → Nat
  | .thread | .warp => 0
  | .group => if two then 1 else 0
  | .cluster => 1
  | .device | .tenant | .system => 2

/-! ### Reads of a core (R241, R254, R255) -/

/-- R255, R258: a cluster-cache copy with this fill stamp is a miss for a read of this core. -/
def stale (s : State) (core stamp : Nat) (imm : Bool) : Bool :=
  (!imm && stamp + s.sys.gband < mapGetD s.acquired core 0)
    || stamp < mapGetD s.staleBefore (clusterOf core) 0

/-- R238, R246: what a core's cluster holds of a word as its own, whatever the slice records: it serves every scope. -/
def ownWord (s : State) (core w : Nat) : Option CcWord := clusterHolds s (clusterOf core) w

/-- R241: the L1 serves a read at a level. -/
def nearServes (s : State) (core lvl w : Nat) : Bool :=
  match mapGet s.l1 (cacheKey core w) with
  | some x => x.dirty || lvl == 0
  | none => false

/-- R241: the L1 holds it D, or the cluster cache serves a read at a level. -/
def midServes (s : State) (core lvl w : Nat) (imm : Bool) : Bool :=
  nearServes s core 1 w || (ownWord s core w).isSome || match mapGet s.cc (cacheKey (clusterOf core) w) with
    | some c => match c.st with
      | .valid st => lvl ≤ 1 && !stale s core st imm
      | _ => true
    | none => false

/-- R201, R241: the one level that serves the words of an access which the core or its cluster does not hold as its own: the first that serves them all, so that the access reads all its bytes as one. DEDUCED: log 96. -/
def readLevel (s : State) (core lvl : Nat) (ws : List Nat) (imm : Bool) : Nat :=
  if ws.all (nearServes s core lvl) then 0 else if ws.all fun w => midServes s core lvl w imm then 1 else 2

/-- R241: a word read from level `k` or from an own copy nearer, with its fill stamp (0 from a dirty or registered copy) and the copies that the read leaves. -/
def readFrom (s : State) (core k w : Nat) (imm uo : Bool) : State × Word × Nat :=
  let k1 := cacheKey core w
  let k2 := cacheKey (clusterOf core) w
  let fill (s : State) (x : Word) (st : Nat) : State :=
    { s with l1 := mapSet s.l1 k1 { data := x, dirty := false, imm := imm, uo := uo, stamp := st } }
  let slice : State × Word × Nat :=
    let (x, st) := homeRead s w
    let s1 := if isHost (4 * w) then { s with hostLines := (core, w / 16) :: s.hostLines.filter (· != (core, w / 16)) } else s
    (fill { s1 with cc := mapSet s1.cc k2 { data := x, st := .valid st, imm := imm, uo := uo } } x st, x, st)
  let cluster : State × Word × Nat :=
    match ownWord s core w, mapGet s.cc k2 with
    | some c, _ => (fill s c.data 0, c.data, 0)
    | none, some c => match c.st with
      | .valid st => if k ≤ 1 then (fill s c.data st, c.data, st) else slice
      | _ => slice
    | none, none => slice
  match mapGet s.l1 k1 with
  | some x => if x.dirty then (s, x.data, 0) else if k = 0 then (s, x.data, x.stamp) else cluster
  | none => cluster

/-- R241: a word read by a core at the level of a scope. -/
def readWord (s : State) (core lvl w : Nat) (imm uo : Bool) : State × Word × Nat :=
  readFrom s core (readLevel s core lvl [w] imm) w imm uo

/-- The slice forwards a read of this word, from level `k`, to another cluster (R242): no nearer level serves it. -/
def forwards (s : State) (core k w : Nat) : Option Nat :=
  if k < 2 || nearServes s core 1 w || (ownWord s core w).isSome then none else mapGet s.owner w

/-- R239: replaces bytes of a word: byte i of `x` where bit i of the mask is set. -/
def mergeWord (old x : Word) (mask : Nat) : Word :=
  let b (i : Nat) : BitVec 8 := if mask.testBit i then x.extractLsb' (8 * i) 8 else old.extractLsb' (8 * i) 8
  b 3 ++ b 2 ++ b 1 ++ b 0

/-- R201, R239: a store to a word leaves it D in the L1; a part of a word is filled first. -/
def writeL1 (s : State) (core lvl w : Nat) (x : Word) (mask : Nat) (imm uo : Bool) (priv : Nat) (tag : Tag) : State :=
  let (s1, old) := if mask = 15 then (s, (0 : Word)) else match mapGet s.l1 (cacheKey core w) with
    | some y => (s, y.data)
    | none => let r := readWord s core lvl w imm uo; (r.1, r.2.1)
  { s1 with l1 := mapSet s1.l1 (cacheKey core w) { data := mergeWord old x mask, dirty := true, imm := imm, uo := uo, priv := priv, tag := tag } }

/-- A byte of memory becomes undefined wherever it is held. -/
def openByteAt (s : State) (pa : Nat) (b : Byte) : State :=
  let put (x : Word) : Word := mergeWord x (BitVec.ofNat 32 (b.toNat * 2 ^ (8 * (pa % 4)))) (2 ^ (pa % 4))
  { setMemByte s pa b with
    l1 := mapAll s.l1 fun k x => if wordOfKey k = pa / 4 then { x with data := put x.data } else x
    cc := mapAll s.cc fun k x => if wordOfKey k = pa / 4 then { x with data := put x.data } else x
    wbuf := mapAll s.wbuf fun k x => if wordOfKey k = pa / 4 then { x with word := { x.word with data := put x.word.data } } else x }

/-! ### Pushes (R244) -/

/-- R238: the cluster cache holds the word as its own. -/
def ccOwns (s : State) (c w : Nat) : Bool :=
  match mapGet s.cc (cacheKey c w) with
  | some x => match x.st with
    | .valid _ => false
    | _ => true
  | none => false

/-- R240: a modifying access reaches a sector of a cluster cache: the sector records the last one of the words that it holds. -/
def noteSector (s : State) (c w : Nat) (t : Tag) : State :=
  let k := cacheKey c (w / 16)
  let newer : Bool := match mapGet s.sectorMod k with
    | some r => r.time ≤ t.time || !((List.range 16).any fun i => ccOwns s c (w / 16 * 16 + i))
    | none => true
  if newer then { s with sectorMod := mapSet s.sectorMod k t } else s

/-- A D word of an L1 goes to the cluster cache as Reg-cluster-dirty; the L1 keeps it V. -/
def pushToCluster (s : State) (core w : Nat) : State :=
  match mapGet s.l1 (cacheKey core w) with
  | some x =>
    if x.dirty then
      let s := noteSector s (clusterOf core) w x.tag
      { s with
        l1 := mapSet s.l1 (cacheKey core w) { x with dirty := false }
        cc := mapSet s.cc (cacheKey (clusterOf core) w) { data := x.data, st := .dirty, imm := x.imm, uo := x.uo, tag := x.tag } }
    else s
  | none => s

/-- A word goes up to the device: Reg-core(n) in the cluster cache; a word of host memory is performed at the slice (R419). -/
def pushToDevice (s : State) (core w : Nat) : State :=
  let s := pushToCluster s core w
  let k := cacheKey (clusterOf core) w
  match mapGet s.cc k with
  | some x =>
    if isHost (4 * w) then
      setMemWord { s with
        cc := mapSet s.cc k { x with st := .valid (sliceTime s (homeSlice (4 * w))) }
        hostDirty := (clusterOf core, w / 16) :: s.hostDirty.filter (· != (clusterOf core, w / 16)) } w x.data
    else { s with cc := mapSet s.cc k { x with st := .core core } }
  | none => s

/-- The D words of a core's L1; UO words only where `uo`. -/
def l1Dirty (s : State) (core : Nat) (uo : Bool) : List Nat :=
  (s.l1.filter fun e => ofUnit core e.1 && e.2.dirty && (uo || !e.2.uo)).map fun e => wordOfKey e.1

/-- The Reg-cluster-dirty words of a cluster cache. -/
def ccDirty (s : State) (c : Nat) (uo : Bool) : List Nat :=
  (s.cc.filter fun e => ofUnit c e.1 && e.2.st == .dirty && (uo || !e.2.uo)).map fun e => wordOfKey e.1

/-- R239: words gathered into sectors (64 bytes) with their masks. -/
def sectorsOf (ws : List Nat) : List (Nat × BitVec 16) :=
  mapAll (ws.foldl (fun (m : Map (BitVec 16)) w =>
    mapSet m (w / 16) (mapGetD m (w / 16) 0 ||| BitVec.twoPow 16 (w % 16))) []) fun _ x => x

/-- The words of a sector under a mask. -/
def sectorWords (sector : Nat) (mask : BitVec 16) : List Nat :=
  ((List.range 16).filter fun i => mask.getLsbD i).map fun i => 16 * sector + i

/-- A message that takes at least a number of ticks. -/
def sendAfter (s : State) (ticks : Nat) (chan : Option Nat) (m : Msg) : State :=
  { s with net := s.net ++ [⟨chan, m, s.gtime + ticks⟩] }

def send (s : State) (chan : Option Nat) (m : Msg) : State := { s with net := s.net ++ [⟨chan, m, 0⟩] }

/-- R243: the channel from one sender to one receiver of the probe and request networks. -/
def chanOf (sender receiver : Nat) : Option Nat := some (sender * 2 ^ 64 + receiver)

/-- The reports about one node reach the graph engine in the order in which they were made. -/
def nodeChan (g n : Nat) : Option Nat := some (2 ^ 200 + g * 2 ^ 24 + n)

/-- The later of an optional stamp and a stamp. -/
def laterStamp (a : Option Nat) (b : Nat) : Option Nat := some (max (a.getD 0) b)

/-- What pushes leave to wait for: the state, the acknowledgements outstanding, and the largest stamp of what has been performed at once. -/
abbrev Pushed := State × Nat × Option Nat

/-- R244: pushes words to their slices: of HBM by a message for each sector, which `op` waits for; words of host memory have been performed there (R419). -/
def sendPushes (s : State) (core op : Nat) (ws : List Nat) : Pushed :=
  let secs := sectorsOf (ws.filter fun w => !isHost (4 * w))
  let host := ws.filter fun w => isHost (4 * w)
  (secs.foldl (fun s x =>
      let s1 := send s (chanOf (clusterOf core) (64 + homeSlice (64 * x.1))) (.pushArrive (clusterOf core) core x.1 x.2 s.next)
      { s1 with pushOut := mapSet s1.pushOut s.next ⟨clusterOf core, [op]⟩, next := s.next + 1 }) s,
   secs.length, host.foldl (fun a w => laterStamp a (sliceTime s (homeSlice (4 * w)))) none)

/-- R272, R244: a release also waits for the pushes and write-backs of its cluster that are not acknowledged yet: they may be of words that its thread has observed. DEDUCED: log 97. -/
def joinPushes (s : State) (core op : Nat) : State × Nat :=
  ({ s with pushOut := mapAll s.pushOut fun _ p => if p.cluster = clusterOf core then { p with waiters := op :: p.waiters } else p },
   (s.pushOut.filter fun e => e.2.cluster == clusterOf core).length)

/-- R244: the pushes of a release by a core at a level. -/
def releasePush (s : State) (core lvl op : Nat) (uo : Bool) : Pushed :=
  if lvl = 0 then (s, 0, none)
  else if lvl = 1 then ((l1Dirty s core uo).foldl (fun s w => pushToCluster s core w) s, 0, none)
  else
    let ws := (l1Dirty s core uo ++ ccDirty s (clusterOf core) uo).dedup
    let (s1, k) := joinPushes s core op
    let (s2, n, st) := sendPushes (ws.foldl (fun s w => pushToDevice s core w) s1) core op ws
    (s2, k + n, st)

/-- R244, R201: the push of an access's own words at its level. -/
def ownPush (s : State) (core lvl op : Nat) (ws : List Nat) : Pushed :=
  if lvl = 0 then (s, 0, none)
  else if lvl = 1 then (ws.foldl (fun s w => pushToCluster s core w) s, 0, none)
  else sendPushes (ws.foldl (fun s w => pushToDevice s core w) s) core op ws

/-- R254: an acquire of a core at a level; UO words are dropped only where `uo` (R264). -/
def acquireAct (s : State) (core lvl : Nat) (uo : Bool) : State :=
  if lvl = 0 then s
  else
    let s1 := { s with l1 := mapFilter s.l1 fun k x => !ofUnit core k || x.dirty || x.imm || (x.uo && !uo) }
    if lvl = 1 then s1 else { s1 with acquired := mapSet s1.acquired core (coreTime s1 core) }

/-- R419: a SYSTEM release writes every dirty host line of its cluster's pushes back to the host, and waits for the host's acknowledgements: how many. DEDUCED: log 37. -/
def cleanHostLines (s : State) (core op : Nat) : State × Nat :=
  let mine := s.hostDirty.filter fun x => x.1 == clusterOf core
  (mine.foldl (fun s x =>
      let s1 := send s none (.pushAck s.next (sliceTime s (homeSlice (64 * x.2))))
      { s1 with pushOut := mapSet s1.pushOut s.next ⟨clusterOf core, [op]⟩, next := s.next + 1 })
    { s with hostDirty := s.hostDirty.filter fun x => x.1 != clusterOf core }, mine.length)

/-- R419: a SYSTEM acquire drops the slice copies of host lines that the core has read. -/
def dropHostLines (s : State) (core : Nat) : State :=
  { s with hostLines := s.hostLines.filter fun x => x.1 != core }

/-! ### Translation (R186 to R191) -/

inductive Walk where
  | ok (pa : Nat) (entry : DWord) (page count : Nat)
  | fault
  | invalid
  deriving DecidableEq, Repr

def entryPfn (e : DWord) : Nat := (e.extractLsb' 12 40).toNat * 4096

/-- R188: what makes a leaf at this depth an invalid mapping. -/
def leafBad (e : DWord) (depth : Nat) : Bool :=
  e.extractLsb' 52 12 != 0 || e.getLsbD 11 || e.extractLsb' 5 2 == 3 || e.extractLsb' 9 2 == 3
    || depth == 3 || (e.getLsbD 7 && e.getLsbD 3)
    || entryPfn e % 2 ^ (12 + 9 * depth) != 0
    || !physOk (entryPfn e) || !physOk (entryPfn e + 2 ^ (12 + 9 * depth) - 1)

/-- R186: the walk from a table at a depth. -/
def walkFrom (s : State) (va : Nat) : Nat → Nat → Walk
  | depth, table =>
    if !physOk table then .invalid else
    let e : DWord := BitVec.ofNat 64 (devNat s (table + 8 * (va / 2 ^ (12 + 9 * depth) % 512)) 8)
    if !e.getLsbD 0 then .fault
    else if e.getLsbD 1 then
      if leafBad e depth then .invalid
      else
        let span := 2 ^ (12 + 9 * depth)
        .ok (entryPfn e + va % span) e (va / span * span / 4096) (span / 4096)
    else if e.extractLsb' 52 12 != 0 || e.extractLsb' 2 10 != 0 then .invalid
    else match depth with
      | 0 => .invalid
      | d + 1 => walkFrom s va d (entryPfn e)

/-- The interface's registers. -/
def getIface (s : State) (i : Nat) : Iface := mapGetD s.ifaces i {}
def setIface (s : State) (i : Nat) (x : Iface) : State := { s with ifaces := mapPut {} s.ifaces i x }
def updIface (s : State) (i : Nat) (f : Iface → Iface) : State := setIface s i (f (getIface s i))

/-- R190: what the translation caches of a core (or of quadrant `unit` - 160) hold for an address: each leaf as a walk. -/
def cachedWalks (s : State) (unit iface va : Nat) : List Walk :=
  (s.tlb.filter fun e => (e.unit == unit || (unit < 160 && e.unit == 160 + quadOf unit)) && e.iface == iface
      && e.page ≤ va / 4096 && va / 4096 < e.page + e.count).map fun e =>
    Walk.ok (entryPfn e.entry + va % (e.count * 4096)) e.entry e.page e.count

/-- R190: a walk, or a cached leaf of an earlier walk that no invalidation has dropped; which one, where they differ, is open, and the same for every byte of a page in one step. DEDUCED: log 33. -/
def translate (s : State) (unit iface va : Nat) : Walk :=
  let w := walkFrom s va 3 (getIface s iface).ptroot.toNat
  let ws := (w :: cachedWalks s unit iface va).eraseDups
  if ws.length = 1 then w else ws.getD (Config.pick (s.free + va / 4096) % ws.length) w

/-- R190: the leaf of a successful walk is cached in the core and in its quadrant. -/
def tlbFill (s : State) (unit iface : Nat) : Walk → State
  | .ok _ e page count =>
    let add (t : List TlbEntry) (u : Nat) : List TlbEntry := if t.contains ⟨u, iface, page, count, e⟩ then t else t ++ [⟨u, iface, page, count, e⟩]
    { s with tlb := if unit < 160 then add (add s.tlb unit) (160 + quadOf unit) else add s.tlb unit }
  | _ => s

/-- R186: the depth of the entry at which a walk from a table ends. -/
def walkDepth (s : State) (va : Nat) : Nat → Nat → Nat
  | 0, _ => 0
  | d + 1, table =>
    let e : DWord := BitVec.ofNat 64 (devNat s (table + 8 * (va / 2 ^ (12 + 9 * (d + 1)) % 512)) 8)
    if !physOk table || !e.getLsbD 0 || e.getLsbD 1 then d + 1 else walkDepth s va d (entryPfn e)

/-- R186, R206: the first byte of the page of an address: of the span of the leaf that its translation meets. -/
def pageStart (s : State) (unit iface va : Nat) : Nat :=
  match translate s unit iface va with
  | .ok _ _ p _ => p * 4096
  | .fault => va / 4096 * 4096
  | .invalid => va / 2 ^ (12 + 9 * walkDepth s va 3 (getIface s iface).ptroot.toNat) * 2 ^ (12 + 9 * walkDepth s va 3 (getIface s iface).ptroot.toNat)

/-- The permissions an access needs (R188). -/
structure Need where
  r : Bool := false
  w : Bool := false
  x : Bool := false
  deriving DecidableEq, Repr

def needOk (n : Need) (e : DWord) : Bool :=
  (!n.r || e.getLsbD 2) && (!n.w || e.getLsbD 3) && (!n.x || e.getLsbD 4)

/-- R393: cause numbers. -/
def causeIllegal : Nat := 0
def causeOperand : Nat := 1
def causeAccess : Nat := 2
def causeProtect : Nat := 3
def causeAlign : Nat := 4
def causeBarclobber : Nat := 5
def causeOverlap : Nat := 6
def causeLate : Nat := 7
def causeOwnerLost : Nat := 8
def causeDemote : Nat := 9
def causeCross : Nat := 10
def causeArith : Nat := 12
def causeSoftware : Nat := 13

/-- The outcome of steps 2 to 5 of R191 for bytes in one page. -/
inductive Check where
  | ok (pa : Nat) (entry : DWord) (walk : Walk)
  | park
  | trap (cause : Nat)
  deriving DecidableEq, Repr

/-- R191 steps 2 to 5, through the translation caches of a core or a quadrant. -/
def checkPage (s : State) (unit iface va : Nat) (need : Need) : Check :=
  if va ≥ 2 ^ 48 then .trap causeAccess
  else match translate s unit iface va with
    | .fault => .park
    | .invalid => .trap causeAccess
    | .ok pa e p c => if needOk need e then .ok pa e (.ok pa e p c) else .trap causeProtect

end Sys2Proof.Machine
end

