-- ==== Sys2Proof/Machine/Operands.lean ====
section
/-! DEFINITION. Operand forms (R33, R34, R62 to R66): lanes, reads of registers with the hazards of R111 and R112, immediates, memory operands; writes of registers; and which registers a word reads and writes. -/

namespace Sys2Proof.Machine

/-! ### Lanes, warps, groups -/

/-- The lanes of a set, ascending. -/
def laneList (m : Lanes) : List Nat := (List.range 32).filter fun t => m.getLsbD t

/-- The set of the lanes that satisfy `p`. -/
def laneSet (p : Nat → Bool) : Lanes :=
  (List.range 32).foldl (fun m t => if p t then m ||| BitVec.twoPow 32 t else m) 0

/-- The lowest lane of a set. -/
def lowLane (m : Lanes) : Nat := (laneList m).headD 0

/-- All 32 lanes. -/
def allLanes : Lanes := BitVec.allOnes 32

def getWarp (s : State) (w : Nat) : Warp := mapGetD s.warps w {}
def setWarp (s : State) (w : Nat) (x : Warp) : State := { s with warps := mapSet s.warps w x }
def updWarp (s : State) (w : Nat) (f : Warp → Warp) : State := setWarp s w (f (getWarp s w))
def getGroup (s : State) (g : Nat) : Group := mapGetD s.groups g {}
def setGroup (s : State) (g : Nat) (x : Group) : State := { s with groups := mapSet s.groups g x }
def updGroup (s : State) (g : Nat) (f : Group → Group) : State := setGroup s g (f (getGroup s g))
def getLaunch (s : State) (l : Nat) : Launch := mapGetD s.launches l {}
def setLaunch (s : State) (l : Nat) (x : Launch) : State := { s with launches := mapSet s.launches l x }
def updLaunch (s : State) (l : Nat) (f : Launch → Launch) : State := setLaunch s l (f (getLaunch s l))

/-- One thread of a warp. -/
def threadOf (x : Warp) (t : Nat) : Thread := x.threads.getD t {}

/-- Changes the threads of a set of lanes. -/
def updThreads (x : Warp) (m : Lanes) (f : Nat → Thread → Thread) : Warp :=
  { x with threads := x.threads.mapIdx fun t th => if m.getLsbD t then f t th else th }

/-- The lanes whose threads satisfy `p`. -/
def lanesWhere (x : Warp) (p : Thread → Bool) : Lanes := laneSet fun t => t < x.threads.length && p (threadOf x t)

/-- R93: the group spans two cores. -/
def groupTwo (s : State) (x : Warp) : Bool := (getGroup s x.group).cores.length == 2

/-- R93: the half of its group (0 or 1) that a warp belongs to: of two cores, core w mod 2. -/
def halfOf (s : State) (x : Warp) : Nat := if groupTwo s x then x.num % 2 else 0

/-- CODEBASE of a warp's launch. -/
def codeBase (s : State) (x : Warp) : DWord := (getLaunch s x.launch).record.codeBase

/-! ### Incomplete words -/

/-- R266, R265: the release part and the acquire part of a word; the third says whether UO pages are included. -/
def relAcq (o : Op) : Bool × Bool × Bool :=
  let q := o.scope != .thread
  match o.kind with
  | .word i => match i with
    | .fenceAr .. => (true, true, false)
    | .fenceRel .. => (true, false, false)
    | .fenceAcq .. => (false, true, false)
    | .fenceAll .. => (true, true, true)
    | .ld _ k .. => (false, q && (k == .qual || k == .qualB128), false)
    | .st _ k .. => (q && (k == .qual || k == .qualB128), false, false)
    | .atom _ _ t _ _ | .atomf _ _ t _ _ | .cas _ _ t _ _ =>
      (q && (t.qual == .rel || t.qual == .ar), q && (t.qual == .acq || t.qual == .ar), false)
    | .bararr .. | .barexp .. | .mbxsend .. | .mbxsendSt .. => (q, false, false)
    | .barwait .. | .mbxpop .. => (false, q, false)
    | _ => (false, false, false)
  | _ => (false, false, false)

def isFence : OpKind → Bool
  | .word i => match i with
    | .fenceAr .. | .fenceRel .. | .fenceAcq .. | .fenceAll .. => true
    | _ => false
  | _ => false

def Part.undone (p : Part) : Bool :=
  match p.st with
  | .done | .failed _ => false
  | _ => true

/-- A part that is not performed, and not parked. -/
def Part.movable (p : Part) : Bool :=
  match p.st with
  | .ok | .replay _ | .retry _ => true
  | _ => false

/-- R196: the segment of a warp's private memory. -/
def privSegment (s : State) (x : Warp) : Nat := (getLaunch s x.launch).pb + x.gnum * 32 * (getLaunch s x.launch).ps

/-! ### Free values -/

/-- A free value of this step: what an undefined read gives (R11). The keys of different registers and lanes differ. -/
def fresh (s : State) (key : Nat) : BitVec 128 := Config.freeValue (s.free + key)

/-- The key of a register in a lane. -/
def regKey (r : Reg) (t : Nat) : Nat :=
  match r with
  | .v n => 32 * n + t
  | .k n => 16384 + n
  | .p n => 20480 + 32 * n + t
  | .lpart => 24576

/-- Keys that are no registers start here. -/
def freeBase : Nat := 32768

/-! ### Reads -/

/-- R111, R112: the register has a result that is not readable yet: of a fixed-latency word whose latency has not passed, or of a word that is not complete. DEDUCED: log 19. -/
def regBusy (s : State) (w : Nat) (x : Warp) (r : Reg) (t : Nat) : Bool :=
  x.haz.any (fun h => h.reg == r && h.lanes.getLsbD t && s.clock < h.ready)
    || s.ops.any (fun e => e.2.warp == w && e.2.lanes.getLsbD t && e.2.writes.contains r)

/-- R106: a V register of a thread. -/
def vWord (s : State) (w : Nat) (x : Warp) (n t : Nat) : Word :=
  if regBusy s w x (.v n) t then (fresh s (regKey (.v n) t)).setWidth 32 else mapGetD x.v (32 * n + t) 0

/-- An unordered write (R124, R232, R358): the value before it, the warp that wrote, and `State.next` at the write. -/
structure Unordered (α : Type) where
  old : α
  warp : Nat
  seq : Nat
  deriving DecidableEq, Repr

/-- R273 note k: an earlier fence, or the acquire of an earlier word, of the writer is incomplete: no other warp sees the write yet. -/
def stillHidden (s : State) (w seq : Nat) : Bool :=
  s.ops.any fun e => e.2.warp == w && e.1 < seq && e.2.scope != .thread && e.2.scope != .warp && (isFence e.2.kind || (relAcq e.2).2.1)

/-- R124, R273 note k: what warp `w` may read where `l`, the latest first, are the writes of one place that are not ordered, and `cur` is the latest value: nothing before its own latest write, nothing of a write that is still hidden. -/
def versions {α : Type} (s : State) (w : Nat) (cur : α) : List (Unordered α) → List α
  | l => l.foldl (fun (r : List α × Bool) u =>
      if r.2 || u.warp == w then (r.1, true)
      else if stillHidden s u.warp u.seq then ([u.old], false) else (u.old :: r.1, false)) ([cur], false) |>.1

/-- One of the values that a warp may read, by a free choice. -/
def seenBy {α : Type} (s : State) (w key : Nat) (cur : α) (l : List (Unordered α)) : α :=
  match versions s w cur l with
  | [v] => v
  | vs => vs.getD (Config.pick (s.free + key) % vs.length) cur

/-- R124: while another warp's MOVK of a register is not ordered, a read gives an old or the new value. DEDUCED: log 21. -/
def kValue (s : State) (w : Nat) (g : Group) (n : Nat) : Word :=
  seenBy s w (regKey (.k n) 0) (mapGetD g.k n 0) ((g.kPend.filter fun p => p.k == n).map fun p => ⟨p.old, p.warp, p.seq⟩)

/-- R108: a K register. DEDUCED: log 21. -/
def kWord (s : State) (w : Nat) (x : Warp) (n : Nat) : Word :=
  if regBusy s w x (.k n) 0 then (fresh s (regKey (.k n) 0)).setWidth 32 else kValue s w (getGroup s x.group) n

/-- A predicate of a thread; P7 reads as true (R6). -/
def pBit (s : State) (w : Nat) (x : Warp) (n t : Nat) : Bool :=
  if n = 7 then true
  else if regBusy s w x (.p n) t then (fresh s (regKey (.p n) t)).getLsbD 0
  else (mapGetD x.preds n 0).getLsbD t

/-- R175: the value of LPART in force now. DEDUCED: log 22. -/
def lpartOf (s : State) (x : Warp) : Nat :=
  ((x.lpartNext.filter fun e => e.1 ≤ s.clock).map (·.2)).getLastD x.lpart

/-- R173: an LPARTSET issued fewer than 8 clocks ago: a word that reads LPART's effect now gives undefined results. -/
def lpartEarly (s : State) (x : Warp) : Bool := x.lpartNext.any fun e => s.clock < e.1

/-- R175: LPARTSET: the value is in force from 8 clocks after the issue on. -/
def setLpart (s : State) (x : Warp) (v : Nat) : Warp :=
  { x with lpart := lpartOf s x, lpartNext := (x.lpartNext.filter fun e => s.clock < e.1) ++ [(s.clock + 8, v)] }

/-- R63: an immediate extended to `bits` bits. -/
def immVal (b : BitVec 9) (bits : Nat) : Nat :=
  if b.getLsbD 8 then ((b.setWidth 8).signExtend bits).toNat else (b.setWidth 8).toNat

/-- R120: the element of a load stream that this lane receives at a pop. -/
def streamElem (x : Warp) (n t : Nat) : Elem := ((mapGetD x.streams n {}).groups.headD []).getD t {}

/-- The value of a source operand of `w` registers in a lane (R33, R62, R63); a stream gives its next element (R120). DEDUCED: log 20. -/
def srcVal (s : State) (wn : Nat) (x : Warp) (o : Opd) (w t : Nat) : Nat :=
  match o with
  | .v n =>
    let r (i : Nat) : Nat := (vWord s wn x (n.toNat + i) t).toNat
    if w = 1 then r 0 else if w = 2 then r 0 + 2 ^ 32 * r 1
    else r 0 + 2 ^ 32 * r 1 + 2 ^ 64 * r 2 + 2 ^ 96 * r 3
  | .k n =>
    let r (i : Nat) : Nat := (kWord s wn x (n.toNat + i)).toNat
    if w = 1 then r 0 else if w = 2 then r 0 + 2 ^ 32 * r 1
    else r 0 + 2 ^ 32 * r 1 + 2 ^ 64 * r 2 + 2 ^ 96 * r 3
  | .imm b => immVal b (32 * w)
  | .s n => if (mapGetD x.streams n.val {}).groups.isEmpty then (fresh s (freeBase + 32 * n.val + t)).toNat % 2 ^ 32
            else (streamElem x n.val t).val.toNat
  | _ => 0

/-- The predicate that an operand names, in a lane. -/
def srcPred (s : State) (wn : Nat) (x : Warp) (o : Opd) (t : Nat) : Bool :=
  match o with
  | .p n => pBit s wn x n.val t
  | _ => false

/-- R34: the effective address in `bits` bits: 64 for global memory, 32 for the scratchpad and private offsets. -/
def effAddr (s : State) (wn : Nat) (x : Warp) (m : Mem) (bits t : Nat) : Nat :=
  let base := srcVal s wn x m.base (bits / 32) t
  let idx := match m.index with
    | some o => srcVal s wn x o 1 t
    | none => 0
  wrapTo bits ((base : Int) + (idx * 2 ^ m.shift.toNat : Nat) + m.off.toInt)

/-- The same for the room forms (R336): the offset has eleven bits. -/
def roomAddr (s : State) (wn : Nat) (x : Warp) (m : RoomMem) (t : Nat) : Nat :=
  let base := srcVal s wn x m.base 2 t
  let idx := match m.index with
    | some o => srcVal s wn x o 1 t
    | none => 0
  wrapTo 64 ((base : Int) + (idx * 2 ^ m.shift.toNat : Nat) + m.off.toInt)

/-- R69: the threads of the set whose guard holds. DEDUCED: log 18. -/
def guardLanes (s : State) (wn : Nat) (x : Warp) (set : Lanes) (guard : BitVec 4) : Lanes :=
  laneSet fun t => set.getLsbD t && (pBit s wn x (guard.extractLsb' 0 3).toNat t != guard.getLsbD 3)

/-! ### Which registers a word reads and writes -/

/-- The role of FD. -/
inductive Role where
  | src | dst | both
  deriving DecidableEq, Repr

/-- FD of a word: a source where the entry says so. -/
def fdRole (opc fn : Nat) : Role :=
  if opc = 0x53 || opc = 0x54 || opc = 0x25 || opc = 0x36 || opc = 0xB3 || (opc = 0x13 && fn = 1) then .both
  else if opc = 0x91 || opc = 0x93 || opc = 0xA1 || opc = 0xA2 && fn = 0 || opc = 0xA7 || opc = 0xD5 || opc = 0xD6 || opc = 0xE5
    || opc = 0xE6 || opc = 0xE9 then .src
  else .dst

/-- The role of FD in an instruction: a CAS that returns nothing only reads it (R284). -/
def roleOf : Instr → Role
  | .cas _ _ t _ _ => if t.nr then .src else .both
  | i => fdRole i.fields.opc.toNat i.fields.fn.toNat

/-- The registers that a field in a position covers (R33, R66). -/
def spanOf (q : Pos) (b : BitVec 11) : List Reg :=
  if !q.used || (q.opt && b == unusedField) then []
  else match Fields.opd b with
    | .v n => (List.range q.w).map fun i => Reg.v (n.toNat + i)
    | .k n =>
      let w := if q.kAlign == 1 then q.w else 512 - q.kTop
      (List.range w).map fun i => Reg.k (n.toNat + i)
    | .p n => if n.val = 7 then [] else [Reg.p n.val]
    | _ => []

/-- Predicates that a word reads or writes outside its operand fields. -/
def predUses : Instr → List Nat × List Nat
  | .sel _ _ n _ _ _ | .sel64 _ _ n _ _ _ => ([n.toNat], [])
  | .plog _ pc _ _ _ _ => ([pc.toNat], [])
  | .plogTov _ _ => ([0, 1, 2, 3, 4, 5, 6], [])
  | .plogFromv _ _ => ([], [0, 1, 2, 3, 4, 5, 6])
  | .iaddc _ _ n _ _ _ => ([n.toNat], [n.toNat])
  | .isetp _ _ _ q _ _ _ | .fsetp _ _ _ q _ _ _ => (if q.op == 0 then [] else [q.c.toNat], [])
  | .shflIdx _ _ p _ _ _ | .shflUp _ _ p _ _ _ | .shflDown _ _ p _ _ _ | .shflXor _ _ p _ _ _ =>
    ([], p.toList.map (·.toNat))
  | .cstore _ _ _ _ n _ _ _ _ => ([n.toNat], [])
  | .mbxpop _ _ n _ _ | .rpop _ _ n _ _ => ([], [n.toNat])
  | _ => ([], [])

/-- The registers a word reads and writes, but for its guard, which is read at issue (R69). -/
def usesOf (i : Instr) : List Reg × List Reg :=
  let f := i.fields
  match formOf f with
  | .error _ => ([], [])
  | .ok m =>
    let role := roleOf i
    let d := spanOf m.fd f.fd
    let (pr, pw) := predUses i
    let ps (l : List Nat) : List Reg := (l.filter (· != 7)).map Reg.p
    let lp := if f.opc.toNat = 0x80 then [Reg.lpart] else []
    ((if role == .dst then [] else d) ++ spanOf m.fa f.fa ++ spanOf m.fb f.fb ++ ps pr,
     (if role == .src then [] else d) ++ ps pw ++ lp)

/-- The registers of a memory operand (R34). -/
def memRegs (m : Mem) (w : Nat) : List Reg :=
  let one (o : Opd) (w : Nat) : List Reg := match o with
    | .v n => (List.range w).map fun i => Reg.v (n.toNat + i)
    | .k n => (List.range w).map fun i => Reg.k (n.toNat + i)
    | _ => []
  one m.base w ++ (m.index.map (one · 1)).getD []

/-- R200: a private form. -/
def lsPriv : LsKind → Bool
  | .priv | .privB128 => true
  | _ => false

/-- The registers from which an incomplete word takes the addresses of global or private memory (R34, R183, R206, R285). -/
def addressRegs : OpKind → List Reg
  | .word i => match i with
    | .ld _ kind _ _ _ m | .st _ kind _ _ _ m => memRegs m (if lsPriv kind then 1 else 2)
    | .ldx _ _ _ _ _ m | .stx _ _ _ _ _ m => memRegs m 2
    | .atom _ _ t _ _ | .atomf _ _ t _ _ | .cas _ _ t _ _ => if t.scratch then [] else memRegs ⟨t.base, none, 0, 0⟩ 2
    | .cstore _ _ _ _ _ _ _ a _ | .invr _ _ a _ | .wbr _ _ a _ | .invd _ _ a _ => memRegs ⟨a, none, 0, 0⟩ 2
    | _ => []
  | _ => []

/-- R72: the counter that SET names. -/
def setOf (c : Ctl) : Option Nat :=
  let n := (c.hint.extractLsb' 16 4).toNat
  if n ≤ 11 then some n else none

/-! ### Writes -/

/-- R111: an address that an incomplete word takes from an overwritten register is undefined in these lanes: what is not performed yet is accessed at an address that nothing constrains. DEDUCED: log 93. -/
def scatter (s : State) (m : Lanes) (o : Op) : Op :=
  let la := getLaunch s (getWarp s o.warp).launch
  let free (p : Part) : Nat := (fresh s (2 ^ 19 + 64 * p.lane + p.off)).toNat
  let unit (p : Part) : Nat := if p.n ≤ 16 then 32 else 4096
  let va (p : Part) : Nat :=
    if p.priv then privSegment s (getWarp s o.warp) + free p % max 1 (la.ps / 4) * 128 + 4 * p.lane + p.va % 4
    else free p % 2 ^ 48 / unit p * unit p + p.va % (unit p / 2)
  { o with parts := o.parts.map fun p => if m.getLsbD p.lane && p.movable then { p with va := va p, st := .retry 0 } else p }

/-- R111: what a write of a register in a set of lanes does to an incomplete word that reads it or writes it. -/
def markOp (s : State) (m : Lanes) (r : Reg) (o : Op) : Op :=
  let m := o.lanes &&& m
  if m = 0 then o
  else
    let o1 := if o.reads.contains r then { o with poison := o.poison ||| m } else o
    let o2 := if o.writes.contains r then { o1 with clobber := (r, m) :: o1.clobber } else o1
    if (addressRegs o.kind).contains r then scatter s m o2 else o2

/-- R111: a word that writes a register marks the incomplete words of its warp that read it or write it. -/
def markOps (s : State) (w : Nat) (m : Lanes) (r : Reg) : State :=
  { s with ops := mapAll s.ops fun _ o => if o.warp == w then markOp s m r o else o }

/-- R111, R108: a write of a K register marks the incomplete words of every warp of the group. -/
def markGroup (s : State) (g : Nat) (r : Reg) : State :=
  { s with ops := mapAll s.ops fun _ o => if (getWarp s o.warp).group == g then markOp s allLanes r o else o }

/-- R112: an earlier fixed-latency result of this register is not readable before this one. -/
def lateHaz (s : State) (x : Warp) (r : Reg) (lat t : Nat) : Bool :=
  x.haz.any fun h => h.reg == r && h.lanes.getLsbD t && s.clock + lat ≤ h.ready

/-- The results that still are not readable, with a new one. -/
def addHaz (s : State) (x : Warp) (r : Reg) (m : Lanes) (lat : Nat) : List Haz :=
  ⟨r, m, s.clock + lat⟩ :: x.haz.filter fun h => s.clock < h.ready

/-- A fixed-latency word writes a V register in a set of lanes. -/
def putV (s : State) (w lat n : Nat) (m : Lanes) (f : Nat → Word) : State :=
  let x := getWarp s w
  let y (t : Nat) : Word := if lateHaz s x (.v n) lat t then (fresh s (freeBase + 1024 + regKey (.v n) t)).setWidth 32 else f t
  let v := (laneList m).foldl (fun v t => mapPut 0 v (32 * n + t) (y t)) x.v
  markOps (setWarp s w { x with v := v, haz := addHaz s x (.v n) m lat }) w m (.v n)

/-- A fixed-latency word writes a predicate in a set of lanes; a write to P7 is ignored (R6). -/
def putP (s : State) (w lat n : Nat) (m : Lanes) (f : Nat → Bool) : State :=
  if n = 7 then s else
  let x := getWarp s w
  let y (t : Nat) : Bool := if lateHaz s x (.p n) lat t then (fresh s (freeBase + 1024 + regKey (.p n) t)).getLsbD 0 else f t
  let old := mapGetD x.preds n 0
  let new := laneSet fun t => if m.getLsbD t then y t else old.getLsbD t
  markOps (setWarp s w { x with preds := mapPut 0 x.preds n new, haz := addHaz s x (.p n) m lat }) w m (.p n)

/-- Writes a value of `w` registers to V registers from n on. -/
def putVs (s : State) (wn lat n w : Nat) (m : Lanes) (f : Nat → Nat) : State :=
  (List.range w).foldl (fun s i => putV s wn lat (n + i) m fun t => BitVec.ofNat 32 (f t / 2 ^ (32 * i))) s

/-- R124: MOVK; the value is seen by other warps old or new until the writer orders it. -/
def putK (s : State) (w lat n : Nat) (v : Word) : State :=
  let x := getWarp s w
  let g := getGroup s x.group
  let other := g.kPend.any fun p => p.k == n && p.warp != w
  let late := lateHaz s x (.k n) lat 0
  let v1 := if late then (fresh s (freeBase + 1024 + regKey (.k n) 0)).setWidth 32 else v
  let v2 := if other && Config.pick (s.free + freeBase + regKey (.k n) 0) % 2 = 0 then mapGetD g.k n 0 else v1
  let s := setGroup s x.group { g with k := mapPut 0 g.k n v2, kPend := ⟨n, mapGetD g.k n 0, w, s.next⟩ :: g.kPend }
  markGroup (setWarp s w { x with haz := addHaz s x (.k n) allLanes lat }) x.group (.k n)

/-- A word that completes writes a V register; where another word wrote it meanwhile it is undefined (R111). -/
def retV (s : State) (o : Op) (n : Nat) (m : Lanes) (f : Nat → Word) : State :=
  updWarp s o.warp fun x =>
    let y (t : Nat) : Word :=
      if o.clobber.any (fun c => c.1 == .v n && c.2.getLsbD t) then (fresh s (regKey (.v n) t)).setWidth 32 else f t
    { x with v := (laneList m).foldl (fun v t => mapPut 0 v (32 * n + t) (y t)) x.v }

def retVs (s : State) (o : Op) (n w : Nat) (m : Lanes) (f : Nat → Nat) : State :=
  (List.range w).foldl (fun s i => retV s o (n + i) m fun t => BitVec.ofNat 32 (f t / 2 ^ (32 * i))) s

/-- A word that completes writes a predicate. -/
def retP (s : State) (o : Op) (n : Nat) (m : Lanes) (f : Nat → Bool) : State :=
  if n = 7 then s else
  updWarp s o.warp fun x =>
    let y (t : Nat) : Bool :=
      if o.clobber.any (fun c => c.1 == .p n && c.2.getLsbD t) then (fresh s (regKey (.p n) t)).getLsbD 0 else f t
    let old := mapGetD x.preds n 0
    { x with preds := mapPut 0 x.preds n (laneSet fun t => if m.getLsbD t then y t else old.getLsbD t) }

end Sys2Proof.Machine
end

