-- ==== Sys2Proof/Machine/Threads.lean ====
section
/-! DEFINITION. Conditions of threads (R85, R102, R103), convergence sets (R86, R87), and incomplete words with their counters (R109, R110). -/

namespace Sys2Proof.Machine

/-- R87: the threads of a set become ready at an address now. -/
def makeReady (s : State) (x : Warp) (m : Lanes) (pc : Nat → Thread → DWord) : Warp :=
  updThreads x m fun t th => { th with pc := pc t th, cond := .ready, since := s.tick }

/-- R59, R69, R88: every thread of an issuing set goes on at the next word. -/
def advance (s : State) (w : Nat) (set : Lanes) : State :=
  updWarp s w fun x => makeReady s x set fun _ th => th.pc + 12

/-- A control transfer (R88). -/
def jump (s : State) (w : Nat) (m : Lanes) (pc : Nat → DWord) : State :=
  updWarp s w fun x => makeReady s x m fun t _ => pc t

/-- The threads of a set wait (R406) or stop (R102) or end; `pc` is where they stand. -/
def setCond (s : State) (w : Nat) (m : Lanes) (c : Nat → Cond) (pc : DWord) : State :=
  updWarp s w fun x => updThreads x m fun t th => { th with cond := c t, pc := pc, since := s.tick }

/-! ### RECONV (R102) -/

/-- R102 item 4: a thread that has arrived: ended, or stopped at some RECONV and not parked in a handler. -/
def arrived (th : Thread) : Bool :=
  match th.cond with
  | .ended => true
  | .stopped _ => th.sub == 0
  | _ => false

/-- Every lane of a stopped thread's mask has arrived. -/
def maskMet (x : Warp) (m : Lanes) : Bool := (laneList m).all fun u => arrived (threadOf x u)

/-- R102 item 2: the threads stopped at a word are released together. A thread of a handler that stops at that word is one of them: its own lane is in its mask and has not arrived (item 4), so it holds the others until RTE. DEDUCED: log 94. -/
def releasable (x : Warp) (th : Thread) : Bool :=
  match th.cond with
  | .stopped _ => x.threads.all fun o =>
      match o.cond with
      | .stopped m => o.pc != th.pc || maskMet x m
      | _ => true
  | _ => false

/-- R102 items 2, 3 and 5: the condition of every RECONV of a warp is evaluated again. -/
def settle (s : State) (w : Nat) : State :=
  let x := getWarp s w
  let m := lanesWhere x (releasable x)
  if m = 0 then s else setWarp s w (makeReady s x m fun _ th => th.pc + 12)

/-- Waiting threads go on at an address, and RECONVs are judged again. -/
def wake (s : State) (w : Nat) (m : Lanes) (pc : Nat → DWord) : State := settle (jump s w m pc) w

/-- The lanes of a warp that wait in a way. -/
def waiting (x : Warp) (p : Wait → Bool) : Lanes :=
  lanesWhere x fun th => match th.cond with
    | .waiting w => p w
    | _ => false

def endedLanes (x : Warp) : Lanes := lanesWhere x fun th => th.cond == .ended
def allEnded (x : Warp) : Bool := x.threads.all fun th => th.cond == .ended
/-- The lanes whose INHANDLER is 1 (R397). -/
def handlerLanes (x : Warp) : Lanes := lanesWhere x fun th => th.trapinfo.getLsbD 8

/-! ### Ages (R115) -/

/-- CEDE, YIELD, placement and resumption make a warp the youngest of its partition. -/
def makeYoungest (s : State) (w : Nat) : State :=
  let s1 := updWarp s w fun x => { x with age := s.next }
  { s1 with next := s.next + 1 }

/-! ### Incomplete words (R109, R110) -/

def getOp (s : State) (id : Nat) : Op := mapGetD s.ops id { warp := 0, kind := .code, lanes := 0 }
def updOp (s : State) (id : Nat) (f : Op → Op) : State := { s with ops := mapUpd s.ops id f }

/-- R111: a value that a later word's write left undefined. -/
def usedVal (s : State) (o : Op) (p : Part) : Nat :=
  if o.poison.getLsbD p.lane then (fresh s (freeBase + 64 * p.lane + p.off)).toNat % 2 ^ (8 * p.n) else p.val.toNat

/-- R111: the registers that a new word and an incomplete word of its warp both write, with the lanes. -/
def bothWrite (s : State) (o : Op) : List (Reg × Lanes) :=
  o.writes.flatMap fun r =>
    (s.ops.filter fun e => e.2.warp == o.warp && e.2.writes.contains r && e.2.lanes &&& o.lanes != 0).map fun e => (r, e.2.lanes &&& o.lanes)

/-- The incomplete words of a warp issued before one of them, or all of them. -/
def opsBefore (s : State) (w id : Nat) : List (Nat × Op) := s.ops.filter fun e => e.2.warp == w && e.1 < id

/-- Words that access memory, scratchpad, rooms or mailboxes: a release waits until earlier ones are performed (R262). Copies are not waited for (R268). -/
def accessWord : OpKind → Bool
  | .word i => match i with
    | .ld .. | .st .. | .ldx .. | .stx .. | .cstore .. | .atom .. | .atomf .. | .cas .. | .lds .. | .sts .. | .lmarkEmpty ..
    | .lmarkFull .. | .lmarkQ .. | .invr .. | .wbr .. | .invd .. | .rld .. | .rst .. | .racc .. | .rpush .. | .rpop ..
    | .mbxsend .. | .mbxsendSt .. | .mbxpop .. | .fenceAr .. | .fenceRel .. | .fenceAcq .. | .fenceAll .. | .bararr .. | .barexp ..
    | .garg .. => true
    | _ => false
  | .push .. => true
  | _ => false

/-- Words that a FENCE or an acquire before them holds (R263, R267). -/
def heldWord : OpKind → Bool
  | .word i => match i with
    | .cpyLoad .. | .cpyBstack .. | .cpyStore .. | .cpyg .. | .cpys .. | .cpyqStat .. | .cpyqCancel .. | .rdesc .. | .rfree ..
    | .rquery .. | .rqueryR .. | .barinit .. | .barinitInval .. | .mbxinit .. | .mbxinitFree .. | .barwait .. | .tdesc .. | .rdemand .. | .rdemandWait .. | .rleave .. => true
    | _ => accessWord (.word i)
  | .push .. => true
  | _ => false

/-- Loads, for R263 step 1. -/
def loadWord : OpKind → Bool
  | .word i => match i with
    | .ld .. | .ldx .. | .lds .. | .rld .. | .rpop .. | .mbxpop .. | .garg .. => true
    | .atom _ _ t _ _ | .atomf _ _ t _ _ | .cas _ _ t _ _ => !t.nr
    | _ => false
  | _ => false

/-- The words of the warp issued before an operation that share a lane with it. -/
def before (s : State) (id : Nat) (o : Op) : List Op :=
  ((opsBefore s o.warp id).filter fun e => e.2.lanes &&& o.lanes != 0).map (·.2)

/-- R263, R267: an earlier FENCE, or the acquire of an earlier word, holds the word. -/
def fenceHeld (s : State) (id : Nat) (o : Op) : Bool :=
  heldWord o.kind && (before s id o).any fun e => isFence e.kind || (relAcq e).2.1

/-- A variable-latency word becomes incomplete: its counter rises by one (R109); it marks the words whose registers it writes (R111), and is held where a FENCE or an acquire stands before it (R267). Its number is `s.next`. -/
def newOp (s : State) (o : Op) : State :=
  let s0 := o.writes.foldl (fun s r => markOps s o.warp o.lanes r) s
  let s1 := { s0 with
    ops := mapSet s0.ops s.next { o with core := (getWarp s o.warp).core, clobber := bothWrite s o ++ o.clobber, held := fenceHeld s s.next o }, next := s.next + 1 }
  match o.cf with
  | none => s1
  | some n => updWarp s1 o.warp fun x => { x with cf := mapPut 0 x.cf n (mapGetD x.cf n 0 + 1) }

/-- R109, R110: a word completes: its counter falls by one. -/
def finishOp (s : State) (id : Nat) : State :=
  match mapGet s.ops id with
  | none => s
  | some o =>
    let s1 := { s with ops := mapErase s.ops id }
    match o.cf with
    | none => s1
    | some n => updWarp s1 o.warp fun x => { x with
        cf := mapPut 0 x.cf n (mapGetD x.cf n 0 - 1), drops := mapPut 0 x.drops n (mapGetD x.drops n 0 + 1) }

/-- The physical addresses of a private word's owner tag (R197). -/
def privTag (w t : Nat) : Nat := 1 + 32 * w + t

/-- R101, R197: threads end; their private memory is dropped without write-back. -/
def markEnded (s : State) (w : Nat) (m : Lanes) : State :=
  let s1 := updWarp s w fun x => updThreads x m fun _ th => { th with cond := .ended }
  { s1 with l1 := s1.l1.filter fun e => !((laneList m).any fun t => e.2.priv == privTag w t) }

end Sys2Proof.Machine
end

