-- ==== Sys2Proof/Machine/Queues.lean ====
section
/-! DEFINITION. MSI-X (R425), fault and trap queues with the sump (R403, R404), FATALX (R405), and the records (R252, R403, R423). -/

namespace Sys2Proof.Machine

/-- R425: the message of a vector, as the interface's MSI-X table has it. -/
def msixOf (s : State) (i v : Nat) : MsixMsg := ⟨i, v, mapGetD (getIface s i).vectors v {}⟩

/-- R425: raises a vector of an interface; masked, it becomes pending. -/
def raiseMsix (s : State) (i v : Nat) : State :=
  let x := getIface s i
  let v := v % 64
  if x.masked.getLsbD v then setIface s i { x with pending := x.pending ||| BitVec.twoPow 64 v }
  else { s with msix := s.msix ++ [msixOf s i v] }

/-- The registers of a queue: base, size, head, tail, sump. -/
structure Queue where
  base : Nat
  size : Nat
  head : Nat
  tail : Nat
  sump : Bool
  deriving DecidableEq, Repr

def queueOf (x : Iface) (trapq : Bool) : Queue :=
  if trapq then ⟨x.tqbase.toNat, (x.tqsize.extractLsb' 0 5).toNat, x.tqhead, x.tqtail, x.tqsump⟩
  else ⟨x.fqbase.toNat, (x.fqsize.extractLsb' 0 5).toNat, x.fqhead, x.fqtail, x.fqsump⟩

/-- R404: a size outside 4 to 16 disables the queue. -/
def queueOn (q : Queue) : Bool := 4 ≤ q.size && q.size ≤ 16

/-- Records in the queue. -/
def queueCount (q : Queue) : Nat :=
  if q.sump then 2 ^ q.size else (q.tail + 2 ^ q.size - q.head % 2 ^ q.size) % 2 ^ q.size

/-- R404: full: one free entry, the sump, remains; or not even that. -/
def queueFull (q : Queue) : Bool := 2 ^ q.size - 1 ≤ queueCount q

/-- The bytes of a record. -/
def recordBytes (ws : List Word) : List Byte := ws.flatMap fun x => leBytes x.toNat 4

/-- Writes a record at the tail, then the tail, and raises the queue's vector (R404, R425). The queue is never translated (R422). -/
def putRecord (s : State) (i : Nat) (trapq : Bool) (ws : List Word) (sump : Bool) : State :=
  let q := queueOf (getIface s i) trapq
  let a := q.base + 32 * q.tail
  if !physOk a then send s none (.fatalRecord i 18)
  else
    let s1 := devWrite s a (recordBytes ws)
    let t := (q.tail + 1) % 2 ^ q.size
    let s2 := updIface s1 i fun x =>
      if trapq then { x with tqtail := t, tqsump := sump } else { x with fqtail := t, fqsump := sump }
    raiseMsix s2 i (if trapq then 2 else 1)

/-- R404: a record that is neither replayable nor fatal: written, or dropped and counted. -/
def plainRecord (s : State) (i : Nat) (trapq : Bool) (ws : List Word) : State :=
  let q := queueOf (getIface s i) trapq
  if queueOn q && !queueFull q then putRecord s i trapq ws false
  else updIface s i fun x => { x with drops := if x.drops = 0xFFFFFFFF then x.drops else x.drops + 1 }

/-- R404: a replayable record: written, or its producer stalls. -/
def replayRecord (s : State) (i : Nat) (ws : List Word) : State :=
  let q := queueOf (getIface s i) false
  if queueOn q && !queueFull q && !(s.recWaits.any fun r => r.iface == i) then putRecord s i false ws false
  else { s with recWaits := s.recWaits ++ [⟨i, ws⟩] }

/-- R404: stalled records of an interface are written, oldest first, while there is room. -/
def drainRecords (s : State) (i : Nat) : Nat → State
  | 0 => s
  | n + 1 =>
    match s.recWaits.find? fun r => r.iface == i with
    | none => s
    | some r =>
      let q := queueOf (getIface s i) false
      if queueOn q && !queueFull q then
        drainRecords (putRecord { s with recWaits := s.recWaits.erase r } i false r.words false) i n
      else s

/-- R405: latches a fatal kind, or counts a further one; vector 0. -/
def latchFatal (s : State) (i kind : Nat) : State :=
  let x := getIface s i
  if x.fatalx.getLsbD 31 then
    let lost := (x.fatalx.extractLsb' 16 8).toNat
    let lost := if lost < 255 then lost + 1 else lost
    setIface s i { x with fatalx := (x.fatalx &&& 0xFF00FFFF) ||| BitVec.ofNat 32 (lost * 65536) }
  else
    raiseMsix (setIface s i { x with fatalx := 0x80000000 ||| (x.fatalx &&& 0x00FF0000) ||| BitVec.ofNat 32 kind }) i 0

/-- R404, R405: a fatal record: written, in the sump if need be, or latched. QUEUE_FAULT always goes to FATALX. -/
def fatalRecordWrite (s : State) (i kind : Nat) (ws : List Word) : State :=
  let q := queueOf (getIface s i) true
  if kind = 18 || !queueOn q || q.sump then latchFatal s i kind
  else if queueFull q then putRecord s i true ws true
  else putRecord s i true ws false

/-- Low and high half of an address. -/
def lo32 (a : Nat) : Word := BitVec.ofNat 32 a
def hi32 (a : Nat) : Word := BitVec.ofNat 32 (a / 2 ^ 32)

/-- R403: word 1: CONTEXT and SLOT of a warp. -/
def warpWord (x : Warp) : Word := BitVec.ofNat 32 (x.context * 2 ^ 14 + (x.core * 64 + x.slot))

/-- R403: a trap queue record. -/
def trapRecord (cls detail cause : Nat) (w1 seq pc : Word) (addr : Nat) (aux1 aux2 : Word) : List Word :=
  [BitVec.ofNat 32 (cls * 2 ^ 28 + detail * 65536 + cause), w1, seq, pc, lo32 addr, hi32 addr, aux1, aux2]

/-- R423: a fault queue record. -/
def faultRecord (kind access quad entry id cursor addr unit : Nat) : List Word :=
  [BitVec.ofNat 32 (kind * 2 ^ 28 + access * 2 ^ 24 + quad * 2 ^ 13 + entry), BitVec.ofNat 32 id, BitVec.ofNat 32 cursor,
    0, lo32 addr, hi32 addr, BitVec.ofNat 32 unit, 0]

/-- R423: KIND 2: a refusal, or a failed write of the graph engine. -/
def refusalRecord (s : State) (i code addr : Nat) : State := plainRecord s i false (faultRecord 2 0 0 0 code 0 addr 0)

/-- R428, R425: KIND 3: an error log in interface 0's queue; vector 0 where it is written. -/
def errorRecord (s : State) (unit addr : Nat) : State :=
  let q := queueOf (getIface s 0) false
  let s1 := plainRecord s 0 false (faultRecord 3 0 0 0 0 0 addr unit)
  if queueOn q && !queueFull q && physOk (q.base + 32 * q.tail) then raiseMsix s1 0 0 else s1

end Sys2Proof.Machine
end

