-- ==== Sys2Proof/Machine/Scratch.lean ====
section
/-! DEFINITION. Scratchpad lines and their marks (R210 to R213), barrier objects (R292 to R294), the event list and signals (R296 to R301), and the end of copies (R218, R227, R235, R236). -/

namespace Sys2Proof.Machine

/-! ### Scratchpad bytes and marks -/

/-- R209: bytes of the group's scratchpad on one core. -/
def scratchSize (s : State) (x : Warp) : Nat := (getLaunch s x.launch).record.scratch * 128

def scrKey (half a : Nat) : Nat := half * 2 ^ 20 + a
def scrByte (g : Group) (half a : Nat) : Byte := mapGetD g.scratch (scrKey half a) 0
def scrBytes (g : Group) (half a n : Nat) : List Byte := (List.range n).map fun i => scrByte g half (a + i)
/-- `n` bytes as a little-endian value. -/
def scrNat (g : Group) (half a n : Nat) : Nat := leVal (scrBytes g half a n)

def setScr (g : Group) (half : Nat) : Nat → List Byte → Group
  | _, [] => g
  | a, b :: bs => setScr { g with scratch := mapPut 0 g.scratch (scrKey half a) b } half (a + 1) bs

def setScrNat (g : Group) (half a n x : Nat) : Group := setScr g half a (leBytes x n)

def lineKey (half n : Nat) : Nat := half * 2 ^ 13 + n
def lineOf (g : Group) (half n : Nat) : Line := mapGetD g.lines (lineKey half n) {}
def setLine (g : Group) (half n : Nat) (l : Line) : Group := { g with lines := mapPut {} g.lines (lineKey half n) l }

/-! ### Copies -/

def getCopy (s : State) (c : Nat) : Copy := mapGetD s.copies c { kind := .scatter }
def updCopy (s : State) (c : Nat) (f : Copy → Copy) : State := { s with copies := mapUpd s.copies c f }

/-- R235: a copy in state 0 to 3. -/
def unfinished (c : Copy) : Bool :=
  match c.st with
  | .queued | .running | .suspended | .stopped => true
  | _ => false

/-- A copy whose destination is the scratchpad. -/
def intoScratch (c : Copy) : Bool :=
  match c.kind with
  | .load .. | .gather .. => true
  | _ => false

/-- The scratchpad address, or B-stack offset, at which its stream starts (R224). -/
def copyStart (c : Copy) : Nat := (c.box.getD 10 0).toNat

/-- R212: a copy that still has bytes to land in a line. -/
def landsIn (c : Copy) (gi half n : Nat) : Bool :=
  c.group == gi && c.half == half && intoScratch c && unfinished c &&
    max (copyStart c + 4096 * c.cursor) (128 * n) < min (copyStart c + c.bytes) (128 * (n + 1))

/-- R367: an accepted QPACK that is not complete still writes a line: its arguments are the first line and how many. -/
def packsIn (s : State) (o : Op) (gi half n : Nat) : Bool :=
  match o.kind with
  | .word (.qpack ..) | .word (.qpackE ..) =>
    let x := getWarp s o.warp
    o.phase == .asked && x.group == gi && halfOf s x == half && o.args.getD 0 0 ≤ n && n < o.args.getD 0 0 + o.args.getD 1 0
  | _ => false

/-- R212: no accepted copy or QPACK, other than the ones named, still has bytes to land in the line. -/
def lineSettled (s : State) (gi half n : Nat) (notCopy notOp : Option Nat) : Bool :=
  !(s.copies.any fun e => some e.1 != notCopy && landsIn e.2 gi half n)
    && !(s.ops.any fun e => some e.1 != notOp && packsIn s e.2 gi half n)

/-- The lines that a run of bytes touches. -/
def linesOf (a n : Nat) : List Nat :=
  if n = 0 then [] else (List.range ((a + n - 1) / 128 - a / 128 + 1)).map fun i => a / 128 + i

/-- R235: the number of a state. -/
def copyStCode : CopySt → Nat
  | .queued => 0 | .running => 1 | .suspended => 2 | .stopped => 3 | .done => 4 | .cancelled => 5

/-- R221: the id of a copy. -/
def copyId (c : Copy) : Nat := c.id

/-- R235, R221: the copy of a warp's group on its own core that an id names. -/
def copyNamed (s : State) (x : Warp) (id : Nat) : Option (Nat × Copy) :=
  (s.copies.filter fun e => e.2.core == x.core && e.2.group == x.group && copyId e.2 == id && e.2.node.isNone).getLast?

/-- R235: the word of CPYQ.STAT. -/
def copyWord (s : State) (x : Warp) (id : Nat) : Word :=
  match copyNamed s x id with
  | none => BitVec.ofNat 32 (6 * 2 ^ 29)
  | some (_, c) => BitVec.ofNat 32 (copyStCode c.st * 2 ^ 29 + c.cause * 2 ^ 24 + c.filled.toNat * 2 ^ 23 + min c.cursor 0x7FFFFF)

/-! ### Writes that other units read (R214, R355) -/

/-- The key of a byte in `Group.unfenced`. -/
def unfKey (bstack : Bool) (half a : Nat) : Nat := (if bstack then 2 ^ 23 else 0) + half * 2 ^ 22 + a

/-- The bytes of a run have one last write, or one that every fetch sees. -/
def setUnf (g : Group) (bstack : Bool) (half a n : Nat) (u : Option Unf) : Group :=
  { g with unfenced := (List.range n).foldl (fun m k => match u with
      | some x => mapSet m (unfKey bstack half (a + k)) x
      | none => mapErase m (unfKey bstack half (a + k))) g.unfenced }

/-- Two runs of bytes have a byte in common: which. -/
def overlap (a n b m : Nat) : Option (Nat × Nat) :=
  let lo := max a b
  let hi := min (a + n) (b + m)
  if lo < hi then some (lo, hi - lo) else none

/-- The runs of A and B that a pending operation fetches, where it raised no copy for them. -/
def fetchRun (o : MmaOp) (bstack : Bool) : Nat × Nat :=
  let z := match o.ty with
    | .t8 | .int8 => 8448
    | .t6 => 12800
    | .bf16 => 8192
    | .f32 | .f64 => 4096
  if bstack then (if o.hb then (o.boxB.getD 10 0).toNat else o.b.toNat, z)
  else (if o.ha then (o.boxA.getD 10 0).toNat else o.a.toNat, z)

/-- R214, R356: a write to bytes that pending operations fetch leaves them undefined for those; `own` is the operation that a raised copy feeds. -/
def touchPending (s : State) (gi half : Nat) (bstack : Bool) (a n : Nat) (own : Option Nat) : State :=
  { s with arrays := mapAll s.arrays fun _ l => l.map fun x =>
      let f := fetchRun x.op bstack
      if x.group = gi ∧ x.half = half ∧ some x.id ≠ own then
        match overlap a n f.1 f.2 with
        | some r => { x with bad := (bstack, r) :: x.bad }
        | none => x
      else x }

/-- The scratchpad bytes that an unfinished copy writes, or reads as its source. -/
def copyRun (c : Copy) : Nat × Nat :=
  match c.kind with
  | .load .. | .gather .. | .store _ | .scatter => (copyStart c, c.bytes)
  | _ => (0, 0)

/-- R214: a write to source bytes of unfinished copies, and by an STS to bytes that they write, leaves what they write from or to them undefined, also in memory where it has landed. DEDUCED: log 46. -/
def spoilCopies (s : State) (gi half a n : Nat) (sts : Bool) : State :=
  let hit (c : Copy) : Bool := c.group == gi && c.half == half && unfinished c && c.node.isNone && (sts || !intoScratch c)
  let landed := s.copies.flatMap fun e => if hit e.2 then (e.2.landed.filter fun r => a ≤ r.1 && r.1 < a + n).map (·.2) else []
  let s1 := landed.foldl (fun s pa => openByteAt s pa ((fresh s (2 ^ 18 + pa % 2 ^ 17)).setWidth 8)) s
  { s1 with copies := mapAll s1.copies fun _ c =>
      if hit c then
        match overlap a n (copyRun c).1 (copyRun c).2 with
        | some r => { c with spoiled := r :: c.spoiled }
        | none => c
      else c }

/-- R214: an unfinished copy writes the byte. -/
def underCopy (s : State) (gi half a : Nat) : Bool :=
  s.copies.any fun e => e.2.group == gi && e.2.half == half && unfinished e.2 && intoScratch e.2 &&
    copyStart e.2 ≤ a && a < copyStart e.2 + e.2.bytes

/-- R295: a store to a slot that holds an unpopped message leaves the message undefined. -/
def spoilMail (s : State) (gi half a n : Nat) : State :=
  let g := getGroup s gi
  let rings := (List.range (2 ^ 13)).filter fun h => (lineOf g half h).bar && (scrByte g half (128 * h + 0x7C)).toNat == 2
  let bytes := rings.flatMap fun h =>
    let slots := 8 * (scrNat g half (128 * h + 8) 4 % 1024)
    let head := scrNat g half (128 * h) 4
    let count := (scrNat g half (128 * h + 4) 4 + 2 ^ 32 - head) % 2 ^ 32
    (List.range count).flatMap fun m =>
      let b := 128 * h + 128 + 16 * ((head + m) % 2 ^ 32 % slots)
      if (overlap a n b 16).isSome then (List.range 16).map (b + ·) else []
  if bytes.isEmpty then s
  else setGroup s gi (bytes.foldl (fun g b => setScrNat g half b 1 ((fresh s (freeBase + 28672 + b % 4096)).toNat % 256)) g)

/-- What the write of a run of scratchpad bytes by an operation of a warp does beside it (R214, R355); `sts`: it is an STS. -/
def scratchWritten (s : State) (gi half a n w op : Nat) (sts : Bool) : State :=
  let free := (List.range n).filter fun k => sts && underCopy s gi half (a + k)
  let s1 := updGroup s gi fun g =>
    let g1 := free.foldl (fun g k => setScrNat g half (a + k) 1 ((fresh s (freeBase + 16384 + (a + k) % 8192)).toNat % 256)) g
    setUnf g1 false half a n (some { warp := w, op := op })
  spoilMail (spoilCopies (touchPending s1 gi half false a n none) gi half a n sts) gi half a n

/-! ### The order of a line (R211, R213) -/

/-- R211: words of a warp that reach scratchpad lines in the order of issue: accesses, LMARK, scratchpad atomics, the markings of copies and QPACK, barrier and mailbox words (R293, R302, R308, R310). -/
def scratchWord : OpKind → Bool
  | .word i => match i with
    | .lds .. | .sts .. | .lmarkEmpty .. | .lmarkFull .. | .lmarkQ .. | .cpyLoad .. | .cpyg .. | .qpack .. | .qpackE ..
    | .bararr .. | .barexp .. | .barinit .. | .barinitInval .. | .mbxinit .. | .mbxinitFree .. | .mbxpop .. => true
    | .atom _ _ t _ _ | .atomf _ _ t _ _ | .cas _ _ t _ _ => t.scratch
    | _ => false
  | _ => false

/-- A part of a scratchpad word that is not performed and touches a line. -/
def onLine (n : Nat) (p : Part) : Bool := p.undone && p.va / 128 ≤ n && n ≤ (p.va + p.n - 1) / 128

/-- R212: an earlier MMA.HA signature of the warp issued an operation whose raised copy is not accepted and has the line among its destinations. -/
def raiseHeld (s : State) (w id n : Nat) : Bool :=
  s.arrays.any fun e => e.2.any fun a => a.warp == w && a.id < id && a.op.ha && (!a.issued || a.wantA) &&
    (linesOf (fetchRun a.op false).1 (fetchRun a.op false).2).contains n

/-- R212, R365: a copy, a gather or a QPACK that an earlier word of the warp asks for has not marked the line empty yet. -/
def markPending (s : State) (w id n : Nat) : Bool :=
  raiseHeld s w id n || (opsBefore s w id).any fun e => (match e.2.kind with
    | .word i => match i with
      | .cpyLoad .. | .cpyg .. | .qpack .. | .qpackE .. => true
      | _ => false
    | _ => false) && e.2.parts.any (onLine n)

/-- R211: an earlier word of the warp on the line is not performed. DEDUCED: log 50. -/
def lineHeld (s : State) (id : Nat) (o : Op) (n : Nat) : Bool :=
  raiseHeld s o.warp id n || (opsBefore s o.warp id).any fun e => scratchWord e.2.kind && e.2.parts.any (onLine n)

/-- A scratchpad word that writes bytes. -/
def writesScr : Instr → Bool
  | .sts .. | .atom .. | .atomf .. | .cas .. => true
  | _ => false

/-- R211, R230, R231: a scratchpad access of a lane is performed on its bytes; what it read. -/
def performScr (s : State) (o : Op) (half : Nat) (i : Instr) (g : Group) (p : Part) : Group × Part :=
  let old := scrNat g half p.va p.n
  let done (v : Nat) : Part := { p with got := BitVec.ofNat 128 v, st := .done }
  match i with
  | .sts .. => (setScrNat g half p.va p.n (usedVal s o p), done 0)
  | .lmarkQ .. =>
    let l := lineOf g half (p.va / 128)
    (g, done (l.full.toNat + 2 * l.bar.toNat))
  | .atom .. | .atomf .. | .cas .. =>
    let cmp := if o.poison.getLsbD p.lane then (fresh s (freeBase + 64 * p.lane + 32)).toNat % 2 ^ (8 * p.n) else p.cmp.toNat
    (setScrNat g half p.va p.n (atomNew i old (usedVal s o p) cmp), done old)
  | _ => (g, done old)

/-- Performs the parts of an operation that satisfy `ok`, in lane order; a write to a barrier line by then fails (R213, R289). -/
def scrDo (s : State) (gi half id : Nat) (i : Instr) (ok : Part → Bool) : State :=
  let o := getOp s id
  let (g, ps, ws) := o.parts.foldl (fun (g, ps, ws) p =>
    if !(p.undone && ok p) then (g, ps ++ [p], ws)
    else if writesScr i && (lineOf g half (p.va / 128)).bar then (g, ps ++ [{ p with st := .failed causeBarclobber }], ws)
    else
      let r := performScr s o half i g p
      (r.1, ps ++ [r.2], if writesScr i then ws ++ [(p.va, p.n)] else ws)) (getGroup s gi, [], [])
  let sts : Bool := match i with
    | .sts .. => true
    | _ => false
  ws.foldl (fun s r => scratchWritten s gi half r.1 r.2 o.warp id sts) (updOp (setGroup s gi g) id fun o => { o with parts := ps })

/-- The operations that wait for empty lines, in the order of issue, on one half of a group. -/
def lineWaiters (s : State) (gi half : Nat) : List Nat :=
  (s.ops.filter fun e => e.2.phase == .lines && (getWarp s e.2.warp).group == gi && halfOf s (getWarp s e.2.warp) == half).map (·.1)

/-- R213: a waiting read or atomic proceeds on a line that is full; on a barrier line an atomic stays for its trap. -/
def proceed (gi half n : Nat) (s : State) (id : Nat) : State :=
  let o := getOp s id
  match o.kind with
  | .word i =>
    if lineHeld s id o n || (writesScr i && (lineOf (getGroup s gi) half n).bar) then s
    else scrDo s gi half id i (fun p => p.va / 128 == n)
  | _ => s

/-- R212, R213: a line becomes full, and what waits for it proceeds; LINE_FILL_WAKE completes the words that have nothing left to do. -/
def fillLine (s : State) (gi half n : Nat) : State :=
  let g := getGroup s gi
  let l := lineOf g half n
  let s1 := setGroup s gi (setLine g half n { l with full := true })
  let ws := lineWaiters s1 gi half
  if ws.isEmpty then s1 else send (ws.foldl (proceed gi half n) s1) none (.lineFillWake gi half n)

def emptyLine (s : State) (gi half n : Nat) : State :=
  updGroup s gi fun g => setLine g half n { lineOf g half n with full := false }

/-! ### Conditions of events (R298) -/

/-- R294. -/
def phasePassed (phase p : Nat) : Bool :=
  let d := (phase + 2 ^ 32 - p % 2 ^ 32) % 2 ^ 32
  1 ≤ d && d ≤ 2 ^ 31 - 1

/-- The KIND of a live object in a line: 1 barrier, 2 mailbox header, 0 none. -/
def lineKind (g : Group) (half n : Nat) : Nat :=
  if (lineOf g half n).bar then (scrByte g half (128 * n + 0x7C)).toNat else 0

def barPhase (g : Group) (half n : Nat) : Nat := scrNat g half (128 * n) 4

/-- R298, R299: the barrier that an entry names was invalidated, or its ring freed. -/
def evGone (s : State) (x : Warp) (e : EvEntry) : Bool :=
  let g := getGroup s x.group
  let kind := lineKind g (halfOf s x) (e.object % 2 ^ 13)
  let l := lineOf g (halfOf s x) (e.object % 2 ^ 13)
  (e.typ == 1 && kind != 1 && l.inval) || (e.typ == 4 && kind != 2 && l.freed)

/-- R298: whether the condition of an entry holds for its warp. DEDUCED: log 52. -/
def evHolds (s : State) (x : Warp) (e : EvEntry) : Bool :=
  let g := getGroup s x.group
  let h := halfOf s x
  let n := e.object % 2 ^ 13
  match e.typ with
  | 1 => if lineKind g h n = 1 then phasePassed (barPhase g h n) e.arg else evGone s x e
  | 2 => 3 ≤ (copyWord s x e.object).toNat / 2 ^ 29
  | 3 => match copyNamed s x e.object with
    | some (_, c) => unfinished c && c.promise ≤ coreTime s x.core
    | none => false
  | 4 => if lineKind g h n = 2 then scrNat g h (128 * n) 4 != scrNat g h (128 * n + 4) 4 else evGone s x e
  | 5 => (mapGetD x.holds (e.object % 4) {}).st == .held
  | 6 => (mapGetD x.holds (e.object % 4) {}).st == .refused
  | 7 => e.object ≤ coreTime s x.core
  | 8 => x.stop
  | 9 => match mapGet s.colls e.object with
    | some c => c.iface == x.iface && c.st != 0
    | none => false
  | _ => false

/-- R299: DETAIL of EVID. -/
def evDetail (s : State) (x : Warp) (e : EvEntry) : Nat :=
  match e.typ with
  | 1 | 4 => e.gone.toNat
  | 2 => (copyWord s x e.object).toNat / 2 ^ 24
  | 5 | 6 => e.object % 4
  | 9 => match mapGet s.colls e.object with
    | some c => if c.st = 2 then 1 else 0
    | none => 0
  | _ => 0

/-! ### Latching and firing (R300, R307) -/

/-- R299: what an entry keeps of the moment it is latched. -/
def latchNote (s : State) (x : Warp) (k : Nat) : Warp :=
  { x with events := mapUpd x.events k fun e => { e with gone := e.gone || evGone s x e, rung := e.rung || e.typ == 7 } }

/-- R300: latches entry k by arming or at WAITANY: PEND only. -/
def latchPend (s : State) (x : Warp) (k : Nat) : Warp := latchNote s { x with evp := x.evp ||| BitVec.twoPow 16 k } k

/-- R300 rule 2: PEND, or OVR where it was pending. -/
def latchSignal (s : State) (x : Warp) (k : Nat) : Warp :=
  if x.evp.getLsbD k then latchNote s { x with evp := x.evp ||| BitVec.twoPow 16 (8 + k) } k else latchPend s x k

/-- R380: a GRAPH entry resumes one set of a stopped warp; after it the next blocking point retires the warp. -/
def graphSpent (x : Warp) (k : Nat) : Bool := x.graphSeen && ((mapGet x.events k).any fun e => e.typ == 8)

/-- The entry that WAITANY takes: the lowest pending and not masked. -/
def firing (x : Warp) : Option Nat := (List.range 8).find? fun k => x.evp.getLsbD k && !x.evm.getLsbD k && !graphSpent x k

/-- The sets of a warp that wait in WAITANY, the one that has waited longest first, ties to the lowest lane (R307). -/
def anySet (x : Warp) : Lanes :=
  let m := waiting x (· == .anyEvent)
  let ts := laneList m
  let t0 := (ts.map fun t => (threadOf x t).since).foldl min ((threadOf x (lowLane m)).since)
  lanesWhere x fun th => th.cond == .waiting .anyEvent && th.since == t0

/-- R307: a set resumes at the handler of an entry. -/
def fireEntry (s : State) (w k : Nat) (m : Lanes) : State :=
  let x := getWarp s w
  match mapGet x.events k with
  | none => s
  | some e =>
    let ovr := (x.evp.getLsbD (8 + k)).toNat
    let v : Word := BitVec.ofNat 32 (evDetail s x e * 256 + e.typ * 16 + ovr * 8 + k)
    let keep : BitVec 16 := ~~~(BitVec.twoPow 16 k ||| BitVec.twoPow 16 (8 + k))
    let events :=
      if !e.repeats then mapErase x.events k
      else mapSet x.events k { e with arg := if e.typ = 1 then (e.arg + 1) % 2 ^ 32 else e.arg, gone := false }
    let pc : DWord := codeBase s x + BitVec.ofNat 64 ((x.evh.toNat + e.hoff) % 2 ^ 32)
    let y := { x with evp := x.evp &&& keep, events := events, graphSeen := x.graphSeen || (x.stop && e.typ == 8) }
    let s1 := setWarp s w (updThreads y m fun _ th => { th with evid := v })
    wake s1 w m fun _ => pc

/-- R301, R307: waiting sets resume while an entry is pending and not masked; an evicted warp resumes later. -/
def resumeAny (s : State) (w : Nat) : Nat → State
  | 0 => s
  | n + 1 =>
    let x := getWarp s w
    let m := anySet x
    match firing x with
    | some k => if m = 0 || !x.resident then s else resumeAny (fireEntry s w k m) w n
    | none => s

/-- R301: a signal acts on one warp: rule 2 of R300 for every armed entry that names the object and whose condition holds; then waiting sets resume. -/
def signalWarp (s : State) (w : Nat) (names : EvEntry → Bool) : State :=
  let x := getWarp s w
  let ks := x.events.filter fun e => e.2.typ != 0 && names e.2 && evHolds s x e.2
  if ks.isEmpty then s
  else resumeAny (setWarp s w (ks.foldl (fun x e => latchSignal s x e.1) x)) w 16

/-- The warps of a group on one of its cores. -/
def warpsOf (s : State) (gi half : Nat) : List Nat :=
  (s.warps.filter fun e => e.2.group == gi && halfOf s e.2 == half).map (·.1)

/-- A signal to the group's warps on one core. -/
def signalGroup (s : State) (gi half : Nat) (names : EvEntry → Bool) : State :=
  (warpsOf s gi half).foldl (fun s w => signalWarp s w names) s

/-! ### Barriers (R293, R301, R304) -/

/-- R304: the phase passed: the acquire of BARWAIT begins; its word completes when it has acted. -/
def beginBarAcquire (s : State) (w : Nat) (m : Lanes) (sc : Scope) (d : Nat) : State :=
  let x := getWarp s w
  let o : Op := {
    warp := w, kind := .word (.barwait ⟨7, 0⟩ sc (.p ⟨d % 8, Nat.mod_lt _ (by decide)⟩) (.imm 0) (.imm 0)), lanes := m
    pc := (threadOf x (lowLane m)).pc, scope := sc, phase := .acquiring, args := [d] }
  let id := s.next
  updWarp (newOp s o) w fun x => updThreads x m fun _ th => { th with cond := .waiting (.barAcquire id) }

/-- The BARWAIT sets of a warp on a line: each with its lanes and what it waits for. -/
def barSets (x : Warp) (n : Nat) : List (Lanes × Nat × Scope × Nat) :=
  (x.threads.filterMap fun th => match th.cond with
    | .waiting (.barrier l p sc d) => if l = n then some (p, sc, d) else none
    | _ => none).dedup.map fun (p, sc, d) => (waiting x (· == .barrier n p sc d), p, sc, d)

/-- R355: the arrival of a warp carries what it knows to a barrier line's phase. -/
def tellLine (s : State) (gi half n w : Nat) : State :=
  updGroup s gi fun g =>
    let p := barPhase g half n
    { g with unfenced := mapAll g.unfenced fun _ u => if u.known.contains w then { u with lines := (n, p) :: u.lines } else u }

/-- R355: a BARWAIT that passes makes known what arrivals of passed phases carried. -/
def learnLine (s : State) (gi half n w : Nat) : State :=
  updGroup s gi fun g =>
    let p := barPhase g half n
    { g with unfenced := mapAll g.unfenced fun _ u =>
        if u.lines.any fun l => l.1 == n && phasePassed p l.2 then { u with known := w :: u.known } else u }

/-- R301: wakes the BARWAITs of a warp on a line whose phase has passed; an evicted warp makes the test when it resumes (R304). -/
def wakeBar (s : State) (gi half n w : Nat) : State :=
  if !(getWarp s w).resident then s else (barSets (getWarp s w) n).foldl (fun s (m, p, sc, d) =>
    if phasePassed (barPhase (getGroup s gi) half n) p then beginBarAcquire (learnLine s gi half n w) w m sc d else s) s

/-- R304: BARINIT.INVAL wakes every BARWAIT on the line with Pd false and no acquire. -/
def wakeBarInval (s : State) (n w : Nat) : State :=
  if !(getWarp s w).resident then s else (barSets (getWarp s w) n).foldl (fun s (m, _, _, d) =>
    let s1 := putP s w 0 d m fun _ => false
    wake s1 w m fun t => (threadOf (getWarp s1 w) t).pc) s

/-- R293: the completion test of a barrier line, and the signal. -/
def barTest (s : State) (gi half n : Nat) : State :=
  let g := getGroup s gi
  let a := 128 * n
  let expect := scrNat g half (a + 4) 3
  let arrivedN := scrNat g half (a + 8) 3
  let xb := scrNat g half (a + 0x10) 8
  let lb := scrNat g half (a + 0x18) 8
  if expect ≤ arrivedN && xb ≤ lb then
    let canc := scrNat g half (a + 0x20) 2
    let g := setScrNat g half a 4 ((scrNat g half a 4 + 1) % 2 ^ 32)
    let g := setScrNat g half (a + 0x20) 4 (canc * 65536)
    let g := setScrNat g half (a + 8) 3 0
    let g := setScrNat g half (a + 0x10) 16 0
    let s1 := setGroup s gi g
    let s2 := (warpsOf s1 gi half).foldl (fun s w => wakeBar s gi half n w) s1
    signalGroup s2 gi half fun e => e.typ == 1 && e.object % 2 ^ 13 == n
  else s

/-- R293: an arrival on a live barrier line: its count, expected and landed bytes, and whether it is of a cancelled copy. -/
def barArrive (s : State) (gi half n count xbytes lbytes : Nat) (cancel : Bool) : State :=
  let g := getGroup s gi
  let a := 128 * n
  let add (g : Group) (off len x top : Nat) : Group := setScrNat g half (a + off) len (min (scrNat g half (a + off) len + x) top)
  let g := add g 8 3 count 0xFFFFFF
  let g := setScrNat g half (a + 0x10) 8 ((scrNat g half (a + 0x10) 8 + xbytes) % 2 ^ 64)
  let g := setScrNat g half (a + 0x18) 8 ((scrNat g half (a + 0x18) 8 + lbytes) % 2 ^ 64)
  let g := if cancel then add g 0x20 2 1 0xFFFF else g
  barTest (setGroup s gi g) gi half n

/-- R218, R236: the arrival of a copy on the barrier line it names. -/
def copyArrive (s : State) (c : Copy) (bytes : Nat) (cancel : Bool) : State :=
  match c.bar with
  | none => s
  | some n => if lineKind (getGroup s c.group) c.half n = 1 then barArrive s c.group c.half n 1 0 bytes cancel else s

/-- R298: a copy has stopped, is done or is cancelled. -/
def signalCopy (s : State) (c : Copy) : State :=
  signalGroup s c.group c.half fun e => e.typ == 2 && e.object == copyId c

/-- R221: a finished copy frees its slot; its status stays readable until the slot is reused. -/
def freeSlot (s : State) (c : Copy) : State :=
  let k := c.core * 64 + c.slot
  if c.node.isSome then s else { s with copySlots := mapUpd s.copySlots k fun x => { x with freed := s.freed + 1 }, freed := s.freed + 1 }

/-- R212, R236: the lines of a copy that nothing else still writes become full. -/
def releaseLines (s : State) (id : Nat) (c : Copy) : State :=
  if intoScratch c then
    (linesOf (copyStart c) c.bytes).foldl (fun s n =>
      if lineSettled s c.group c.half n (some id) none then fillLine s c.group c.half n else s) s
  else s

/-- R236: a copy is cancelled: lines released, its barrier credited in full, its state 5. Parked accesses of it are dropped. DEDUCED: log 47. -/
def cancelCopy (s : State) (id : Nat) : State :=
  match mapGet s.copies id with
  | none => s
  | some c =>
    if !unfinished c then s
    else
      let s1 := updCopy s id fun c => { c with st := .cancelled, cause := 0 }
      let s2 := freeSlot { s1 with parks := mapFilter s1.parks fun _ p => p.copy != some id } c
      signalCopy (copyArrive (releaseLines s2 id c) c c.credit true) c

end Sys2Proof.Machine
end

