-- ==== Sys2Proof/Machine/Holds.lean ====
section
/-! DEFINITION. Hold slots (R318), region handles (R316), and the beginning of a leave (R335), which RLEAVE, EXIT and the END action share. -/

namespace Sys2Proof.Machine

/-- R316: the parts of a handle: slice, generation, entry. -/
def handleSlice (h : Nat) : Nat := h / 2 ^ 26 % 64
def handleGen (h : Nat) : Nat := h / 64 % 2 ^ 20
def handleEntry (h : Nat) : Nat := h % 64
/-- The key of a handle's entry in `State.regions`. -/
def handleKey (h : Nat) : Nat := handleSlice h * 64 + handleEntry h
def makeHandle (slice gen entry : Nat) : Nat := slice * 2 ^ 26 + gen * 64 + entry

def getRegion (s : State) (k : Nat) : Region := mapGetD s.regions k {}
def updRegion (s : State) (k : Nat) (f : Region → Region) : State := { s with regions := mapPut {} s.regions k (f (getRegion s k)) }

/-- R316: a handle that is valid for an interface. -/
def validHandle (s : State) (iface h : Nat) : Bool :=
  let r := getRegion s (handleKey h)
  h != 0 && r.live && r.gen == handleGen h && r.iface == iface

def getHold (x : Warp) (n : Nat) : Hold := mapGetD x.holds n {}
def setHold (s : State) (w n : Nat) (h : Hold) : State := updWarp s w fun x => { x with holds := mapPut {} x.holds n h }

/-- R67, R317: the code of a room mode. -/
def roomNum : Room → Nat
  | .read => 0 | .write => 1 | .accum => 2 | .push => 3 | .pop => 4

/-- R335: leaving a slot: the incomplete RLEAVE carries slot, handle, mode, visit, and what it does once earlier room words are complete: 0 leaves, 1 withdraws a demand, 2 only waits. The slot becomes FREE at the issue. DEDUCED: log 56. -/
def beginLeave (s : State) (w n : Nat) (m : Lanes) (pc : DWord) (cf : Option Nat) : State :=
  let h := getHold (getWarp s w) n
  let o (what : Nat) : Op := {
    warp := w, kind := .word (.rleave ⟨7, 0⟩ (.h ⟨n % 4, Nat.mod_lt _ (by decide)⟩)), lanes := m, pc := pc, cf := cf, scope := .device
    args := [n, h.handle.toNat, roomNum h.mode, h.visit, what] }
  match h.st with
  | .held => newOp (setHold s w n {}) (o 0)
  | .pending => newOp (setHold s w n {}) (o 1)
  | .refused => newOp (setHold s w n {}) (o 2)
  | .free => s

end Sys2Proof.Machine
end

