-- ==== Sys2Proof/Machine/Ops.lean ====
section
/-! DEFINITION. What every word shares: its issue (R69), taking a trap (R393 to R399), the launch abort (R400), the end of threads (R101), the return from a handler (R402), and demotion (R275). -/

namespace Sys2Proof.Machine

/-! ### The end of threads -/

/-- R403: the offset from CODEBASE of an address of a warp's launch. -/
def pcOff (s : State) (x : Warp) (pc : DWord) : Word := (pc - codeBase s x).setWidth 32

/-- R443: the launch sequence number of a warp. -/
def warpSeq (s : State) (x : Warp) : Word := BitVec.ofNat 32 (getLaunch s x.launch).seq

/-- R227, R353: a copy stop that no warp holds latched any more, at the end of the last one that did: a recoverable record, and the copy is cancelled. -/
def copyStopLost (s : State) (a : Async) : State :=
  match a.copy with
  | none => s
  | some id =>
    if s.warps.any fun e => e.2.latched.any fun b => b.copy == some id then s
    else
      let c := getCopy s id
      let x := getWarp s c.warp
      cancelCopy (plainRecord s x.iface true
        (trapRecord 0 a.detail a.cause (warpWord x) (warpSeq s x) (pcOff s x c.pc) a.addr a.aux1 a.aux2)) id

/-- R251: words lost are counted, saturating. -/
def countLost (s : State) (iface n : Nat) : State :=
  updIface s iface fun x => { x with olcount := BitVec.ofNat 32 (min (x.olcount.toNat + n) 0xFFFFFFFF) }

/-- How many bits of a mask are set. -/
def popNat (x n : Nat) : Nat := ((List.range n).filter fun i => x.testBit i).length

/-- R395: an asynchronous trap whose warp has no thread left. -/
def asyncLost (s : State) (x : Warp) (a : Async) : State :=
  if a.cause = causeOwnerLost then countLost s x.iface (popNat (a.f6.toNat % 65536) 16)
  else if a.cause = causeCross then s
  else copyStopLost s a

/-- R101: what the end of a warp's last thread does: rooms are left, H0 first, demands withdrawn, the event list discarded, latched traps judged. -/
def endOfWarp (s : State) (w : Nat) : State :=
  let x := getWarp s w
  if x.endDone || !allEnded x then s
  else
    let s1 := (List.range 4).foldl (fun s n => beginLeave s w n allLanes 0 none) s
    let s2 := updWarp s1 w fun x => { x with events := [], latched := [], endDone := true }
    x.latched.foldl (fun s a => asyncLost s x a) s2

/-- R101: threads end. -/
def exitThreads (s : State) (w : Nat) (m : Lanes) : State := endOfWarp (settle (markEnded s w m) w) w

/-! ### The launch abort (R400) -/

/-- The warps of a launch. -/
def launchWarps (s : State) (l : Nat) : List Nat := (s.warps.filter fun e => e.2.launch == l).map (·.1)

/-- R400: signatures not yet issued, and operations that wait to issue, are discarded; their words end. -/
def dropSignatures (s : State) (l : Nat) : State :=
  let mine (g : Nat) : Bool := (getGroup s g).launch == l
  let waiting := (mapVals s.arrays).flatten.filter fun a => mine a.group && !a.issued
  let ids := (s.groups.filter fun e => e.2.launch == l).flatMap fun e => (mapVals e.2.j).flatMap fun j => j.signers.map (·.2)
  let s1 := { s with
    arrays := mapAll s.arrays fun _ l => l.filter fun a => !mine a.group || a.issued
    groups := mapAll s.groups fun _ g =>
      if g.launch = l then { g with j := mapAll g.j fun _ j => { j with signed := 0, op := none, signers := [] } } else g }
  (ids ++ waiting.flatMap fun a => a.signers.map (·.2)).foldl finishOp s1

/-- R432: the collectives named by armed COLL entries of a launch. -/
def launchColls (s : State) (l : Nat) : List Nat :=
  (s.warps.filter fun e => e.2.launch == l).flatMap fun e =>
    (e.2.events.filter fun v => v.2.typ == 9 && (mapGetD s.colls v.2.object {}).iface == e.2.iface).map fun v => v.2.object

/-- R400 steps 2 to 5. -/
def endLaunch (s : State) (l cause : Nat) : State :=
  let la := getLaunch s l
  let colls := launchColls s l
  let s1 := setLaunch s l { la with aborted := some cause, cancelled := true }
  let s2 := (s1.copies.filter fun e => e.2.node.isNone && (getWarp s1 e.2.warp).launch == l && unfinished e.2).foldl
    (fun s e => cancelCopy s e.1) s1
  let s3 := dropSignatures s2 l
  let s4 := (launchWarps s3 l).foldl (fun s w => exitThreads s w allLanes) s3
  let s5 := colls.foldl (fun s h => send s none (.collAbort h 4)) s4
  match la.node with
  | some (g, n) => send s5 (nodeChan g n) (.nodeFail g n 2 cause)
  | none => s5

/-- What a lane that traps brings (R398). -/
structure TrapIn where
  lane : Nat
  cause : Nat
  detail : Nat := 0
  addr : Nat := 0
  aux1 : Word := 0
  aux2 : Word := 0
  f6 : Word := 0
  f7 : Word := 0
  deriving DecidableEq, Repr

/-- R400: the END action for a trap of a warp: the first writes the unrecoverable record, a later one raises its count (R403). -/
def abort (s : State) (w : Nat) (pc : Word) (t : TrapIn) : State :=
  let x := getWarp s w
  let la := getLaunch s x.launch
  match la.aborted with
  | some _ =>
    match la.abortRec with
    | some a => devWriteNat s (a + 28) 4 (min (devNat s (a + 28) 4 + 1) 0xFFFFFFFF)
    | none => s
  | none =>
    let q := queueOf (getIface s x.iface) true
    let written := queueOn q && !queueFull q && physOk (q.base + 32 * q.tail)
    let s1 := plainRecord s x.iface true (trapRecord 1 t.detail t.cause (warpWord x) (warpSeq s x) pc t.addr t.aux1 0)
    endLaunch (updLaunch s1 x.launch fun l => { l with abortRec := if written then some (q.base + 32 * q.tail) else none }) x.launch t.cause

/-! ### Taking a trap (R393 to R399) -/

/-- R397: TRAPINFO at delivery. -/
def trapInfo (t : TrapIn) (inHandler : Bool) : Word :=
  BitVec.ofNat 32 (t.detail * 65536 + (if inHandler then 256 else 0) + t.cause)

/-- R398: the trap frame; F0 is TRAPINFO as delivered. -/
def trapFrame (t : TrapIn) (off : Word) : List Word :=
  [trapInfo t true, off, lo32 t.addr, hi32 t.addr, t.aux1, t.aux2, t.f6, t.f7]

/-- R397, R398: the threads that trap receive TRAPINFO and their frames; INHANDLER stays 1 where they enter a handler. -/
def writeFrames (x : Warp) (off : Word) (inHandler : Bool) (ts : List TrapIn) : Warp :=
  ts.foldl (fun x t => updThreads x (BitVec.twoPow 32 t.lane) fun _ th =>
    { th with trapinfo := trapInfo t inHandler, frame := trapFrame t off }) x

/-- The lanes of a list of traps. -/
def trapLanes (ts : List TrapIn) : Lanes := laneSet fun t => ts.any fun x => x.lane == t

/-- R396, R393: the lanes of one cause, none of them in a handler, take the handler or the default action: END, or RESUME, which is delivery and return at once (R402). `pc` is the frame's. R400: of a launch that has been aborted no thread goes on. -/
def enterHandler (s : State) (w : Nat) (pc : DWord) (cause : Nat) (ts : List TrapIn) : State :=
  let x := getWarp s w
  let off := pcOff s x pc
  let m := trapLanes ts
  let vec := (getLaunch s x.launch).record.trapvec.getD cause 0xFFFFFFFF
  if (getLaunch s x.launch).aborted.isSome then
    match ts with
    | t :: _ => if vec = 0xFFFFFFFF && cause != causeLate && cause != causeOwnerLost then abort s w off t else s
    | [] => s
  else if vec = 0xFFFFFFFF then
    if cause = causeLate || cause = causeOwnerLost then jump (setWarp s w (writeFrames x off false ts)) w m fun _ => pc
    else match ts with
      | t :: _ => abort s w off t
      | [] => s
  else
    let sub := x.subs + 1
    let x1 := writeFrames { x with subs := sub } off true ts
    let x2 := updThreads x1 m fun _ th => { th with sub := sub }
    settle (setWarp s w (makeReady s x2 m fun _ _ => codeBase s x + vec.setWidth 64)) w

/-- R396, R399: the lanes of one cause; a thread already in a handler takes END, with bit 7 of DETAIL. DEDUCED: log 25. -/
def deliverCause (s : State) (w : Nat) (pc : DWord) (cause : Nat) (ts : List TrapIn) : State :=
  let h := handlerLanes (getWarp s w)
  let s1 := match ts.filter fun t => h.getLsbD t.lane with
    | [] => s
    | t :: _ => abort s w (pcOff s (getWarp s w) pc) { t with detail := t.detail ||| 128 }
  match ts.filter fun t => !h.getLsbD t.lane with
  | [] => s1
  | t :: r => enterHandler s1 w pc cause (t :: r)

/-- R396: traps raised at one word are taken in ascending cause order. -/
def deliver (s : State) (w : Nat) (pc : DWord) (ts : List TrapIn) : State :=
  (List.range 14).foldl (fun s c =>
    match ts.filter fun t => t.cause == c with
    | [] => s
    | t :: r => deliverCause s w pc c (t :: r)) s

/-- R395: an asynchronous trap is latched, or judged where no thread is left. -/
def latchAsync (s : State) (w : Nat) (a : Async) : State :=
  match mapGet s.warps w with
  | none => s
  | some x => if allEnded x then asyncLost s x a else setWarp s w { x with latched := x.latched ++ [a] }

/-- R395: the active threads of a word take the oldest latched trap before the word acts. DEDUCED: log 24. -/
def takeAsync (s : State) (w : Nat) (m : Lanes) (pc : DWord) : State :=
  let x := getWarp s w
  match x.latched with
  | [] => s
  | a :: r =>
    deliver (setWarp s w { x with latched := r }) w pc
      ((laneList m).map fun t => ⟨t, a.cause, a.detail, a.addr, a.aux1, a.aux2, a.f6, a.f7⟩)

/-- R402: threads return from a handler to their targets and leave the sub-warp. -/
def returnFrom (s : State) (w : Nat) (m : Lanes) (pc : Nat → DWord) : State :=
  let x := updThreads (getWarp s w) m fun _ th => { th with trapinfo := th.trapinfo &&& 0xFFFFFEFF, sub := 0 }
  settle (setWarp s w (makeReady s x m fun t _ => pc t)) w

/-! ### Issue -/

/-- A word that issues: the warp, its active threads, its set, and the word's address. -/
structure Issue where
  w : Nat
  act : Lanes
  set : Lanes
  pc : DWord
  deriving DecidableEq, Repr

/-- R69: a word issues for the set in `State.cur`. Its threads go on at the next word; the word has its effect only where a thread is active. DESIGN CHOICE: log 10. -/
def issue (s : State) (c : Ctl) (f : Issue → State → State) : Host.Outcome State Fault Refusal :=
  match s.cur with
  | none => .fault .noIssuer
  | some (w, set) =>
    let x := getWarp s w
    let act := guardLanes s w x set c.guard
    let s1 := advance s w set
    if act = 0 then .next s1
    else .next (f ⟨w, act, set, (threadOf x (lowLane set)).pc⟩ s1)

/-- An event acts on the message in `State.msg`. -/
def event (s : State) (f : Msg → State → Option State) : Host.Outcome State Fault Refusal :=
  match s.msg with
  | none => .fault .noMessage
  | some m => match f m s with
    | none => .fault .noMessage
    | some s1 => .next s1

/-- A trap of every active thread (R174). -/
def trapSet (s : State) (i : Issue) (cause : Nat) (detail addr : Nat := 0) : State :=
  deliver s i.w i.pc ((laneList i.act).map fun t => { lane := t, cause := cause, detail := detail, addr := addr })

/-- The record of a word that becomes incomplete: its registers, its counter and its address. -/
def opOf (ins : Instr) (i : Issue) (c : Ctl) : Op :=
  let u := usesOf ins
  { warp := i.w, kind := .word ins, lanes := i.act, pc := i.pc, cf := setOf c, reads := u.1, writes := u.2 }

/-- R275: the scope at which a word acts, or `none` where its threads trap DEMOTE. -/
def demote (s : State) (i : Issue) (sc : Scope) : Option (State × Scope) :=
  let p := (getIface s (getWarp s i.w).iface).policy
  if sc != .system || p.getLsbD 0 then some (s, sc)
  else if p.getLsbD 1 then none
  else some (updWarp s i.w fun x => { x with status := x.status ||| 0x200 }, .tenant)

/-- R275: a word of a scope, after demotion. -/
def withScope (s : State) (i : Issue) (sc : Scope) (f : Scope → State → State) : State :=
  match demote s i sc with
  | none => trapSet s i causeDemote
  | some (s1, sc1) => f sc1 s1

/-- The value of a source operand from the lowest active lane. -/
def lowVal (s : State) (i : Issue) (o : Opd) (w : Nat) : Nat := srcVal s i.w (getWarp s i.w) o w (lowLane i.act)

end Sys2Proof.Machine
end

