-- ==== Sys2Proof/Machine/Duties.lean ====
section
/-! DEFINITION. Broken duties of software (R12): stores to the engine's fields of a running graph (R373), to the ring of an open region (R324), to a contribution that a collective may still read, and to its arrival word (R431). -/

namespace Sys2Proof.Machine

/-- The offset of a byte in the physical runs of a region. -/
def spanOffset : List (Nat × Nat) → Nat → Option Nat
  | [], _ => none
  | (a, n) :: l, pa => if a ≤ pa && pa < a + n then some (pa - a) else (spanOffset l pa).map (n + ·)

/-- The physical address at an offset of a region. -/
def spanAddr : List (Nat × Nat) → Nat → Nat
  | [], _ => 0
  | (a, n) :: l, off => if off < n then a + off else spanAddr l (off - n)

/-- R193: the offset, in a run of virtual bytes that an engine uses, at which a physical byte lies. -/
def runOffset (s : State) (iface va n pa : Nat) : Option Nat :=
  (List.range ((va + n - 1) / 4096 - va / 4096 + 1)).findSome? fun k =>
    let p := (va / 4096 + k) * 4096
    match checkPage s 160 iface p {} with
    | .ok q _ _ => if q / 4096 == pa / 4096 && va ≤ p + pa % 4096 && p + pa % 4096 < va + n then some (p + pa % 4096 - va) else none
    | _ => none

/-! ### Graph records (R369, R370) -/

/-- The fields that only the engine writes, by offset from the header. -/
def engineField (off : Nat) : Bool :=
  if off < 64 then (4 ≤ off && off < 8) || (0x0C ≤ off && off < 0x18) || (0x28 ≤ off && off < 0x38)
  else (6 ≤ off % 64 && off % 64 < 0x0C) || (0x34 ≤ off % 64 && off % 64 < 0x37)

/-- R373: a byte of such a field of a running graph. -/
def graphByte (s : State) (pa : Nat) : Bool :=
  s.graphs.any fun e => !e.2.ended && (runOffset s e.2.iface e.2.hdr (64 + 64 * e.2.nodes.length) pa).any engineField

/-! ### Rings (R324) -/

/-- The bytes of a region's ring: HEAD and TAIL, and the elements. -/
def ringBytes (r : Region) : List Nat := List.range 8 ++ (List.range (r.count * r.elsize)).map (64 + ·)

/-- R324: a byte of the ring of a region of which a room is open. -/
def ringByte (r : Region) (pa : Nat) : Bool :=
  r.live && r.st != .idle && (r.perm.getLsbD 3 || r.perm.getLsbD 4) && match spanOffset r.spans pa with
    | some off => off < 8 || (64 ≤ off && off < 64 + r.count * r.elsize)
    | none => false

/-- R324: the contents of a ring are undefined: its pointers, and its bytes. -/
def spoilRing (s : State) (k : Nat) (r : Region) : State :=
  let f (i : Nat) : Nat := (fresh s (2 ^ 18 + i)).toNat
  let s1 := { s with regions := mapSet s.regions k { r with head := BitVec.ofNat 32 (f 0), tail := BitVec.ofNat 32 (f 1) } }
  (ringBytes r).foldl (fun s' off => openByteAt s' (spanAddr r.spans off) (BitVec.ofNat 8 (f (2 + off)))) s1

/-! ### Contributions (R431) -/

/-- R431: a byte of a contribution of an open collective that has been made. -/
def contributionByte (s : State) (c : Coll) (pa : Nat) : Bool :=
  c.st == 0 && !c.embx && (List.range c.ncont).any fun i => c.bits.getLsbD i &&
    match checkPage s 160 c.iface (c.src + 8 * i) {} with
    | .ok q _ _ => (runOffset s c.iface (devNat s q 8) ((tyOf (BitVec.ofNat 4 c.ty)).size * c.count) pa).isSome
    | _ => false

/-- R431: a byte of the arrival word of an open collective. -/
def arriveByte (c : Coll) (pa : Nat) : Bool := c.st == 0 && c.arrive ≤ pa && pa < c.arrive + 8

/-- R12: what a store of software to a run of physical bytes breaks; `b` is the state before the store. `ring`: it is not the ring's own word. `atom`: it is an atomic at DEVICE scope or wider, which the arrival word allows. -/
def breach (b s : State) (pa n : Nat) (ring atom : Bool) : State :=
  if s.graphs.isEmpty && s.regions.isEmpty && s.colls.isEmpty then s
  else
    let bytes := (List.range n).map (pa + ·)
    let arrives (c : Coll) (a : Nat) : Bool := !atom && arriveByte c a
    let open' (a : Nat) : Bool := graphByte b a || b.colls.any fun e => arrives e.2 a
    let s1 := (bytes.filter open').foldl (fun s' a =>
      openByteAt s' a (BitVec.ofNat 8 (fresh s (2 ^ 18 + 2 ^ 17 + (a - pa))).toNat)) s
    let s2 := if ring then (s.regions.filter fun e => bytes.any (ringByte e.2)).foldl (fun s' e => spoilRing s' e.1 e.2) s1 else s1
    { s2 with colls := mapAll s2.colls fun _ c => if bytes.any fun a => contributionByte b c a || arrives c a then { c with spoiled := true } else c }

end Sys2Proof.Machine
end

