-- ==== Sys2Proof/Machine/Access.lean ====
section
/-! DEFINITION. Memory accesses of lanes: the checks of R191, parked requests (R192, R193), the order in which a thread's accesses are performed (R211, R261 to R263, R267, R273), and their performance at L1, cluster cache and slice (R201, R241, R247). -/

namespace Sys2Proof.Machine

/-! ### What a word asks (R188, R191, R423) -/

/-- What a memory word asks of each lane. -/
structure Access where
  size : Nat
  align : Nat
  need : Need
  priv : Bool := false
  deriving DecidableEq, Repr

/-- R188: the permissions that the accesses of an operation need. -/
def needOf : OpKind → Need
  | .word i => match i with
    | .st .. | .stx .. | .cstore .. | .rst .. | .rpush .. => { w := true }
    | .atom .. | .atomf .. | .cas .. | .invr .. | .wbr .. | .invd .. | .racc .. => { r := true, w := true }
    | _ => { r := true }
  | .fetch .. => { r := true }
  | .push .. => { w := true }
  | .code => { x := true }

/-- R315: RDESC reads its descriptor, then needs R and W of the region's pages: its arguments are then the descriptor. -/
def rdescPages (o : Op) : Bool :=
  match o.kind with
  | .word (.rdesc ..) => !o.args.isEmpty
  | _ => false

def opNeed (o : Op) : Need := if rdescPages o then { r := true, w := true } else needOf o.kind

/-- R423: the access kind of a fault record: 0 read, 1 write, 2 atomic (which needs R and W), 3 fetch. -/
def accessCode (o : Op) : Nat :=
  let n := opNeed o
  if n.x then 3 else if n.r && n.w then 2 else if n.w then 1 else 0

/-- R196: the address of byte o of thread t. DEDUCED: log 34. -/
def privAddr (seg o t : Nat) : Nat := seg + o / 4 * 128 + t * 4 + o % 4

/-- The runs of an access: offset in the value, address, bytes. A private value lies in 4-byte words; a global one is cut at 4 KiB (R195, R196, R203). -/
def runsOf (seg : Nat) (a : Access) (t addr : Nat) : List (Nat × Nat × Nat) :=
  if a.priv then
    (List.range ((a.size + 3) / 4)).map fun j => (4 * j, privAddr seg (addr + 4 * j) t, min 4 a.size)
  else
    let n := min a.size (4096 - addr % 4096)
    if n = a.size then [(0, addr, n)] else [(0, addr, n), (n, addr + n, a.size - n)]

/-! ### Parked requests (R192, R193) -/

/-- R193: a request of the same core is parked on this span: a later one parks behind it. -/
def spanParked (s : State) (core iface page : Nat) : Bool :=
  s.parks.any fun e => e.1 / 8192 == quadOf core && e.2.iface == iface && e.2.page == page &&
    match e.2.op with
    | some j => (getOp s j).core == core
    | none => false

/-- A part that waits to be walked again. -/
def Part.waits (p : Part) : Bool :=
  match p.st with
  | .retry _ => true
  | _ => false

/-- R192: a core whose request was refused stalls for 256 ticks: it issues no word, and none of its requests is walked. -/
def coreStalled (s : State) (core : Nat) : Bool := s.gtime < mapGetD s.stalls core 0

/-- R193: takes a parked-fault entry for a line request; the first one on a 4 KiB span of the quadrant writes the fault record. The entry, or none where the table is full. -/
def takePark (s : State) (q access va : Nat) (p : Park) : State × Option Nat :=
  match mapFree s.parks (q * 8192) 8192 with
  | none => (s, none)
  | some k =>
    let first := !(s.parks.any fun e => e.1 / 8192 == q && e.2.iface == p.iface && e.2.page == p.page)
    let s1 := { s with parks := mapSet s.parks k { p with va := va, order := s.next }, next := s.next + 1 }
    (if first then replayRecord s1 p.iface (faultRecord 0 access q (k % 8192) 0 0 va 0) else s1, some (k % 8192))

/-- R192: a request of an operation parks; where the table is full the core stalls and tries it again after 256 ticks. DEDUCED: log 32. -/
def parkPart (s : State) (id : Nat) (o : Op) (iface : Nat) (p : Part) : State × Part :=
  let q := quadOf o.core
  match s.parks.find? fun e => e.1 / 8192 == q && e.2.op == some id && e.2.line == p.va / 256 with
  | some e => (s, { p with st := .parked (e.1 % 8192) })
  | none =>
    let (s1, r) := takePark s q (accessCode o) p.va
      { iface := iface, page := p.va / 4096, line := p.va / 256, access := accessCode o, op := some id }
    match r with
    | some n => (s1, { p with st := .parked n })
    | none => ({ s1 with stalls := mapSet s1.stalls o.core (s1.gtime + 256) }, { p with st := .retry (s1.gtime + 256) })

/-- A part with the translation that its walk gave. A private access is RC whatever the page's class (R197). -/
def Part.translated (p : Part) (pa : Nat) (e : DWord) (st : PartSt) : Part :=
  { p with
    pa := pa, st := st
    ord := if p.priv then 0 else (e.extractLsb' 5 2).toNat
    imm := e.getLsbD 7, olact := (e.extractLsb' 9 2).toNat }

/-- R208: INVD also needs DISCARD_OK. -/
def discards : OpKind → Bool
  | .word i => match i with
    | .invd .. => true
    | _ => false
  | _ => false

/-- R191 steps 2 to 5, R193: one request is walked: it is ready, parked, to be tried again, or fails with a cause. -/
def acceptPart (s : State) (id : Nat) (o : Op) (p : Part) : State × Part × Option Nat :=
  let iface := (getWarp s o.warp).iface
  if spanParked s o.core iface (p.va / 4096) then
    let r := parkPart s id o iface p
    (r.1, r.2, none)
  else match checkPage s o.core iface p.va (opNeed o) with
    | .trap c => (s, p, some c)
    | .ok pa e w =>
      if discards o.kind && !e.getLsbD 8 then (s, p, some causeAccess)
      else (tlbFill s o.core iface w, p.translated pa e .ok, none)
    | .park => let r := parkPart s id o iface p; (r.1, r.2, none)

/-- R184: the elements of a CSTORE, whose pages are confirmed in ascending order. -/
def isCstore : OpKind → Bool
  | .word i => match i with
    | .cstore .. => true
    | _ => false
  | _ => false

/-- The part has its translation and can be performed. -/
def Part.walked (p : Part) : Bool :=
  match p.st with
  | .ok | .replay _ => true
  | _ => false

/-- R194, R283: a load, not an atomic. -/
def plainLoad : OpKind → Bool
  | .word i => match i with
    | .atom .. | .atomf .. | .cas .. => false
    | _ => loadWord (.word i)
  | _ => false

/-- R191, R192, R194: a part is to be walked now; `ps` are the parts before it: a CSTORE goes on to a page only when the ones below have passed (R184). A load of an evicted warp is withdrawn (R113). -/
def walkNow (s : State) (o : Op) (ps : List Part) (p : Part) : Bool :=
  (match p.st with
    | .retry t => t ≤ s.gtime
    | _ => false) && !coreStalled s o.core && ((getWarp s o.warp).resident || !plainLoad o.kind) && (!isCstore o.kind || ps.all fun q => q.walked || q.st == .done)

/-- Walks the parts of an operation that are to be walked now; the failures as lane, cause, address. -/
def acceptGo (id : Nat) (o : Op) (s : State) (ps : List Part) : State × List Part × List (Nat × Nat × Nat) :=
  ps.foldl (fun (s, done, fs) p =>
    if walkNow s o done p then
      let (s1, p1, f) := acceptPart s id o p
      match f with
      | some c => (s1, done ++ [{ p1 with st := .failed c }], fs ++ [(p.lane, c, p.va)])
      | none => (s1, done ++ [p1], fs)
    else (s, done ++ [p], fs)) (s, [], [])

/-- Frees the entries of an operation's lines that no part of it names any more. -/
def freeParks (s : State) (id : Nat) : State :=
  let o := getOp s id
  { s with parks := mapFilter s.parks fun k e =>
      e.op != some id || o.parts.any fun p => p.st == .parked (k % 8192) }

/-- Whether the word acts once for its set, so that a failing page traps all of it (R206, R332). -/
def setWide : OpKind → Bool
  | .word i => match i with
    | .invr .. | .wbr .. | .invd .. | .rdesc .. | .gfire .. | .gstat .. | .gstatG .. => true
    | _ => false
  | _ => false

/-- The traps of lanes that have not ended. -/
def liveTraps (x : Warp) (ts : List TrapIn) : List TrapIn := ts.filter fun t => (threadOf x t.lane).cond != .ended

/-- R206, R315, R383: the trap of a lane of a set whose page failed: its address, for a range word the first byte of the page; for a page of a region OPERAND. -/
def pageTrap (s : State) (o : Op) (c va t : Nat) : TrapIn :=
  if rdescPages o then { lane := t, cause := causeOperand }
  else match o.kind with
    | .word (.invr ..) | .word (.wbr ..) | .word (.invd ..) => { lane := t, cause := c, addr := pageStart s o.core (getWarp s o.warp).iface va }
    | _ => { lane := t, cause := c, addr := va }

/-- R191, R121, R60: what a failed request does: its lane traps and has no effect; an element of a stream keeps its fault for the pop or the SSTOP; a fetch traps; a CSTORE stops there (R184). An evicted warp traps when it resumes (R194). -/
def failLanes (s : State) (id : Nat) (fs : List (Nat × Nat × Nat)) : State :=
  match fs with
  | [] => s
  | (_, c, va) :: _ =>
    let o := getOp s id
    let x := getWarp s o.warp
    let m := laneSet fun t => fs.any fun f => f.1 == t
    match o.kind with
    | .fetch .. | .word (.cstore ..) => s
    | .push b _ =>
      let s1 := updOp s id fun o => { o with parts := o.parts.filter fun p => !m.getLsbD p.lane }
      freeParks (updWarp s1 o.warp fun x =>
        { x with pushFails := x.pushFails ++ fs.map fun f => ⟨b, f.1, f.2.1, f.2.2⟩ }) id
    | .code =>
      let s1 := { s with ops := mapErase s.ops id, parks := mapFilter s.parks fun _ e => e.op != some id }
      deliver s1 o.warp o.pc (liveTraps x ((laneList o.lanes).map fun t => { lane := t, cause := c, addr := o.pc.toNat }))
    | .word _ =>
      if !x.resident then s
      else if setWide o.kind then
        let s1 := finishOp { s with parks := mapFilter s.parks fun _ e => e.op != some id } id
        deliver s1 o.warp o.pc (liveTraps x ((laneList o.lanes).map fun t => pageTrap s o c va t))
      else
        let s1 := freeParks (updOp s id fun o =>
          { o with lanes := o.lanes &&& ~~~m, parts := o.parts.filter fun p => !m.getLsbD p.lane }) id
        let s2 := if (getOp s1 id).lanes = 0 then finishOp s1 id else s1
        let first (t : Nat) : Option TrapIn := (fs.find? fun f => f.1 == t).map fun f => { lane := t, cause := f.2.1, addr := f.2.2 }
        deliver s2 o.warp o.pc (liveTraps x ((laneList m).filterMap first))

/-- The failures that an operation still holds, because its warp was evicted (R194): lane, cause, address. -/
def failedParts (o : Op) : List (Nat × Nat × Nat) :=
  o.parts.filterMap fun p => match p.st with
    | .failed c => some (p.lane, c, p.va)
    | _ => none

/-- R191, R193: walks the requests of an operation that wait for it. DEDUCED: log 31. -/
def accept (s : State) (id : Nat) : State :=
  match mapGet s.ops id with
  | none => s
  | some o =>
    let (s1, ps, fs) := acceptGo id o s o.parts
    let parked := ps.any fun p => match p.st with
      | .parked _ => true
      | _ => false
    failLanes (updOp s1 id fun o => { o with parts := ps, parkedAt := if parked && o.parkedAt = 0 then s1.gtime else o.parkedAt }) id fs

/-! ### The checks of a word's lanes at issue (R191) -/

/-- What the checks of a lane at issue give. -/
inductive Plan where
  | parts (ps : List Part)
  | trap (cause addr : Nat)
  deriving DecidableEq, Repr

/-- R191 in one lane: alignment, range, then each run; a run whose walk faults is walked again by `accept`. -/
def planLane (s : State) (x : Warp) (a : Access) (t addr : Nat) (val cmp : Nat) : Plan :=
  let seg := privSegment s x
  let runs := runsOf seg a t addr
  let shown := if a.priv then privAddr seg addr t else addr
  if addr % a.align ≠ 0 then .trap causeAlign shown
  else if a.priv && addr + a.size > (getLaunch s x.launch).ps then .trap causeAccess shown
  else match runs.find? fun r => r.2.1 + r.2.2 > 2 ^ 48 with
    | some r => .trap causeAccess r.2.1
    | none =>
      let bad (c : Nat) : Option Nat := (runs.find? fun r => checkPage s x.core x.iface r.2.1 a.need == .trap c && !spanParked s x.core x.iface (r.2.1 / 4096)).map (·.2.1)
      match bad causeAccess, bad causeProtect with
      | some va, _ => .trap causeAccess va
      | none, some va => .trap causeProtect va
      | none, none => .parts (runs.map fun (off, va, n) =>
          { lane := t, off := off, va := va, n := n, priv := a.priv, st := .retry 0
            val := BitVec.ofNat 128 (val / 2 ^ (8 * off) % 2 ^ (8 * n)), cmp := BitVec.ofNat 128 (cmp / 2 ^ (8 * off) % 2 ^ (8 * n)) })

/-- The parts and the traps of a word's active lanes. -/
def planLanes (s : State) (i : Issue) (a : Access) (addr val cmp : Nat → Nat) : List Part × List TrapIn :=
  let x := getWarp s i.w
  (laneList i.act).foldl (fun (ps, ts) t =>
    match planLane s x a t (addr t) (val t) (cmp t) with
    | .parts q => (ps ++ q, ts)
    | .trap c va => (ps, ts ++ [{ lane := t, cause := c, addr := va }])) ([], [])

/-- A memory word issues: the lanes that pass the checks form an operation; the others trap. -/
def issueAccess (s : State) (i : Issue) (o : Op) (a : Access) (addr val cmp : Nat → Nat) : State :=
  let (ps, ts) := planLanes s i a addr val cmp
  let ok := laneSet fun t => ps.any fun p => p.lane == t
  let id := s.next
  let s1 := if ok = 0 then s else accept (newOp s { o with lanes := ok, parts := ps }) id
  deliver s1 i.w i.pc ts

/-! ### Order (R211, R261 to R263, R267, R273) -/

/-- Two parts share an aligned 4-byte word. -/
def Part.overlaps (p q : Part) : Bool :=
  p.pa / 4 ≤ (q.pa + q.n - 1) / 4 && q.pa / 4 ≤ (p.pa + p.n - 1) / 4

/-- R271: a load with an acquire is not performed before an earlier release of its thread is complete. -/
def acqHeld (s : State) (id : Nat) (o : Op) : Bool := (relAcq o).2.1 && (before s id o).any fun e => (relAcq e).1

/-- Two parts share an aligned 4-byte word: of physical memory, or of virtual memory while one of them is not walked. -/
def Part.meets (p q : Part) : Bool :=
  if p.walked && (q.walked || !q.undone) then p.overlaps q
  else p.va / 4 ≤ (q.va + q.n - 1) / 4 && q.va / 4 ≤ (p.va + p.n - 1) / 4

/-- R261, R270, R208: in one lane, an earlier access to a common word is not performed. -/
def wordHeld (o e : Op) (t : Nat) : Bool :=
  o.parts.any fun p => p.lane == t && p.undone && e.parts.any fun q =>
    (q.lane == t || setWide e.kind || setWide o.kind) && q.undone && p.meets q

/-- R189, R273 note a: SO accesses of a thread are performed and complete in program order. DEDUCED: log 35. -/
def soHeld (o e : Op) (t : Nat) : Bool :=
  o.parts.any (fun p => p.lane == t && p.undone && p.ord == 1) &&
    e.parts.any fun q => q.lane == t && (q.ord == 1 || (q.undone && !q.walked))

/-- A word has done its accesses in a lane. -/
def Op.did (o : Op) (t : Nat) : Bool :=
  match o.phase with
  | .redirected | .publishing | .acquiring | .asked => true
  | _ => (o.parts.any fun p => p.lane == t) && o.parts.all fun p => p.lane != t || !p.undone

/-- R267: words that a FENCE or an acquire has held are performed in program order. -/
def orderHeld (o e : Op) (t : Nat) : Bool := o.held && e.held && e.lanes.getLsbD t && !e.did t

/-- R268: a held word of an evicted warp waits for the warp's resumption. -/
def awayHeld (s : State) (o : Op) : Bool := o.held && !(getWarp s o.warp).resident

/-- R263, R267, R268: a word that acts once for its lanes is held in the memory port: by a FENCE or an acquire, by an earlier held word, or because its warp is evicted. -/
def portHeld (s : State) (id : Nat) (o : Op) : Bool :=
  fenceHeld s id o || awayHeld s o || (opsBefore s o.warp id).any fun e => (laneList o.lanes).any fun t => orderHeld o e.2 t

/-- R193: replays of one span are performed in the order in which they parked. -/
def replayHeld (s : State) (o : Op) (t : Nat) : Bool :=
  o.parts.any fun p => p.lane == t && match p.st with
    | .replay n => s.ops.any fun e =>
        quadOf e.2.core == quadOf o.core && (getWarp s e.2.warp).iface == (getWarp s o.warp).iface &&
        e.2.parts.any fun q => q.va / 4096 == p.va / 4096 && match q.st with
          | .replay m => m < n
          | _ => false
    | _ => false

/-- The level at which the core and the group of an operation realise its scope. -/
def opTwo (s : State) (o : Op) : Bool := groupTwo s (getWarp s o.warp)
def opLevel (s : State) (o : Op) : Nat := scopeLevel (opTwo s o) o.scope

/-- DEDUCED: log 30. -/
def memoryAtom : OpKind → Bool
  | .word i => match i with
    | .atom _ _ t _ _ | .atomf _ _ t _ _ | .cas _ _ t _ _ => !t.scratch
    | _ => false
  | _ => false

/-- A lane of an operation that can be performed now, as far as its own order goes. -/
def laneReady (s : State) (id : Nat) (o : Op) (t : Nat) : Bool :=
  let ps := o.parts.filter fun p => p.lane == t
  ps.any Part.undone && ps.all (fun p => p.walked || !p.undone) && !replayHeld s o t &&
    (opsBefore s o.warp id).all fun e =>
      (if setWide o.kind then e.2.lanes &&& o.lanes = 0 else !e.2.lanes.getLsbD t)
        || (!wordHeld o e.2 t && !soHeld o e.2 t && !orderHeld o e.2 t)

/-- R195, R280: no other lane of the operation that touches a word of this lane is left behind. -/
def shares (o : Op) (m : Lanes) (t : Nat) : Bool :=
  o.parts.all fun p => p.lane != t || !p.undone || o.parts.all fun q => q.lane == t || !q.undone || m.getLsbD q.lane || !p.meets q

/-- R195, R280: of a set of lanes, those that are performed together with every lane that touches one of their words. -/
def together (o : Op) : Nat → Lanes → Lanes
  | 0, _ => 0
  | n + 1, m =>
    let k := laneSet fun t => m.getLsbD t && shares o m t
    if k = m then m else together o n k

/-- The lanes whose parts are not all performed. -/
def undoneLanes (o : Op) : Lanes := laneSet fun t => o.parts.any fun p => p.lane == t && p.undone

/-- The lanes that can be performed now. -/
def readyLanes (s : State) (id : Nat) (o : Op) : Lanes :=
  if fenceHeld s id o || acqHeld s id o || awayHeld s o then 0
  else
    let m := laneSet fun t => laneReady s id o t
    if m = 0 ∨ m = undoneLanes o then m else together o 33 m

/-- R262 step 1: every earlier access word is performed. -/
def releaseMay (s : State) (id : Nat) (o : Op) : Bool :=
  !fenceHeld s id o && !awayHeld s o && (before s id o).all fun e => !accessWord e.kind

/-- R263 step 1: every earlier load has its value, and every earlier release is complete. -/
def acquireMay (s : State) (id : Nat) (o : Op) : Bool :=
  !fenceHeld s id o && (before s id o).all fun e => !loadWord e.kind && !(relAcq e).1

/-! ### Levels and performance -/

/-- R240: the modifier tag of a store to word w. -/
def tagOf (s : State) (o : Op) (p : Part) (w : Nat) : Tag :=
  let x := getWarp s o.warp
  { slot := o.core * 64 + x.slot, context := x.context, iface := x.iface, warp := o.warp, va := p.va / 4 * 4 + 4 * w - p.pa / 4 * 4, olact := p.olact, time := s.tick }

/-- The words of a part. -/
def Part.words (p : Part) : List Nat := (List.range ((p.pa + p.n - 1) / 4 - p.pa / 4 + 1)).map fun i => p.pa / 4 + i

/-- The bytes of a part within word w, as a mask, and the value's bytes placed in the word. -/
def Part.mask (p : Part) (w : Nat) : Nat :=
  (List.range 4).foldl (fun m i => if p.pa ≤ 4 * w + i ∧ 4 * w + i < p.pa + p.n then m + 2 ^ i else m) 0
def Part.inWord (p : Part) (w v : Nat) : Word :=
  BitVec.ofNat 32 (if 4 * w ≤ p.pa then v * 2 ^ (8 * (p.pa - 4 * w)) else v / 2 ^ (8 * (4 * w - p.pa)))

/-- R241, R247, R201: reads the bytes of a part at a level: the value and its fill stamp. An SO access is performed at the home slice. -/
def readPart (s : State) (core lvl : Nat) (p : Part) : State × Nat × Nat :=
  if p.ord = 1 then
    let s1 := p.words.foldl recallWord s
    (s1, devNat s1 p.pa p.n, sliceTime s1 (homeSlice p.pa))
  else
    let k := readLevel s core (if p.priv then 0 else lvl) p.words p.imm
    let (s1, v, st) := p.words.foldl (fun (s, v, st) w =>
      let (s1, x, t) := readFrom s core k w p.imm (p.ord == 2)
      let lo := max p.pa (4 * w)
      let hi := min (p.pa + p.n) (4 * w + 4)
      (s1, v + x.toNat / 2 ^ (8 * (lo - 4 * w)) % 2 ^ (8 * (hi - lo)) * 2 ^ (8 * (lo - p.pa)), max st t)) (s, 0, 0)
    (s1, v, st)

/-! ### Global accesses to private memory (R197) -/

/-- R196: the running warp and the lane to whose private memory an address belongs. -/
def privateOf (s : State) (iface va : Nat) : Option (Nat × Nat) :=
  (s.warps.find? fun e =>
    let n := 32 * (getLaunch s e.2.launch).ps
    e.2.iface == iface && !e.2.retired && privSegment s e.2 ≤ va && va < privSegment s e.2 + n).map fun e =>
      (e.1, (va - privSegment s e.2) % 128 / 4)

/-- R197: what a global access gives at the private address of a running warp is undefined, unless the owning thread has ended, or its warp has made a release at the access's scope after the private store. -/
def privOpen (s : State) (o : Op) (lvl : Nat) (p : Part) : Bool :=
  !p.priv && (List.range ((p.va + p.n - 1) / 4 - p.va / 4 + 1)).any fun i =>
    match privateOf s (getWarp s o.warp).iface (4 * (p.va / 4 + i)) with
    | some (w, t) => (threadOf (getWarp s w) t).cond != .ended && mapGetD (getWarp s w).privStored (p.va / 4 + i) 0 < lvl + 1
    | none => false

/-- The value that a global access takes from, or leaves at, such an address. -/
def privVal (s : State) (o : Op) (lvl : Nat) (p : Part) (v : Nat) : Nat :=
  if privOpen s o lvl p then (fresh s (freeBase + 8192 + 64 * p.lane + p.off)).toNat % 2 ^ (8 * p.n) else v

/-- R197: a private store is noted; its warp's later releases count from it. -/
def notePriv (s : State) (o : Op) (p : Part) : State :=
  if p.priv then updWarp s o.warp fun x => { x with privStored := mapSet x.privStored (p.va / 4) 0 } else s

/-- R197: a release of a warp at a level. -/
def privReleased (s : State) (w lvl : Nat) : State :=
  updWarp s w fun x => { x with privStored := mapAll x.privStored fun _ k => max k (lvl + 1) }

/-- R201, R247: writes the bytes of a part: D in the L1, or at the home slice for SO. R197: a private store that is performed after its
thread has ended leaves no word. DEDUCED: log 92. -/
def writePart (s : State) (o : Op) (lvl : Nat) (p : Part) (v : Nat) : State :=
  if p.priv && (threadOf (getWarp s o.warp) p.lane).cond == .ended then s
  else if p.ord = 1 then devWriteNat s p.pa p.n v
  else
    let priv := if p.priv then privTag o.warp p.lane else 0
    p.words.foldl (fun s w =>
      writeL1 s o.core (if p.priv then 0 else lvl) w (p.inWord w v) (p.mask w) p.imm (p.ord == 2) priv (tagOf s o p w)) (notePriv s o p)

/-- R242: the words of the lanes whose read the slice forwards to another cluster, with the cluster. -/
def forwardedTo (s : State) (o : Op) (lvl : Nat) (m : Lanes) : List (Nat × Nat) :=
  ((o.parts.filter fun p => m.getLsbD p.lane && p.undone && p.ord != 1).flatMap fun p =>
    let k := readLevel s o.core (if p.priv then 0 else lvl) p.words p.imm
    p.words.filterMap fun w => (forwards s o.core k w).map fun c => (w, c)).dedup

/-- R263: the threads of an operation's lanes have taken a value with a fill stamp. -/
def noteFill (s : State) (w : Nat) (m : Lanes) (st : Nat) : State :=
  updWarp s w fun x => updThreads x m fun _ th => { th with fill := laterStamp th.fill st }

/-- R202: performs the reads of a set of lanes. -/
def readLanes (s : State) (id lvl : Nat) (m : Lanes) : State :=
  let o := getOp s id
  let (s1, ps) := o.parts.foldl (fun (s, ps) p =>
    if m.getLsbD p.lane && p.undone then
      let (s1, v, t) := readPart s o.core lvl p
      (noteFill s1 o.warp (BitVec.twoPow 32 p.lane) t, ps ++ [{ p with got := BitVec.ofNat 128 (privVal s o lvl p v), st := .done }])
    else (s, ps ++ [p])) (s, [])
  updOp s1 id fun o => { o with parts := ps }

/-- R324: the words that write a ring by its own means. -/
def ringOwn : OpKind → Bool
  | .word i => match i with
    | .rpush .. | .rst .. => true
    | _ => false
  | _ => false

/-- R201, R202: performs the stores of a set of lanes, and their pushes to the level of the scope; their acknowledgements and stamps. -/
def storeLanes (s : State) (id lvl : Nat) (m : Lanes) : State :=
  let o := getOp s id
  let mine := o.parts.filter fun p => m.getLsbD p.lane && p.undone
  let b := s
  let s1 := mine.foldl (fun s p => breach b (writePart s o lvl p (privVal s o lvl p (usedVal s o p))) p.pa p.n (!ringOwn o.kind) false) s
  let ws := ((mine.filter fun p => p.ord != 1 && !p.priv).flatMap Part.words).dedup
  let (s2, n, st) := ownPush s1 o.core lvl id ws
  let so := if lvl = 2 then (mine.filter fun p => p.ord == 1).map fun p => sliceTime s2 (homeSlice p.pa) else []
  updOp s2 id fun o => { o with
    parts := o.parts.map fun p => if m.getLsbD p.lane && p.undone then { p with st := .done } else p
    acks := o.acks + n, stamp := (so ++ st.toList ++ o.stamp.toList).foldl laterStamp none }

/-- Every part of an operation is performed. -/
def allDone (o : Op) : Bool := o.parts.all fun p => !p.undone

/-- The value of a lane, put together from its parts. -/
def gotVal (o : Op) (t : Nat) : Nat :=
  (o.parts.filter fun p => p.lane == t).foldl (fun a p => a + p.got.toNat * 2 ^ (8 * p.off)) 0

/-- R132, R134, R140: a loaded value in its registers: signed 8 and 16 bits are extended. -/
def extendTo (ty : Ty) (v : Nat) : Nat :=
  match ty with
  | .s16 => if v.testBit 15 then v + 0xFFFF0000 else v
  | .s8 => if v.testBit 7 then v + 0xFFFFFF00 else v
  | _ => v

end Sys2Proof.Machine
end

