-- ==== Sys2Proof/Machine/Coherence.lean ====
section
/-! DEFINITION. Registration of words: pushes, revokes, write-backs, recalls, evictions, owner-lost events (R242 to R252), atomics above the L1 (R249, R278), and range maintenance (R257). -/

namespace Sys2Proof.Machine

/-! ### Owner-lost (R251 to R253) -/

/-- R252: the record words at 0x08 and 0x0C. -/
def lostWord8 (cluster mask : Nat) : Word := BitVec.ofNat 32 (cluster * 2 ^ 24 + mask)
def lostWordC (t : Tag) : Word := BitVec.ofNat 32 (t.context * 2 ^ 14 + t.slot)

/-- R251, R253: one event: the words of one sector with one modifier tag; `r` is what the sector records of its last modifying access. A warp that has retired takes no trap. -/
def lostEvent (s : State) (cluster mask : Nat) (t r : Tag) : State :=
  if r.olact = 1 then countLost s t.iface (popNat mask 16)
  else if r.olact = 2 then
    match mapGet s.warps t.warp with
    | some x =>
      if x.retired then countLost s t.iface (popNat mask 16)
      else latchAsync s t.warp {
        cause := causeOwnerLost, detail := 0, addr := r.va % 2 ^ 48 / 64 * 64, f6 := lostWord8 cluster mask, f7 := lostWordC t }
    | none => countLost s t.iface (popNat mask 16)
  else s

/-- R251: the events of the Reg-cluster-dirty words that a cluster lost in one sector. -/
def ownerLost (s : State) (cluster : Nat) (lost : List (Nat × Tag)) : State :=
  let keys := (lost.map fun e => e.2.warp).dedup
  keys.foldl (fun s k =>
    let ws := lost.filter fun e => e.2.warp == k
    match ws with
    | [] => s
    | e :: _ => lostEvent s cluster (ws.foldl (fun m e => m + 2 ^ (e.1 % 16)) 0) e.2
        (mapGetD s.sectorMod (cacheKey cluster (e.1 / 16)) e.2)) s

/-! ### Pushes (R245) -/

/-- R250: a push of the word from this cluster is on its way to the slice. -/
def pushPending (s : State) (cluster w : Nat) : Bool :=
  s.net.any fun f => match f.msg with
    | .pushArrive c _ sector mask _ => c == cluster && sector == w / 16 && mask.getLsbD (w % 16)
    | _ => false

/-- R250: a revoke takes words from a cluster: it drops what it holds as its own. A word whose push is on its way, or has reached the slice after what the revoke is for, is kept. The state, and the Reg-cluster-dirty words that are lost. -/
def dropOwned (s : State) (cluster : Nat) (ws : List Nat) : State × List (Nat × Tag) :=
  let drop := ws.filter fun w => !pushPending s cluster w && mapGet s.owner w != some cluster && ccOwns s cluster w
  let lost := drop.filterMap fun w => match mapGet s.cc (cacheKey cluster w) with
    | some x => if x.st == .dirty then some (w, x.tag) else none
    | none => none
  ({ s with cc := drop.foldl (fun m w => mapErase m (cacheKey cluster w)) s.cc }, lost)

/-- R250, R251: a revoke, with its owner-lost events. -/
def revokeWords (s : State) (cluster : Nat) (ws : List Nat) : State :=
  ownerLost (dropOwned s cluster ws).1 cluster (dropOwned s cluster ws).2

/-- R245: an acknowledgement of a push, with the slice's GTIME. -/
def sendPushAck (s : State) (sector push : Nat) : State := send s none (.pushAck push (sliceTime s (homeSlice (64 * sector))))

/-- R245: a push arrives at its slice: the words that the cluster still holds are registered to it; other owners are revoked. -/
def pushArrive (s : State) (cluster sector : Nat) (mask : BitVec 16) (push : Nat) : State :=
  let ws := (sectorWords sector mask).filter fun w => (clusterHolds s cluster w).isSome
  let others := (ws.filterMap fun w => mapGet s.owner w).dedup.filter (· != cluster)
  let s1 := { (if ws.isEmpty then s else takeLine s (64 * sector)) with owner := ws.foldl (fun m w => mapSet m w cluster) s.owner }
  let slice := homeSlice (64 * sector)
  let s2 := others.foldl (fun s' c =>
    let m := (ws.filter fun w => mapGet s.owner w == some c).foldl (fun m w => m ||| BitVec.twoPow 16 (w % 16)) (0 : BitVec 16)
    send s' (chanOf (64 + slice) c) (.revokeArrive c cluster sector m push)) s1
  if others.isEmpty then sendPushAck s2 sector push
  else { s2 with pushWaits := s2.pushWaits ++ [⟨push, sector, others.length⟩] }

def execPushArrive (s : State) : Host.Outcome State Fault Refusal :=
  event s fun m s => match m with
    | .pushArrive c _ sector mask push => some (pushArrive s c sector mask push)
    | _ => none

/-- R245: an acknowledgement reaches a word, a copy, or a kernel boundary that waits for it. -/
def acknowledge (s : State) (stamp id : Nat) : State :=
  match mapGet s.ops id with
  | some _ => updOp s id fun o => { o with acks := o.acks - 1, stamp := laterStamp o.stamp stamp }
  | none =>
    let s := { s with copies := mapUpd s.copies id fun c => { c with acks := c.acks - 1, stamp := laterStamp c.stamp stamp } }
    { s with launches := mapUpd s.launches id fun l => { l with pushes := l.pushes - 1, stamp := max l.stamp stamp } }

/-- R245, R246: a push or a write-back is acknowledged. -/
def pushDone (s : State) (push stamp : Nat) : State :=
  match mapGet s.pushOut push with
  | none => s
  | some p => p.waiters.foldl (fun s id => acknowledge s stamp id) { s with pushOut := mapErase s.pushOut push }

def execPushAck (s : State) : Host.Outcome State Fault Refusal :=
  event s fun m s => match m with
    | .pushAck push stamp => some (pushDone s push stamp)
    | _ => none

/-- R250: a revoke reaches the owner it names, which acknowledges. -/
def execRevokeArrive (s : State) : Host.Outcome State Fault Refusal :=
  event s fun m s => match m with
    | .revokeArrive c _ sector mask push =>
      some (send (revokeWords s c (sectorWords sector mask)) (chanOf c (64 + homeSlice (64 * sector))) (.revokeAck sector mask push))
    | _ => none

/-- R245: the push is acknowledged once every revoke that it caused has been. -/
def execRevokeAck (s : State) : Host.Outcome State Fault Refusal :=
  event s fun m s => match m with
    | .revokeAck sector _ push =>
      some (match s.pushWaits.find? fun p => p.push == push with
        | none => s
        | some p =>
          let rest := s.pushWaits.erase p
          if p.left ≤ 1 then sendPushAck { s with pushWaits := rest } sector push
          else { s with pushWaits := ⟨push, sector, p.left - 1⟩ :: rest })
    | _ => none

/-! ### Write-backs and evictions (R246) -/

/-- R246: a write-back arrives: from the recorded owner, or to a Home word, it is stored and the word is Home; otherwise it is discarded. -/
def execWritebackArrive (s : State) : Host.Outcome State Fault Refusal :=
  event s fun m s => match m with
    | .writebackArrive c sector mask id =>
      let ws := (sectorWords sector mask).filter fun w => (mapGet s.wbuf (cacheKey c w)).any (·.id == id)
      let ok := ws.filter fun w => match mapGet s.owner w with
        | none => true
        | some o => o == c
      let s1 := ok.foldl (fun s w => match mapGet s.wbuf (cacheKey c w) with
        | some b => let s1 := setMemWord (takeLine s (4 * w)) w b.word.data; { s1 with owner := mapErase s1.owner w }
        | none => s) s
      let stored := ok.foldl (fun m w => m ||| BitVec.twoPow 16 (w % 16)) (0 : BitVec 16)
      some (send s1 (chanOf (64 + homeSlice (64 * sector)) c) (.writebackAck c sector stored id (sliceTime s1 (homeSlice (64 * sector)))))
    | _ => none

/-- R246, R251: the acknowledgement frees the buffer; discarded Reg-cluster-dirty words are lost. -/
def execWritebackAck (s : State) : Host.Outcome State Fault Refusal :=
  event s fun m s => match m with
    | .writebackAck c sector stored id stamp =>
      let ws := (sectorWords sector (BitVec.allOnes 16)).filter fun w => (mapGet s.wbuf (cacheKey c w)).any (·.id == id)
      let lost := ws.filterMap fun w => match mapGet s.wbuf (cacheKey c w) with
        | some b => if b.word.st == .dirty && !stored.getLsbD (w % 16) then some (w, b.word.tag) else none
        | none => none
      some (pushDone (ownerLost { s with wbuf := ws.foldl (fun m w => mapErase m (cacheKey c w)) s.wbuf } c lost) id stamp)
    | _ => none

/-- R247: a recall before a slice eviction; recalls before atomics and SO accesses are made within those steps. -/
def execRecall (s : State) : Host.Outcome State Fault Refusal :=
  event s fun m s => match m with
    | .recall sector mask => some ((sectorWords sector mask).foldl recallWord s)
    | _ => none

/-- R201: an eviction takes whole 16-byte groups, so that it never parts the bytes of an aligned access. -/
def wholeGroups (mask : BitVec 16) : BitVec 16 :=
  (List.range 16).foldl (fun m i => if mask.extractLsb' (i / 4 * 4) 4 != 0 then m ||| BitVec.twoPow 16 i else m) 0

/-- R246: a cluster cache evicts words: V is dropped, registered and dirty words are written back. A word whose write-back is still in the buffer stays. DEDUCED: log 38. -/
def clusterEvict (s : State) (c sector : Nat) (mask : BitVec 16) : State :=
  let ws := (sectorWords sector (wholeGroups mask)).filter fun w => (mapGet s.cc (cacheKey c w)).isSome && (mapGet s.wbuf (cacheKey c w)).isNone
  let own := ws.filter (ccOwns s c)
  let id := s.next
  let s1 := own.foldl (fun s w => match mapGet s.cc (cacheKey c w) with
    | some x => { s with wbuf := mapSet s.wbuf (cacheKey c w) ⟨id, x⟩ }
    | none => s) s
  let s2 := { s1 with next := id + 1, cc := ws.foldl (fun m w => mapErase m (cacheKey c w)) s1.cc }
  let m := own.foldl (fun m w => m ||| BitVec.twoPow 16 (w % 16)) (0 : BitVec 16)
  if own.isEmpty then s2
  else send { s2 with pushOut := mapSet s2.pushOut id ⟨c, []⟩ } (chanOf c (64 + homeSlice (64 * sector))) (.writebackArrive c sector m id)

def execClusterEvict (s : State) : Host.Outcome State Fault Refusal :=
  event s fun m s => match m with
    | .clusterEvict c sector mask => some (clusterEvict s c sector mask)
    | _ => none

/-- R246: an L1 evicts words: D goes into the cluster cache as Reg-cluster-dirty, V is dropped. -/
def evictL1 (s : State) (core : Nat) (ws : List Nat) : State :=
  ws.foldl (fun s w =>
    let s1 := pushToCluster s core w
    { s1 with l1 := mapErase s1.l1 (cacheKey core w) }) s

/-- DEDUCED: log 90. -/
def execL1Evict (s : State) : Host.Outcome State Fault Refusal :=
  event s fun m s => match m with
    | .l1Evict core sector mask => some (evictL1 s core (sectorWords sector (wholeGroups mask)))
    | _ => none

/-! ### Capacity (R3, R198) -/

/-- The 64-byte sectors of a unit that a cache lists, each with its words. -/
def sectorsHeld {α : Type} (m : Map α) (unit : Nat) : List (Nat × BitVec 16) :=
  sectorsOf ((m.filter fun e => ofUnit unit e.1).map fun e => wordOfKey e.1)

/-- R3, R198: the sectors that an L1 has room for: 1 MiB but for the scratchpad carve-out. -/
def l1Room (s : State) (core : Nat) : Nat := (2 ^ 20 - mapGetD s.carve core 2 * 2 ^ 17) / 64

/-- R3: the sectors that a cluster cache has room for: 4 MiB. -/
def ccRoom : Nat := 2 ^ 22 / 64

/-- A cache that holds more sectors of a unit than it has room for; each holds a word at least. -/
def overfull {α : Type} (m : Map α) (unit room : Nat) : Bool :=
  room < (m.filter fun e => ofUnit unit e.1).length && room < (sectorsHeld m unit).length

/-- R238, R247: the sectors of a slice in which a word is registered: it holds their owners' numbers in place of their data. -/
def sectorsRegistered (s : State) (slice : Nat) : List (Nat × BitVec 16) :=
  (sectorsOf (s.owner.map (·.1))).filter fun e => homeSlice (64 * e.1) == slice

/-- R3: the sectors that a slice has room for: 4 MiB. -/
def sliceRoom : Nat := 2 ^ 22 / 64

/-- R3, R198, R246, R247: an L1, a cluster cache or a slice that holds more than it has room for evicts before anything else happens; which sector leaves is open. DEDUCED: log 90. -/
def evictDue (s : State) : Option Msg :=
  let one (l : List (Nat × BitVec 16)) (f : Nat → BitVec 16 → Msg) : Option Msg :=
    (l[Config.pick (s.free + freeBase) % max 1 l.length]?).map fun e => f e.1 e.2
  let near := ((s.l1.map fun e => e.1 / 2 ^ 50).dedup).findSome? fun c =>
    if overfull s.l1 c (l1Room s c) then one (sectorsHeld s.l1 c) (.l1Evict c) else none
  let mid := ((s.cc.map fun e => e.1 / 2 ^ 50).dedup).findSome? fun c =>
    if overfull s.cc c ccRoom then one (sectorsHeld (s.cc.filter fun e => (mapGet s.wbuf e.1).isNone) c) (.clusterEvict c) else none
  let far := if s.owner.length ≤ sliceRoom then none else (List.range Config.slices).findSome? fun n =>
    let l := sectorsRegistered s n
    if sliceRoom < l.length then one l .recall else none
  (near.or mid).or far

/-! ### Atomics (R249, R277, R278) -/

/-- R278 steps 1 and 3: the issuing core's D copies go to the slice, which revokes another owner; the words are recalled, so that the slice holds their values; the core keeps no copy. -/
def bringHome (s : State) (core : Nat) (ws : List Nat) : State :=
  let c := clusterOf core
  let dirty := ws.filter fun w => match mapGet s.l1 (cacheKey core w) with
    | some x => x.dirty
    | none => false
  let hbm := dirty.filter fun w => !isHost (4 * w)
  let s1 := dirty.foldl (fun s w => pushToDevice s core w) s
  let others := (hbm.filterMap fun w => mapGet s1.owner w).dedup.filter (· != c)
  let s2 := others.foldl (fun s o =>
    let mine := hbm.filter fun w => mapGet s1.owner w == some o
    revokeWords { mine.foldl (fun s w => takeLine s (4 * w)) s with owner := mine.foldl (fun m w => mapSet m w c) s.owner } o mine) s1
  let s3 := ws.foldl recallWord { hbm.foldl (fun s w => takeLine s (4 * w)) s2 with owner := hbm.foldl (fun m w => mapSet m w c) s2.owner }
  { s3 with
    l1 := ws.foldl (fun m w => mapErase m (cacheKey core w)) s3.l1
    cc := ws.foldl (fun m w => if ccOwns s3 c w then m else mapErase m (cacheKey c w)) s3.cc }

/-- R278 steps 1 and 2, R249: the issuing core's D copies go to the cluster cache; words held I or V there are filled as a DEVICE-scope read would fill them, from the write-back buffer too. The largest fill stamp. -/
def bringCluster (s : State) (core : Nat) (ws : List Nat) : State × Nat :=
  ws.foldl (fun (s, st) w =>
    let s1 := pushToCluster s core w
    let s2 := { s1 with l1 := mapErase s1.l1 (cacheKey core w) }
    if ccOwns s2 (clusterOf core) w then (s2, st)
    else
      let r := readFrom s2 core 2 w false false
      ({ r.1 with
        l1 := mapErase r.1.l1 (cacheKey core w)
        cc := mapSet r.1.cc (cacheKey (clusterOf core) w) { data := r.2.1, st := .valid r.2.2 } }, max st r.2.2)) (s, 0)

/-- A word of the cluster cache becomes Reg-cluster-dirty with a new value. -/
def setCluster (s : State) (o : Op) (p : Part) (w : Nat) (x : Word) : State :=
  let y : CcWord := { data := x, st := .dirty, uo := p.ord == 2, tag := tagOf s o p w }
  let s := noteSector s (clusterOf o.core) w y.tag
  { s with cc := mapSet s.cc (cacheKey (clusterOf o.core) w) y }

def ccData (s : State) (core w : Nat) : Word :=
  match mapGet s.cc (cacheKey (clusterOf core) w) with
  | some x => x.data
  | none => 0

/-- The bytes of a part in words that `f` reads. -/
def partVal (f : Nat → Word) (p : Part) : Nat :=
  p.words.foldl (fun v w =>
    let lo := max p.pa (4 * w)
    let hi := min (p.pa + p.n) (4 * w + 4)
    v + (f w).toNat / 2 ^ (8 * (lo - 4 * w)) % 2 ^ (8 * (hi - lo)) * 2 ^ (8 * (lo - p.pa))) 0

/-- R277: the level at which an atomic of a part executes. -/
def atomLevel (lvl : Nat) (p : Part) : Nat := if p.ord = 1 then 2 else lvl

/-- R277 to R280: applies the atomic of one lane at its level; what it read, with the fill stamp. -/
def applyAtomic (s : State) (o : Op) (i : Instr) (lvl : Nat) (p : Part) : State × Nat × Nat :=
  let cmp := if o.poison.getLsbD p.lane then (fresh s (freeBase + 64 * p.lane + 32)).toNat % 2 ^ (8 * p.n) else p.cmp.toNat
  let new (old : Nat) : Nat := privVal s o lvl p (atomNew i old (usedVal s o p) cmp)
  match atomLevel lvl p with
  | 0 =>
    let (s1, old, st) := readPart s o.core 0 p
    (writePart s1 o 0 p (new old), old, st)
  | 1 =>
    let (s1, st) := bringCluster s o.core p.words
    let old := partVal (ccData s1 o.core) p
    (p.words.foldl (fun s w => setCluster s o p w (mergeWord (ccData s o.core w) (p.inWord w (new old)) (p.mask w))) s1, old, st)
  | _ =>
    let s1 := if p.ord = 1 then p.words.foldl recallWord s else bringHome s o.core p.words
    let old := devNat s1 p.pa p.n
    (devWriteNat s1 p.pa p.n (new old), old, sliceTime s1 (homeSlice p.pa))

/-- R280: the lanes of an atomic word, in ascending lane order. R282: one that returns enters as a load too, with its fill stamp. -/
def atomicLanes (s : State) (id lvl : Nat) (i : Instr) (m : Lanes) : State :=
  let o := getOp s id
  let b := s
  let (s1, ps, sl) := o.parts.foldl (fun (s, ps, sl) p =>
    if m.getLsbD p.lane && p.undone then
      let (s0, v, st) := applyAtomic s o i lvl p
      let s1 := breach b s0 p.pa p.n true (atomLevel lvl p == 2)
      let s2 := if loadWord o.kind then noteFill s1 o.warp (BitVec.twoPow 32 p.lane) st else s1
      (s2, ps ++ [{ p with got := BitVec.ofNat 128 (privVal s o lvl p v), st := PartSt.done }],
        if atomLevel lvl p = 2 then laterStamp sl st else sl)
    else (s, ps ++ [p], sl)) (s, [], o.stamp)
  updOp s1 id fun o => { o with parts := ps, stamp := sl }

/-! ### Range maintenance (R207, R208, R257) -/

/-- R257: INVR on one word; `wide` at CLUSTER scope and above. -/
def invrWord (core : Nat) (wide : Bool) (s : State) (w : Nat) : State :=
  let k := cacheKey core w
  let s1 := match mapGet s.l1 k with
    | some x => if x.dirty then s else { s with l1 := mapErase s.l1 k }
    | none => s
  let k2 := cacheKey (clusterOf core) w
  if !wide then s1
  else match mapGet s1.cc k2 with
    | some x => match x.st with
      | .valid _ => { s1 with cc := mapErase s1.cc k2 }
      | _ => s1
    | none => s1

/-- R208, R257: INVD on one word: dropped at the core and its cluster; the slice returns to Home, and another owner is revoked without an owner-lost event. -/
def invdWord (core : Nat) (s : State) (w : Nat) : State :=
  let c := clusterOf core
  let s := if (mapGet s.owner w).isSome then takeLine s (4 * w) else s
  let s1 := { s with
    l1 := mapErase s.l1 (cacheKey core w), cc := mapErase s.cc (cacheKey c w), wbuf := mapErase s.wbuf (cacheKey c w)
    owner := mapErase s.owner w }
  match mapGet s.owner w with
  | none => s1
  | some o => if o = c then s1 else { (dropOwned s1 o [w]).1 with wbuf := mapErase s1.wbuf (cacheKey o w) }

end Sys2Proof.Machine
end

