-- ==== Sys2Proof/Machine/Stream.lean ====
section
/-! DEFINITION. Stream registers (R117 to R122) and the shared form of the fixed-latency words of classes A, F and X. -/

namespace Sys2Proof.Machine

/-! ### Walks (R118, R119) -/

def walkWord (st : Stream) (i : Nat) : Word := st.walk.getD i 0

/-- R118: elements of the walk. -/
def walkCount (st : Stream) : Nat :=
  (walkWord st 4).toNat * (walkWord st 6).toNat * (walkWord st 8).toNat * (walkWord st 10).toNat

/-- Bytes of an element. -/
def walkSize (st : Stream) : Nat := 2 ^ ((walkWord st 2).extractLsb' 0 2).toNat

/-- R118: the digits of element n, i0 the fastest. -/
def walkPos (st : Stream) (n : Nat) : List Nat :=
  let c (d : Nat) : Nat := (walkWord st (4 + 2 * d)).toNat
  [n % c 0, n / c 0 % c 1, n / (c 0 * c 1) % c 2, n / (c 0 * c 1 * c 2)]

/-- R118: the address of element n. -/
def walkAddr (st : Stream) (n : Nat) : Nat :=
  let base : Int := (walkWord st 0).toNat + 2 ^ 32 * (walkWord st 1).toNat
  let stride (d : Nat) : Int := (walkWord st (5 + 2 * d)).toInt
  wrapTo 64 (base + (((walkPos st n).zipIdx.map fun (i, d) => (i : Int) * stride d).foldl (· + ·) 0))

/-- R119: flag Ed of element n; past the end every flag is true. -/
def walkFlag (st : Stream) (n d : Nat) : Bool :=
  walkCount st ≤ n ||
    (List.range (d + 1)).all fun j => (walkPos st n).getD j 0 + 1 == (walkWord st (4 + 2 * j)).toNat

/-! ### Binding and queues -/

def getStream (x : Warp) (n : Nat) : Option Stream := mapGet x.streams n
def setStream (s : State) (w n : Nat) (st : Stream) : State := updWarp s w fun x => { x with streams := mapSet x.streams n st }

/-- R122: streams with a queue in a partition. -/
def queuesUsed (s : State) (core part : Nat) : Nat :=
  s.warps.foldl (fun a e => if e.2.core = core ∧ e.2.part = part ∧ e.2.resident then
    a + (e.2.streams.filter fun z => z.2.queue).length else a) 0

/-- The oldest bound stream of a partition that has no queue: warp and stream. -/
def oldestWithout (s : State) (core part : Nat) : Option (Nat × Nat) :=
  let l := s.warps.flatMap fun e => if e.2.core = core ∧ e.2.part = part ∧ e.2.resident then
    (e.2.streams.filter fun z => !z.2.queue).map fun z => (z.2.bind, e.1, z.1) else []
  match l with
  | [] => none
  | a :: r => some (r.foldl (fun b c => if c.1 < b.1 then c else b) a).2

/-- R122: a free queue goes to the oldest bound stream that lacks one. -/
def assignQueues (s : State) (core part : Nat) : Nat → State
  | 0 => s
  | n + 1 =>
    if queuesUsed s core part < 64 then
      match oldestWithout s core part with
      | some (w, k) => assignQueues (updWarp s w fun x => { x with streams := mapUpd x.streams k fun z => { z with queue := true } }) core part n
      | none => s
    else s

/-! ### Pop and push -/

/-- R117: a source stream must be bound for loading, a destination stream for storing. -/
def streamBad (x : Warp) (srcs : List Opd) (d : Option Opd) : Bool :=
  srcs.any (fun o => match o with
    | .s n => match getStream x n.val with
      | some st => st.store
      | none => true
    | _ => false)
  || (match d with
    | some (.s n) => match getStream x n.val with
      | some st => !st.store
      | none => true
    | _ => false)

/-- The streams that a word reads, each once (R120). -/
def streamsOf (srcs : List Opd) : List Nat :=
  (srcs.filterMap fun o => match o with
    | .s n => some n.val
    | _ => none).dedup

/-- R120: a pop: one group is consumed; the flags of the active lanes are written, also in a lane whose element is faulty and that traps. Two flags of a word that name one predicate, or a flag and the word's own destination, leave it a free value, as two fixed-latency results of one clock do (R112). DESIGN CHOICE: log 95. -/
def popStream (s : State) (i : Issue) (lat n : Nat) : State :=
  match getStream (getWarp s i.w) n with
  | none => s
  | some st =>
    let s1 := (List.range 4).foldl (fun s d =>
      putP s i.w lat (st.flags.extractLsb' (3 * d) 3).toNat i.act fun t => walkFlag st (32 * st.pos + t) d) s
    setStream s1 i.w n { st with pos := st.pos + 1, groups := st.groups.tail }

/-- R120: the traps of the elements that the active lanes receive. -/
def popFaults (x : Warp) (i : Issue) (ns : List Nat) : List TrapIn :=
  (laneList i.act).filterMap fun t =>
    (ns.filterMap fun n => (streamElem x n t).fault).head?.map fun f => { lane := t, cause := f.1, addr := f.2 }

/-- R118, R191: the address of an element of a stream, checked for alignment and range: its cause where it fails. -/
def elemFault (st : Stream) (n : Nat) : Option Nat :=
  if walkAddr st n % walkSize st ≠ 0 then some causeAlign
  else if walkAddr st n + walkSize st > 2 ^ 48 then some causeAccess
  else none

/-- R121: a push: the elements of the active lanes become writes of their lanes; a write that fails is kept for the SSTOP. An element past the end of the walk is not written, and no predicate named at the SBIND.ST is. DESIGN CHOICE: log 95. -/
def pushStream (s : State) (i : Issue) (m : Lanes) (n : Nat) (f : Nat → Nat) : State :=
  match getStream (getWarp s i.w) n with
  | none => s
  | some st =>
    let e (t : Nat) : Nat := 32 * st.pos + t
    let ts := (laneList m).filter fun t => e t < walkCount st
    let bad := ts.filterMap fun t => (elemFault st (e t)).map fun c => PushFail.mk st.bind t c (walkAddr st (e t))
    let ok := ts.filter fun t => (elemFault st (e t)).isNone
    let ps : List Part := ok.map fun t =>
      { lane := t, va := walkAddr st (e t), n := walkSize st, val := BitVec.ofNat 128 (f t % 2 ^ (8 * walkSize st)), st := .retry 0 }
    let s1 := updWarp (setStream s i.w n { st with pos := st.pos + 1 }) i.w fun x => { x with pushFails := x.pushFails ++ bad }
    if ps.isEmpty then s1
    else accept (newOp s1 { warp := i.w, kind := .push st.bind (walkSize st), lanes := m, pc := i.pc, parts := ps }) s1.next

/-! ### Fixed-latency words -/

/-- Writes the result of a word in a set of lanes: registers, a store stream, or a predicate (non-zero is true). -/
def writeDst (s : State) (i : Issue) (lat : Nat) (d : Opd) (w : Nat) (m : Lanes) (f : Nat → Nat) : State :=
  match d with
  | .v n => putVs s i.w lat n.toNat w m f
  | .s n => pushStream s i m n.val f
  | .p n => putP s i.w lat n.val m fun t => f t != 0
  | _ => s

/-- R160: the lanes whose conditions trap under ARITHEN. -/
def arithTraps (x : Warp) (m : Lanes) (cond : Nat → Conds) : List TrapIn :=
  if x.status.getLsbD 1 then
    ((laneList m).filter fun t => arithDetail (cond t) != 0).map fun t => { lane := t, cause := causeArith, detail := arithDetail (cond t) }
  else []

/-- R160: STATUS with the flags of the words that have completed by now. -/
def statusNow (s : State) (x : Warp) : Word :=
  (x.flagsNext.filter fun e => e.1 ≤ s.clock).foldl (fun v e => v ||| e.2) x.status

/-- R160: STATUS takes a value; the flags of words that have not completed yet follow when they do. -/
def setStatus (s : State) (x : Warp) (v : Word) : Warp :=
  { x with status := v, flagsNext := x.flagsNext.filter fun e => s.clock < e.1 }

/-- R160, R179: the sticky flags of the lanes of a word of a latency: they are set when it completes. -/
def setFlags (s : State) (w lat : Nat) (m : Lanes) (cond : Nat → Conds) : State :=
  let b := (laneList m).foldl (fun b t => b ||| condsBits (cond t)) 0
  if b = 0 then s
  else updWarp s w fun x =>
    let y := setStatus s x (statusNow s x)
    if lat = 0 then { y with status := y.status ||| b } else { y with flagsNext := y.flagsNext ++ [(s.clock + lat, b)] }

/-- A fixed-latency word that may read streams: OPERAND where one is not bound for its use (R117), then its pops (R120), its result in the lanes that do not trap, the flags, the traps. -/
def fixedGen (s : State) (i : Issue) (srcs : List Opd) (d : Option Opd) (lat : Nat) (cond : Nat → Conds)
    (write : Lanes → State → State) : State :=
  let x := getWarp s i.w
  if streamBad x srcs d then trapSet s i causeOperand
  else
    let ns := streamsOf srcs
    let s1 := ns.foldl (fun s n => popStream s i lat n) s
    let f1 := popFaults x i ns
    let live := i.act &&& ~~~trapLanes f1
    let f2 := arithTraps x live cond
    let ok := live &&& ~~~trapLanes f2
    deliver (setFlags (write ok s1) i.w lat ok cond) i.w i.pc (f1 ++ f2)

/-- The same with one destination of `w` registers. -/
def fixedBody (s : State) (i : Issue) (srcs : List Opd) (d : Opd) (w lat : Nat) (f : Nat → Nat × Conds) : State :=
  fixedGen s i srcs (some d) lat (fun t => (f t).2) fun m s => writeDst s i lat d w m fun t => (f t).1

/-- A fixed-latency word of one destination and no conditions. -/
def fixedWord (s : State) (c : Ctl) (srcs : List Opd) (d : Opd) (w lat : Nat) (f : State → Warp → Issue → Nat → Nat) :
    Host.Outcome State Fault Refusal :=
  issue s c fun i s => fixedBody s i srcs d w lat fun t => (f s (getWarp s i.w) i t, {})

/-- A fixed-latency word of one destination that signals conditions. -/
def floatWord (s : State) (c : Ctl) (srcs : List Opd) (d : Opd) (w lat : Nat)
    (f : State → Warp → Issue → Nat → Nat × Conds) : Host.Outcome State Fault Refusal :=
  issue s c fun i s => fixedBody s i srcs d w lat fun t => f s (getWarp s i.w) i t

end Sys2Proof.Machine
end

