-- ==== Sys2Proof/Machine/Memory.lean ====
section
/-! DEFINITION. Memory words LD to INVD (R200 to R208), FENCE (R266 to R268), CSTORE (R183, R184, R413, R414), stream fetches (R120), and the release and acquire of every word (R262, R263). -/

namespace Sys2Proof.Machine

/-! ### LD, ST, LDX, STX (R200 to R203) -/

def lsQuad : LsKind → Bool
  | .b128 | .privB128 | .qualB128 => true
  | _ => false

/-- The bytes and registers of a form. -/
def lsSize (b128 : Bool) (ty : Ty) : Nat := if b128 then 16 else ty.size
def lsRegs (b128 : Bool) (ty : Ty) : Nat := if b128 then 4 else ty.regs

def execLd (c : Ctl) (kind : LsKind) (ty : Ty) (scope : Scope) (d : Opd) (m : Mem) (s : State) :
    Host.Outcome State Fault Refusal :=
  issue s c fun i s => withScope s i scope fun sc s =>
    let z := lsSize (lsQuad kind) ty
    issueAccess s i { opOf (.ld c kind ty scope d m) i c with scope := sc }
      { size := z, align := z, need := { r := true }, priv := lsPriv kind }
      (effAddr s i.w (getWarp s i.w) m (if lsPriv kind then 32 else 64)) (fun _ => 0) (fun _ => 0)

def execSt (c : Ctl) (kind : LsKind) (ty : Ty) (scope : Scope) (d : Opd) (m : Mem) (s : State) :
    Host.Outcome State Fault Refusal :=
  issue s c fun i s => withScope s i scope fun sc s =>
    let z := lsSize (lsQuad kind) ty
    issueAccess s i { opOf (.st c kind ty scope d m) i c with scope := sc }
      { size := z, align := z, need := { w := true }, priv := lsPriv kind }
      (effAddr s i.w (getWarp s i.w) m (if lsPriv kind then 32 else 64))
      (srcVal s i.w (getWarp s i.w) d (lsRegs (lsQuad kind) ty)) (fun _ => 0)

def execLdx (c : Ctl) (b128 : Bool) (ty : Ty) (scope : Scope) (d : Opd) (m : Mem) (s : State) :
    Host.Outcome State Fault Refusal :=
  issue s c fun i s => withScope s i scope fun sc s =>
    issueAccess s i { opOf (.ldx c b128 ty scope d m) i c with scope := sc }
      { size := lsSize b128 ty, align := 1, need := { r := true } } (effAddr s i.w (getWarp s i.w) m 64) (fun _ => 0) (fun _ => 0)

def execStx (c : Ctl) (b128 : Bool) (ty : Ty) (scope : Scope) (d : Opd) (m : Mem) (s : State) :
    Host.Outcome State Fault Refusal :=
  issue s c fun i s => withScope s i scope fun sc s =>
    issueAccess s i { opOf (.stx c b128 ty scope d m) i c with scope := sc }
      { size := lsSize b128 ty, align := 1, need := { w := true } } (effAddr s i.w (getWarp s i.w) m 64)
      (srcVal s i.w (getWarp s i.w) d (lsRegs b128 ty)) (fun _ => 0)

/-! ### PREF (R204) -/

/-- R204: the line of one lane: fetched where the page can be read and is not SO. A lane whose access would fail or park, behind a request of its core too (R193), is dropped. -/
def prefLine (f : State → Nat → Bool → Bool → State) (core iface : Nat) (s : State) (va : Nat) : State :=
  if spanParked s core iface (va / 4096) then s
  else match checkPage s core iface va { r := true } with
    | .ok pa e _ =>
      if e.extractLsb' 5 2 == 1 then s
      else (List.range 64).foldl (fun s i => f s (pa / 256 * 64 + i) (e.getLsbD 7) (e.extractLsb' 5 2 == 2)) s
    | _ => s

def prefWord (s : State) (c : Ctl) (m : Mem) (f : Nat → State → Nat → Bool → Bool → State) : Host.Outcome State Fault Refusal :=
  issue s c fun i s =>
    let x := getWarp s i.w
    (laneList i.act).foldl (fun s' t => prefLine (f x.core) x.core x.iface s' (effAddr s i.w x m 64 t)) s

/-- A word not present in the L1 is fetched into it. -/
def prefToL1 (core : Nat) (s : State) (w : Nat) (imm uo : Bool) : State :=
  if (mapGet s.l1 (cacheKey core w)).isSome then s else (readWord s core 0 w imm uo).1

/-- A word not present in the cluster cache is fetched into it, whatever the L1 holds. -/
def prefToCc (core : Nat) (s : State) (w : Nat) (imm uo : Bool) : State :=
  if (mapGet s.cc (cacheKey (clusterOf core) w)).isSome || (ownWord s core w).isSome then s
  else { (readWord { s with l1 := mapErase s.l1 (cacheKey core w) } core 1 w imm uo).1 with l1 := s.l1 }

def execPrefL1 (c : Ctl) (m : Mem) (s : State) : Host.Outcome State Fault Refusal := prefWord s c m prefToL1
def execPrefCc (c : Ctl) (m : Mem) (s : State) : Host.Outcome State Fault Refusal := prefWord s c m prefToCc

/-- A slice always has its words at hand: PREF.SL changes no value. -/
def execPrefSl (c : Ctl) (m : Mem) (s : State) : Host.Outcome State Fault Refusal := prefWord s c m fun _ s _ _ _ => s

/-! ### INVR, WBR, INVD (R205 to R208) -/

/-- The pages of a range with the bytes of each: whole 4-byte words that overlap it (R206). -/
def rangeParts (lane start len : Nat) : List Part :=
  if len = 0 then []
  else
    let lo := start / 4 * 4
    let hi := (start + len + 3) / 4 * 4
    (List.range ((hi - 1) / 4096 - lo / 4096 + 1)).map fun k =>
      let a := max lo ((lo / 4096 + k) * 4096)
      { lane := lane, va := a, n := min hi ((lo / 4096 + k + 1) * 4096) - a, st := .retry 0 }

/-- A range word: start and length from the lowest active lane; a length of 0 completes at once. -/
def rangeWord (s : State) (c : Ctl) (ins : Instr) (scope : Scope) (a b : Opd) : Host.Outcome State Fault Refusal :=
  issue s c fun i s => withScope s i scope fun sc s =>
    let start := lowVal s i a 2
    let len := lowVal s i b 1
    if len = 0 then s
    else accept (newOp s { opOf ins i c with scope := sc, parts := rangeParts (lowLane i.act) start len }) s.next

def execInvr (c : Ctl) (scope : Scope) (a b : Opd) (s : State) : Host.Outcome State Fault Refusal :=
  rangeWord s c (.invr c scope a b) scope a b
def execWbr (c : Ctl) (scope : Scope) (a b : Opd) (s : State) : Host.Outcome State Fault Refusal :=
  rangeWord s c (.wbr c scope a b) scope a b
def execInvd (c : Ctl) (scope : Scope) (a b : Opd) (s : State) : Host.Outcome State Fault Refusal :=
  rangeWord s c (.invd c scope a b) scope a b

/-! ### FENCE (R266, R267) -/

def fenceWord (s : State) (c : Ctl) (ins : Instr) (scope : Scope) (acquires : Bool) : Host.Outcome State Fault Refusal :=
  issue s c fun i s => withScope s i scope fun sc s =>
    newOp s { opOf ins i c with scope := sc, phase := if acquires then .acquiring else .ready }

def execFenceAr (c : Ctl) (scope : Scope) (s : State) : Host.Outcome State Fault Refusal :=
  fenceWord s c (.fenceAr c scope) scope false
def execFenceRel (c : Ctl) (scope : Scope) (s : State) : Host.Outcome State Fault Refusal :=
  fenceWord s c (.fenceRel c scope) scope false
def execFenceAcq (c : Ctl) (scope : Scope) (s : State) : Host.Outcome State Fault Refusal :=
  fenceWord s c (.fenceAcq c scope) scope true
def execFenceAll (c : Ctl) (scope : Scope) (s : State) : Host.Outcome State Fault Refusal :=
  fenceWord s c (.fenceAll c scope) scope false

/-! ### CSTORE (R183, R184, R413, R414) -/

/-- R183: the lanes selected, and their ranks in their tiles. -/
def cstoreRank (act : Lanes) (sel : Nat → Bool) (l t : Nat) : Nat :=
  ((laneList act).filter fun u => u / l == t / l && u < t && sel u).length

/-- R183: an element for each selected lane; R413: the set is held at the word. R173: fewer than 8 clocks after an LPARTSET the tile size is open and so are the count and what is stored. DEDUCED: log 39. -/
def execCstore (c : Ctl) (ty : Ty) (scope : Scope) (neg : Bool) (n : BitVec 3) (off : BitVec 12) (d a b : Opd) (s : State) :
    Host.Outcome State Fault Refusal :=
  issue s c fun i s => withScope s i scope fun sc s =>
    let x := getWarp s i.w
    let z := ty.size
    let base := wrapTo 64 ((lowVal s i a 2 : Nat) + off.toInt)
    let early := lpartEarly s x
    let l := if early then [2, 4, 8, 16, 32].getD ((fresh s freeBase).toNat % 5) 32 else lpartOf s x
    let sel (t : Nat) : Bool := pBit s i.w x n.toNat t != neg
    if base % z ≠ 0 then
      trapSet (writeDst s i 0 d 1 i.act fun t => if early then (fresh s (freeBase + 64 * t)).toNat else 0) i causeAlign 0 base
    else
      let addr (t : Nat) : Nat := (base + t / l * (l * z) + cstoreRank i.act sel l t * z) % 2 ^ 64
      let ps : List Part := ((laneList i.act).filter sel).map fun t =>
        { lane := t, va := addr t, n := z, st := if addr t + z > 2 ^ 48 then .failed causeAccess else .retry 0
          val := BitVec.ofNat 128 (srcVal s i.w x b ty.regs t % 2 ^ (8 * z)) }
      let id := s.next
      let s1 := accept (newOp s { opOf (.cstore c ty scope neg n off d a b) i c with
        scope := sc, parts := ps, args := [l, early.toNat], poison := if early then i.act else 0 }) id
      setCond s1 i.w i.set (fun _ => .waiting (.held id)) i.pc

/-- R184 item 2: the page at which the run stops: the lowest page of a failed element. -/
def cstoreStop (o : Op) : Option (Nat × Nat) :=
  let fs := o.parts.filterMap fun p => match p.st with
    | .failed c => some (p.va / 4096 * 4096, c)
    | _ => none
  match fs with
  | [] => none
  | f :: r => some (r.foldl (fun a b => if b.1 < a.1 then b else a) f)

def belowStop (o : Op) (p : Part) : Bool :=
  match cstoreStop o with
  | some (a, _) => p.va < a
  | none => true

/-- An element whose page is not confirmed yet. -/
def Part.unwalked (p : Part) : Bool := p.undone && !p.walked

/-- R184 item 2: the lanes whose elements may be written: below the stop and below every page that is not confirmed. -/
def cstoreLanes (s : State) (id : Nat) (o : Op) : Lanes :=
  let m := readyLanes s id o
  laneSet fun t => m.getLsbD t && o.parts.any fun p =>
    p.lane == t && belowStop o p && !(o.parts.any fun q => q.unwalked && q.va / 4096 < p.va / 4096)

/-- R184: nothing is left to be confirmed or written. -/
def cstoreSettled (o : Op) : Bool := o.parts.all fun p => !p.undone || (!belowStop o p && !(o.parts.any fun q => q.unwalked && belowStop o q))

/-- R184 items 3 and 4: the counts, and the trap at the first element not written. -/
def cstoreEnd (s : State) (id : Nat) (d : Opd) : State :=
  let o := getOp s id
  let l := o.args.getD 0 32
  let written := o.parts.filter fun p => p.st == .done
  let count (t : Nat) : Nat := (written.filter fun p => p.lane / l == t / l).length
  let count' (t : Nat) : Nat := if o.args.getD 1 0 = 0 then count t else (fresh s (freeBase + 64 * t)).toNat
  let s1 := retDstV s o d count'
  let s2 := finishOp { s1 with parks := mapFilter s1.parks fun _ e => e.op != some id } id
  let held := waiting (getWarp s2 o.warp) (· == .held id)
  let live := o.lanes &&& held
  match cstoreStop o with
  | none => wake s2 o.warp held fun _ => o.pc + 12
  | some (a, c) =>
    let first := ((o.parts.filter fun p => a ≤ p.va).map (·.va)).foldl min (2 ^ 64)
    deliver (wake s2 o.warp (held &&& ~~~live) fun _ => o.pc + 12) o.warp o.pc ((laneList live).map fun t =>
      { lane := t, cause := c, addr := first, aux1 := BitVec.ofNat 32 (count' t) })
where
  retDstV (s : State) (o : Op) (d : Opd) (f : Nat → Nat) : State :=
    match d with
    | .v n => retV s o n.toNat o.lanes fun t => BitVec.ofNat 32 (f t)
    | _ => s

/-- R248, R202: the acknowledgements of a word's pushes have returned, and the core's GTIME has reached the stamp plus 2 GBAND. -/
def publishedMay (s : State) (o : Op) : Bool :=
  o.acks == 0 && o.stamp.all fun t => t + 2 * s.sys.gband ≤ coreTime s o.core

/-- CSTORE_COMPLETE is due. -/
def cstoreMay (s : State) (o : Op) : Bool := cstoreSettled o && publishedMay s o

def execCstoreComplete (s : State) : Host.Outcome State Fault Refusal :=
  event s fun m s => match m with
    | .cstoreComplete id =>
      match mapGet s.ops id with
      | some o =>
        match o.kind with
        | .word (.cstore _ _ _ _ _ _ d _ _) => some (if cstoreMay s o then cstoreEnd s id d else s)
        | _ => some s
      | none => some s
    | _ => none

/-! ### Release and acquire (R124, R232, R262, R263, R358) -/

/-- R124, R232, R358: a release at GROUP scope or wider orders the MOVK, TDESC and JSET that its warp issued before it. -/
def orderPends (s : State) (w id : Nat) (sc : Scope) : State :=
  if sc == .thread || sc == .warp then s
  else updGroup s (getWarp s w).group fun g => { g with
    kPend := g.kPend.filter fun p => p.warp != w || id < p.seq
    descPend := g.descPend.filter fun p => p.warp != w || id < p.seq
    jPend := g.jPend.filter fun p => p.warp != w || id < p.seq }

/-- R262, R267: the release part of a word is complete: a FENCE without an acquire part completes, with one it begins its acquire; another word goes on. -/
def releaseDone (s : State) (id : Nat) : State :=
  let o := getOp s id
  let s1 := privReleased (orderPends s o.warp id o.scope) o.warp (opLevel s o)
  if isFence o.kind && !(relAcq o).2.1 then finishOp s1 id
  else updOp s1 id fun o => { o with released := true, acks := 0, stamp := none, phase := if isFence o.kind then .acquiring else .ready }

/-- The word's own accesses can be made: its release part, if any, is complete. -/
def acts (o : Op) : Bool := (o.phase == .ready || o.phase == .longPark) && (!(relAcq o).1 || o.released)

/-- R262 step 2, R419: the pushes of a word's release part, and for SYSTEM scope the dirty host lines; with none it is complete. -/
def releaseStep (s : State) (id : Nat) : State :=
  let o := getOp s id
  let (s1, n, st) := releasePush s o.core (opLevel s o) id (relAcq o).2.2
  let (s2, k) := if o.scope == .system then cleanHostLines s1 o.core id else (s1, 0)
  if n + k = 0 && st.isNone then releaseDone s2 id
  else updOp s2 id fun o => { o with phase := .releasing, acks := n + k, stamp := st }

/-- R263 step 3: the acquire of a word acts. -/
def acquireNow (s : State) (id : Nat) : State :=
  let o := getOp s id
  let s1 := acquireAct s o.core (opLevel s o) (relAcq o).2.2
  if o.scope == .system then dropHostLines s1 o.core else s1

/-- R263 step 2: DEVICE scope and wider wait for the fill stamps that the word's threads have taken. -/
def acquireTime (s : State) (o : Op) : Bool :=
  (laneList o.lanes).all fun t => (threadOf (getWarp s o.warp) t).fill.all fun f => f + 2 * s.sys.gband ≤ coreTime s o.core

/-! ### Performing (R201 to R208, R121) -/

/-- The destination of a load: field, registers, and how the value is placed. -/
def loadDst : Instr → Option (Opd × Nat × Ty)
  | .ld _ k ty _ d _ => some (d, lsRegs (lsQuad k) ty, if lsQuad k then .u64 else ty)
  | .ldx _ q ty _ d _ => some (d, lsRegs q ty, if q then .u64 else ty)
  | .lds _ q ty d _ => some (d, lsRegs q ty, if q then .u64 else ty)
  | .rld _ ty d _ => some (d, ty.regs, ty)
  | .garg _ d _ => some (d, 1, .u32)
  | _ => none

/-- R202: a load has every value: its registers are written; the acquire of `.ACQ` follows. -/
def loadDone (s : State) (id : Nat) (i : Instr) : State :=
  let o := getOp s id
  let s1 := match loadDst i with
    | some (.v n, w, ty) => retVs s o n.toNat w o.lanes fun t =>
        if o.poison.getLsbD t then (fresh s (freeBase + 64 * t + 48)).toNat else extendTo ty (gotVal o t)
    | _ => s
  if (relAcq o).2.1 then updOp s1 id fun o => { o with phase := .acquiring } else finishOp s1 id

/-- R202: a store has been performed: at DEVICE scope and wider it waits for its acknowledgements and for R248. -/
def storeDone (s : State) (id : Nat) : State :=
  if publishedMay s (getOp s id) then finishOp s id else updOp s id fun o => { o with phase := .publishing }

/-- R242, R243: a load's lanes that are ready are read; a word registered to another cluster is answered from the value that the owner holds as the slice sends the redirection, and the load waits for each such answer. DEDUCED: log 88. -/
def replyLoad (s : State) (id : Nat) (i : Instr) : State :=
  let o := getOp s id
  let lvl := opLevel s o
  let m := readyLanes s id o
  let far := forwardedTo s o lvl m
  let s1 := updOp (readLanes s id lvl m) id fun o => { o with acks := o.acks + far.length }
  let s2 := far.foldl (fun s r => send s (chanOf (64 + homeSlice (4 * r.1)) r.2) (.redirectionArrive r.2 r.1 id)) s1
  if !allDone (getOp s2 id) then s2
  else if (getOp s2 id).acks = 0 then loadDone s2 id i
  else updOp s2 id fun o => { o with phase := .redirected }

def replyStore (s : State) (id : Nat) : State :=
  let o := getOp s id
  let s1 := storeLanes s id (opLevel s o) (readyLanes s id o)
  if allDone (getOp s1 id) then storeDone s1 id else s1

def replyCstore (s : State) (id : Nat) : State :=
  let o := getOp s id
  storeLanes s id (opLevel s o) (cstoreLanes s id o)

/-- R257: the words of a range that a WBR pushes at a level. -/
def wbrWords (s : State) (core lvl : Nat) (ws : List Nat) : List Nat :=
  ws.filter fun w =>
    (match mapGet s.l1 (cacheKey core w) with
      | some x => x.dirty
      | none => false) ||
    (lvl == 2 && match mapGet s.cc (cacheKey (clusterOf core) w) with
      | some x => x.st == .dirty
      | none => false)

/-- R206 to R208: every page has passed: the range word acts. -/
def replyRange (s : State) (id : Nat) (i : Instr) : State :=
  let o := getOp s id
  let ws := (o.parts.filter fun p => p.ord != 1).flatMap Part.words
  let s1 := updOp s id fun o => { o with parts := o.parts.map fun p => { p with st := .done } }
  match i with
  | .invr .. => finishOp (ws.foldl (invrWord o.core (o.scope != .group)) s1) id
  | .invd .. => finishOp (ws.foldl (invdWord o.core) s1) id
  | _ =>
    let lvl := opLevel s o
    let (s2, n, st) := ownPush s1 o.core lvl id (wbrWords s1 o.core lvl ws)
    let (s3, k) := if o.scope == .system then cleanHostLines s2 o.core id else (s2, 0)
    storeDone (updOp s3 id fun o => { o with acks := n + k, stamp := st }) id

/-- R121: earlier pushes of the same binding are written first. -/
def pushHeld (s : State) (id : Nat) (o : Op) : Bool :=
  match o.kind with
  | .push b _ => (opsBefore s o.warp id).any fun e => match e.2.kind with
    | .push c _ => c == b
    | _ => false
  | _ => false

/-- R121: the elements of a push are written in walk order. -/
def pushLanes (s : State) (id : Nat) (o : Op) : Lanes :=
  let m := readyLanes s id o
  laneSet fun t => m.getLsbD t && (laneList (undoneLanes o)).all fun u => t ≤ u || m.getLsbD u

def replyPush (s : State) (id : Nat) : State :=
  let s1 := storeLanes s id 0 (pushLanes s id (getOp s id))
  if allDone (getOp s1 id) then finishOp s1 id else s1

/-! ### Stream fetches (R119, R120, R122) -/

/-- R122: how many groups may wait: 8 with a queue; one fetched on demand without. -/
def fetchAhead (st : Stream) : Nat := if st.queue then 8 else 1

/-- A load stream whose next group can be fetched. -/
def fetchMay (st : Stream) : Bool := !st.store && !st.fetching && st.groups.length < fetchAhead st

/-- R120: the element of a lane as the pop gives it. -/
def elemOf (st : Stream) (o : Op) (t : Nat) : Elem :=
  match o.parts.find? fun p => p.lane == t with
  | none => {}
  | some p => match p.st with
    | .failed c => { fault := some (c, p.va) }
    | _ =>
      let v := p.got.toNat
      let w := 8 * walkSize st
      { val := BitVec.ofNat 32 (if (walkWord st 2).getLsbD 2 && v.testBit (w - 1) then v + (2 ^ 32 - 2 ^ w) else v) }

/-- R120: all elements of a fetch have been walked: they are read and the group joins the queue, where the stream is still bound. -/
def fetchEnd (s : State) (id : Nat) : State :=
  let o := getOp s id
  match o.kind with
  | .fetch n b =>
    let s1 := readLanes s id 0 (laneSet fun t => o.parts.any fun p => p.lane == t && p.undone)
    let o1 := getOp s1 id
    let s2 := { s1 with ops := mapErase s1.ops id }
    match getStream (getWarp s2 o.warp) n with
    | some st =>
      if st.bind = b then
        setStream s2 o.warp n { st with fetching := false, groups := st.groups ++ [(List.range 32).map (elemOf st o1)] }
      else s2
    | none => s2
  | _ => s

/-- The parts of the fetch of a stream's next group. -/
def fetchParts (st : Stream) : List Part :=
  let g := 32 * (st.pos + st.groups.length)
  ((List.range 32).filter fun t => g + t < walkCount st).map fun t =>
    { lane := t, va := walkAddr st (g + t), n := walkSize st
      st := match elemFault st (g + t) with
        | some c => .failed c
        | none => .retry 0 }

/-- R120: a fetch of the next group; it parks memory-side where a walk faults. -/
def execStreamFetchDone (s : State) : Host.Outcome State Fault Refusal :=
  event s fun m s => match m with
    | .streamFetchDone w n =>
      some (match getStream (getWarp s w) n with
        | some st =>
          if fetchMay st then
            let id := s.next
            let s1 := newOp s { warp := w, kind := .fetch n st.bind, lanes := allLanes, parts := fetchParts st }
            let s2 := accept (setStream s1 w n { st with fetching := true }) id
            if (getOp s2 id).parts.all fun p => !p.unwalked then fetchEnd s2 id else s2
          else s
        | none => s)
    | _ => none

/-! ### Retries, blocking, host answers (R192 to R194, R226) -/

/-- R192: a refused request is tried again. -/
def execParkTableRetry (s : State) : Host.Outcome State Fault Refusal :=
  event s fun m s => match m with
    | .parkTableRetry id => some (accept s id)
    | _ => none

/-- A part that is parked. -/
def Part.parked (p : Part) : Bool :=
  match p.st with
  | .parked _ => true
  | _ => false

/-- R194: parked for more than 4,096 ticks. DEDUCED: log 89. -/
def longParked (s : State) (o : Op) : Bool := o.parts.any Part.parked && o.parkedAt + 4096 < s.gtime

def execLoadParkTimeout (s : State) : Host.Outcome State Fault Refusal :=
  event s fun m s => match m with
    | .loadParkTimeout id =>
      some (if plainLoad (getOp s id).kind && longParked s (getOp s id) && (getOp s id).phase == .ready then
        updOp s id fun o => { o with phase := .longPark } else s)
    | _ => none

end Sys2Proof.Machine
end

