-- ==== Sys2Proof/Machine/ScratchWords.lean ====
section
/-! DEFINITION. Scratchpad words LDS, STS, LMARK (R230, R231), SLEEPT (R237), and what an empty line that fills releases (R213). -/

namespace Sys2Proof.Machine

/-! ### Issue -/

/-- The core half of a warp's scratchpad. -/
def opHalf (s : State) (o : Op) : Nat := halfOf s (getWarp s o.warp)
def opGroup (s : State) (o : Op) : Nat := (getWarp s o.warp).group

/-- R230, R285: the check of one lane's scratchpad access: its cause where it fails. -/
def scrFault (s : State) (x : Warp) (a z : Nat) (writes : Bool) : Option Nat :=
  if a % z ≠ 0 then some causeAlign
  else if a + z > scratchSize s x then some causeAccess
  else if writes && (lineOf (getGroup s x.group) (halfOf s x) (a / 128)).bar then some causeBarclobber
  else none

/-- Scratchpad parts lie beyond every physical address, so that no global access shares a word with them. -/
def scrPart (t a z val cmp : Nat) : Part :=
  { lane := t, va := a, pa := 2 ^ 60 + a, n := z, val := BitVec.ofNat 128 (val % 2 ^ (8 * z)), cmp := BitVec.ofNat 128 (cmp % 2 ^ (8 * z)) }

/-- A scratchpad access of each active lane issues; failing lanes trap. -/
def issueScratch (s : State) (i : Issue) (o : Op) (z : Nat) (writes : Bool) (addr val cmp : Nat → Nat) : State :=
  let x := getWarp s i.w
  let bad := (laneList i.act).filterMap fun t =>
    (scrFault s x (addr t) z writes).map fun c => ({ lane := t, cause := c, addr := addr t } : TrapIn)
  let ok := i.act &&& ~~~trapLanes bad
  let ps := (laneList ok).map fun t => scrPart t (addr t) z (val t) (cmp t)
  let s1 := if ok = 0 then s else newOp s { o with lanes := ok, parts := ps }
  deliver s1 i.w i.pc bad

def execLds (c : Ctl) (b128 : Bool) (ty : Ty) (d : Opd) (m : Mem) (s : State) : Host.Outcome State Fault Refusal :=
  issue s c fun i s =>
    issueScratch s i (opOf (.lds c b128 ty d m) i c) (lsSize b128 ty) false (effAddr s i.w (getWarp s i.w) m 32)
      (fun _ => 0) (fun _ => 0)

def execSts (c : Ctl) (b128 fill : Bool) (ty : Ty) (d : Opd) (m : Mem) (s : State) : Host.Outcome State Fault Refusal :=
  issue s c fun i s =>
    issueScratch s i (opOf (.sts c b128 fill ty d m) i c) (lsSize b128 ty) true (effAddr s i.w (getWarp s i.w) m 32)
      (srcVal s i.w (getWarp s i.w) d (lsRegs b128 ty)) (fun _ => 0)

/-- R231: LMARK.EMPTY and LMARK.FULL check their lines and act once for the set; no lines, nothing to check and nothing to do. -/
def lmarkWord (s : State) (c : Ctl) (ins : Instr) (a b : Opd) : Host.Outcome State Fault Refusal :=
  issue s c fun i s =>
    let x := getWarp s i.w
    let g := getGroup s x.group
    let start := lowVal s i a 1
    let n := lowVal s i b 1
    let lines := (List.range n).map fun k => start / 128 + k
    if start % 128 ≠ 0 then trapSet s i causeAlign 0 start
    else if n = 0 then s
    else if start + 128 * n > scratchSize s x then trapSet s i causeAccess 0 start
    else match lines.find? fun l => (lineOf g (halfOf s x) l).bar with
      | some l => trapSet s i causeBarclobber 0 (128 * l)
      | none =>
        newOp s { opOf ins i c with parts := [{ lane := lowLane i.act, va := start, pa := 2 ^ 60 + start, n := 128 * n }] }

def execLmarkEmpty (c : Ctl) (a b : Opd) (s : State) : Host.Outcome State Fault Refusal := lmarkWord s c (.lmarkEmpty c a b) a b
def execLmarkFull (c : Ctl) (a b : Opd) (s : State) : Host.Outcome State Fault Refusal := lmarkWord s c (.lmarkFull c a b) a b

def execLmarkQ (c : Ctl) (d a : Opd) (s : State) : Host.Outcome State Fault Refusal :=
  issue s c fun i s =>
    issueScratch s i (opOf (.lmarkQ c d a) i c) 1 false (srcVal s i.w (getWarp s i.w) a 1) (fun _ => 0) (fun _ => 0)

/-! ### Performance -/

/-- R211, R213: a part that can be performed: nothing earlier on its line, and, for a read or an atomic, its line full. -/
def scrReady (s : State) (id : Nat) (o : Op) (waits : Bool) (p : Part) : Bool :=
  p.undone && !(linesOf p.va p.n).any (fun n => lineHeld s id o n)
    && (!waits || (lineOf (getGroup s (opGroup s o)) (opHalf s o) (p.va / 128)).full)

/-- Whether a scratchpad word waits for full lines: LDS and atomics. -/
def waitsFull : OpKind → Bool
  | .word i => match i with
    | .lds .. => true
    | .atom _ _ t _ _ | .atomf _ _ t _ _ | .cas _ _ t _ _ => t.scratch
    | _ => false
  | _ => false

/-- The lanes of a scratchpad word that the memory port does not hold (R263, R267, R268). -/
def scrOpen (s : State) (id : Nat) (o : Op) : Lanes :=
  if fenceHeld s id o || awayHeld s o then 0
  else laneSet fun t => o.lanes.getLsbD t && !((opsBefore s o.warp id).any fun e => orderHeld o e.2 t)

/-- The lanes of a scratchpad word that can be performed now. -/
def scrLanes (s : State) (id : Nat) (o : Op) : Lanes :=
  let m := scrOpen s id o
  laneSet fun t => m.getLsbD t && o.parts.any fun p => p.lane == t && scrReady s id o (waitsFull o.kind) p

/-- R211, R230: performs lanes of a scratchpad word in lane order; a lane that writes a line that is a barrier by now traps (R213). -/
def scrPerform (s : State) (id : Nat) (i : Instr) (m : Lanes) : State :=
  let o := getOp s id
  let s1 := scrDo s (opGroup s o) (opHalf s o) id i (fun p => m.getLsbD p.lane)
  let fs := (getOp s1 id).parts.filterMap fun p => match p.st with
    | .failed c => if m.getLsbD p.lane then some (p.lane, c, p.va) else none
    | _ => none
  failLanes s1 id fs

/-- R230, R231: what follows when every lane of a scratchpad word is performed. -/
def scrDone (s : State) (id : Nat) (i : Instr) : State :=
  let o := getOp s id
  match i with
  | .sts _ _ fill _ _ _ =>
    let lines := ((o.parts.filter fun p => p.st == .done).flatMap fun p => linesOf p.va p.n).dedup
    let s1 := finishOp s id
    if fill then lines.foldl (fun s n => fillLine s (opGroup s o) (opHalf s o) n) s1 else s1
  | .lmarkQ _ (.v n) _ => finishOp (retV s o n.toNat o.lanes fun t => BitVec.ofNat 32 (gotVal o t)) id
  | .lds .. => loadDone s id i
  | .atom _ _ t d _ | .atomf _ _ t d _ =>
    let s1 := match d with
      | some (.v n) => if t.nr then s else retVs s o n.toNat t.ty.regs o.lanes (gotVal o)
      | _ => s
    if (relAcq o).2.1 then updOp s1 id fun o => { o with phase := .acquiring } else finishOp s1 id
  | .cas _ q t (.v n) _ =>
    let s1 := if t.nr then s else retVs s o n.toNat (if q then 4 else t.ty.regs) o.lanes (gotVal o)
    if (relAcq o).2.1 then updOp s1 id fun o => { o with phase := .acquiring } else finishOp s1 id
  | _ => finishOp s id

/-- R213: a part waits for its line alone. -/
def scrWaits (s : State) (id : Nat) (o : Op) : Bool :=
  waitsFull o.kind && o.parts.any fun p => (scrOpen s id o).getLsbD p.lane &&
    p.undone && !lineHeld s id o (p.va / 128) && !(lineOf (getGroup s (opGroup s o)) (opHalf s o) (p.va / 128)).full

/-- R211: the lines of LMARK.EMPTY or LMARK.FULL, after what the warp issued for them before. A line that is a barrier by then stays. -/
def markLines (s : State) (id : Nat) (full : Bool) : State :=
  let o := getOp s id
  let all := o.parts.flatMap fun p => linesOf p.va p.n
  let lines := all.filter fun n => !(lineOf (getGroup s (opGroup s o)) (opHalf s o) n).bar
  if portHeld s id o || all.any (fun n => lineHeld s id o n) then s else
  let s1 := finishOp s id
  lines.foldl (fun s n => if full then fillLine s (opGroup s o) (opHalf s o) n else emptyLine s (opGroup s o) (opHalf s o) n) s1

/-- R194: a request of the word has failed while its warp is evicted: its trap waits for the warp. -/
def anyFailed (o : Op) : Bool := o.parts.any fun p => match p.st with
  | .failed _ => true
  | _ => false

/-- The reply of a scratchpad word. -/
def replyScratch (s : State) (id : Nat) (i : Instr) : State :=
  let o := getOp s id
  match i with
  | .lmarkEmpty .. => markLines s id false
  | .lmarkFull .. => markLines s id true
  | _ =>
    let s1 := scrPerform s id i (scrLanes s id o)
    if (mapGet s1.ops id).isNone || anyFailed (getOp s1 id) then s1
    else if allDone (getOp s1 id) then scrDone s1 id i
    else if scrWaits s1 id (getOp s1 id) then updOp s1 id fun o => { o with phase := .lines } else s1

/-- R213: words that waited for an empty line and have nothing left to wait for complete. -/
def execLineFillWake (s : State) : Host.Outcome State Fault Refusal :=
  event s fun m s => match m with
    | .lineFillWake gi half _ =>
      some ((lineWaiters s gi half).foldl (fun s id =>
        let o := getOp s id
        match o.kind with
        | .word i => if allDone o && !anyFailed o then scrDone s id i else s
        | _ => s) s)
    | _ => none

/-! ### SLEEPT (R237) -/

/-- R237: both checks are made at issue; then the active threads wait. -/
def sleepWord (s : State) (c : Ctl) (a : Opd) (b : Option Opd) (d : Option Nat) (late : Bool) : Host.Outcome State Fault Refusal :=
  issue s c fun i s =>
    let x := getWarp s i.w
    let w := lowVal s i a 2
    let line := b.map fun b => lowVal s i b 1
    if w > coreTime s x.core + 2 ^ 34 then trapSet s i causeOperand
    else match line with
      | some l =>
        if l ≥ scratchSize s x then trapSet s i causeAccess 0 l
        else setCond s i.w i.act (fun _ => .waiting (.sleep w line d late)) (i.pc + 12)
      | none => setCond s i.w i.act (fun _ => .waiting (.sleep w none none false)) (i.pc + 12)

def execSleept (c : Ctl) (a : Opd) (s : State) : Host.Outcome State Fault Refusal := sleepWord s c a none none false
def execSleeptP (c : Ctl) (d a b : Opd) (s : State) : Host.Outcome State Fault Refusal :=
  sleepWord s c a (some b) (match d with
    | .p n => some n.val
    | _ => none) false
def execSleeptT (c : Ctl) (a b : Opd) (s : State) : Host.Outcome State Fault Refusal := sleepWord s c a (some b) none true

/-- The sleeping sets of a warp whose time has come. -/
def sleepers (s : State) (x : Warp) : List (Wait × Lanes) :=
  ((x.threads.filterMap fun th => match th.cond with
    | .waiting (.sleep w l d late) => if w ≤ coreTime s x.core then some (Wait.sleep w l d late) else none
    | _ => none).dedup).map fun k => (k, waiting x (· == k))

/-- R237: what a set does when it wakes: the line's FULL bit to a predicate, or LATE with the next word as the frame's. DEDUCED: log 27. -/
def sleepWake (s : State) (w : Nat) (k : Wait) (m : Lanes) : State :=
  let x := getWarp s w
  let pc := (threadOf x (lowLane m)).pc
  match k with
  | .sleep _ (some a) d late =>
    let full := (lineOf (getGroup s x.group) (halfOf s x) (a / 128)).full
    if late && !full then
      deliver s w pc ((laneList m).map fun t => { lane := t, cause := causeLate, addr := a })
    else
      let s1 := match d with
        | some n => putP s w 0 n m fun _ => full
        | none => s
      wake s1 w m fun t => (threadOf (getWarp s1 w) t).pc
  | _ => wake s w m fun t => (threadOf (getWarp s w) t).pc

def execSleepWake (s : State) : Host.Outcome State Fault Refusal :=
  event s fun m s => match m with
    | .sleepWake w lanes =>
      some (((sleepers s (getWarp s w)).filter fun e => e.2 &&& lanes != 0).foldl (fun s e => sleepWake s w e.1 e.2) s)
    | _ => none

end Sys2Proof.Machine
end

