-- ==== Sys2Proof/Machine/Atomics.lean ====
section
/-! DEFINITION. Atomic words ATOM, ATOMF, CAS (R277 to R289). -/

namespace Sys2Proof.Machine

/-- R285: the address of an atomic: b + e, 64 bits, or 32 for the scratchpad. -/
def atomAddr (s : State) (wn : Nat) (x : Warp) (t : AtomCtl) (lane : Nat) : Nat :=
  wrapTo (if t.scratch then 32 else 64) ((srcVal s wn x t.base (if t.scratch then 1 else 2) lane : Nat) + t.off.toInt)

/-- An atomic word issues: value from FB, and for CAS the compare value from FD. -/
def atomWord (s : State) (c : Ctl) (ins : Instr) (t : AtomCtl) (z w : Nat) (b : Opd) (d : Option Opd) :
    Host.Outcome State Fault Refusal :=
  issue s c fun i s => withScope s i t.scope fun sc s =>
    let x := getWarp s i.w
    let o : Op := { opOf ins i c with scope := sc }
    let cmp (l : Nat) : Nat := match d with
      | some o => srcVal s i.w x o w l
      | none => 0
    if t.scratch then issueScratch s i o z true (atomAddr s i.w x t) (srcVal s i.w x b w) cmp
    else issueAccess s i o { size := z, align := z, need := { r := true, w := true } } (atomAddr s i.w x t) (srcVal s i.w x b w) cmp

def execAtom (c : Ctl) (op : AtomOp) (t : AtomCtl) (d : Option Opd) (b : Opd) (s : State) : Host.Outcome State Fault Refusal :=
  atomWord s c (.atom c op t d b) t t.ty.size t.ty.regs b none

def execAtomf (c : Ctl) (op : AtomFOp) (t : AtomCtl) (d : Option Opd) (b : Opd) (s : State) : Host.Outcome State Fault Refusal :=
  atomWord s c (.atomf c op t d b) t t.ty.size t.ty.regs b none

def execCas (c : Ctl) (b128 : Bool) (t : AtomCtl) (d b : Opd) (s : State) : Host.Outcome State Fault Refusal :=
  atomWord s c (.cas c b128 t d b) t (lsSize b128 t.ty) (lsRegs b128 t.ty) b (some d)

/-- The control part of an atomic word. -/
def atomCtlOf : Instr → Option AtomCtl
  | .atom _ _ t _ _ | .atomf _ _ t _ _ | .cas _ _ t _ _ => some t
  | _ => none

/-- R282: every lane is applied: the destination is written; at DEVICE scope and wider the wait of R248 follows, then an acquire. -/
def atomApplied (s : State) (id : Nat) (i : Instr) : State :=
  let o := getOp s id
  let dst : Option (Opd × Nat) := match i with
    | .atom _ _ t d _ | .atomf _ _ t d _ => if t.nr then none else d.map fun d => (d, t.ty.regs)
    | .cas _ q t d _ => if t.nr then none else some (d, lsRegs q t.ty)
    | _ => none
  let s1 := match dst with
    | some (.v n, w) => retVs s o n.toNat w o.lanes (gotVal o)
    | _ => s
  if opLevel s o = 2 && !publishedMay s1 o then updOp s1 id fun o => { o with phase := .publishing }
  else if (relAcq o).2.1 then updOp s1 id fun o => { o with phase := .acquiring }
  else finishOp s1 id

/-- The lanes of a global atomic that can be applied now, at the L1 (`near`) or above it. -/
def atomLanes (s : State) (id : Nat) (o : Op) (near : Bool) : Lanes :=
  let m := readyLanes s id o
  laneSet fun t => m.getLsbD t && o.parts.any fun p => p.lane == t && (atomLevel (opLevel s o) p == 0) == near

/-- R279: lanes of an atomic are applied as one step. -/
def applyLanes (s : State) (id : Nat) (i : Instr) (m : Lanes) : State :=
  let s1 := atomicLanes s id (opLevel s (getOp s id)) i m
  if allDone (getOp s1 id) then atomApplied s1 id i else s1

/-- ATOMIC_APPLY: the atomic reaches the ALU of a cluster cache or a slice. DEDUCED: log 36. -/
def execAtomicApply (s : State) : Host.Outcome State Fault Refusal :=
  event s fun m s => match m with
    | .atomicApply id =>
      match mapGet s.ops id with
      | some o =>
        match o.kind with
        | .word i => some (if acts o then applyLanes s id i (atomLanes s id o false) else s)
        | _ => some s
      | none => some s
    | _ => none

end Sys2Proof.Machine
end

