-- ==== Sys2Proof/Machine/Digest.lean ====
section
/-! DEFINITION. SHA-256 (R434, R437): the digest function that firmware images and attestation reports name. -/

namespace Sys2Proof.Machine.Sha

/-- The round constants. -/
def roundK : List Word :=
  [0x428a2f98, 0x71374491, 0xb5c0fbcf, 0xe9b5dba5, 0x3956c25b, 0x59f111f1, 0x923f82a4, 0xab1c5ed5] ++
  [0xd807aa98, 0x12835b01, 0x243185be, 0x550c7dc3, 0x72be5d74, 0x80deb1fe, 0x9bdc06a7, 0xc19bf174] ++
  [0xe49b69c1, 0xefbe4786, 0x0fc19dc6, 0x240ca1cc, 0x2de92c6f, 0x4a7484aa, 0x5cb0a9dc, 0x76f988da] ++
  [0x983e5152, 0xa831c66d, 0xb00327c8, 0xbf597fc7, 0xc6e00bf3, 0xd5a79147, 0x06ca6351, 0x14292967] ++
  [0x27b70a85, 0x2e1b2138, 0x4d2c6dfc, 0x53380d13, 0x650a7354, 0x766a0abb, 0x81c2c92e, 0x92722c85] ++
  [0xa2bfe8a1, 0xa81a664b, 0xc24b8b70, 0xc76c51a3, 0xd192e819, 0xd6990624, 0xf40e3585, 0x106aa070] ++
  [0x19a4c116, 0x1e376c08, 0x2748774c, 0x34b0bcb5, 0x391c0cb3, 0x4ed8aa4a, 0x5b9cca4f, 0x682e6ff3] ++
  [0x748f82ee, 0x78a5636f, 0x84c87814, 0x8cc70208, 0x90befffa, 0xa4506ceb, 0xbef9a3f7, 0xc67178f2]

/-- The first chaining value. -/
def start : List Word := [0x6a09e667, 0xbb67ae85, 0x3c6ef372, 0xa54ff53a, 0x510e527f, 0x9b05688c, 0x1f83d9ab, 0x5be0cd19]

/-- Four bytes, the most significant first. -/
def beWord (bs : List Byte) : Word := BitVec.ofNat 32 (bs.foldl (fun a b => 256 * a + b.toNat) 0)

/-- The bytes of a value, the most significant first. -/
def beBytes (x n : Nat) : List Byte := (leBytes x n).reverse

/-- The message with its padding. -/
def padded (bs : List Byte) : List Byte :=
  bs ++ 0x80 :: (List.replicate ((119 - bs.length % 64) % 64) 0 ++ beBytes (8 * bs.length) 8)

/-- One word of the message schedule. -/
def extend (w : List Word) (t : Nat) : List Word :=
  let x (k : Nat) : Word := w.getD (t - k) 0
  let s0 := (x 15).rotateRight 7 ^^^ (x 15).rotateRight 18 ^^^ (x 15 >>> 3)
  let s1 := (x 2).rotateRight 17 ^^^ (x 2).rotateRight 19 ^^^ (x 2 >>> 10)
  w ++ [s1 + x 7 + s0 + x 16]

/-- The schedule of a block. -/
def schedule (blk : List Byte) : List Word :=
  ((List.range 48).map (· + 16)).foldl extend ((List.range 16).map fun k => beWord ((blk.drop (4 * k)).take 4))

/-- One round. -/
def round (h : List Word) (kw : Word × Word) : List Word :=
  match h with
  | [a, b, c, d, e, f, g, z] =>
    let s1 := e.rotateRight 6 ^^^ e.rotateRight 11 ^^^ e.rotateRight 25
    let t1 := z + s1 + ((e &&& f) ^^^ (~~~e &&& g)) + kw.1 + kw.2
    let s0 := a.rotateRight 2 ^^^ a.rotateRight 13 ^^^ a.rotateRight 22
    let t2 := s0 + ((a &&& b) ^^^ (a &&& c) ^^^ (b &&& c))
    [t1 + t2, a, b, c, d + t1, e, f, g]
  | _ => h

/-- One block. -/
def block (h : List Word) (blk : List Byte) : List Word :=
  let r := (roundK.zip (schedule blk)).foldl round h
  (h.zip r).map fun (a, b) => a + b

end Sys2Proof.Machine.Sha

namespace Sys2Proof.Machine

/-- The SHA-256 digest of bytes. -/
def sha256 (bs : List Byte) : List Byte :=
  let p := Sha.padded bs
  ((List.range (p.length / 64)).foldl (fun h k => Sha.block h ((p.drop (64 * k)).take 64)) Sha.start).flatMap fun w => Sha.beBytes w.toNat 4

end Sys2Proof.Machine
end

