-- ==== Sys2Proof/Machine/Lane.lean ====
section
/-! DEFINITION. Lane exchange (R171 to R182). CSTORE stands with the memory words. -/

namespace Sys2Proof.Machine

/-- R175. -/
def execLpartset (c : Ctl) (a : Opd) (s : State) : Host.Outcome State Fault Refusal :=
  issue s c fun i s =>
    let v := lowVal s i a 1
    if v ∈ [2, 4, 8, 16, 32] then
      updWarp s i.w fun x => setLpart s x v
    else trapSet s i causeOperand

/-- R172: a lane exchange word at work: its state before, its warp and issue, and LPART. -/
structure Tiles where
  s : State
  x : Warp
  i : Issue
  l : Nat
  deriving DecidableEq, Repr

def tilesOf (s : State) (i : Issue) : Tiles := ⟨s, getWarp s i.w, i, lpartOf s (getWarp s i.w)⟩

/-- R172: position of a lane, first lane of its tile, and the active lanes of its tile. -/
def Tiles.pos (k : Tiles) (t : Nat) : Nat := t % k.l
def Tiles.tb (k : Tiles) (t : Nat) : Nat := t - t % k.l
def Tiles.tile (k : Tiles) (t : Nat) : List Nat := (laneList k.i.act).filter fun u => u / k.l == t / k.l
/-- An operand in a lane. -/
def Tiles.val (k : Tiles) (o : Opd) (w t : Nat) : Nat := srcVal k.s k.i.w k.x o w t

/-- R173: whether the word reads LPART's effect too early: what it writes is undefined. -/
def Tiles.early (k : Tiles) : Bool := lpartEarly k.s k.x

/-- The lanes a word writes: all active ones where it reads LPART too early. -/
def Tiles.lanes (k : Tiles) (p : Nat → Bool) : Lanes :=
  if k.early then k.i.act else laneSet fun t => k.i.act.getLsbD t && p t

/-- R173: every source is read before any destination is written; latency 8. -/
def Tiles.out (k : Tiles) (s : State) (d : Opd) (w : Nat) (p : Nat → Bool) (f : Nat → Nat) : State :=
  writeDst s k.i 8 d w (k.lanes p) fun t =>
    if k.early then (fresh k.s (2 ^ 17 + t)).toNat % (if w = 2 then 2 ^ 64 else 2 ^ 32) else f t

/-- The same for a predicate. -/
def Tiles.outP (k : Tiles) (s : State) (n : Nat) (f : Nat → Bool) : State :=
  putP s k.i.w 8 n k.i.act fun t => if k.early then (fresh k.s (2 ^ 18 + t)).getLsbD 0 else f t

/-- A lane exchange word that cannot trap. -/
def laneWord (s : State) (c : Ctl) (f : Tiles → State → State) : Host.Outcome State Fault Refusal :=
  issue s c fun i s => f (tilesOf s i) s

/-! ### SHFL (R177) -/

/-- R177: the lane read, and whether it is valid. -/
def shflWord (s : State) (c : Ctl) (ty : Ty) (vp : Option (BitVec 3)) (d a b : Opd)
    (f : Nat → Nat → Nat → Nat × Bool) : Host.Outcome State Fault Refusal :=
  laneWord s c fun k s =>
    let r (t : Nat) : Nat × Bool :=
      let (j, inrange) := f k.l (k.pos t) (k.val b 1 t)
      (k.tb t + j, inrange && k.i.act.getLsbD (k.tb t + j))
    let s1 := k.out s d ty.regs (fun _ => true) fun t => k.val a ty.regs (if (r t).2 then (r t).1 else t)
    match vp with
    | some n => k.outP s1 n.toNat fun t => (r t).2
    | none => s1

def shflIdxAt (l _i b : Nat) : Nat × Bool := (b % l, true)
def shflUpAt (_l i b : Nat) : Nat × Bool := (i - b, b ≤ i)
def shflDownAt (l i b : Nat) : Nat × Bool := (i + b, i + b < l)
def shflXorAt (l i b : Nat) : Nat × Bool := (i ^^^ (b % l), true)

def execShflIdx (c : Ctl) (ty : Ty) (vp : Option (BitVec 3)) (d a b : Opd) (s : State) : Host.Outcome State Fault Refusal :=
  shflWord s c ty vp d a b shflIdxAt
def execShflUp (c : Ctl) (ty : Ty) (vp : Option (BitVec 3)) (d a b : Opd) (s : State) : Host.Outcome State Fault Refusal :=
  shflWord s c ty vp d a b shflUpAt
def execShflDown (c : Ctl) (ty : Ty) (vp : Option (BitVec 3)) (d a b : Opd) (s : State) : Host.Outcome State Fault Refusal :=
  shflWord s c ty vp d a b shflDownAt
def execShflXor (c : Ctl) (ty : Ty) (vp : Option (BitVec 3)) (d a b : Opd) (s : State) : Host.Outcome State Fault Refusal :=
  shflWord s c ty vp d a b shflXorAt

/-! ### VOTE and LANEPFX (R178) -/

/-- R178: a tile-relative mask of the active lanes of t's tile that satisfy `p`. -/
def Tiles.mask (k : Tiles) (t : Nat) (p : Nat → Bool) : Nat :=
  ((k.tile t).filter p).foldl (fun m u => m ||| 2 ^ k.pos u) 0

/-- R178: the masks m and e of a lane. -/
def Tiles.votes (k : Tiles) (neg : Bool) (a : Opd) (t : Nat) : Nat × Nat :=
  (k.mask t fun u => srcPred k.s k.i.w k.x a u != neg, k.mask t fun _ => true)

def voteWord (s : State) (c : Ctl) (neg : Bool) (d a : Opd) (f : Nat → Nat → Bool) : Host.Outcome State Fault Refusal :=
  laneWord s c fun k s => match d with
    | .p n => k.outP s n.val fun t => f (k.votes neg a t).1 (k.votes neg a t).2
    | _ => s

def execVoteAll (c : Ctl) (neg : Bool) (d a : Opd) (s : State) : Host.Outcome State Fault Refusal :=
  voteWord s c neg d a fun m e => m == e
def execVoteAny (c : Ctl) (neg : Bool) (d a : Opd) (s : State) : Host.Outcome State Fault Refusal :=
  voteWord s c neg d a fun m _ => m != 0
def execVoteEq (c : Ctl) (neg : Bool) (d a : Opd) (s : State) : Host.Outcome State Fault Refusal :=
  voteWord s c neg d a fun m e => m == e || m == 0
def execVoteBallot (c : Ctl) (neg : Bool) (d a : Opd) (s : State) : Host.Outcome State Fault Refusal :=
  laneWord s c fun k s => k.out s d 1 (fun _ => true) fun t => (k.votes neg a t).1
def execLanepfx (c : Ctl) (neg : Bool) (d a : Opd) (s : State) : Host.Outcome State Fault Refusal :=
  laneWord s c fun k s => k.out s d 1 (fun _ => true) fun t => popNat ((k.votes neg a t).1 % 2 ^ k.pos t) 32

/-! ### REDUX and SCAN (R179) -/

/-- R179: the exact sum of values; NV for a signalling NaN, or for infinities of both signs where no value is a NaN. DEDUCED: log 87. -/
def sumFp (r : Rm) (l : List Fp) : Fp × Bool :=
  if l.any fpNaN then (.nan false, l.any fpSig)
  else match l with
    | [] => (.fin false 0 0, false)
    | a :: l => l.foldl (fun z b => let y := fpAdd r z.1 b; (y.1, z.2 || y.2)) (a, false)

/-- R179, R162: minimum or maximum of values. -/
def minMaxFp (isMax ftz : Bool) : List Nat → Nat × Conds
  | [] => (fmtSign fmtF32 isMax + fmtInf fmtF32, {})
  | a :: l => l.foldl (fun z b => let y := fMinMax fmtF32 isMax false ftz z.1 b; (y.1, condsOr z.2 y.2))
      (fMinMax fmtF32 isMax false ftz a a)

/-- R179: the result of an operation over values in ascending position; an empty list gives the identity. -/
def reduce (op : RedOp) (ty : Ty) (r : Rm) (ftz : Bool) (l : List Nat) : Nat × Conds :=
  let w := tyBits ty
  if ty == .f32 then
    match op with
    | .min => minMaxFp false ftz l
    | .max => minMaxFp true ftz l
    | _ => finish fmtF32 r ftz (sumFp r (l.map (fpOf fmtF32 ftz)))
  else
    let v := match op with
      | .add => l.foldl (· + ·) 0 % 2 ^ w
      | .and => l.foldl (· &&& ·) (2 ^ w - 1)
      | .or => l.foldl (· ||| ·) 0
      | .xor => l.foldl (· ^^^ ·) 0
      | .min => wrapTo w ((l.map (intVal ty)).foldl min (tyMax ty))
      | .max => wrapTo w ((l.map (intVal ty)).foldl max (tyMin ty))
    (v, {})

/-- R174, R179: under ARITHEN one lane's condition traps the whole set; else the results, and the flags at completion. -/
def reduceWord (s : State) (c : Ctl) (op : RedOp) (ty : Ty) (r : Rm) (d a : Opd) (sel : Nat → Nat → Bool) :
    Host.Outcome State Fault Refusal :=
  laneWord s c fun k s =>
    let res (t : Nat) : Nat × Conds :=
      reduce op ty r (k.x.status.getLsbD 0) (((k.tile t).filter fun u => sel (k.pos u) (k.pos t)).map (k.val a ty.regs))
    let cond (t : Nat) : Conds := if k.early then {} else (res t).2
    if k.x.status.getLsbD 1 && (laneList k.i.act).any fun t => arithDetail (cond t) != 0 then
      deliver s k.i.w k.i.pc ((laneList k.i.act).map fun t => { lane := t, cause := causeArith, detail := arithDetail (cond t) })
    else setFlags (k.out s d ty.regs (fun _ => true) fun t => (res t).1) k.i.w 8 k.i.act cond

def execRedux (c : Ctl) (op : RedOp) (ty : Ty) (r : Rm) (d a : Opd) (s : State) : Host.Outcome State Fault Refusal :=
  reduceWord s c op ty r d a fun _ _ => true

def execScan (c : Ctl) (excl : Bool) (op : RedOp) (ty : Ty) (r : Rm) (d a : Opd) (s : State) : Host.Outcome State Fault Refusal :=
  reduceWord s c op ty r d a fun u t => u < t || (u == t && !excl)

/-! ### MATCH, COMPRESS, EXPAND, SLIDE (R180 to R182) -/

def execMatchLanes (c : Ctl) (ty : Ty) (d a : Opd) (s : State) : Host.Outcome State Fault Refusal :=
  laneWord s c fun k s =>
    k.out s d 1 (fun _ => true) fun t => k.mask t fun u => k.val a ty.regs u == k.val a ty.regs t

/-- R181: the selected lanes of t's tile, ascending. -/
def Tiles.selected (k : Tiles) (neg : Bool) (b : Opd) (t : Nat) : List Nat :=
  (k.tile t).filter fun u => srcPred k.s k.i.w k.x b u != neg

def execCompress (c : Ctl) (neg : Bool) (ty : Ty) (d a b : Opd) (s : State) : Host.Outcome State Fault Refusal :=
  laneWord s c fun k s =>
    k.out s d ty.regs (fun t => k.pos t < (k.selected neg b t).length) fun t =>
      k.val a ty.regs ((k.selected neg b t).getD (k.pos t) 0)

def execExpand (c : Ctl) (neg : Bool) (ty : Ty) (d a b : Opd) (s : State) : Host.Outcome State Fault Refusal :=
  laneWord s c fun k s =>
    let src (t : Nat) : Nat := k.tb t + ((k.selected neg b t).filter (· < t)).length
    k.out s d ty.regs (fun t => (k.selected neg b t).contains t && k.i.act.getLsbD (src t)) fun t => k.val a ty.regs (src t)

/-- R182. -/
def execSlideup (c : Ctl) (ty : Ty) (d a b : Opd) (s : State) : Host.Outcome State Fault Refusal :=
  laneWord s c fun k s =>
    let n := k.val b 1 0
    k.out s d ty.regs (fun t => n ≤ k.pos t && k.i.act.getLsbD (t - n)) fun t => k.val a ty.regs (t - n)

def execSlidedn (c : Ctl) (ty : Ty) (d a b : Opd) (s : State) : Host.Outcome State Fault Refusal :=
  laneWord s c fun k s =>
    let n := k.val b 1 0
    k.out s d ty.regs (fun t => k.pos t + n < k.l && k.i.act.getLsbD (t + n)) fun t => k.val a ty.regs (t + n)

end Sys2Proof.Machine
end

