-- ==== Sys2Proof/Machine/CopyData.lean ====
section
/-! DEFINITION. Tensor descriptors (R222, R223), boxes (R224), output streams and canonical layouts (R225, R346, R347), and the rows of gathers and scatters (R234): what each bit of a copy's stream is, before any access is made. -/

namespace Sys2Proof.Machine

/-! ### Descriptors (R222) -/

def wordAt (d : List Word) (i : Nat) : Word := d.getD i 0
def wordNat (d : List Word) (i : Nat) : Nat := (wordAt d i).toNat
/-- Two words as one value. -/
def wordPair (d : List Word) (i : Nat) : Nat := wordNat d i + 2 ^ 32 * wordNat d (i + 1)

def descDims (d : List Word) : Nat := wordNat d 2 / 2 ^ 11 % 8
def descFmt (d : List Word) : Nat := wordNat d 2 / 2 ^ 8 % 8
def descType (d : List Word) : Nat := wordNat d 2 / 16 % 16
def descWidth (d : List Word) : Nat := wordNat d 2 % 8
/-- Bits of an element. -/
def descBits (d : List Word) : Nat := [4, 6, 8, 16, 32, 64].getD (descWidth d) 8
def descExt (d : List Word) (k : Nat) : Nat := wordNat d (3 + k)
/-- The byte stride of dimension k from 1 on. -/
def descStr (d : List Word) (k : Nat) : Int := if k = 0 then 0 else (wordAt d (7 + k)).toInt

/-- R222: FILL; 64 bits repeat the word. -/
def descFill (d : List Word) : Nat :=
  let x := wordNat d 15
  if descBits d = 64 then x + 2 ^ 32 * x else x % 2 ^ descBits d

/-- The types that a width takes. -/
def widthTypes : List (List Nat) := [[0], [0xF], [6, 7, 0xE], [4, 5, 0xA, 0xB], [0, 1, 8, 0xC], [2, 3, 9, 0xD]]

/-- R232: the checks of TDESC. -/
def descOk (d : List Word) : Bool :=
  let d2 := wordNat d 2
  let dims := descDims d
  let w := descWidth d
  d2 / 2 ^ 14 == 0 && !d2.testBit 3 && 1 ≤ dims && dims ≤ 5 && descFmt d ≤ 1 && w ≤ 5
    && (widthTypes.getD w []).contains (descType d)
    && (List.range 5).all (fun k => 1 ≤ descExt d k && (k < dims || descExt d k == 1))
    && (List.range 5).all (fun k => k == 0 || k < dims || descStr d k == 0)
    && (descBits d < 16 || wordPair d 0 % (descBits d / 8) == 0)
    && (descFmt d == 1 || (wordPair d 12 == 0 && wordNat d 14 == 0))
    && (descFmt d == 0 || descType d == 0xE || descType d == 0xF)
    && (w == 5 || wordNat d 15 < 2 ^ descBits d)

/-! ### Elements (R223) -/

/-- How an element's value becomes an output element (R225). -/
inductive Conv where
  | none | toBf16 | fromBf16
  deriving DecidableEq, Repr

/-- Where an output element comes from: memory bits at a byte address and bit, or a constant. -/
structure Src where
  mem : Option (Nat × Nat) := none
  bits : Nat
  conv : Conv := .none
  fill : Nat := 0
  deriving DecidableEq, Repr

def Conv.apply (c : Conv) (v : Nat) : Nat :=
  match c with
  | .none => v
  | .toBf16 => (roundFp fmtBF16 .rn false (fpOf fmtF32 false v)).1
  | .fromBf16 => match fpOf fmtBF16 false v with
    | .nan _ => fmtNaN fmtF32
    | _ => v * 65536

/-- The bytes of memory that an element lies in. -/
def bytesAt (va bit bits : Nat) : List Nat := (List.range ((bit + bits + 7) / 8)).map fun i => (va + i) % 2 ^ 64

def Src.needs (x : Src) : List Nat :=
  match x.mem with
  | some (va, bit) => bytesAt va bit x.bits
  | none => []

/-- The value of a source, memory read through `rd`. -/
def Src.val (rd : Nat → Byte) (x : Src) : Nat :=
  match x.mem with
  | some (va, bit) => x.conv.apply (leVal ((bytesAt va bit x.bits).map rd) / 2 ^ bit % 2 ^ x.bits)
  | none => x.conv.apply x.fill

/-- An index within the extents. -/
def inTensor (d : List Word) (i : List Int) : Bool :=
  (List.range 5).all fun k => 0 ≤ i.getD k 0 && i.getD k 0 < (descExt d k : Int)

/-- R223: the byte address and bit of an element. -/
def elemAddr (d : List Word) (i : List Int) : Nat × Nat :=
  let i0 := (i.getD 0 0).toNat
  let base : Int := wordPair d 0 + ((List.range 5).map fun k => i.getD k 0 * descStr d k).foldl (· + ·) 0
  (wrapTo 64 (base + (i0 * descBits d / 8 : Nat)), i0 * descBits d % 8)

def elemSrc (d : List Word) (i : List Int) : Src :=
  if inTensor d i then { mem := some (elemAddr d i), bits := descBits d } else { bits := descBits d, fill := descFill d }

/-- R223: the scale of a 32-element block: block index, dimensions 1 to 4. -/
def scaleSrc (d : List Word) (blk : Int) (i : List Int) : Src :=
  let n := (descExt d 0 + 31) / 32
  let rest := (List.range 4).all fun k => 0 ≤ i.getD (k + 1) 0 && i.getD (k + 1) 0 < (descExt d (k + 1) : Int)
  if descFmt d = 1 ∧ 0 ≤ blk ∧ blk < n ∧ rest then
    let x (k : Nat) : Nat := (i.getD k 0).toNat
    let f := x 1 + descExt d 1 * (x 2 + descExt d 2 * (x 3 + descExt d 3 * x 4))
    { mem := some ((wordPair d 12 + blk.toNat + f * wordNat d 14) % 2 ^ 64, 0), bits := 8 }
  else { bits := 8, fill := 127 }

/-! ### Boxes (R224) -/

def boxOrg (b : List Word) (k : Nat) : Int := (wordAt b k).toInt
def boxExt (b : List Word) (k : Nat) : Nat := wordNat b (5 + k)
def boxPlace (b : List Word) : Nat := wordNat b 10
/-- R224: the barrier line, where one is named. -/
def boxBar (b : List Word) : Option Nat := if (wordAt b 11).getLsbD 31 then none else some (wordNat b 11 % 2 ^ 13)

/-- R219: a zero extent. -/
def boxEmpty (b : List Word) : Bool := (List.range 5).any fun k => boxExt b k == 0

/-- R224: the rules of a box with no zero extent. DEDUCED: log 43. -/
def boxOk (d b : List Word) : Bool :=
  (List.range 5).all fun k => boxExt b k ≤ 2 ^ 24 && (k < descDims d || (boxOrg b k == 0 && boxExt b k == 1))

/-- The tensor index of box element j. -/
def boxIndex (b : List Word) (j : List Nat) : List Int := (List.range 5).map fun k => boxOrg b k + (j.getD k 0 : Int)

/-- R225: box element e of the RAW stream. -/
def rawIndex (b : List Word) (t : Bool) (e : Nat) : List Nat :=
  let x := boxExt b
  let (j0, j1) := if t then (e / x 1 % x 0, e % x 1) else (e % x 0, e / x 0 % x 1)
  let r := e / (x 0 * x 1)
  [j0, j1, r % x 2, r / x 2 % x 3, r / (x 2 * x 3)]

def boxCount (b : List Word) : Nat := (List.range 5).foldl (fun a k => a * boxExt b k) 1

/-! ### Canonical layouts (R346, R347) -/

/-- The figures of a layout: K-step, slice length, bits of an element, scales of a K-step, bytes of a step block, source types. -/
structure Layout where
  kstep : Nat
  sl : Nat
  bits : Nat
  nq : Nat
  block : Nat
  types : List Nat
  deriving DecidableEq, Repr

def layoutOf (code : Nat) : Layout :=
  match code with
  | 1 => ⟨64, 64, 8, 2, 8448, [0xE]⟩
  | 2 => ⟨128, 96, 6, 4, 12800, [0xF]⟩
  | 3 => ⟨32, 64, 16, 0, 8192, [0xA, 8]⟩
  | 4 => ⟨8, 32, 32, 0, 4096, [8, 0xA]⟩
  | _ => ⟨4, 32, 64, 0, 4096, [9]⟩

/-- The extent of K and of the rows, after transposition. DEDUCED: log 44. -/
def canonExt (b : List Word) (t : Bool) : Nat × Nat := if t then (boxExt b 1, boxExt b 0) else (boxExt b 0, boxExt b 1)

/-- R225, R347: what a canonical layout accepts. -/
def canonOk (d b : List Word) (t : Bool) (code : Nat) : Bool :=
  let l := layoutOf code
  let (k, r) := canonExt b t
  l.types.contains (descType d) && k % l.kstep == 0 && r == 128 && boxExt b 2 == 1 && boxExt b 3 == 1 && boxExt b 4 == 1
    && (descFmt d != 1 || (boxOrg b 0 % 32 == 0 && !t))

def canonBytes (b : List Word) (t : Bool) (code : Nat) : Nat := (canonExt b t).1 / (layoutOf code).kstep * (layoutOf code).block

/-- R225: the conversion of a layout's elements. -/
def canonConv (d : List Word) (code : Nat) : Conv :=
  if code = 3 && descType d == 8 then .toBf16 else if code = 4 && descType d == 0xA then .fromBf16 else .none

/-- R346: within a step block of A form or B form: the row or column with a slice byte, or with a scale. -/
def blockPlace (l : Layout) (bform : Bool) (q : Nat) : Nat × Nat :=
  if bform then (q % 128, q / 128)
  else if q < 128 * l.sl then (q / l.sl, q % l.sl)
  else ((q - 128 * l.sl) / l.nq, l.sl + (q - 128 * l.sl) % l.nq)

/-- R347: bit `b8` of a canonical stream: its source and the bit of its value. -/
def canonBit (d b : List Word) (t bform : Bool) (code b8 : Nat) : Src × Nat :=
  let l := layoutOf code
  let k := b8 / 8
  let step := k / l.block
  let (row, s) := blockPlace l bform (k % l.block)
  let index (kk : Nat) : List Int := boxIndex b (if t then [row, kk] else [kk, row])
  if s < l.sl then
    let e := (8 * s + b8 % 8) / l.bits
    ({ elemSrc d (index (step * l.kstep + e)) with conv := canonConv d code }, (8 * s + b8 % 8) % l.bits)
  else
    let i := index (step * l.kstep + 32 * (s - l.sl))
    (scaleSrc d (i.getD 0 0 / 32) i, b8 % 8)

/-! ### Rows (R234) -/

/-- The operand block of CPYG and CPYS. -/
def rowList (b : List Word) : Nat := wordNat b 0
def rowCount (b : List Word) : Nat := wordNat b 1
def rowBag (b : List Word) : Nat := wordNat b 2
/-- DEDUCED: log 45. -/
def rowCol (b : List Word) : Int := (wordAt b 3).toInt
def rowCols (b : List Word) : Nat := wordNat b 4
def rowMod (b : List Word) : Nat := wordNat b 5

/-- Rows of the stream: bags of a gather. -/
def rowBags (b : List Word) : Nat := (rowCount b + rowBag b - 1) / rowBag b

/-- R234: the rules of the operand block and the tables. -/
def rowsOk (d : List Word) (d2 : Option (List Word)) (b : List Word) (pool comp : Nat) : Bool :=
  descDims d == 2 && rowList b % 4 == 0 && 1 ≤ rowBag b && (pool != 0 || rowBag b == 1)
    && (if comp == 0 then rowMod b == 0 else 1 ≤ rowMod b)
    && (List.range 4).all (fun k => wordNat b (6 + k) == 0)
    && ((pool == 0 && comp == 0) || descType d == 8 || descType d == 0xA)
    && (comp == 0 || match d2 with
      | none => false
      | some y => descDims y == 2 && descType y == descType d && descExt y 0 == descExt d 0)

/-- Column c of a table row, or FILL. -/
def rowSrc (d b : List Word) (row c : Nat) : Src := elemSrc d [rowCol b + (c : Int), (row : Int), 0, 0, 0]

/-- The sources of column c of row(i): one, or two of a composition. -/
def rowSrcs (d d2 b : List Word) (comp i c : Nat) : List Src :=
  if comp = 0 then [rowSrc d b i c] else [rowSrc d b (i % rowMod b) c, rowSrc d2 b (i / rowMod b) c]

/-- R234: a row index out of bounds. -/
def rowOut (d d2 b : List Word) (comp i : Nat) : Bool :=
  if comp = 0 then descExt d 1 ≤ i else descExt d 1 ≤ i % rowMod b || descExt d2 1 ≤ i / rowMod b

def tableFmt (d : List Word) : FFmt := if descType d = 0xA then fmtBF16 else fmtF32

/-- row(i) in column c. -/
def rowVal (rd : Nat → Byte) (d d2 b : List Word) (comp i c : Nat) : Nat :=
  match (rowSrcs d d2 b comp i c).map (Src.val rd) with
  | [x] => x
  | [x, y] => if comp = 1 then (fAdd (tableFmt d) .rn false x y).1 else (fMul (tableFmt d) .rn false x y).1
  | _ => 0

/-- The exact sum divided by a count, rounded once (R234). -/
def meanFp (f : FFmt) (x : Fp) (n : Nat) : Nat :=
  match x with
  | .fin s m e =>
    if m = 0 then fmtSign f s else let (q, g, st) := divParts m e n 0; (roundMag f .rn false s q g st).1
  | y => (roundFp f .rn false y).1

/-- The indices of bag g. -/
def bagOf (b : List Word) (g : Nat) : List Nat :=
  (List.range (min (rowCount b) ((g + 1) * rowBag b) - g * rowBag b)).map fun i => g * rowBag b + i

/-- R234: output row g in column c; `ix` gives the index list. -/
def gatherVal (rd : Nat → Byte) (ix : Nat → Nat) (d d2 b : List Word) (pool comp g c : Nat) : Nat :=
  let xs := (bagOf b g).map fun p => rowVal rd d d2 b comp (ix p) c
  let f := tableFmt d
  let sum := (sumFp .rn (xs.map (fpOf f false))).1
  match pool with
  | 0 => xs.headD 0
  | 1 => (roundFp f .rn false sum).1
  | _ => meanFp f sum xs.length

end Sys2Proof.Machine
end

