-- ==== Sys2Proof/Machine/EventWords.lean ====
section
/-! DEFINITION. Barriers (R302 to R304), the event list (R305 to R307), and mailboxes (R308 to R310). -/

namespace Sys2Proof.Machine

/-! ### Line checks -/

/-- The scratchpad checks of a line address: ALIGN, ACCESS over `n` lines, and, where an object is needed, OPERAND. -/
def lineCheck (s : State) (x : Warp) (a n : Nat) (kind : Option Nat) : Option Nat :=
  if a % 128 ≠ 0 then some causeAlign
  else if a + 128 * n > scratchSize s x then some causeAccess
  else match kind with
    | none => none
    | some k => if lineKind (getGroup s x.group) (halfOf s x) (a / 128) = k then none else some causeOperand

/-- The address that a trap of a line check shows (R398). -/
def lineTrap (s : State) (i : Issue) (c a : Nat) : State := trapSet s i c 0 (if c = causeOperand then 0 else a)

/-- A line word: the address from the lowest active lane, the checks, then its effect with the group, the half and the line. -/
def lineWord (s : State) (i : Issue) (o : Opd) (kind : Option Nat) (f : Nat → Nat → Nat → State) : State :=
  let x := getWarp s i.w
  let a := lowVal s i o 1
  match lineCheck s x a 1 kind with
  | some c => lineTrap s i c a
  | none => f x.group (halfOf s x) (a / 128)

def zeroLine (g : Group) (half n : Nat) : Group := setScr g half (128 * n) (List.replicate 128 0)

/-! ### BARINIT, MBXINIT (R302, R308) -/

/-- R308: the handle of a ring. -/
def ringHandle (core tag line : Nat) : Nat := core * 2 ^ 24 + tag % 2 ^ 11 * 2 ^ 13 + line

/-- The line of a word that makes or retires an object, and the lines that it takes. -/
def initLine (o : Op) : Nat := o.args.getD 0 0
def initLines (o : Op) : List Nat := o.parts.flatMap fun p => linesOf p.va p.n

/-- R302, R308: the checks of the lines as the word acts: free and full for a new object, live for one that ends. -/
def initOk (s : State) (o : Op) (i : Instr) : Bool :=
  let gi := opGroup s o
  let half := opHalf s o
  let g := getGroup s gi
  match i with
  | .barinit .. | .mbxinit .. => (initLines o).all fun l => !(lineOf g half l).bar && (lineOf g half l).full
  | .barinitInval .. => lineKind g half (initLine o) == 1 && !(s.copies.any fun e =>
      e.2.group == gi && e.2.half == half && e.2.node.isNone && unfinished e.2 && e.2.bar == some (initLine o))
  | .mbxinitFree .. => lineKind g half (initLine o) == 2
  | _ => true

/-- R302, R308: the object is made, or retired with its signal. -/
def initEffect (s : State) (o : Op) (i : Instr) : State :=
  let gi := opGroup s o
  let half := opHalf s o
  let n := initLine o
  let x := o.args.getD 1 0
  match i with
  | .barinit .. => updGroup s gi fun g =>
      setLine (setScrNat (setScrNat (zeroLine g half n) half (128 * n + 4) 4 x) half (128 * n + 0x7C) 1 1) half n
        { lineOf g half n with full := true, bar := true, inval := false }
  | .barinitInval .. =>
    let s1 := (warpsOf s gi half).foldl (fun s w => wakeBarInval s n w) s
    let s2 := updGroup s1 gi fun g => setLine (zeroLine g half n) half n { lineOf g half n with bar := false, inval := true }
    signalGroup s2 gi half fun e => e.typ == 1 && e.object % 2 ^ 13 == n
  | .mbxinit .. => updGroup s gi fun g =>
      let g1 := (initLines o).foldl (fun g l => zeroLine g half l) g
      let g2 := setScrNat (setScrNat (setScrNat g1 half (128 * n + 8) 4 ((initLines o).length - 1)) half (128 * n + 0x10) 4 x) half (128 * n + 0x7C) 1 2
      setLine g2 half n { lineOf g half n with full := true, bar := true, freed := false }
  | .mbxinitFree .. =>
    let s1 := updGroup s gi fun g => setLine (zeroLine g half n) half n { lineOf g half n with bar := false, freed := true }
    signalGroup s1 gi half fun e => e.typ == 4 && e.object % 2 ^ 13 == n
  | _ => s

/-- The word's own parts are performed. -/
def initDone (s : State) (id : Nat) : State :=
  updOp s id fun o => { o with parts := o.parts.map fun p => { p with st := .done } }

/-- R302, R308: the word acts in its issuing step, unless a FENCE, an acquire (R263, R267) or an earlier access to its lines (R211) holds it; then it acts later, and a line that does not pass by then traps its set. DEDUCED: log 51. -/
def initIssue (s : State) (i : Issue) (o : Op) (ins : Instr) : State :=
  if fenceHeld s s.next o || (initLines o).any (lineHeld s s.next o) then newOp s o
  else if initOk s o ins then initDone (initEffect (newOp s o) o ins) s.next
  else trapSet s i causeOperand

/-- The operation of such a word: its line, what it keeps for its effect, and how many lines it takes. -/
def initOp (o : Op) (n lines x : Nat) : Op :=
  { o with args := [n, x], parts := [{ lane := lowLane o.lanes, va := 128 * n, pa := 2 ^ 60 + 128 * n, n := 128 * lines }] }

def execBarinit (c : Ctl) (a b : Opd) (s : State) : Host.Outcome State Fault Refusal :=
  issue s c fun i s =>
    lineWord s i a none fun _ _ n =>
      let count := lowVal s i b 1
      if count = 0 || count ≥ 2 ^ 24 then trapSet s i causeOperand
      else initIssue s i (initOp (opOf (.barinit c a b) i c) n 1 count) (.barinit c a b)

def execBarinitInval (c : Ctl) (a : Opd) (s : State) : Host.Outcome State Fault Refusal :=
  issue s c fun i s =>
    lineWord s i a none fun _ _ n => initIssue s i (initOp (opOf (.barinitInval c a) i c) n 1 0) (.barinitInval c a)

def execMbxinit (c : Ctl) (d a b : Opd) (s : State) : Host.Outcome State Fault Refusal :=
  issue s c fun i s =>
    let x := getWarp s i.w
    let addr := lowVal s i a 1
    let lines := lowVal s i b 1
    match lineCheck s x addr (lines + 1) none with
    | some k => lineTrap s i k addr
    | none =>
      if lines = 0 || lines > 512 then trapSet s i causeOperand
      else
        let h := ringHandle x.core ((getGroup s x.group).tags.getD (halfOf s x) 0) (addr / 128)
        initIssue s i (initOp (opOf (.mbxinit c d a b) i c) (addr / 128) (lines + 1) h) (.mbxinit c d a b)

def execMbxinitFree (c : Ctl) (a : Opd) (s : State) : Host.Outcome State Fault Refusal :=
  issue s c fun i s =>
    lineWord s i a none fun _ _ n => initIssue s i (initOp (opOf (.mbxinitFree c a) i c) n 1 0) (.mbxinitFree c a)

/-- BARINIT and MBXINIT: a word that was held acts once nothing holds it; one that has acted completes. -/
def replyInit (s : State) (id : Nat) (i : Instr) : State :=
  let o := getOp s id
  if allDone o then
    match i with
    | .mbxinit _ (.v d) _ _ => finishOp (retV s o d.toNat o.lanes fun _ => BitVec.ofNat 32 (o.args.getD 1 0)) id
    | _ => finishOp s id
  else if portHeld s id o || (initLines o).any (lineHeld s id o) then s
  else if initOk s o i then initDone (initEffect s o i) id
  else if !(getWarp s o.warp).resident then s
  else deliver (finishOp s id) o.warp o.pc (liveTraps (getWarp s o.warp) ((laneList o.lanes).map fun t => { lane := t, cause := causeOperand }))

/-! ### BARARR, BAREXP (R303) -/

/-- An arrival issues: it stands at its line; its release comes first. -/
def arriveWord (s : State) (c : Ctl) (ins : Instr) (scope : Scope) (a : Opd) (count : Lanes → Nat) (bytes : Issue → State → Nat) :
    Host.Outcome State Fault Refusal :=
  issue s c fun i s => withScope s i scope fun sc s =>
    lineWord s i a (some 1) fun _ _ n =>
      newOp s { opOf ins i c with
        scope := sc, args := [n, count i.act, bytes i s]
        parts := [{ lane := lowLane i.act, va := 128 * n, pa := 2 ^ 60 + 128 * n, n := 128 }] }

def execBararr (c : Ctl) (lanes : Bool) (scope : Scope) (d : Option Opd) (a : Opd) (s : State) : Host.Outcome State Fault Refusal :=
  arriveWord s c (.bararr c lanes scope d a) scope a (fun m => if lanes then (laneList m).length else 1) fun _ _ => 0

def execBarexp (c : Ctl) (arr : Bool) (scope : Scope) (d : Option Opd) (a b : Opd) (s : State) : Host.Outcome State Fault Refusal :=
  arriveWord s c (.barexp c arr scope d a b) scope a (fun _ => arr.toNat) fun i s => lowVal s i b 1

/-- The destination of an arrival. -/
def arriveDst : Instr → Option Opd
  | .bararr _ _ _ d _ | .barexp _ _ _ d _ _ => d
  | _ => none

/-- R303: after the release, the arrival is applied to the line as one step, in line order; Vd is the phase that it joined. On a line that is no barrier any more nothing is applied, and the phase is open. -/
def replyArrive (s : State) (id : Nat) (i : Instr) : State :=
  let o := getOp s id
  let x := getWarp s o.warp
  let half := halfOf s x
  let n := o.args.getD 0 0
  if portHeld s id o || lineHeld s id o n then s
  else
    let g := getGroup s x.group
    let live := lineKind g half n = 1
    let p := if live then barPhase g half n else (fresh s freeBase).toNat % 2 ^ 32
    let s1 := match arriveDst i with
      | some (.v d) => retV s o d.toNat o.lanes fun _ => BitVec.ofNat 32 p
      | _ => s
    let s2 := finishOp s1 id
    if live then barArrive (tellLine s2 x.group half n o.warp) x.group half n (o.args.getD 1 0) (o.args.getD 2 0) 0 false else s2

/-! ### BARWAIT (R304) -/

def execBarwait (c : Ctl) (scope : Scope) (d a b : Opd) (s : State) : Host.Outcome State Fault Refusal :=
  issue s c fun i s => withScope s i scope fun sc s =>
    lineWord s i a (some 1) fun gi half n =>
      let p := lowVal s i b 1
      let dn := match d with
        | .p n => n.val
        | _ => 7
      let s1 := setCond s i.w i.act (fun _ => .waiting (.barrier n p sc dn)) (i.pc + 12)
      if phasePassed (barPhase (getGroup s gi) half n) p then beginBarAcquire (learnLine s1 gi half n i.w) i.w i.act sc dn else s1

/-- R304: the acquire of a BARWAIT has acted: Pd is true and its threads go on. -/
def barAcquired (s : State) (id : Nat) : State :=
  let o := getOp s id
  let m := waiting (getWarp s o.warp) (· == .barAcquire id)
  let s1 := finishOp (retP s o (o.args.getD 0 7) m fun _ => true) id
  wake s1 o.warp m fun t => (threadOf (getWarp s1 o.warp) t).pc

/-! ### EVARM, EVMASK, EVCLR, WAITANY (R305 to R307) -/

/-- R297, R298: an entry from its four words; none where a field breaks the rules. -/
def evEntry (ws : List Word) : Option EvEntry :=
  let w0 := wordVal ws 0
  let typ := w0 / 2 ^ 28
  let rep := w0.testBit 27
  let object := wordVal ws 1 + 2 ^ 32 * wordVal ws 2
  let arg := wordVal ws 3
  let objTop := match typ with
    | 1 | 4 => 2 ^ 13
    | 2 | 3 | 9 => 2 ^ 32
    | 5 | 6 => 4
    | 7 => 2 ^ 64
    | _ => 1
  if typ > 9 || w0 / 2 ^ 24 % 8 ≠ 0 || object ≥ objTop || (typ ≠ 1 && arg ≠ 0) || (rep && typ ≠ 1 && typ ≠ 4) then none
  else some { typ := typ, repeats := rep, hoff := w0 % 2 ^ 24, object := object, arg := arg }
where
  wordVal (ws : List Word) (k : Nat) : Nat := (ws.getD k 0).toNat

/-- Words of K registers from one on. -/
def kWords (s : State) (i : Issue) (a : Opd) (n : Nat) : List Word :=
  match a with
  | .k b => (List.range n).map fun k => kWord s i.w (getWarp s i.w) (b.toNat + k)
  | _ => []

/-- R300 rule 1, R301: the armed entries of a set of numbers are latched where their conditions hold; waiting sets then resume. -/
def latchArmed (s : State) (w : Nat) (ks : List Nat) : State :=
  let x := getWarp s w
  let x1 := ks.foldl (fun y k => match mapGet y.events k with
    | some e => if e.typ != 0 && evHolds s x e then latchPend s y k else y
    | none => y) x
  resumeAny (setWarp s w x1) w 16

/-- R305: the entries read replace those of the list; those whose conditions hold are latched (R300 rule 1). -/
def armWord (s : State) (c : Ctl) (n : Nat) (first : Option Nat) (a : Opd) : Host.Outcome State Fault Refusal :=
  issue s c fun i s =>
    let ws := kWords s i a (4 * n)
    let es := (List.range n).map fun k => evEntry (ws.drop (4 * k))
    if es.any Option.isNone then trapSet s i causeOperand
    else
      let atK (k : Nat) : Nat := first.getD 0 + k
      let put (m : Map EvEntry) : Map EvEntry := (es.zipIdx).foldl (fun m (e, k) => match e with
        | some e => if e.typ = 0 then mapErase m (atK k) else mapSet m (atK k) e
        | none => m) m
      let s1 := updWarp s i.w fun x => match first with
        | none => { x with events := put [], evp := 0 }
        | some k => { x with events := put x.events, evp := x.evp &&& ~~~(BitVec.twoPow 16 k ||| BitVec.twoPow 16 (8 + k)) }
      latchArmed s1 i.w ((List.range n).map atK)

def execEvarm (c : Ctl) (n : BitVec 4) (a : Opd) (s : State) : Host.Outcome State Fault Refusal := armWord s c n.toNat none a
def execEvarmOne (c : Ctl) (n : BitVec 3) (a : Opd) (s : State) : Host.Outcome State Fault Refusal := armWord s c 1 (some n.toNat) a

/-- R306: a change of MASK; waiting sets then resume. -/
def maskWord (s : State) (c : Ctl) (a : Opd) (f : BitVec 16 → BitVec 16 → BitVec 16) : Host.Outcome State Fault Refusal :=
  issue s c fun i s =>
    let m := BitVec.ofNat 16 (lowVal s i a 1 % 256)
    resumeAny (updWarp s i.w fun x => { x with evm := f x.evm m }) i.w 16

def execEvmask (c : Ctl) (a : Opd) (s : State) : Host.Outcome State Fault Refusal := maskWord s c a fun _ m => m
def execEvmaskOr (c : Ctl) (a : Opd) (s : State) : Host.Outcome State Fault Refusal := maskWord s c a fun x m => x ||| m
def execEvmaskAndn (c : Ctl) (a : Opd) (s : State) : Host.Outcome State Fault Refusal := maskWord s c a fun x m => x &&& ~~~m

/-- R306: EVCLR, and with `disarm` the entries become none. -/
def clearWord (s : State) (c : Ctl) (a : Opd) (disarm : Bool) : Host.Outcome State Fault Refusal :=
  issue s c fun i s =>
    let m := lowVal s i a 1 % 256
    updWarp s i.w fun x => { x with
      evp := x.evp &&& ~~~(BitVec.ofNat 16 (m + 256 * m))
      events := if disarm then mapFilter x.events fun k _ => !m.testBit k else x.events }

def execEvclr (c : Ctl) (a : Opd) (s : State) : Host.Outcome State Fault Refusal := clearWord s c a false
def execEvclrDisarm (c : Ctl) (a : Opd) (s : State) : Host.Outcome State Fault Refusal := clearWord s c a true

/-- DEDUCED: log 53. -/
def execWaitany (c : Ctl) (s : State) : Host.Outcome State Fault Refusal :=
  issue s c fun i s =>
    let x := getWarp s i.w
    if x.events.isEmpty then trapSet s i causeOperand
    else
      let s1 := setCond s i.w i.act (fun _ => .waiting .anyEvent) i.pc
      latchArmed s1 i.w ((x.events.filter fun e => e.2.repeats).map (·.1))

/-- R298: the time of TIMER entries of a warp has come. -/
def timerMay (s : State) (x : Warp) (k : Nat) : Bool :=
  match mapGet x.events k with
  | some e => e.typ == 7 && !e.rung && e.object ≤ coreTime s x.core
  | none => false

def execTimerExpire (s : State) : Host.Outcome State Fault Refusal :=
  event s fun m s => match m with
    | .timerExpire w k =>
      some (if timerMay s (getWarp s w) k then
        resumeAny (updWarp s w fun x => latchSignal s x k) w 16
      else s)
    | _ => none

/-! ### Mailboxes (R308 to R310) -/

def ringHead (g : Group) (half n : Nat) : Nat := scrNat g half (128 * n) 4
def ringTail (g : Group) (half n : Nat) : Nat := scrNat g half (128 * n + 4) 4
def ringSlots (g : Group) (half n : Nat) : Nat := 8 * (scrNat g half (128 * n + 8) 4 % 1024)
/-- R295: where message m lies. -/
def ringSlot (g : Group) (half n m : Nat) : Nat := 128 * n + 128 + 16 * (m % ringSlots g half n)

/-- R309: a send issues: per lane the handle and the sixteen bytes. -/
def sendWord (s : State) (c : Ctl) (ins : Instr) (scope : Scope) (a b : Opd) : Host.Outcome State Fault Refusal :=
  issue s c fun i s => withScope s i scope fun sc s =>
    let x := getWarp s i.w
    newOp s { opOf ins i c with
      scope := sc
      parts := (laneList i.act).map fun t =>
        { lane := t, va := srcVal s i.w x a 1 t, pa := 2 ^ 62, n := 16, val := BitVec.ofNat 128 (srcVal s i.w x b 4 t) } }

def execMbxsend (c : Ctl) (scope : Scope) (d a b : Opd) (s : State) : Host.Outcome State Fault Refusal :=
  sendWord s c (.mbxsend c scope d a b) scope a b
def execMbxsendSt (c : Ctl) (scope : Scope) (d a b : Opd) (s : State) : Host.Outcome State Fault Refusal :=
  sendWord s c (.mbxsendSt c scope d a b) scope a b

def sendsMail : OpKind → Bool
  | .word i => match i with
    | .mbxsend .. | .mbxsendSt .. => true
    | _ => false
  | _ => false

/-- R309: after the release every lane's message leaves, in ascending lane order and after those of the warp's earlier words, on the channel from its warp to the receiving core. -/
def replySend (s : State) (id : Nat) : State :=
  let o := getOp s id
  if (opsBefore s o.warp id).any fun e => sendsMail e.2.kind && e.2.phase != .asked then s else
  let s1 := updOp s id fun o => { o with phase := .asked }
  o.parts.foldl (fun s p => send s (chanOf (2048 + o.warp) (256 + p.va / 2 ^ 24)) (.mbxAppend id p.lane)) s1

/-- R309: the ring that a handle names for a sender's interface: group and half. -/
def ringOf (s : State) (iface h : Nat) : Option (Nat × Nat) :=
  (s.groups.find? fun e => e.2.iface == iface && !e.2.saved && (e.2.cores.zip e.2.tags).contains (h / 2 ^ 24, h / 2 ^ 13 % 2 ^ 11)).bind fun e =>
    let half := e.2.cores.idxOf (h / 2 ^ 24)
    let n := h % 2 ^ 13
    if lineKind e.2 half n = 2 && scrNat e.2 half (128 * n + 0x10) 4 = h then some (e.1, half) else none

/-- R309: one message at the receiving interface: its status. -/
def appendMail (s : State) (iface h : Nat) (v : BitVec 128) : State × Nat :=
  match ringOf s iface h with
  | none => (s, 2)
  | some (gi, half) =>
    let g := getGroup s gi
    let n := h % 2 ^ 13
    if (ringTail g half n + 2 ^ 32 - ringHead g half n) % 2 ^ 32 = ringSlots g half n then
      (setGroup s gi (setScrNat g half (128 * n + 0xC) 4 (min (scrNat g half (128 * n + 0xC) 4 + 1) 0xFFFFFFFF)), 1)
    else
      let g1 := setScrNat g half (ringSlot g half n (ringTail g half n)) 16 v.toNat
      let g2 := setScrNat g1 half (128 * n + 4) 4 ((ringTail g half n + 1) % 2 ^ 32)
      (signalGroup (setGroup s gi g2) gi half fun e => e.typ == 4 && e.object % 2 ^ 13 == n, 0)

def execMbxAppend (s : State) : Host.Outcome State Fault Refusal :=
  event s fun m s => match m with
    | .mbxAppend id t =>
      let o := getOp s id
      some (match o.parts.find? fun p => p.lane == t with
        | none => s
        | some p =>
          let v := if o.poison.getLsbD t then fresh s (freeBase + t) else p.val
          let (s1, st) := appendMail s (getWarp s o.warp).iface (p.va % 2 ^ 32) v
          send s1 none (.mbxReply id t st))
    | _ => none

/-- R309: a reply; with every lane's, the word completes. -/
def execMbxReply (s : State) : Host.Outcome State Fault Refusal :=
  event s fun m s => match m with
    | .mbxReply id t st =>
      let s1 := updOp s id fun o => { o with
        parts := o.parts.map fun p => if p.lane = t then { p with got := BitVec.ofNat 128 st, st := .done } else p }
      let o := getOp s1 id
      some (if o.parts.isEmpty || !allDone o then s1
        else match o.kind with
          | .word (.mbxsend _ _ (.p d) _ _) => finishOp (retP s1 o d.val o.lanes fun t => gotVal o t == 0) id
          | .word (.mbxsendSt _ _ (.v d) _ _) => finishOp (retV s1 o d.toNat o.lanes fun t => BitVec.ofNat 32 (gotVal o t)) id
          | _ => finishOp s1 id)
    | _ => none

def execMbxpop (c : Ctl) (scope : Scope) (n : BitVec 3) (d a : Opd) (s : State) : Host.Outcome State Fault Refusal :=
  issue s c fun i s => withScope s i scope fun sc s =>
    lineWord s i a (some 2) fun _ _ k =>
      newOp s { opOf (.mbxpop c scope n d a) i c with
        scope := sc, args := [k]
        parts := [{ lane := lowLane i.act, va := 128 * k, pa := 2 ^ 60 + 128 * k, n := 128 }] }

/-- R310: the pops, as one step at the header, in ascending lane order; the acquire follows. A header that is no mailbox any more gives no message. -/
def replyPop (s : State) (id : Nat) : State :=
  let o := getOp s id
  let x := getWarp s o.warp
  let half := halfOf s x
  let n := o.args.getD 0 0
  if portHeld s id o || lineHeld s id o n then s
  else
    let g := getGroup s x.group
    let head := ringHead g half n
    let count := if lineKind g half n = 2 then (ringTail g half n + 2 ^ 32 - head) % 2 ^ 32 else 0
    let ps : List Part := (((laneList o.lanes).zipIdx).filter fun e => e.2 < count).map fun (t, k) =>
      { lane := t, va := 0, pa := 2 ^ 62, n := 16, st := .done
        got := BitVec.ofNat 128 (scrNat g half (ringSlot g half n ((head + k) % 2 ^ 32)) 16) }
    let s1 := if ps.isEmpty then s else setGroup s x.group (setScrNat g half (128 * n) 4 ((head + ps.length) % 2 ^ 32))
    updOp s1 id fun o => { o with parts := ps, phase := .acquiring }

/-- R310: after the acquire the results are written. -/
def popAcquired (s : State) (id : Nat) (n : BitVec 3) (d : Opd) : State :=
  let o := getOp s id
  let m := laneSet fun t => o.lanes.getLsbD t && o.parts.any fun p => p.lane == t
  let s1 := match d with
    | .v k => retVs s o k.toNat 4 m (gotVal o)
    | _ => s
  finishOp (retP s1 o n.toNat o.lanes fun t => m.getLsbD t) id

end Sys2Proof.Machine
end

