-- ==== Sys2Proof/Machine/Control.lean ====
section
/-! DEFINITION. Control words (R98 to R105) and the wake of YIELD. -/

namespace Sys2Proof.Machine

/-- R98. -/
def execNop (c : Ctl) (s : State) : Host.Outcome State Fault Refusal := issue s c fun _ s => s

/-- R99: the target of a word offset. -/
def relTarget (pc : DWord) (off : BitVec 8) : DWord := pc + 12 + 12 * off.signExtend 64

/-- R99: CODEBASE plus an offset. -/
def baseTarget (s : State) (w off : Nat) : DWord := codeBase s (getWarp s w) + BitVec.ofNat 64 off

/-- R99: CALL and CALLK write the byte offset of the next word. DEDUCED: log 29. -/
def writeLink (s : State) (i : Issue) (d : Opd) : State :=
  let link := pcOff s (getWarp s i.w) (i.pc + 12)
  writeDst s i 0 d 1 i.act fun _ => link.toNat

def execBra (c : Ctl) (off : BitVec 8) (s : State) : Host.Outcome State Fault Refusal :=
  issue s c fun i s => jump s i.w i.act fun _ => relTarget i.pc off

def execBrak (c : Ctl) (a : Opd) (s : State) : Host.Outcome State Fault Refusal :=
  issue s c fun i s => jump s i.w i.act fun t => baseTarget s i.w (srcVal s i.w (getWarp s i.w) a 1 t)

def execBrx (c : Ctl) (a : Opd) (s : State) : Host.Outcome State Fault Refusal :=
  issue s c fun i s => jump s i.w i.act fun t => baseTarget s i.w (srcVal s i.w (getWarp s i.w) a 1 t)

def execCall (c : Ctl) (d : Opd) (off : BitVec 8) (s : State) : Host.Outcome State Fault Refusal :=
  issue s c fun i s => jump (writeLink s i d) i.w i.act fun _ => relTarget i.pc off

/-- The link is written after the source is read. -/
def execCallk (c : Ctl) (d a : Opd) (s : State) : Host.Outcome State Fault Refusal :=
  issue s c fun i s =>
    jump (writeLink s i d) i.w i.act fun t => baseTarget s i.w (srcVal s i.w (getWarp s i.w) a 1 t)

/-- R100: RET differs from BRX in fetch prediction only. -/
def execRet (c : Ctl) (a : Opd) (s : State) : Host.Outcome State Fault Refusal :=
  issue s c fun i s => jump s i.w i.act fun t => baseTarget s i.w (srcVal s i.w (getWarp s i.w) a 1 t)

/-- R101. -/
def execExit (c : Ctl) (s : State) : Host.Outcome State Fault Refusal :=
  issue s c fun i s => exitThreads s i.w i.act

/-- R102: the active threads stop at the word; the mask of each includes its own lane. -/
def execReconv (c : Ctl) (a : Opd) (s : State) : Host.Outcome State Fault Refusal :=
  issue s c fun i s =>
    let m : Lanes := BitVec.ofNat 32 (lowVal s i a 1)
    settle (setCond s i.w i.act (fun t => .stopped (m ||| BitVec.twoPow 32 t)) i.pc) i.w

/-- R103: the count is FA[7:0]. -/
def execYield (c : Ctl) (a : Opd) (s : State) : Host.Outcome State Fault Refusal :=
  issue s c fun i s =>
    let n := lowVal s i a 1 % 256
    let s1 := makeYoungest s i.w
    if n = 0 then s1 else setCond s1 i.w i.act (fun _ => .waiting (.yield (s.clock + n))) (i.pc + 12)

/-- R103: the clocks have passed. The threads become ready now, so they count as waiting for R87 from here, not from the YIELD. DEDUCED: log 94. -/
def execYieldExpire (s : State) : Host.Outcome State Fault Refusal :=
  event s fun m s => match m with
    | .yieldExpire w lanes =>
      let m := waiting (getWarp s w) fun x => match x with
        | .yield _ => true
        | _ => false
      some (wake s w (m &&& lanes) fun t => (threadOf (getWarp s w) t).pc)
    | _ => none

/-- R97: STATUS as a warp reads it. -/
def statusWord (s : State) (x : Warp) : Word := (statusNow s x &&& 0x3F3) ||| BitVec.ofNat 32 (x.core * 65536 + x.part * 16384)

/-- R104: the value of a system register or counter for a thread, as read at issue. -/
def sysVal (s : State) (x : Warp) (a : Opd) (t : Nat) : Nat :=
  match a with
  | .cf n => mapGetD x.cf n.val 0
  | .sys .laneid => t
  | .sys .warpid => x.num
  | .sys .lpart => lpartOf s x
  | .sys .evp => x.evp.toNat
  | .sys .evm => x.evm.toNat
  | .sys .evh => x.evh.toNat
  | .sys .evid => (threadOf x t).evid.toNat
  | .sys .gtime => coreTime s x.core % 2 ^ 64
  | .sys .gband => s.sys.gband
  | .sys .gdepth => x.gdepth
  | .sys .trapinfo => (threadOf x t).trapinfo.toNat
  | .sys .fatalx => (getIface s x.iface).fatalx.toNat
  | .sys .status => (statusWord s x).toNat
  | _ => 0

/-- R104: GTIME is 64 bits wide, with latency 10; the others are 32 bits wide, with latency 6. -/
def execSread (c : Ctl) (d a : Opd) (s : State) : Host.Outcome State Fault Refusal :=
  fixedWord s c [] d (if a = .sys .gtime then 2 else 1) (if a = .sys .gtime then 10 else 6)
    fun s x _ t => sysVal s x a t

/-- R96: lanes of a level-n unit of a record. -/
def levelExt (r : Record) (n : Nat) : Nat := if n < r.levelN then (r.levels.getD n 0).toNat % 2 ^ 24 else 1
def levelSize (r : Record) (n : Nat) : Nat := (List.range (n + 1)).foldl (fun a k => a * levelExt r k) 1

/-- R96: NUM(n), from the global warp number and the lane. -/
def levelNum (r : Record) (gnum t n : Nat) : Nat :=
  if n < r.levelN then (gnum * 32 + t) / levelSize r n else 0

/-- R96: ID(n): within the level n + 1 unit, or within the launch. -/
def levelId (r : Record) (gnum t n : Nat) : Nat :=
  if n + 1 < r.levelN then levelNum r gnum t n % levelExt r (n + 1) else levelNum r gnum t n

def recordOf (s : State) (x : Warp) : Record := (getLaunch s x.launch).record

def execSreadId (c : Ctl) (d : Opd) (n : BitVec 3) (s : State) : Host.Outcome State Fault Refusal :=
  fixedWord s c [] d 1 6 fun s x _ t => levelId (recordOf s x) x.gnum t n.toNat

def execSreadExt (c : Ctl) (d : Opd) (n : BitVec 3) (s : State) : Host.Outcome State Fault Refusal :=
  fixedWord s c [] d 1 6 fun s x _ _ => levelExt (recordOf s x) n.toNat

def execSreadNum (c : Ctl) (d : Opd) (n : BitVec 3) (s : State) : Host.Outcome State Fault Refusal :=
  fixedWord s c [] d 1 6 fun s x _ t => levelNum (recordOf s x) x.gnum t n.toNat

/-- R96: an unbound level reads 0xFFFF_FFFF. -/
def execSreadBind (c : Ctl) (d : Opd) (n : BitVec 3) (s : State) : Host.Outcome State Fault Refusal :=
  fixedWord s c [] d 1 6 fun s x _ _ =>
    let r := recordOf s x
    if n.toNat < r.levelN then (r.levels.getD n.toNat 0).toNat else 0xFFFFFFFF

/-- R105. -/
def execSwrite (c : Ctl) (d a : Opd) (s : State) : Host.Outcome State Fault Refusal :=
  issue s c fun i s =>
    let v : Word := BitVec.ofNat 32 (lowVal s i a 1)
    match d with
    | .sys .status => updWarp s i.w fun x => setStatus s x ((statusNow s x &&& 0x3F0 &&& ~~~v) ||| (v &&& 3))
    | .sys .evh => updWarp s i.w fun x => { x with evh := v }
    | .sys .gdepth => if v.toNat > 8 then trapSet s i causeOperand else updWarp s i.w fun x => { x with gdepth := v.toNat }
    | _ => s

end Sys2Proof.Machine
end

