-- ==== Sys2Proof/Machine/Engine.lean ====
section
/-! DEFINITION. Accesses of the engines (graph engine, launches, collectives) through a tenant's translation: checks, parking (R193), reads and stores at DEVICE scope (R373, R382, R416). -/

namespace Sys2Proof.Machine

/-! ### Virtual bytes -/

/-- R190, R193: the engines translate through quadrant 0. -/
def engineUnit : Nat := 160

/-- The physical address that an engine's access of a byte uses. -/
def vPa (s : State) (iface va : Nat) : Option Nat :=
  match checkPage s engineUnit iface va {} with
  | .ok pa _ _ => some pa
  | _ => none

/-- A byte read at DEVICE scope; an address without a translation reads zero, where the engine has checked it before. -/
def vByte (s : State) (iface va : Nat) : Byte :=
  match vPa s iface va with
  | some pa => devByte s pa
  | none => 0

def vBytes (s : State) (iface va n : Nat) : List Byte := (List.range n).map fun i => vByte s iface ((va + i) % 2 ^ 64)
def vNat (s : State) (iface va n : Nat) : Nat := leVal (vBytes s iface va n)
/-- `n` words from an address. -/
def vWords (s : State) (iface va n : Nat) : List Word := (List.range n).map fun k => BitVec.ofNat 32 (vNat s iface (va + 4 * k) 4)

/-! ### Checks and parking -/

/-- What the accesses of an engine come to. -/
inductive Eng where
  | ok
  | park (va : Nat) (need : Need)
  | fail (cause va : Nat)
  deriving DecidableEq, Repr

/-- R191 steps 2 to 5 for `n` bytes of a page that an engine accesses for a message: a DENY turns the fault into an error response (R193), as does an error that cannot be corrected (R428). -/
def engineCheck (s : State) (m : Msg) (iface va n : Nat) (need : Need) : Check :=
  match checkPage s engineUnit iface va need with
  | .park => if s.engineWaits.any fun e => e.2.denied && e.2.msg == m && e.2.page == va / 4096 then .trap causeAccess else .park
  | .ok pa e w => if need.r && hasError s pa n then .trap causeAccess else .ok pa e w
  | .trap c => .trap c

/-- The parts of a run in each of its pages: first byte, length. -/
def runPages (va n : Nat) : List (Nat × Nat) :=
  if n = 0 then []
  else (List.range ((va + n - 1) / 4096 - va / 4096 + 1)).map fun k =>
    let a := max va ((va / 4096 + k) * 4096)
    (a, min (va + n) ((va / 4096 + k + 1) * 4096) - a)

/-- The first access of a list of runs that does not pass. -/
def engineRuns (s : State) (m : Msg) (iface : Nat) (runs : List (Nat × Nat × Need)) : Eng :=
  (runs.findSome? fun (va, n, need) => (runPages va n).findSome? fun a => match engineCheck s m iface a.1 a.2 need with
    | .ok .. => none
    | .park => some (Eng.park a.1 need)
    | .trap c => some (Eng.fail c a.1)).getD .ok

/-- R193: an engine's access parks at the quadrant translation unit of quadrant 0: the message is taken again after the answer; with no entry free it is tried again (R192). -/
def parkEngine (s : State) (m : Msg) (iface va : Nat) (need : Need) : State :=
  let access := if need.w && need.r then 2 else if need.w then 1 else 0
  let id := s.next
  let (s1, r) := takePark { s with next := id + 1 } 0 access va { iface := iface, page := va / 4096, line := va / 256, access := access, engine := some id }
  match r with
  | some _ => { s1 with engineWaits := mapSet s1.engineWaits id { iface := iface, msg := m, page := va / 4096 } }
  | none => send s none m

/-- The answers that a message has met are used up when it is done. -/
def dropDenials (s : State) (m : Msg) : State := { s with engineWaits := mapFilter s.engineWaits fun _ e => !(e.denied && e.msg == m) }

/-! ### Stores of the graph engine (R373, R382) -/

/-- A store within one page; one that does not pass is dropped with a record of KIND 2 and ID 19. -/
def enginePut (s : State) (iface va : Nat) (bs : List Byte) : State :=
  match checkPage s engineUnit iface va { w := true } with
  | .ok pa _ _ => devWrite s pa bs
  | _ => refusalRecord s iface 19 va

/-- A 64-bit add at the home slice; one that does not pass is dropped with a record. -/
def engineAdd (s : State) (iface va v : Nat) : State :=
  match checkPage s engineUnit iface va { r := true, w := true } with
  | .ok pa _ _ => devWriteNat s pa 8 ((devNat s pa 8 + v) % 2 ^ 64)
  | _ => refusalRecord s iface 19 va

end Sys2Proof.Machine
end

