-- ==== Sys2Proof/Machine/Launches.lean ====
section
/-! DEFINITION. Launch records and their checks (R89 to R91, R443), placement of groups and gangs (R82, R83, R92 to R95, R198, R199, R311, R407), the end of warps, groups and launches (R84), and the kernel boundary (R258). -/

namespace Sys2Proof.Machine

/-! ### The launch record (R89) -/

/-- A record from its first 40 words and its constants. Bits [31:13] of the word at 0x34 and [31:6] of the word at 0x38, which R89 does not list, and LEVEL entries n ≥ LEVELS count as reserved fields for check 4, as do argument types that are no code. DESIGN CHOICE: log 99. -/
def parseRecord (ws consts : List Word) : Record :=
  let w (k : Nat) : Word := ws.getD k 0
  let f (k lo n : Nat) : Nat := (w k).toNat / 2 ^ lo % 2 ^ n
  let argN := f 3 8 8
  let nl := f 3 0 4
  let types := (List.range 64).map fun k => BitVec.ofNat 4 (f (32 + k / 8) (4 * (k % 8)) 4)
  let badTypes := ((types.take argN).any fun t => t == 0 || 7 < t.toNat) || (types.drop argN).any (· != 0)
  { codeBase := w 1 ++ w 0, codeLen := (w 2).toNat, constN := f 3 16 10, argN := argN, levelN := nl
    levels := (List.range 8).map fun n => w (4 + n)
    acc := f 12 16 5, vregs := f 12 0 9, scratch := f 13 0 13, bstack := f 14 0 6, groups := (w 15).toNat
    trapvec := (List.range 16).map fun i => w (16 + i), argTypes := types.take argN, consts := consts
    reserved := f 3 26 6 != 0 || f 3 4 4 != 0 || f 12 21 11 != 0 || f 12 9 7 != 0 || f 13 13 19 != 0 || f 14 6 26 != 0
      || badTypes || ((List.range 8).any fun n => nl ≤ n && w (4 + n) != 0) }

def levDom (w : Word) : Nat := w.toNat / 2 ^ 28
def levScope (w : Word) : Nat := w.toNat / 2 ^ 24 % 16
def levExt (w : Word) : Nat := w.toNat % 2 ^ 24

/-- The bound levels. -/
def boundLevels (r : Record) : List Word := r.levels.take r.levelN

/-- The extent of the level of a domain. -/
def domExt (r : Record) (d : Nat) : Option Nat := ((boundLevels r).find? fun w => levDom w == d).map levExt

/-- R92: warps per group. -/
def groupWarps (r : Record) : Nat := (domExt r 3).getD 1

/-- R94: the levels above GROUP, from the inside: domain and extent. -/
def gangLevels (r : Record) : List (Nat × Nat) := ((boundLevels r).filter fun w => 4 ≤ levDom w).map fun w => (levDom w, levExt w)

def gangSize (r : Record) : Nat := (gangLevels r).foldl (fun a l => a * l.2) 1

/-- R4: register rows of a warp. -/
def warpRows (r : Record) : Nat := (r.vregs + 15) / 16 * 16

/-- R83: LPART at start. -/
def tileExt (r : Record) : Nat := (domExt r 1).getD 32

/-- R41, R89: the argument registers and the padding registers. -/
def argRegs (r : Record) : List Nat × List Nat :=
  let (regs, pads, _) := r.argTypes.foldl (fun (regs, pads, j) t =>
    if 4 ≤ t.toNat then
      let k := j + j % 2
      (regs ++ [k, k + 1], if j % 2 = 1 then pads ++ [j] else pads, k + 2)
    else (regs ++ [j], pads, j + 1)) (([] : List Nat), ([] : List Nat), 0)
  (regs, pads)

/-- R89: the bytes of the argument image. -/
def argBytes (r : Record) : Nat :=
  match (argRegs r).1.getLast? with
  | some k => 4 * (k + 1)
  | none => 0

/-- K registers at placement: the constant table, the argument registers from the block, padding zero. -/
def kInit (r : Record) (args : List Word) : Map Word :=
  let put (m : Map Word) (k : Nat) (v : Word) : Map Word := mapPut 0 m k v
  let m0 := (r.consts.zipIdx).foldl (fun m (v, k) => put m k v) []
  let m1 := (argRegs r).1.foldl (fun m k => put m k (args.getD k 0)) m0
  (argRegs r).2.foldl (fun m k => put m k 0) m1

/-! ### What a core holds (R4, R82, R93) -/

/-- What is taken of a core: slots and rows by partition, scratchpad lines, tiles, B-stack units. `fresh` counts the slots that a new placement takes; a partition from which it takes one leaves a slot and `keepRows` rows free where `keep` (R82, R411). -/
structure Load where
  slots : List Nat := [0, 0, 0, 0]
  rows : List Nat := [0, 0, 0, 0]
  fresh : List Nat := [0, 0, 0, 0]
  keep : Bool := false
  keepRows : Nat := 0
  scratch : Nat := 0
  acc : Nat := 0
  bstack : Nat := 0
  deriving DecidableEq, Repr

def Load.ok (l : Load) : Bool :=
  (List.range 4).all (fun p =>
    let kept : Bool := l.keep && 0 < l.fresh.getD p 0
    l.slots.getD p 0 + (if kept then 1 else 0) ≤ 16 && l.rows.getD p 0 + (if kept then l.keepRows else 0) ≤ Config.rowsPerPartition)
    && l.scratch ≤ 7168 && l.acc ≤ 24 && l.bstack ≤ 32

/-- Adds warps of some rows to the partitions. -/
def Load.addWarps (l : Load) (count : Nat → Nat) (rows : Nat) : Load :=
  { l with
    slots := (List.range 4).map fun p => l.slots.getD p 0 + count p
    rows := (List.range 4).map fun p => l.rows.getD p 0 + count p * rows }

def Load.addGroup (l : Load) (r : Record) : Load :=
  { l with scratch := l.scratch + r.scratch, acc := l.acc + r.acc, bstack := l.bstack + r.bstack }

/-- R93: half and partition of a warp of its group. -/
def warpSpot (two : Bool) (w : Nat) : Nat × Nat := if two then (w % 2, w / 2 % 4) else (0, w % 4)

/-- A group's share of one of its cores is added. -/
def Load.addHalf (l : Load) (r : Record) (half : Nat) : Load :=
  let n := groupWarps r
  let count (p : Nat) : Nat := ((List.range n).filter fun w => warpSpot (n > 64) w == (half, p)).length
  { (l.addWarps count (warpRows r)).addGroup r with fresh := (List.range 4).map fun p => l.fresh.getD p 0 + count p }

/-- Warps that await resumption on a core (R82, R410): evicted, their group resident. -/
def awaiting (s : State) (core : Nat) : List Warp :=
  (s.warps.filter fun e => !e.2.resident && !e.2.retired && e.2.core == core && !(getGroup s e.2.group).saved).map (·.2)

def recordRows (s : State) (x : Warp) : Nat := warpRows (getLaunch s x.launch).record

/-- What the resident groups and warps of a core take; the reserve of R82 and R411 is added where `reserve`. -/
def coreLoad (s : State) (core : Nat) (reserve : Bool) : Load :=
  let ws := (s.warps.filter fun e => e.2.resident && e.2.core == core).map (·.2)
  let gs := (s.groups.filter fun e => !e.2.saved && e.2.cores.contains core).map (·.2)
  let l1 := ws.foldl (fun (l : Load) x => l.addWarps (fun p => if x.part = p then 1 else 0) (recordRows s x)) {}
  let l2 := gs.foldl (fun (l : Load) g => l.addGroup (getLaunch s g.launch).record) l1
  match awaiting s core with
  | [] => l2
  | x :: xs => if reserve then { l2 with keep := true, keepRows := (x :: xs).foldl (fun a y => max a (recordRows s y)) 0 } else l2

/-- R93: the loads with a group placed on its cores; none where it does not fit. -/
def placeOn (base : Nat → Load) (u : Map Load) (r : Record) (home : List Nat) : Option (Map Load) :=
  let u1 := (home.zipIdx).foldl (fun u (c, h) => mapSet u c ((mapGetD u c (base c)).addHalf r h)) u
  if home.all fun c => (mapGetD u1 c {}).ok then some u1 else none

/-! ### Gangs (R94, R311) -/

/-- The instance of a domain in which a core lies. -/
def instOf (d core : Nat) : Nat :=
  match d with
  | 4 => core / 4
  | 5 => core / 20
  | 6 => core / 40
  | _ => 0

/-- The cores of a list by instance of a domain. -/
def instances (d : Nat) (cores : List Nat) : List (List Nat) :=
  ((cores.map (instOf d)).dedup).map fun i => cores.filter fun c => instOf d c == i

/-- A list in the order of a measure, equals in the order in which they stand. -/
def sortBy {α : Type} (key : α → Nat) (l : List α) : List α :=
  l.foldr (fun x r => r.takeWhile (fun y => key y < key x) ++ x :: r.dropWhile fun y => key y < key x) []

/-- The cores of homes that are not among the tenant's: how many. -/
def newCores (mine : List Nat) (homes : List (List Nat)) : Nat := (homes.flatten.dedup.filter fun c => !mine.contains c).length

/-- How many groups of a record, at most `n`, fit a core. -/
def coreRoom (base : Nat → Load) (r : Record) (c : Nat) : Nat → Nat
  | 0 => 0
  | n + 1 => if ((List.replicate (n + 1) [c]).foldl (fun (u : Option (Map Load)) h => u.bind fun u => placeOn base u r h) (some [])).isSome then n + 1
    else coreRoom base r c n

/-- `m` groups of at most 64 warps within cores, on as few new ones as can be. -/
def fitCores (base : Nat → Load) (r : Record) (mine cores : List Nat) (m : Nat) : Option (List (List Nat)) :=
  let all := (sortBy (fun c => (if mine.contains c then 0 else 1024) + (64 - coreRoom base r c (min m 64))) cores).flatMap fun c =>
    List.replicate (coreRoom base r c (min m 64)) [c]
  if m ≤ all.length then some (all.take m) else none

/-- The homes of groups of more than 64 warps within one cluster: the best for one group, and for two. A core has room for one of their halves. -/
def clusterPairs (base : Nat → Load) (r : Record) (mine cores : List Nat) : List (List (List Nat)) :=
  let ps := (cores.flatMap fun a => (cores.filter fun b => a != b).map fun b => [a, b]).filter fun h => (placeOn base [] r h).isSome
  let best (l : List (List (List Nat))) : List (List (List Nat)) := (sortBy (newCores mine) l).take 1
  best (ps.map fun h => [h]) ++ best (ps.flatMap fun h => (ps.filter fun k => !k.any h.contains).map fun k => [h, k])

/-- `m` groups of more than 64 warps within cores, on as few new ones as can be: a second group in a cluster costs no less than the first. -/
def fitPairs (base : Nat → Load) (r : Record) (mine cores : List Nat) (m : Nat) : Option (List (List Nat)) :=
  let opts := (instances 4 cores).map (clusterPairs base r mine)
  let steps := opts.zipIdx.flatMap fun (o, k) => (o.zipIdx).map fun (hs, j) =>
    (k, j, newCores mine hs - (if j = 0 then 0 else newCores mine (o.getD 0 [])))
  let taken := (sortBy (fun x => 2 * x.2.2 + x.2.1) steps).take m
  if taken.length < m then none
  else some (opts.zipIdx.flatMap fun (o, k) =>
    let n := (taken.filter fun x => x.1 == k).length
    if n = 0 then [] else o.getD (n - 1) [])

/-- `m` groups within cores. -/
def fitGroups (base : Nat → Load) (r : Record) (mine cores : List Nat) (m : Nat) : Option (List (List Nat)) :=
  if groupWarps r ≤ 64 then fitCores base r mine cores m else fitPairs base r mine cores m

/-- One unit of a level, its levels from the outside, within cores, on as few new ones as can be: its sub-units in distinct instances (R311). -/
def fitUnit (base : Nat → Load) (r : Record) (mine : List Nat) : List (Nat × Nat) → List Nat → Option (List (List Nat))
  | [], cores => fitGroups base r mine cores 1
  | [(_, ext)], cores => fitGroups base r mine cores ext
  | (_, ext) :: (d, e) :: ls, cores =>
    let subs := (sortBy (newCores mine) ((instances d cores).filterMap (fitUnit base r mine ((d, e) :: ls)))).take ext
    if subs.length < ext then none else some subs.flatten

/-- A gang within cores, on as few new ones as can be; the outermost unit lies in one instance of its domain (R94). -/
def fitGang (base : Nat → Load) (r : Record) (mine cores : List Nat) : Option (List (List Nat)) :=
  let ls := (gangLevels r).reverse
  let outer := match ls with
    | [] => [cores]
    | (d, _) :: _ => instances d cores
  (sortBy (newCores mine) (outer.filterMap (fitUnit base r mine ls))).head?

/-- R94, R311: the homes of a gang's groups keep each unit in one instance of its domain, and units of CLUSTER, CHIPLET and QUADRANT levels in distinct ones; a group that has no home now stands with an empty one. -/
def unitsOk (r : Record) (homes : List (List Nat)) : Bool :=
  let ls := gangLevels r
  (List.range ls.length).all fun j =>
    let d := (ls.getD j (7, 1)).1
    let size := (ls.take (j + 1)).foldl (fun a l => a * l.2) 1
    let unit (u : Nat) : List Nat := (((homes.drop (u * size)).take size).flatten.map (instOf d)).dedup
    let units := (List.range (homes.length / size)).map unit
    units.all (·.length ≤ 1) && (d == 7 || units.flatten.dedup.length == units.length)

/-! ### The checks of a launch (R91) -/

/-- R91 check 1: the least scope of a domain. -/
def minScope (d : Nat) : Nat := [0, 1, 1, 2, 3, 4, 4, 4].getD d 7

def levelsOk (r : Record) : Bool :=
  let l := boundLevels r
  1 ≤ r.levelN && r.levelN ≤ 8 && l.headD 0 == 0x00000001
    && l.all (fun w => levDom w ≤ 7 && levScope w ≤ 6 && minScope (levDom w) ≤ levScope w)
    && (l.zip l.tail).all (fun (a, b) => levDom a < levDom b && levScope a ≤ levScope b) && (domExt r 2).isSome

def tileOk (r : Record) : Bool :=
  match domExt r 1 with
  | some t => [2, 4, 8, 16, 32].contains t && domExt r 2 == some (32 / t)
  | none => domExt r 2 == some 32

def extentsOk (r : Record) : Bool := 1 ≤ groupWarps r && groupWarps r ≤ 96 && (gangLevels r).all fun l => 1 ≤ l.2

def fieldsOk (r : Record) : Bool :=
  r.codeBase.toNat % 4096 == 0 && 1 ≤ r.codeLen && r.codeLen ≤ 2 ^ 20 && !r.reserved && r.constN ≤ 512 && r.argN ≤ 64
    && 1 ≤ r.vregs && r.vregs ≤ 320 && r.acc ≤ 24 && r.scratch ≤ 7168 && r.bstack ≤ 32

/-- R91 check 5: one group on an empty core or pair. -/
def groupFits (r : Record) : Bool := (fitGroups (fun _ => {}) r [] [0, 1] 1).isSome

/-- R426: the cores of a tenant's share. -/
def coreLimit (s : State) (iface : Nat) : Nat :=
  let l := ((getIface s iface).qcore.extractLsb' 8 8).toNat
  if l = 0 then Config.cores else l

/-- R91 check 6: one gang in an otherwise empty unit of its domain, within the tenant's share. -/
def gangFits (s : State) (iface : Nat) (r : Record) : Bool :=
  match fitGang (fun _ => {}) r [] (List.range Config.cores) with
  | some hs => hs.flatten.dedup.length ≤ coreLimit s iface
  | none => false

def countOk (r : Record) (g : Nat) : Bool :=
  let p := gangSize r
  g != 0 && g % p == 0 && (((boundLevels r).all fun w => levDom w != 7) || g == p) && g * groupWarps r * 32 ≤ 2 ^ 32

/-- R91: the code of the first check that fails, in the order 1 to 8, 10. `g`: the group count, where it can be read; `argsOk`: the argument block can be read in full. The count of FUNCREC is the device's own 1, and check 10 alone judges its shape (R372, R375). DESIGN CHOICE: log 63. -/
def launchCode (s : State) (iface : Nat) (r : Record) (g : Option Nat) (argsOk func : Bool) : Option Nat :=
  if !levelsOk r then some 1
  else if !tileOk r then some 2
  else if !extentsOk r then some 3
  else if !fieldsOk r then some 4
  else if !groupFits r then some 5
  else if !gangFits s iface r then some 6
  else if !func && g.any (fun g => !countOk r g) then some 7
  else if !argsOk then some 8
  else if func && !(groupWarps r == 1 && gangSize r == 1) then some 10
  else none

/-- R61: the code of a kernel as it stands when the kernel begins to run; a launch of a kernel that runs already takes over what its running launch keeps. -/
def codeImage (s : State) (iface : Nat) (r : Record) : List (Option Byte) :=
  match s.launches.find? fun e => e.2.iface == iface && e.2.record.codeBase == r.codeBase && !e.2.code.isEmpty with
  | some e => e.2.code
  | none => (List.range (12 * r.codeLen)).map fun k => (vPa s iface (r.codeBase.toNat + k)).map (devByte s)

/-- R443, R95: an accepted launch takes its sequence number and its node's place in the order of placement. Its number is `s.next`. -/
def acceptLaunch (s : State) (iface : Nat) (l : Launch) : State :=
  let x := getIface s iface
  let mine (p : Place) : Bool := p.launch.isNone && l.node == some (p.graph, p.node)
  setIface { s with launches := mapSet s.launches s.next { l with iface := iface, seq := x.seq.toNat, code := codeImage s iface l.record }, next := s.next + 1 } iface
    { x with seq := x.seq + 1, places := x.places.map fun p => if mine p then { p with launch := some s.next } else p }

/-! ### Placement (R82, R83, R93, R95) -/

/-- A launch that still has groups to place. -/
def unplaced (s : State) (l : Nat) : Bool := !(getLaunch s l).cancelled && (getLaunch s l).placed < (getLaunch s l).count

/-- R95, R375: the launch of an interface whose gang is placed next; a node that was dispatched before and whose launch is not accepted yet holds it back. -/
def placeHead (s : State) (iface : Nat) : Option Nat :=
  ((getIface s iface).places.find? fun p => match p.launch with
    | some l => unplaced s l
    | none => true).bind (·.launch)

/-- The cores on which an interface has resident groups. -/
def tenantCores (s : State) (iface : Nat) : List Nat :=
  ((s.groups.filter fun e => e.2.iface == iface && !e.2.saved).flatMap fun e => e.2.cores).dedup

/-- R407: the context numbers of an interface that live warps hold. -/
def contextsUsed (s : State) (iface : Nat) : List Nat := (s.warps.filter fun e => e.2.iface == iface && !e.2.retired).map (·.2.context)

/-- R428: cores on which no group is placed any more. -/
def coreRetired (s : State) (c : Nat) : Bool := s.sys.retired.contains (3, c)

/-- R426, R428, R407: what a placement of groups on cores needs beside room in the cores. -/
def shareOk (s : State) (iface : Nat) (r : Record) (homes : List (List Nat)) : Bool :=
  (tenantCores s iface ++ homes.flatten).dedup.length ≤ coreLimit s iface
    && homes.flatten.all (fun c => c < Config.cores && !coreRetired s c)
    && (contextsUsed s iface).length + homes.length * groupWarps r ≤ 65536

/-- The homes of a gang fit the device as it is. -/
def gangOk (s : State) (iface : Nat) (r : Record) (homes : List (List Nat)) : Bool :=
  homes.all (fun h => if groupWarps r ≤ 64 then h.length == 1
      else h.length == 2 && h.getD 0 0 != h.getD 1 0 && h.getD 0 0 / 4 == h.getD 1 0 / 4)
    && unitsOk r homes && shareOk s iface r homes
    && (homes.foldl (fun u h => u.bind fun u => placeOn (fun c => coreLoad s c true) u r h) (some [])).isSome

/-- The cores of the next gang's groups, cut into homes. -/
def homesOf (r : Record) (cores : List Nat) : List (List Nat) :=
  let k := if groupWarps r ≤ 64 then 1 else 2
  (List.range (cores.length / k)).map fun i => (cores.drop (k * i)).take k

/-- Homes for the groups of a gang that nothing but the oracle names: each place that a gang can take is one of them. -/
def oracleHomes (s : State) (r : Record) : List (List Nat) :=
  (List.range (gangSize r)).map fun k =>
    let a := Config.pick (s.free + freeBase + 2 * k) % Config.cores
    if groupWarps r ≤ 64 then [a] else [a, a / 4 * 4 + Config.pick (s.free + freeBase + 2 * k + 1) % 4]

/-- A choice for the next gang of a launch, where it fits: which one is open (R95): any that the rules allow, else the one on the fewest cores that are new to the tenant. DEDUCED: log 12. -/
def gangChoice (s : State) (l : Nat) : Option (List Nat) :=
  let la := getLaunch s l
  let homes := oracleHomes s la.record
  if gangOk s la.iface la.record homes then some homes.flatten
  else match fitGang (fun c => coreLoad s c true) la.record (tenantCores s la.iface)
      ((List.range Config.cores).filter fun c => !coreRetired s c) with
    | some hs => if gangOk s la.iface la.record hs then some hs.flatten else none
    | none => none

/-- R198: the carve-out of a core, in units of 128 KiB, for the scratchpad lines of its resident groups. -/
def carveFor (s : State) (core : Nat) : Nat := min 7 (max 2 (((coreLoad s core false).scratch + 1023) / 1024))

/-- R199: a carve-out that grows evicts L1 lines: which ones is open. DEDUCED: log 70. -/
def growCarve (s : State) (core : Nat) : State :=
  let n := carveFor s core
  if n ≤ mapGetD s.carve core 2 then { s with carve := mapPut 2 s.carve core n }
  else
    let ws := (s.l1.filter fun e => ofUnit core e.1 && Config.pick (s.free + 2 * freeBase + e.1) % 2 == 0).map fun e => wordOfKey e.1
    evictL1 { s with carve := mapPut 2 s.carve core n } core ws

/-- R308: the core's placement tag advances. -/
def nextTag (s : State) (core : Nat) : State × Nat :=
  let t := (mapGetD s.tags core 0 + 1) % 2048
  ({ s with tags := mapPut 0 s.tags core t }, t)

/-- R82: a free slot of a partition: which one is open. -/
def freeSlotOf (s : State) (core part : Nat) : Nat :=
  let taken := (s.warps.filter fun e => e.2.resident && e.2.core == core).map (·.2.slot)
  let l := ((List.range 16).map (16 * part + ·)).filter fun n => !taken.contains n
  l.getD (Config.pick (s.free + 3 * freeBase + s.next) % l.length) 0

/-- R407: a free context number: which one is open. -/
def freeContext (s : State) (iface : Nat) : Nat :=
  let used := contextsUsed s iface
  let k := Config.pick (s.free + 4 * freeBase + s.next)
  (((List.range (used.length + 1)).map fun n => (k + n) % 65536).find? fun n => !used.contains n).getD 0

/-- R83, R96: warp w of a group starts. Its number is `s.next`. -/
def startWarp (s : State) (l gi gIndex : Nat) (home : List Nat) (w : Nat) : State :=
  let la := getLaunch s l
  let r := la.record
  let (half, part) := warpSpot (home.length == 2) w
  let core := home.getD half 0
  let x : Warp := {
    launch := l, group := gi, iface := la.iface, num := w, gnum := gIndex * groupWarps r + w, core := core, part := part
    slot := freeSlotOf s core part, context := freeContext s la.iface, lpart := tileExt r
    threads := List.replicate 32 { pc := r.codeBase + BitVec.ofNat 64 la.entry, since := s.tick } }
  makeYoungest { setWarp s s.next x with next := s.next + 1 } s.next

/-- R311: where a group of a launch stands. -/
def setHome (s : State) (l index : Nat) (home : List Nat) : State := updLaunch s l fun la => { la with homes := mapSet la.homes index home }

/-- R93, R308: a group is placed. Its number is `s.next`. -/
def startGroup (l : Nat) (s : State) (index : Nat) (home : List Nat) : State :=
  let la := getLaunch s l
  let (s1, tags) := home.foldl (fun (s, ts) c => let r := nextTag s c; (r.1, ts ++ [r.2])) (s, ([] : List Nat))
  let gi := s1.next
  let g : Group := { launch := l, iface := la.iface, index := index, cores := home, tags := tags, k := la.kinit }
  let s2 := home.foldl growCarve { setGroup (setHome s1 l index home) gi g with next := gi + 1 }
  (List.range (groupWarps la.record)).foldl (fun s w => startWarp s l gi index home w) s2

/-- R95: the next gang of a launch is placed. -/
def placeGang (s : State) (l : Nat) (homes : List (List Nat)) : State :=
  let n := (getLaunch s l).placed
  let s1 := (homes.zipIdx).foldl (fun s (h, k) => startGroup l s (n + k) h) s
  updLaunch s1 l fun la => { la with placed := n + homes.length }

def execGroupPlacement (s : State) : Host.Outcome State Fault Refusal :=
  event s fun m s => match m with
    | .groupPlacement l cores =>
      let la := getLaunch s l
      let homes := homesOf la.record cores
      some (if placeHead s la.iface = some l ∧ homes.length = gangSize la.record ∧ gangOk s la.iface la.record homes = true then
        placeGang s l homes else s)
    | _ => none

/-! ### Retirement (R84) -/

/-- R84: a warp retires: all threads ended, every request complete, and so every counter zero; the GFIREs of its inline frames end with it. -/
def retireMay (s : State) (w : Nat) (x : Warp) : Bool :=
  !x.retired && allEnded x && !(s.ops.any fun e => e.2.warp == w && !(x.frames.any fun f => f.op == e.1))

/-- R84, R375, R386: a warp's slot and rows are free; a FUNC node completes with it, and a node that it ran inline completes, or fails with its launch. -/
def retireWarp (s : State) (w : Nat) : State :=
  let x := getWarp s w
  let s0 := x.frames.foldl (fun s f => finishOp s f.op) s
  let s1 := updWarp s0 w fun x => { x with retired := true, resident := false, streams := [], frames := [] }
  let s2 := x.frames.foldl (fun s f => send s (nodeChan f.graph f.node) (match (getLaunch s x.launch).aborted with
    | some c => .nodeFail f.graph f.node 2 c
    | none => .nodeComplete f.graph f.node)) s1
  let s3 := match (getLaunch s x.launch).node with
    | some (g, n) => if (getLaunch s x.launch).func then send s2 (nodeChan g n) (.nodeComplete g n) else s2
    | none => s2
  assignQueues s3 x.core x.part 64

/-- R84: a group retires: its warps have, and every copy and matrix operation that it raised has completed. -/
def groupMay (s : State) (gi : Nat) : Bool :=
  (s.warps.all fun e => e.2.group != gi || e.2.retired)
    && !(s.copies.any fun e => e.2.group == gi && e.2.node.isNone && unfinished e.2)
    && !(s.arrays.any fun e => e.2.any fun a => a.group == gi)

/-- R199: the carve-out of a core shrinks to what its groups need. -/
def shrinkCarve (s : State) (core : Nat) : State := { s with carve := mapPut 2 s.carve core (carveFor s core) }

/-- R84, R199: what a group held is free. -/
def retireGroup (s : State) (gi : Nat) : State :=
  let g := getGroup s gi
  let s1 := updLaunch { s with groups := mapErase s.groups gi, warps := mapFilter s.warps fun _ x => x.group != gi } g.launch
    fun l => { l with retired := l.retired + 1 }
  if g.saved then s1 else g.cores.foldl shrinkCarve s1

def execGroupRetire (s : State) : Host.Outcome State Fault Refusal :=
  event s fun m s => match m with
    | .groupRetire gi => some (if (mapGet s.groups gi).isSome && groupMay s gi then retireGroup s gi else s)
    | _ => none

/-! ### The kernel boundary (R258) -/

/-- R84: a launch's groups have all retired. -/
def launchOver (s : State) (l : Nat) : Bool :=
  let la := getLaunch s l
  la.retired == la.placed && (la.cancelled || la.placed == la.count)

/-- R258 step 1: every core pushes; the boundary waits for the acknowledgements under the launch's number. -/
def beginBoundary (s : State) (l : Nat) : State :=
  let (s1, n, st) := (List.range Config.cores).foldl (fun (s, n, st) c =>
    let r := releasePush s c 2 l true
    (r.1, n + r.2.1, max st (r.2.2.getD 0))) (s, 0, s.gtime)
  updLaunch s1 l fun la => { la with ending := true, pushes := n, stamp := st }

/-- R258 steps 2 and 3, R375: the boundary completes: copies are dropped, stamps set; the launch is over, and the node of a KERNEL, or of a FUNC of which no warp ran, is told. -/
def endBoundary (s : State) (l : Nat) : State :=
  let la := getLaunch s l
  let stamp := la.stamp + 2 * s.sys.gband
  let s1 := { s with
    l1 := mapFilter s.l1 fun _ x => x.dirty
    staleBefore := (List.range Config.clusters).foldl (fun m c => mapSet m c (max stamp (mapGetD m c 0))) s.staleBefore
    launches := mapErase s.launches l }
  let s2 := updIface s1 la.iface fun x => { x with places := x.places.filter fun p => p.launch != some l }
  match la.node with
  | some (g, n) => if la.func && 0 < la.placed then s2 else send s2 (nodeChan g n) (.nodeComplete g n)
  | none => s2

/-- The boundary of a launch that is over can begin, or complete. -/
def boundaryMay (s : State) (l : Nat) : Bool := launchOver s l && (!(getLaunch s l).ending || (getLaunch s l).pushes == 0)

def execKernelBoundary (s : State) : Host.Outcome State Fault Refusal :=
  event s fun m s => match m with
    | .kernelBoundary l =>
      some (if (mapGet s.launches l).isSome && boundaryMay s l then
        if (getLaunch s l).ending then endBoundary s l else beginBoundary s l
      else s)
    | _ => none

end Sys2Proof.Machine
end

