-- ==== Sys2Proof/Machine/Graphs.lean ====
section
/-! DEFINITION. The graph engine (R368 to R382): records, launches, ready queues and dispatch, tokens, failures, cancellation, the end of a graph. One step handles one event of a graph. -/

namespace Sys2Proof.Machine

/-! ### Graphs and nodes -/

def getGraph (s : State) (g : Nat) : Graph := mapGetD s.graphs g {}
def updGraph (s : State) (g : Nat) (f : Graph → Graph) : State := { s with graphs := mapUpd s.graphs g f }
def nodeOf (s : State) (g n : Nat) : Node := (getGraph s g).nodes.getD n {}
def updNode (s : State) (g n : Nat) (f : Node → Node) : State :=
  updGraph s g fun x => { x with nodes := x.nodes.mapIdx fun k y => if k = n then f y else y }

/-- R370: the address of node record n. -/
def nodeVa (hdr n : Nat) : Nat := hdr + 64 + 64 * n

/-- R372. -/
def nodeCode : NodeSt → Nat
  | .waiting => 0 | .ready => 1 | .running => 2 | .done => 3 | .failed => 4 | .cancelled => 5 | .cancelling => 6 | .retry => 7

/-- R370: the word at offset 0x08 of a record. -/
def nodeWord (x : Node) : Nat := x.code * 2 ^ 24 + x.cause * 2 ^ 16 + x.attempts * 256 + nodeCode x.st

/-- The running graph of an interface that a header address names. -/
def graphAt (s : State) (iface hdr : Nat) : Option Nat :=
  (s.graphs.find? fun e => e.2.iface == iface && e.2.hdr == hdr && !e.2.ended).map (·.1)

/-- R383: the node of a running graph of an interface that an address names. -/
def nodeAt (s : State) (iface va : Nat) : Option (Nat × Nat) :=
  (s.graphs.find? fun e => e.2.iface == iface && !e.2.ended && va % 64 == 0 && e.2.hdr + 64 ≤ va
      && va < e.2.hdr + 64 + 64 * e.2.nodes.length).map fun e => (e.1, (va - e.2.hdr - 64) / 64)

/-- R368: a graph slot is free. -/
def graphSlot (s : State) : Bool := (s.graphs.filter fun e => !e.2.closed).length < 4096

/-! ### Ready queues (R376, R377, R386) -/

/-- R386: the priority of the node for which a GFIRE waits, also of a graph that has ended meanwhile. -/
def firePrio (s : State) (x : Warp) (op : Nat) : Option Nat :=
  let va := (getOp s op).args.getD 0 0
  ((s.graphs.filter fun e => e.2.iface == x.iface && e.2.hdr + 64 ≤ va && va < e.2.hdr + 64 + 64 * e.2.nodes.length).getLast?).map fun e =>
    (nodeOf s e.1 ((va - e.2.hdr - 64) / 64)).prio

/-- R386: an entry of a queue is freed: what waits for it tests again. -/
def retestFires (s : State) (iface prio : Nat) : State :=
  let ws := s.warps.filter fun e => e.2.iface == iface && e.2.threads.any fun th => match th.cond with
    | .waiting (.fire op) => firePrio s e.2 op == some prio
    | _ => false
  ws.foldl (fun s e => send s none (.inlineFireRetest e.1)) s

def updReady (s : State) (iface prio : Nat) (f : List (Nat × Nat) → List (Nat × Nat)) : State :=
  updIface s iface fun x => { x with ready := x.ready.mapIdx fun p l => if p = prio then f l else l }

/-- R376, R378: a node becomes READY at the tail of its queue. -/
def fireNode (s : State) (g n : Nat) : State :=
  updReady (updNode s g n fun x => { x with st := .ready }) (getGraph s g).iface (nodeOf s g n).prio (· ++ [(g, n)])

/-- A node leaves its queue. -/
def unready (s : State) (g n : Nat) : State :=
  let i := (getGraph s g).iface
  let p := (nodeOf s g n).prio
  retestFires (updReady s i p (·.filter (· != (g, n)))) i p

/-- R376: tokens reach a node. -/
def postToken (s : State) (g n k : Nat) : State :=
  let s1 := updNode s g n fun x => { x with held := min (x.held + k) 0xFFFF }
  let x := nodeOf s1 g n
  if x.st == .waiting && x.need ≤ x.held then fireNode s1 g n else s1

/-! ### The end of a graph (R382) -/

/-- The accesses of a graph's end. -/
def closeRuns (x : Graph) : List (Nat × Nat × Need) :=
  (x.hdr, 64, { w := true }) :: (x.hdr + 64, 64 * x.nodes.length, { w := true })
    :: if x.cword = 0 ∨ x.resetting then [] else [(x.cword, 8, { r := true, w := true })]

/-- R382 step 2: every field that the engine holds of the records. -/
def putNodes (s : State) (x : Graph) : State :=
  (x.nodes.zipIdx).foldl (fun s (y, n) =>
    enginePut (enginePut s x.iface (nodeVa x.hdr n + 6) (leBytes y.held 2)) x.iface (nodeVa x.hdr n + 8) (leBytes (nodeWord y) 4)) s

/-- R382: STATE at the end. -/
def endState (x : Graph) : Nat := if x.resetting then 4 else if x.failed = 0 ∧ x.cancelled = 0 then 2 else 3

/-- R428: cores with a lasting fault take no group after a graph boundary. -/
def retireCores (s : State) : State :=
  { s with sys := { s.sys with retired := s.sys.retired ++ s.sys.retiring.map fun c => (3, c), retiring := [] } }

/-- R382 steps 1 to 5: the stores, the add, the message; the slot is free. DEDUCED: log 68. -/
def writeEnd (s : State) (g : Nat) : State :=
  let x := getGraph s g
  let put (s : State) (off v : Nat) : State := enginePut s x.iface (x.hdr + off) (leBytes v 4)
  let s2 := put (put (put (put (put s 4 (endState x)) 0x0C x.done) 0x10 x.cancelled) 0x14 x.failed) 0x30 (x.nodes.filter (·.st == .waiting)).length
  let s3 := putNodes s2 x
  let s4 := if x.cword = 0 ∨ x.resetting then s3 else engineAdd s3 x.iface x.cword 1
  let s5 := if x.irq && !x.resetting then raiseMsix s4 x.iface x.vector else s4
  retireCores (updGraph s5 g fun x => { x with ended := true, closed := true })

/-- R382 steps 1 to 5; a translation fault parks them. The engine holds no words, so that its release pushes nothing. -/
def closeGraph (s : State) (g : Nat) : State :=
  let x := getGraph s g
  let m := Msg.nodeWorkStopped g 0
  match engineRuns s m x.iface (closeRuns x) with
  | .park va need => parkEngine s m x.iface va need
  | _ => writeEnd (dropDenials s m) g

/-- R382: a node that keeps its graph from ending. -/
def activeNode (x : Node) : Bool :=
  match x.st with
  | .ready | .running | .cancelling | .retry => true
  | _ => false

/-- R382: a graph that no node keeps from ending ends. -/
def endIfQuiet (s : State) (g : Nat) : State :=
  let x := getGraph s g
  if (mapGet s.graphs g).isNone || x.ended || x.nodes.any activeNode then s
  else closeGraph (updGraph s g fun x => { x with ended := true }) g

/-! ### Stopping work (R380) -/

/-- The work of a node is over; a place that it holds in the order of placement (R375) is given up. -/
def clearWork (s : State) (g n : Nat) : State :=
  updIface (updNode s g n fun x => { x with launch := none, copy := none, child := none, inlineWarp := none, signal := none })
    (getGraph s g).iface fun x => { x with places := x.places.filter fun p => p.launch.isSome || p.graph != g || p.node != n }

/-- R380, R378: a node's work has stopped: CANCELLING becomes CANCELLED, RETRY is queued again. -/
def workStopped (s : State) (g n : Nat) : State :=
  let s1 := clearWork s g n
  match (nodeOf s1 g n).st with
  | .cancelling => updGraph (updNode s1 g n fun x => { x with st := .cancelled }) g fun x => { x with cancelled := x.cancelled + 1 }
  | .retry => fireNode s1 g n
  | _ => s1

/-- R380: the warps of a launch are to be retired at their next blocking points; event GRAPH is signalled. -/
def cancelLaunch (s : State) (l : Nat) : State :=
  match mapGet s.launches l with
  | none => s
  | some la =>
    let s1 := setLaunch s l { la with cancelled := true }
    ((s.warps.filter fun e => e.2.launch == l && !e.2.retired).map (·.1)).foldl (fun s w =>
      signalWarp (updWarp s w fun x => { x with stop := true }) w fun e => e.typ == 8) s1

/-- R380: an inline frame is marked. -/
def markFrame (s : State) (w g n : Nat) : State :=
  updWarp s w fun x => { x with frames := x.frames.map fun f => if f.graph = g ∧ f.node = n then { f with marked := true } else f }

/-- The message of an engine's read for a node. -/
def asksFor (g n : Nat) : Msg → Bool
  | .nodeDispatch _ (some (a, b, _)) => a == g && b == n
  | .graphLaunch _ _ (some (a, b)) _ => a == g && b == n
  | _ => false

/-- Parked reads for a node, those that have been answered, and a child that waits for its launch, are dropped. -/
def dropReads (s : State) (g n : Nat) : State :=
  let ids := (s.engineWaits.filter fun e => asksFor g n e.2.msg).map (·.1)
  let s1 := { s with
    net := s.net.filter fun f => !asksFor g n f.msg
    engineWaits := mapFilter s.engineWaits fun k _ => !ids.contains k
    parks := mapFilter s.parks fun _ p => match p.engine with
      | some k => !ids.contains k
      | none => true }
  updIface s1 (getGraph s g).iface fun x => { x with launchq := x.launchq.filter fun q => q.2 != some (g, n) }

/-- R380: the work of a node is stopped; work that ends at once has stopped with it. -/
def stopWork : Nat → State → Nat → Nat → State
  | 0, s, _, _ => s
  | d + 1, s, g, n =>
    let x := nodeOf s g n
    match x.launch, x.copy, x.child, x.inlineWarp with
    | some l, _, _, _ => cancelLaunch s l
    | none, some c, _, _ => workStopped (cancelCopy s c) g n
    | none, none, some c, _ =>
      if (getGraph s c).ended then s else
      let s1 := (List.range (getGraph s c).nodes.length).foldl (fun s k =>
        match (nodeOf s c k).st with
        | .waiting => updGraph (updNode s c k fun y => { y with st := .cancelled, cause := 6 }) c fun x => { x with cancelled := x.cancelled + 1 }
        | .ready => updGraph (unready (updNode s c k fun y => { y with st := .cancelled, cause := 6 }) c k) c fun x => { x with cancelled := x.cancelled + 1 }
        | .running => stopWork d (updNode s c k fun y => { y with st := .cancelling, cause := 6 }) c k
        | .retry => updNode s c k fun y => { y with st := .cancelling, cause := 6 }
        | _ => s) s
      let s2 := endIfQuiet s1 c
      if (getGraph s2 c).closed then workStopped s2 g n else s2
    | none, none, none, some w => markFrame s w g n
    | none, none, none, none => workStopped (dropReads s g n) g n

/-! ### The cancellation walk (R379) -/

/-- R379: one node of the cone. -/
def walkNode (s : State) (g n : Nat) : State :=
  let count (s : State) : State := updGraph s g fun x => { x with cancelled := x.cancelled + 1 }
  match (nodeOf s g n).st with
  | .waiting => count (updNode s g n fun y => { y with st := .cancelled, cause := 6 })
  | .ready => count (unready (updNode s g n fun y => { y with st := .cancelled, cause := 6 }) g n)
  | .running => stopWork (s.graphs.length + 1) (updNode s g n fun y => { y with st := .cancelling, cause := 6 }) g n
  | .retry => updNode s g n fun y => { y with st := .cancelling, cause := 6 }
  | _ => s

/-- R379: the walk, breadth first; `marked` are the nodes seen. -/
def walkCone : Nat → State → Nat → List Nat → List Nat → State
  | 0, s, _, _, _ => s
  | _ + 1, s, _, [], _ => s
  | k + 1, s, g, x :: q, marked =>
    let news := (nodeOf s g x).succ.filter fun y => !marked.contains y
    walkCone k (news.foldl (fun s y => walkNode s g y) s) g (q ++ news) (marked ++ news)

/-! ### Completion and failure (R376, R378, R381, R382) -/

/-- R376, R381: the work of a node has ended well: the node alone. -/
def nodeDone (s : State) (g n : Nat) : State :=
  match (nodeOf s g n).st with
  | .running =>
    let s1 := updGraph (updNode (clearWork s g n) g n fun x => { x with st := .done }) g fun x => { x with done := x.done + 1 }
    (nodeOf s1 g n).succ.foldl (fun s y => postToken s g y 1) s1
  | .cancelling | .retry => workStopped s g n
  | _ => clearWork s g n

/-- R378, R381: a node fails: the node, and what its failure cancels. `fin`: its work has ended with the failure. -/
def nodeFailed (s : State) (g n cause code : Nat) (fin : Bool) : State :=
  let s0 := if fin then clearWork s g n else s
  let x := nodeOf s0 g n
  match x.st with
  | .running =>
    let a := min (x.attempts + 1) 255
    let again : Bool := a ≤ x.retries
    let s1 := updNode s0 g n fun x => { x with attempts := a, cause := cause, code := code % 256, st := if again then .retry else .failed }
    let s2 := if again then s1 else updGraph s1 g fun x => { x with failed := x.failed + 1 }
    let s3 := stopWork (s.graphs.length + 1) s2 g n
    if again then s3 else walkCone ((getGraph s3 g).nodes.length + 1) s3 g [n] [n]
  | .cancelling | .retry => if fin then workStopped s0 g n else s
  | _ => s0

/-- R382 step 6: the end of a child completes its SUBGRAPH node, or fails it with CAUSE 5. -/
def tellParent (s : State) (g : Nat) : State :=
  match (getGraph s g).parent with
  | none => s
  | some (pg, pn) => if endState (getGraph s g) = 2 then nodeDone s pg pn else nodeFailed s pg pn 5 0 true

/-- R382: a graph that has been closed in this step tells its parent, which may end with it in the same step, and so on outward. -/
def climb : Nat → State → Nat → State
  | 0, s, _ => s
  | d + 1, s, g =>
    if !(getGraph s g).closed then s
    else
      let s1 := tellParent s g
      match (getGraph s g).parent with
      | none => s1
      | some (pg, _) => if (getGraph s1 pg).ended then s1 else climb d (endIfQuiet s1 pg) pg

/-- R382: the end of a step on a graph: where it leaves no node active, the graph ends. -/
def graphCheck (s : State) (g : Nat) : State :=
  if (getGraph s g).ended then s else climb (s.graphs.length + 1) (endIfQuiet s g) g

/-- R376, R381: the work of a node has ended well. DEDUCED: log 64. -/
def completeNode (s : State) (g n : Nat) : State := graphCheck (nodeDone s g n) g

/-- R378, R381: a node fails. -/
def failNode (s : State) (g n cause code : Nat) (fin : Bool) : State := graphCheck (nodeFailed s g n cause code fin) g

def execNodeComplete (s : State) : Host.Outcome State Fault Refusal :=
  event s fun m s => match m with
    | .nodeComplete g n => some (completeNode s g n)
    | _ => none

/-- CAUSE 3, 4 and 5 come with the end of the work; of CAUSE 2 the launch has yet to end (R400). -/
def execNodeFail (s : State) : Host.Outcome State Fault Refusal :=
  event s fun m s => match m with
    | .nodeFail g n cause code => some (failNode s g n cause code (3 ≤ cause))
    | _ => none

/-- A node's work has stopped; or the parked stores of a graph's end are tried again. -/
def execNodeWorkStopped (s : State) : Host.Outcome State Fault Refusal :=
  event s fun m s => match m with
    | .nodeWorkStopped g n =>
      some (if (getGraph s g).ended then (if (getGraph s g).closed then s else climb (s.graphs.length + 1) (closeGraph s g) g)
        else graphCheck (workStopped s g n) g)
    | _ => none

/-! ### Launching a graph (R373, R374) -/

/-- A node record in memory. -/
def readNode (s : State) (iface va : Nat) : Node :=
  let v (off n : Nat) : Nat := vNat s iface (va + off) n
  let ns := v 2 1
  { kind := v 0 1 % 16, prio := v 0 1 / 16 % 4, retries := v 1 1, need := v 4 2, target := v 0x10 8, args := v 0x18 8
    succ := (List.range (min ns 5)).map (fun k => v (0x20 + 4 * k) 4 % 2 ^ 24)
      ++ (List.range (ns - 5)).map fun k => vNat s iface (v 0x38 8 + 4 * k) 4 % 2 ^ 24 }

/-- R374: a node record that refuses its launch. -/
def badNode (s : State) (iface va i nodes funcrec : Nat) : Bool :=
  let v (off n : Nat) : Nat := vNat s iface (va + off) n
  let y := readNode s iface va
  let ns := v 2 1
  v 3 1 != 0 || v 0 1 / 64 != 0 || v 8 1 / 16 != 0 || v 0x34 4 / 2 ^ 24 != 0 || v 0x0C 4 != i || y.kind > 4
    || (List.range 5).any (fun k => v (0x20 + 4 * k) 4 / 2 ^ 24 != 0)
    || (List.range (ns - 5)).any (fun k => vNat s iface (v 0x38 8 + 4 * k) 4 / 2 ^ 24 != 0)
    || y.succ.any (nodes ≤ ·) || y.succ.dedup.length != y.succ.length
    || (ns ≤ 5 && v 0x38 8 != 0) || (y.kind == 1 && funcrec == 0)

/-- R374: a header that refuses its launch. -/
def badHeader (s : State) (iface hdr : Nat) : Bool :=
  let v (off n : Nat) : Nat := vNat s iface (hdr + off) n
  v 0 4 == 0 || v 0 4 / 2 ^ 24 != 0 || v 4 4 % 8 == 1 || v 4 4 / 8 != 0 || v 8 4 / 128 != 0 || v 0x38 8 != 0
    || [0x0C, 0x10, 0x14, 0x30].any (fun o => v o 4 / 2 ^ 24 != 0) || v 0x20 8 % 8 != 0 || (graphAt s iface hdr).isSome

/-- The accesses of a launch after the header's: every record, every further successor, the completion word. -/
def launchRuns (s : State) (iface hdr : Nat) : List (Nat × Nat × Need) :=
  let v (off n : Nat) : Nat := vNat s iface (hdr + off) n
  let nodes := v 0 4 % 2 ^ 24
  let more := (List.range nodes).filterMap fun i =>
    let ns := vNat s iface (nodeVa hdr i + 2) 1
    if 5 < ns then some (vNat s iface (nodeVa hdr i + 0x38) 8, 4 * (ns - 5), ({ r := true } : Need)) else none
  (hdr + 64, 64 * nodes, { r := true, w := true }) :: more
    ++ if v 0x20 8 = 0 then [] else [(v 0x20 8, 8, { w := true })]

/-- R373 step 4, R369: the graph starts: what the engine sets and writes, and the nodes that need no token. -/
def startGraph (s : State) (iface hdr : Nat) (parent : Option (Nat × Nat)) : State :=
  let v (off n : Nat) : Nat := vNat s iface (hdr + off) n
  let nodes := v 0 4 % 2 ^ 24
  let runs : Word := BitVec.ofNat 32 (v 0x34 4 + 1)
  let x : Graph := {
    iface := iface, hdr := hdr, irq := (v 8 4).testBit 6, vector := v 8 4 % 64, funcrec := v 0x18 8, cword := v 0x20 8
    parent := parent, runs := runs, nodes := (List.range nodes).map fun i => readNode s iface (nodeVa hdr i) }
  let g := s.next
  let s1 := { s with graphs := mapSet s.graphs g x, next := g + 1 }
  let s2 := match parent with
    | some (pg, pn) => updNode s1 pg pn fun y => { y with child := some g }
    | none => s1
  let put (s : State) (off n v : Nat) : State := enginePut s iface (hdr + off) (leBytes v n)
  let zeros := [0x0C, 0x10, 0x14, 0x30].foldl (fun s o => put s o 4 0) (put s2 4 4 1)
  let pva := match parent with
    | some (pg, pn) => nodeVa (getGraph s pg).hdr pn
    | none => 0
  let s3 := put (put zeros 0x34 4 runs.toNat) 0x28 8 pva
  let s4 := (List.range nodes).foldl (fun s n => if (nodeOf s g n).need = 0 then fireNode s g n else s) s3
  graphCheck (putNodes s4 (getGraph s4 g)) g

/-- R374: a launch is refused: a record for the host, or the SUBGRAPH node fails. -/
def refuseGraph (s : State) (iface hdr code : Nat) (parent : Option (Nat × Nat)) : State :=
  match parent with
  | none => refusalRecord s iface code hdr
  | some (g, n) => send s (nodeChan g n) (.nodeFail g n 3 code)

/-- R373: a launch with its slot: reads that fault park it; then the checks of R374. -/
def launchGraph (s : State) (iface hdr : Nat) (parent : Option (Nat × Nat)) : State :=
  let m := Msg.graphLaunch iface hdr parent true
  let x := getIface s iface
  let refuse (s : State) (code : Nat) : State := refuseGraph (dropDenials s m) iface hdr code parent
  if parent.any fun p => (nodeOf s p.1 p.2).st != .running then dropDenials s m
  else if x.stopped then refuse s 20
  else if x.resetting then refuse s 18
  else if hdr % 64 ≠ 0 then refuse s 16
  else match engineRuns s m iface [(hdr, 64, { r := true, w := true })] with
    | .park va need => parkEngine s m iface va need
    | .fail .. => refuse s 16
    | .ok =>
      if badHeader s iface hdr then refuse s 16
      else match engineRuns s m iface (launchRuns s iface hdr) with
        | .park va need => parkEngine s m iface va need
        | .fail .. => refuse s 16
        | .ok =>
          let nodes := vNat s iface hdr 4
          let funcrec := vNat s iface (hdr + 0x18) 8
          if (List.range nodes).any fun i => badNode s iface (nodeVa hdr i) i nodes funcrec then refuse s 16
          else startGraph (dropDenials s m) iface hdr parent

/-- The graph launches that have a slot and are not started yet keep it: their reads are parked, or have just been answered. -/
def launchingGraphs (s : State) : Nat :=
  let waits (m : Msg) : Bool := match m with
    | .graphLaunch _ _ _ again => again
    | _ => false
  (s.engineWaits.filter fun e => waits e.2.msg && !e.2.denied).length + (s.net.filter fun f => waits f.msg).length

def launchMay (s : State) : Bool := (s.graphs.filter fun e => !e.2.closed).length + launchingGraphs s < 4096

def execGraphLaunch (s : State) : Host.Outcome State Fault Refusal :=
  event s fun m s => match m with
    | .graphLaunch iface hdr parent again =>
      some (if again then launchGraph s iface hdr parent
        else if (getIface s iface).launchq.head? == some (hdr, parent) && launchMay s then
          launchGraph (updIface s iface fun x => { x with launchq := x.launchq.tail }) iface hdr parent
        else s)
    | _ => none

/-! ### Dispatch (R375, R377) -/

/-- R377: the head of the highest queue of an interface. -/
def readyHead (s : State) (iface : Nat) : Option (Nat × Nat) :=
  ((getIface s iface).ready.reverse.find? fun l => !l.isEmpty).bind (·.head?)

/-- A node that cannot begin fails with CAUSE 3. -/
def nodeRefused (s : State) (m : Msg) (g n code : Nat) : State := failNode (dropDenials s m) g n 3 code true

/-- R91 check 9: the accesses of a launch record: its fixed part, then its constants. -/
def recordRuns (s : State) (iface va : Nat) : List (Nat × Nat × Need) :=
  [(va + 0xA0, 4 * (vNat s iface (va + 0x0E) 2 % 1024), { r := true })]

/-- R375: a KERNEL or FUNC node launches its record. -/
def startLaunch (s : State) (m : Msg) (g n : Nat) : State :=
  let x := getGraph s g
  let y := nodeOf s g n
  let func := y.kind == 1
  let va := if func then x.funcrec else y.target
  if (getIface s x.iface).stopped then nodeRefused s m g n 20
  else if va % 64 ≠ 0 then nodeRefused s m g n 9
  else match engineRuns s m x.iface [(va, 0xA0, { r := true })] with
    | .park a need => parkEngine s m x.iface a need
    | .fail .. => nodeRefused s m g n 9
    | .ok => match engineRuns s m x.iface (recordRuns s x.iface va) with
      | .park a need => parkEngine s m x.iface a need
      | .fail .. => nodeRefused s m g n 9
      | .ok =>
        let r := parseRecord (vWords s x.iface va 40) (vWords s x.iface (va + 0xA0) (vNat s x.iface (va + 0x0E) 2 % 1024))
        let block := if func || y.args = 0 then Eng.ok else engineRuns s m x.iface [(y.args, 16 + argBytes r, { r := true })]
        match launchCode s x.iface r none true func with
        | some c => nodeRefused s m g n c
        | none => match block with
          | .park a need => parkEngine s m x.iface a need
          | b => go r (countRead x y func) (b == .ok) func
where
  /-- R91: the group count of the block, where it can be read. -/
  countRead (x : Graph) (y : Node) (func : Bool) : Option Nat :=
    if func then some 1
    else if y.args = 0 then some 0
    else if engineRuns s m x.iface [(y.args, 4, { r := true })] = .ok then some (vNat s x.iface y.args 4) else none
  /-- The checks with the block's fields; the launch is accepted. -/
  go (r : Record) (g0 : Option Nat) (ok func : Bool) : State :=
    let x := getGraph s g
    let y := nodeOf s g n
    let count := g0.map fun c => if c = 0 then r.groups else c
    let v (off k : Nat) : Nat := if func || y.args = 0 then 0 else vNat s x.iface (y.args + off) k
    match launchCode s x.iface r count ok func with
    | some c => nodeRefused s m g n c
    | none =>
      let s1 := updNode (dropDenials s m) g n fun y => { y with launch := some s.next }
      acceptLaunch s1 x.iface {
        record := r, count := count.getD 0, ps := v 4 4, pb := v 8 8, node := some (g, n), func := func
        entry := if func then y.target else 0
        kinit := kInit r (if func || y.args = 0 then [] else vWords s x.iface (y.args + 16) (argBytes r / 4)) }

/-- R375: a COPY node's copy, on an engine of quadrant 0. -/
def startCopy (s : State) (m : Msg) (g n : Nat) : State :=
  let x := getGraph s g
  let y := nodeOf s g n
  match if y.args = 0 then Eng.ok else engineRuns s m x.iface [(y.args, 16, { r := true })] with
  | .park a need => parkEngine s m x.iface a need
  | .fail .. => nodeRefused s m g n 8
  | .ok =>
    let v (off : Nat) : Nat := if y.args = 0 then 0 else vNat s x.iface (y.args + off) 8
    if v 8 > 2 ^ 40 then nodeRefused s m g n 8
    else
      let c : Copy := { kind := .node (v 0) y.target (v 8), core := 4 * (Config.pick (s.free + freeBase) % 10), iface := x.iface, bytes := v 8, node := some (g, n) }
      let s1 := updNode (dropDenials s m) g n fun y => { y with copy := some s.next }
      { s1 with copies := mapSet s1.copies s.next c, next := s.next + 1 }

/-- R375: a SIGNAL node reads its block; then, as a step of its own, it adds, raises its message and completes. -/
def startSignal (s : State) (m : Msg) (g n : Nat) : State :=
  let x := getGraph s g
  let y := nodeOf s g n
  match y.signal with
  | none =>
    if y.target % 8 ≠ 0 then nodeRefused s m g n 4
    else match if y.args = 0 then Eng.ok else engineRuns s m x.iface [(y.args, 16, { r := true })] with
      | .park a need => parkEngine s m x.iface a need
      | .fail .. => nodeRefused s m g n 8
      | .ok =>
        let v (off n : Nat) : Nat := if y.args = 0 then 0 else vNat s x.iface (y.args + off) n
        send (updNode (dropDenials s m) g n fun y => { y with signal := some (v 0 8, v 8 1 % 128) }) none m
  | some (v, how) =>
    match if y.target = 0 then Eng.ok else engineRuns s m x.iface [(y.target, 8, { r := true, w := true })] with
    | .park a need => parkEngine s m x.iface a need
    | .fail c _ => failNode (dropDenials s m) g n 4 (if c = causeProtect then 3 else 2) true
    | .ok =>
      let s1 := if y.target = 0 then s else engineAdd (dropDenials s m) x.iface y.target v
      completeNode (if how.testBit 6 then raiseMsix s1 x.iface (how % 64) else s1) g n

/-- R375: a SUBGRAPH node asks for the launch of its child. -/
def startChild (s : State) (g n : Nat) : State :=
  updIface s (getGraph s g).iface fun x => { x with launchq := x.launchq ++ [((nodeOf s g n).target, some (g, n))] }

/-- R375: a RUNNING node begins, or goes on after a read that was parked. -/
def beginNode (s : State) (m : Msg) (g n : Nat) : State :=
  match (nodeOf s g n).kind with
  | 0 | 1 => startLaunch s m g n
  | 2 => startCopy s m g n
  | 3 => startSignal s m g n
  | _ => startChild s g n

/-- A node that has been dispatched and has begun nothing that runs by itself. -/
def beginsYet (y : Node) (attempts : Nat) : Bool :=
  y.st == .running && y.attempts == attempts && y.launch.isNone && y.copy.isNone && y.child.isNone && y.inlineWarp.isNone

def execNodeDispatch (s : State) : Host.Outcome State Fault Refusal :=
  event s fun m s => match m with
    | .nodeDispatch iface none =>
      some (match readyHead s iface with
        | none => s
        | some (g, n) =>
          let kind := (nodeOf s g n).kind
          let s0 := if kind = 0 ∨ kind = 1 then updIface s iface fun x => { x with places := x.places ++ [⟨g, n, none⟩] } else s
          let s1 := updNode (unready s0 g n) g n fun y => { y with st := .running }
          beginNode s1 (.nodeDispatch iface (some (g, n, (nodeOf s g n).attempts))) g n)
    | .nodeDispatch _ (some (g, n, a)) => some (if beginsYet (nodeOf s g n) a then beginNode s m g n else dropDenials s m)
    | _ => none

end Sys2Proof.Machine
end

