-- ==== Sys2Proof/Machine/Wellhead.lean ====
section
/-! DEFINITION. Wellheads: region entries (R313 to R316), demands and Admit (R319, R320, R330), closing and publication (R321, R323, R324), drain limits (R325), crossed waits (R326, R327), and grants at the core (R322). -/

namespace Sys2Proof.Machine

/-! ### Region descriptors (R314, R315) -/

/-- A field of a descriptor word. -/
def fieldOf (w : Word) (lo n : Nat) : Nat := w.toNat / 2 ^ lo % 2 ^ n

/-- R314, R315: the region of a descriptor's sixteen words; none where a field breaks the rules. The pages are checked apart. -/
def parseRegion (ws : List Word) : Option Region :=
  let w (k : Nat) : Word := ws.getD k 0
  let base := (w 0).toNat + 2 ^ 32 * (w 1).toNat
  let size := (w 2).toNat + 2 ^ 32 * (w 3).toNat
  let perm : BitVec 5 := (w 4).setWidth 5
  let caps := [fieldOf (w 5) 0 12, fieldOf (w 5) 16 12, fieldOf (w 6) 0 12, fieldOf (w 6) 16 12, fieldOf (w 7) 0 12]
  let ty := tyOf (BitVec.ofNat 4 (fieldOf (w 7) 24 4))
  let op := redOpOf (fieldOf (w 7) 16 4)
  let count := (w 9).toNat
  let el := if (w 8).getLsbD 0 then 8 else 4
  let reserved := (w 4).toNat / 32 != 0 || w 5 &&& 0xF000F000 != 0 || w 6 &&& 0xF000F000 != 0 || w 7 &&& 0xF0F0F000 != 0
    || (w 8).toNat / 2 != 0 || (ws.drop 12).any (· != 0)
  let place := base % 256 == 0 && size % 256 == 0 && 256 ≤ size && size < 2 ^ 40 && base + size ≤ 2 ^ 48 && perm != 0
  let unpermitted := (List.range 5).all fun m => perm.getLsbD m || caps.getD m 0 == 0
  let accum :=
    if perm.getLsbD 2 then
      WF.accTy ty && match op with
        | some .and | some .or | some .xor => ty.isAnyInt
        | some _ => true
        | none => false
    else fieldOf (w 7) 24 4 == 0 && fieldOf (w 7) 16 4 == 0
  let ring :=
    if perm.getLsbD 3 && perm.getLsbD 4 then 1 ≤ count && 64 + count * el ≤ size
    else !perm.getLsbD 3 && !perm.getLsbD 4 && w 8 == 0 && count == 0
  if !reserved && place && unpermitted && accum && ring then
    some { base := base, size := size, perm := perm, caps := caps, accTy := ty, accOp := op.getD .add, elsize := el, count := count
           drain := (w 10).toNat + 2 ^ 32 * (w 11).toNat }
  else none

/-- A run of a region's bytes is added to its physical runs. -/
def addSpan (spans : List (Nat × Nat)) (pa n : Nat) : List (Nat × Nat) :=
  match spans.getLast? with
  | some (a, m) => if a + m = pa then spans.dropLast ++ [(a, m + n)] else spans ++ [(pa, n)]
  | none => [(pa, n)]

/-- A physical byte of the region. -/
def inRegion (r : Region) (pa : Nat) : Bool := r.spans.any fun x => x.1 ≤ pa && pa < x.1 + x.2

/-- The physical address of the region's first byte. -/
def basePa (r : Region) : Nat := (r.spans.headD (0, 0)).1

/-- R316: the generation after one. -/
def nextGen (g : Nat) : Nat := if g + 1 < 2 ^ 20 then g + 1 else 1

/-- R332: registers a region at the wellhead of its first byte's home slice; its handle, 0 where the table is full. -/
def registerRegion (s : State) (iface : Nat) (r : Region) : State × Nat :=
  let slice := homeSlice (basePa r)
  match (List.range 64).find? fun e => !(getRegion s (slice * 64 + e)).live with
  | none => (s, 0)
  | some e =>
    let g := nextGen (getRegion s (slice * 64 + e)).gen
    (updRegion s (slice * 64 + e) fun _ => { r with live := true, gen := g, iface := iface }, makeHandle slice g e)

/-- R333, R329: an entry is freed; its generation stays. -/
def freeRegion (s : State) (k : Nat) : State := updRegion s k fun r => { gen := r.gen }

/-! ### The channels between warps and wellheads (R243) -/

/-- Requests of a warp to a wellhead, answers to it, and probes both ways. -/
def toWell (w slice : Nat) : Option Nat := chanOf (2048 + w) (64 + slice)
def fromWell (slice w : Nat) : Option Nat := chanOf (64 + slice) (2048 + w)
def probeOut (slice w : Nat) : Option Nat := chanOf (128 + slice) (2048 + w)
def probeIn (w slice : Nat) : Option Nat := chanOf (2048 + w) (128 + slice)

/-! ### Admission (R319, R320, R330) -/

/-- R317: the room has a place for one more. -/
def roomFree (r : Region) : Bool := r.caps.getD (roomNum r.mode) 0 == 0 || r.occupants.length < r.caps.getD (roomNum r.mode) 0

/-- A demand is granted: its warp is an occupant, and the grant is on its way. -/
def grantDemand (s : State) (k w n visit : Nat) : State :=
  let s1 := updRegion s k fun r => { r with occupants := r.occupants ++ [⟨w, n, visit, (getWarp s w).context⟩] }
  send s1 (fromWell (k / 64) w) (.grantArrive w n visit)

/-- R319: Admit. -/
def acceptDemands (s : State) (k : Nat) : Nat → State
  | 0 => s
  | f + 1 =>
    let r := getRegion s k
    match r.queue with
    | [] => s
    | d :: q =>
      if d.mode = r.mode ∧ roomFree r = true then
        acceptDemands (grantDemand (updRegion s k fun r => { r with queue := q }) k d.warp d.slot d.visit) k f
      else s

/-- R330: check: the room drains where the head of the queue demands another mode; the timer starts. -/
def checkDrain (s : State) (k : Nat) : State :=
  updRegion s k fun r => match r.st, r.queue with
    | .opened, d :: _ => if d.mode = r.mode then r else { r with st := .drain, timer := some (sliceTime s (k / 64)), overdue := false }
    | _, _ => r

/-- R330: Admit; check. -/
def acceptCheck (s : State) (k : Nat) : State := checkDrain (acceptDemands s k (getRegion s k).queue.length) k

/-- R319, R324: a room opens; a ring's HEAD and TAIL are read. -/
def openRoom (s : State) (k : Nat) (m : Room) : State :=
  updRegion s k fun r =>
    let r1 := { r with st := .opened, mode := m, timer := none, overdue := false }
    match m with
    | .push | .pop =>
      { r1 with head := BitVec.ofNat 32 (devNat s (basePa r) 4), tail := BitVec.ofNat 32 (devNat s (basePa r + 4) 4) }
    | _ => r1

/-- R313: the demand entries of a wellhead that are taken. -/
def demandsOf (s : State) (slice : Nat) : Nat :=
  (List.range 64).foldl (fun n e => n + (getRegion s (slice * 64 + e)).queue.length) 0

/-- R319: the next ticket of a wellhead. -/
def newTicket (s : State) (slice : Nat) : State × Ticket :=
  let n := mapGetD s.tickets slice 0
  ({ s with tickets := mapPut 0 s.tickets slice (n + 1) }, ⟨sliceTime s slice, slice, n⟩)

/-- A slot still stands for the visit of a message. -/
def slotStands (s : State) (w n visit : Nat) : Bool :=
  let h := getHold (getWarp s w) n
  h.st == .pending && h.visit == visit

/-- R341: a demand is sent to its wellhead: its way takes longer than the counters of two wellheads may differ. DEDUCED: log 57. -/
def sendDemand (s : State) (w n visit h : Nat) (m : Room) : State :=
  sendAfter s 50 (toWell w (handleSlice h)) (.demandArrive w n visit h m)

/-- R334, R333: a demand finds its handle unknown: its slot is FREE, and its set traps OPERAND. -/
def demandUnknown (s : State) (w n : Nat) : State :=
  let h := getHold (getWarp s w) n
  deliver (setHold s w n {}) w h.pc (liveTraps (getWarp s w) ((laneList h.lanes).map fun t => { lane := t, cause := causeOperand }))

/-- R330: a demand reaches its wellhead. DEDUCED: log 57. -/
def demandArrives (s : State) (w n visit h : Nat) (m : Room) : State :=
  let k := handleKey h
  let slice := k / 64
  let r := getRegion s k
  if !validHandle s (getWarp s w).iface h then
    if slotStands s w n visit then demandUnknown s w n else s
  else if r.st = .idle then
    grantDemand (openRoom (newTicket s slice).1 k m) k w n visit
  else if r.st = .opened ∧ m = r.mode ∧ r.queue = [] ∧ roomFree r = true then
    grantDemand (newTicket s slice).1 k w n visit
  else if demandsOf s slice ≥ 1024 then
    if slotStands s w n visit then
      setHold s w n { getHold (getWarp s w) n with retry := some (s.gtime + 256) }
    else s
  else
    let (s1, t) := newTicket s slice
    checkDrain (updRegion s1 k fun r => { r with queue := r.queue ++ [⟨t, w, n, visit, m, t.time⟩] }) k

def execDemandArrive (s : State) : Host.Outcome State Fault Refusal :=
  event s fun m s => match m with
    | .demandArrive w n visit h mode => some (demandArrives s w n visit h mode)
    | _ => none

/-- A slot that waits to demand again. -/
def retryMay (s : State) (x : Warp) (n : Nat) : Bool :=
  (getHold x n).st == .pending && match (getHold x n).retry with
    | some t => t ≤ s.gtime
    | none => false

/-- R313: the core sends a demand again. -/
def execDemandRetry (s : State) : Host.Outcome State Fault Refusal :=
  event s fun m s => match m with
    | .demandRetry w n =>
      some (if retryMay s (getWarp s w) n then
        let h := getHold (getWarp s w) n
        sendDemand (setHold s w n { h with retry := none }) w n h.visit h.handle.toNat h.mode
      else s)
    | _ => none

/-! ### Leaving (R321, R330, R335) -/

/-- R321, R323: an occupant's leave is counted: its partials go to the wellhead; the last leave closes the room. -/
def countLeave (s : State) (k w n visit : Nat) : State :=
  let x := getWarp s w
  let mine := x.partials.filter fun p => p.slot == n && p.visit == visit
  let seq := (getLaunch s x.launch).seq
  let s1 := updWarp s w fun x => { x with partials := x.partials.filter fun p => !(p.slot == n && p.visit == visit) }
  let s2 := updRegion s1 k fun r => { r with
    occupants := r.occupants.filter fun o => !(o.warp == w && o.slot == n && o.visit == visit)
    partials := r.partials ++ mine.map fun p => ⟨seq, x.gnum, visit, p.addr, p.val⟩ }
  let r := getRegion s2 k
  if r.occupants.isEmpty then updRegion s2 k fun r => { r with st := .close, timer := none }
  else if r.st = .opened then acceptCheck s2 k
  else s2

/-- R330: a queued demand is refused or withdrawn. -/
def removeDemand (s : State) (k : Nat) (d : Demand) : State :=
  let s1 := updRegion s k fun r => { r with queue := r.queue.erase d }
  let r := getRegion s1 k
  match r.st with
  | .opened => acceptCheck s1 k
  | .drain =>
    let ends := match r.queue with
      | [] => true
      | e :: _ => e.mode == r.mode
    if ends then acceptCheck (updRegion s1 k fun r => { r with st := .opened, timer := none }) k else s1
  | _ => s1

/-- R330, R335: a leave or a withdrawal reaches the wellhead, and the RLEAVE completes. -/
def leaveArrives (s : State) (w n visit h : Nat) : State :=
  let k := handleKey h
  let r := getRegion s k
  let s1 :=
    if !validHandle s (getWarp s w).iface h then s
    else if r.occupants.any fun o => o.warp == w && o.slot == n && o.visit == visit then countLeave s k w n visit
    else match r.queue.find? fun d => d.warp == w && d.slot == n && d.visit == visit with
      | some d => removeDemand s k d
      | none => s
  let ids := (s1.ops.filter fun e => e.2.warp == w && e.2.phase == .asked && e.2.args.getD 0 4 == n && e.2.args.getD 3 0 == visit &&
    match e.2.kind with
    | .word (.rleave ..) => true
    | _ => false).map (·.1)
  ids.foldl finishOp s1

def execLeaveArrive (s : State) : Host.Outcome State Fault Refusal :=
  event s fun m s => match m with
    | .leaveArrive w n visit h => some (leaveArrives s w n visit h)
    | _ => none

/-! ### Publication (R321, R323, R324) -/

/-- R323: the order of the merge keys. -/
def keyBefore (a b : KeyedPartial) : Bool :=
  a.seq < b.seq || (a.seq == b.seq && (a.gnum < b.gnum || (a.gnum == b.gnum && a.visit < b.visit)))

/-- Inserts a partial behind those that do not come after it. -/
def insertPartial (p : KeyedPartial) : List KeyedPartial → List KeyedPartial
  | [] => [p]
  | q :: qs => if keyBefore p q then p :: q :: qs else q :: insertPartial p qs

/-- R323: the partials in ascending key. -/
def sortPartials (ps : List KeyedPartial) : List KeyedPartial := ps.foldl (fun l p => insertPartial p l) []

/-- R323: one partial is merged into memory; the word is Home (R321). -/
def mergePartial (r : Region) (s : State) (p : KeyedPartial) : State :=
  let z := r.accTy.size
  devWriteNat s p.addr z (accOp r.accOp r.accTy (devNat (recallWord s (p.addr / 4)) p.addr z) p.val.toNat)

/-- R321: what the wellhead stores at the close of a room. -/
def publishRoom (s : State) (k : Nat) : State :=
  let r := getRegion s k
  match r.mode with
  | .accum => updRegion ((sortPartials r.partials).foldl (mergePartial r) s) k fun r => { r with partials := [] }
  | .push => devWriteNat s (basePa r + 4) 4 r.tail.toNat
  | .pop => devWriteNat s (basePa r) 4 r.head.toNat
  | _ => s

/-- R321, R330: publication is complete: the region is IDLE, or the room of the queue's head opens. -/
def publicationDone (s : State) (k : Nat) : State :=
  if (getRegion s k).st ≠ .close then s
  else
    let s1 := publishRoom s k
    match (getRegion s1 k).queue with
    | [] => updRegion s1 k fun r => { r with st := .idle, mode := .read }
    | d :: _ => acceptCheck (openRoom s1 k d.mode) k

def execPublicationComplete (s : State) : Host.Outcome State Fault Refusal :=
  event s fun m s => match m with
    | .publicationComplete slice e => some (publicationDone s (slice * 64 + e))
    | _ => none

/-! ### Grants at the core (R322) -/

/-- R322: the acquire of a grant: V words of the region leave the core's L1, and its acquire stamp is set. DEDUCED: log 54. -/
def regionAcquire (s : State) (core : Nat) (r : Region) : State :=
  { s with
    l1 := mapFilter s.l1 fun k x => !ofUnit core k || x.dirty || !inRegion r (4 * wordOfKey k)
    acquired := mapSet s.acquired core (coreTime s core) }

/-- R321, R328: the words that a leave pushes: those of the region that are D in the L1 or Reg-cluster-dirty. -/
def regionDirty (s : State) (core : Nat) (r : Region) : List Nat :=
  (l1Dirty s core true ++ ccDirty s (clusterOf core) true).filter fun w => inRegion r (4 * w)

/-- The set of a warp that waits in RDEMAND.WAIT on a slot, with its predicate. -/
def roomSet (x : Warp) (n : Nat) : Option (Lanes × Nat) :=
  x.threads.findSome? fun th => match th.cond with
    | .waiting (.room i d) => if i = n then some (waiting x (· == .room n d), d) else none
    | _ => none

/-- R322, R327: a waiting set goes on with Pd. -/
def resumeRoom (s : State) (w n : Nat) (held : Bool) : State :=
  match roomSet (getWarp s w) n with
  | none => s
  | some (m, d) =>
    let s1 := putP s w 0 d m fun _ => held
    wake s1 w m fun t => (threadOf (getWarp s1 w) t).pc

/-- R322: a grant reaches the core; an evicted warp makes the acquire when it resumes (R328). A grant after the RLEAVE is discarded (R335). -/
def grantArrives (s : State) (w n visit : Nat) : State :=
  if !slotStands s w n visit then s
  else
    let x := getWarp s w
    let h := getHold x n
    let s1 := if x.resident then regionAcquire s x.core (getRegion s (handleKey h.handle.toNat)) else s
    signalWarp (resumeRoom (setHold s1 w n { h with st := .held, retry := none }) w n true) w
      fun e => e.typ == 5 && e.object % 4 == n

def execGrantArrive (s : State) : Host.Outcome State Fault Refusal :=
  event s fun m s => match m with
    | .grantArrive w n visit => some (grantArrives s w n visit)
    | _ => none

/-! ### Drain limits (R325) -/

/-- R325: the room has been draining for longer than its limit, and no record of this spell was written. -/
def overdueMay (s : State) (k : Nat) : Bool :=
  let r := getRegion s k
  r.live && r.st == .drain && r.drain != 0 && !r.overdue && match r.timer with
    | some t => t + r.drain < sliceTime s (k / 64)
    | none => false

/-- R325, R403: the record: mode and occupants, handle, ticks elapsed. -/
def drainRecord (s : State) (k : Nat) : State :=
  let r := getRegion s k
  let word2 := BitVec.ofNat 32 (roomNum r.mode * 2 ^ 29 + min r.occupants.length 0x1FFF)
  let ticks := min (sliceTime s (k / 64) - r.timer.getD 0) 0xFFFFFFFF
  plainRecord (updRegion s k fun r => { r with overdue := true }) r.iface true
    (trapRecord 0 0 11 0 word2 0 0 (BitVec.ofNat 32 (makeHandle (k / 64) r.gen (k % 64))) (BitVec.ofNat 32 ticks))

def execDrainOverdue (s : State) : Host.Outcome State Fault Refusal :=
  event s fun m s => match m with
    | .drainOverdue slice e => some (if overdueMay s (slice * 64 + e) then drainRecord s (slice * 64 + e) else s)
    | _ => none

/-! ### Crossed waits (R326, R327) -/

/-- R319: a ticket comes before another. -/
def ticketBefore (a b : Ticket) : Bool :=
  a.time < b.time || (a.time == b.time && (a.slice < b.slice || (a.slice == b.slice && a.seq < b.seq)))

/-- The younger of the youngest met so far and a ticket. -/
def younger (y : Option Ticket) (t : Ticket) : Option Ticket :=
  match y with
  | some u => if ticketBefore u t then some t else some u
  | none => some t

/-- R326 step 1: a probe is copied to every occupant of an open or draining room. -/
def copyProbe (s : State) (k : Nat) (p : Probe) : State :=
  let r := getRegion s k
  if r.st = .opened ∨ r.st = .drain then
    r.occupants.foldl (fun s o => send s (probeOut (k / 64) o.warp) (.probeAtWarp o.warp { p with hops := p.hops + 1 })) s
  else s

/-- R326: a queued demand has waited another 2,048 ticks. -/
def probeMay (s : State) (slice : Nat) (d : Demand) : Bool := d.probed + 2048 ≤ sliceTime s slice

/-- R326: the wellhead sends a probe for a demand. -/
def sendProbe (s : State) (k : Nat) (t : Ticket) : State :=
  let r := getRegion s k
  if r.queue.any fun d => d.ticket == t && probeMay s (k / 64) d then
    let s1 := updRegion s k fun r => { r with
      rounds := r.rounds + 1
      queue := r.queue.map fun d => if d.ticket == t then { d with probed := d.probed + 2048 } else d }
    copyProbe s1 k ⟨k / 64, k % 64, r.rounds + 1, 0, none, none⟩
  else s

def execProbeSend (s : State) : Host.Outcome State Fault Refusal :=
  event s fun m s => match m with
    | .probeSend slice e t => some (sendProbe s (slice * 64 + e) t)
    | _ => none

/-- R326 step 2: at an occupant warp a probe is copied to the wellhead of each PENDING slot whose demand is queued. -/
def probeAtWarp (s : State) (w : Nat) (p : Probe) : State :=
  let x := getWarp s w
  (List.range 4).foldl (fun s n =>
    let h := getHold x n
    let k := handleKey h.handle.toNat
    if h.st ≠ .pending then s
    else match (getRegion s k).queue.find? fun d => d.warp == w && d.slot == n && d.visit == h.visit with
      | some d => send s (probeIn w (k / 64)) (.probeAtWellhead (k / 64) (k % 64)
          { p with hops := p.hops + 1, youngest := younger p.youngest d.ticket, via := some d.ticket })
      | none => s) s

def execProbeAtWarp (s : State) : Host.Outcome State Fault Refusal :=
  event s fun m s => match m with
    | .probeAtWarp w p => some (probeAtWarp s w p)
    | _ => none

/-- R326 steps 3 to 5: a probe at a wellhead is dropped, proves a crossed wait, or is copied on. DEDUCED: log 58. -/
def probeAtWell (s : State) (k : Nat) (p : Probe) : State :=
  let r := getRegion s k
  if p.hops > 16 || !(r.st == .opened || r.st == .drain) || !(r.queue.any fun d => some d.ticket == p.via) then s
  else if p.originSlice * 64 + p.originEntry = k then
    if r.refusedRounds.contains p.round then s
    else match p.youngest with
      | none => s
      | some y => send (updRegion s k fun r => { r with refusedRounds := p.round :: r.refusedRounds }) none
          (.refusalArrive (k / 64) (k % 64) y)
  else copyProbe s k p

def execProbeAtWellhead (s : State) : Host.Outcome State Fault Refusal :=
  event s fun m s => match m with
    | .probeAtWellhead slice e p => some (probeAtWell s (slice * 64 + e) p)
    | _ => none

/-- R327: what a refusal does at the core. -/
def slotRefused (s : State) (w n visit : Nat) : State :=
  if !slotStands s w n visit then s
  else
    let h := getHold (getWarp s w) n
    let s1 := setHold s w n { h with st := .refused, retry := none }
    let x := getWarp s1 w
    if (roomSet x n).isSome then resumeRoom s1 w n false
    else if x.events.any fun e => e.2.typ == 6 && e.2.object % 4 == n then
      signalWarp s1 w fun e => e.typ == 6 && e.object % 4 == n
    else latchAsync s1 w { cause := causeCross, detail := n, addr := 0, aux1 := h.handle }

/-- R326 step 5, R327: a refusal reaches the wellhead of the demand that it names; no longer queued, it has no effect. -/
def refuse (s : State) (t : Ticket) : State :=
  match (List.range 64).find? fun e => (getRegion s (t.slice * 64 + e)).queue.any (·.ticket == t) with
  | none => s
  | some e =>
    let k := t.slice * 64 + e
    match (getRegion s k).queue.find? fun d => d.ticket == t with
    | none => s
    | some d => slotRefused (removeDemand s k d) d.warp d.slot d.visit

def execRefusalArrive (s : State) : Host.Outcome State Fault Refusal :=
  event s fun m s => match m with
    | .refusalArrive _ _ t => some (refuse s t)
    | _ => none

end Sys2Proof.Machine
end

