-- ==== Sys2Proof/Machine/RoomWords.lean ====
section
/-! DEFINITION. The words of rooms: RDESC, RFREE, RDEMAND, RLEAVE, RLD, RST, RACC, RPUSH, RPOP, RQUERY (R332 to R340). -/

namespace Sys2Proof.Machine

/-- No earlier request of a warp is on its way to a wellhead. -/
def wellQuiet (s : State) (w slice : Nat) : Bool := s.net.all fun f => f.chan != toWell w slice

/-- A reply writes one word to every active lane's V register, and the word completes. -/
def replyWord (s : State) (id : Nat) (d : Opd) (v : Word) : State :=
  let o := getOp s id
  finishOp (match d with
    | .v n => retV s o n.toNat o.lanes fun _ => v
    | _ => s) id

/-- A word completes with a trap of its set (R333). -/
def failWord (s : State) (id cause : Nat) : State :=
  let o := getOp s id
  let s1 := finishOp s id
  deliver s1 o.warp o.pc (liveTraps (getWarp s1 o.warp) ((laneList o.lanes).map fun t => { lane := t, cause := cause }))

/-! ### RDESC, RFREE (R332, R333) -/

def execRdesc (c : Ctl) (d a : Opd) (s : State) : Host.Outcome State Fault Refusal :=
  issue s c fun i s =>
    let va := lowVal s i a 2
    if va % 64 ≠ 0 then trapSet s i causeAlign 0 va
    else accept (newOp s { opOf (.rdesc c d a) i c with
      scope := .device, parts := [{ lane := lowLane i.act, va := va, n := 64, st := .retry 0 }] }) s.next

/-- The bytes of a region in the page of its byte `off`, to be walked. -/
def regionPart (r : Region) (lane off : Nat) : Part :=
  { lane := lane, va := r.base + off, n := min (r.size - off) (4096 - (r.base + off) % 4096), st := .retry 0 }

/-- The sixteen words of 64 bytes. -/
def wordsOfNat (x n : Nat) : List Word := (List.range n).map fun k => BitVec.ofNat 32 (x / 2 ^ (32 * k))

/-- R315, R332: one page after the other is checked; its run of bytes joins the region's; after the last the wellhead takes the region. -/
def rdescPage (s : State) (id : Nat) (d : Opd) : State :=
  let o := getOp s id
  let ws := (o.args.take 16).map (BitVec.ofNat 32)
  match o.parts, parseRegion ws with
  | p :: _, some r =>
    if p.ord ≠ 0 then failWord s id causeOperand
    else
      let args := o.args ++ [p.pa, p.n]
      let off := p.va + p.n - r.base
      if off < r.size then accept (updOp s id fun o => { o with args := args, parts := [regionPart r p.lane off] }) id
      else
        let runs := args.drop 16
        let spans := (List.range (runs.length / 2)).foldl (fun l k => addSpan l (runs.getD (2 * k) 0) (runs.getD (2 * k + 1) 0)) []
        let (s1, h) := registerRegion s (getWarp s o.warp).iface { r with spans := spans }
        replyWord s1 id d (BitVec.ofNat 32 h)
  | _, _ => s

/-- R332: the descriptor is read at DEVICE scope and judged. -/
def rdescRead (s : State) (id : Nat) : State :=
  let o := getOp s id
  match o.parts with
  | [] => s
  | p :: _ =>
    let (s1, v, _) := readPart s o.core 2 p
    let ws := wordsOfNat v 16
    match parseRegion ws with
    | none => failWord s1 id causeOperand
    | some r => accept (updOp s1 id fun o => { o with args := ws.map (·.toNat), parts := [regionPart r p.lane 0] }) id

/-- RDESC goes on where its page is walked. DEDUCED: log 56. -/
def replyRdesc (s : State) (id : Nat) (d : Opd) : State :=
  let o := getOp s id
  if o.parts.any fun p => !p.walked then s
  else if rdescPages o then rdescPage s id d
  else if portHeld s id o || readyLanes s id o == 0 then s
  else rdescRead s id

def execRfree (c : Ctl) (a : Opd) (s : State) : Host.Outcome State Fault Refusal :=
  issue s c fun i s => newOp s { opOf (.rfree c a) i c with args := [lowVal s i a 1] }

/-- R333: judged at the wellhead. -/
def replyRfree (s : State) (id : Nat) : State :=
  let o := getOp s id
  let h := o.args.getD 0 0
  let r := getRegion s (handleKey h)
  if portHeld s id o || !wellQuiet s o.warp (handleSlice h) then s
  else if !validHandle s (getWarp s o.warp).iface h || r.st != .idle || !r.queue.isEmpty then failWord s id causeOperand
  else finishOp (freeRegion s (handleKey h)) id

/-! ### RDEMAND, RLEAVE (R334, R335) -/

/-- R334: the checks of a demand. -/
def demandOk (s : State) (x : Warp) (h n : Nat) (m : Room) : Bool :=
  let st := (getHold x n).st
  validHandle s x.iface h && (getRegion s (handleKey h)).perm.getLsbD (roomNum m) && st != .pending && st != .held
    && (List.range 4).all fun k => k == n || (getHold x k).st == .free || (getHold x k).handle != BitVec.ofNat 32 h

/-- R334: a demand is posted; with `wait` the active threads wait. A FENCE or an acquire before it holds it in the memory port (R267). -/
def demandWord (s : State) (c : Ctl) (ins : Instr) (m : Room) (a hh : Opd) (wait : Option Nat) : Host.Outcome State Fault Refusal :=
  issue s c fun i s =>
    let x := getWarp s i.w
    let h := lowVal s i a 1
    match hh with
    | .h n =>
      if !demandOk s x h n.val m then trapSet s i causeOperand
      else
        let s1 := setWarp s i.w { x with
          visits := x.visits + 1
          holds := mapPut {} x.holds n.val { st := .pending, mode := m, handle := BitVec.ofNat 32 h, visit := x.visits + 1, lanes := i.act, pc := i.pc } }
        let o : Op := { opOf ins i c with cf := none, scope := .device, args := [n.val, x.visits + 1, h] }
        let s2 := if portHeld s1 s1.next o then newOp s1 o else sendDemand s1 i.w n.val (x.visits + 1) h m
        match wait with
        | none => s2
        | some d => setCond s2 i.w i.act (fun _ => .waiting (.room n.val d)) (i.pc + 12)
    | _ => s

def execRdemand (c : Ctl) (mode : Room) (a h : Opd) (s : State) : Host.Outcome State Fault Refusal :=
  demandWord s c (.rdemand c mode a h) mode a h none
def execRdemandWait (c : Ctl) (mode : Room) (d a h : Opd) (s : State) : Host.Outcome State Fault Refusal :=
  demandWord s c (.rdemandWait c mode d a h) mode a h (match d with
    | .p n => some n.val
    | _ => some 7)

/-- R267: a demand that was held is sent. -/
def replyDemand (s : State) (id : Nat) (m : Room) : State :=
  let o := getOp s id
  if portHeld s id o then s
  else sendDemand (finishOp s id) o.warp (o.args.getD 0 0) (o.args.getD 1 0) (o.args.getD 2 0) m

/-- R335: a slot that is FREE leaves nothing to wait for. -/
def execRleave (c : Ctl) (h : Opd) (s : State) : Host.Outcome State Fault Refusal :=
  issue s c fun i s => match h with
    | .h n => beginLeave s i.w n.val i.act i.pc (setOf c)
    | _ => s

/-- R335: words of a warp in its rooms. -/
def roomWord : OpKind → Bool
  | .word i => match i with
    | .rld .. | .rst .. | .racc .. | .rpush .. | .rpop .. => true
    | _ => false
  | _ => false

/-- R335: the leave can begin: no earlier room word of the warp is incomplete, and nothing holds it in the port (R267). -/
def leaveMay (s : State) (id : Nat) (o : Op) : Bool := !portHeld s id o && !(opsBefore s o.warp id).any fun e => roomWord e.2.kind

/-- R321: the leave is sent to the wellhead. -/
def sendLeave (s : State) (id : Nat) : State :=
  let o := getOp s id
  let h := o.args.getD 1 0
  send (updOp s id fun o => { o with phase := .asked }) (toWell o.warp (handleSlice h))
    (.leaveArrive o.warp (o.args.getD 0 0) (o.args.getD 3 0) h)

/-- R321: the release of a leave from a WRITE or PUSH room pushes the region's words, and waits for those of its cluster that are on their way. -/
def replyLeave (s : State) (id : Nat) : State :=
  let o := getOp s id
  let mode := o.args.getD 2 0
  let what := o.args.getD 4 0
  if !leaveMay s id o then s
  else if what = 2 then finishOp s id
  else if what = 0 ∧ (mode = 1 ∨ mode = 3) then
    let r := getRegion s (handleKey (o.args.getD 1 0))
    let (s1, k) := joinPushes s o.core id
    let (s2, n, st) := ownPush s1 o.core 2 id (regionDirty s1 o.core r).dedup
    if k + n = 0 && st.isNone then sendLeave s2 id else updOp s2 id fun o => { o with phase := .releasing, acks := k + n, stamp := st }
  else sendLeave s id

/-! ### RLD, RST, RACC (R336 to R338) -/

/-- R317: the region of a slot that is HELD in one of the modes. -/
def roomOf (s : State) (x : Warp) (n : Nat) (modes : List Room) : Option Region :=
  let h := getHold x n
  if h.st == .held && modes.contains h.mode then some (getRegion s (handleKey h.handle.toNat)) else none

/-- R336 steps 2 to 4 in one lane: the cause of its failure. -/
def roomFault (r : Region) (z addr : Nat) (writes : Bool) : Option Nat :=
  if addr % z ≠ 0 then some causeAlign
  else if addr + z > 2 ^ 48 || addr < r.base || r.base + r.size < addr + z then some causeAccess
  else if writes && r.perm.getLsbD 3 && addr < r.base + 64 then some causeAccess
  else none

/-- R336: the accesses of a room word: the operation of the lanes that pass, and the traps of the others. -/
def roomAccess (s : State) (i : Issue) (o : Op) (r : Region) (a : Access) (writes : Bool) (addr val : Nat → Nat) : State × List TrapIn :=
  let bad (t : Nat) : Option Nat := roomFault r a.size (addr t) writes
  let early : List TrapIn := (laneList i.act).filterMap fun t => (bad t).map fun c => { lane := t, cause := c, addr := addr t }
  let (ps, ts) := planLanes s { i with act := i.act &&& ~~~trapLanes early } a addr val fun _ => 0
  let ok := laneSet fun t => ps.any fun p => p.lane == t
  let traps := (laneList i.act).filterMap fun t => (early ++ ts).find? fun x => x.lane == t
  (if ok = 0 then s else accept (newOp s { o with lanes := ok, parts := ps }) s.next, traps)

def execRld (c : Ctl) (ty : Ty) (d : Opd) (m : RoomMem) (s : State) : Host.Outcome State Fault Refusal :=
  issue s c fun i s =>
    let x := getWarp s i.w
    match roomOf s x m.slot.toNat [.read, .write] with
    | none => trapSet s i causeOperand
    | some r =>
      let (s1, ts) := roomAccess s i (opOf (.rld c ty d m) i c) r { size := ty.size, align := ty.size, need := { r := true } } false
        (roomAddr s i.w x m) fun _ => 0
      deliver s1 i.w i.pc ts

def execRst (c : Ctl) (ty : Ty) (d : Opd) (m : RoomMem) (s : State) : Host.Outcome State Fault Refusal :=
  issue s c fun i s =>
    let x := getWarp s i.w
    match roomOf s x m.slot.toNat [.write] with
    | none => trapSet s i causeOperand
    | some r =>
      let (s1, ts) := roomAccess s i (opOf (.rst c ty d m) i c) r { size := ty.size, align := ty.size, need := { w := true } } true
        (roomAddr s i.w x m) (srcVal s i.w x d ty.regs)
      deliver s1 i.w i.pc ts

/-- R313: the words that a type's partial takes. -/
def partialWords (ty : Ty) : Nat := if ty.size = 8 then 2 else 1

/-- R323, R338: one contribution: the partial of its address is formed, or the visit is full. -/
def contribute (r : Region) (n visit : Nat) (ps : List Partial) (addr v : Nat) : Option (List Partial) :=
  let mine (p : Partial) : Bool := p.slot == n && p.visit == visit
  if ps.any fun p => mine p && p.addr == addr then
    some (ps.map fun p => if mine p && p.addr == addr then { p with val := BitVec.ofNat 64 (accOp r.accOp r.accTy p.val.toNat v) } else p)
  else if ((ps.filter mine).length + 1) * partialWords r.accTy > 4096 then none
  else some (ps ++ [⟨n, visit, addr, BitVec.ofNat 64 v⟩])

/-- R323: contributions count in the order of issue: every request is walked, and no earlier RACC is left. -/
def raccMay (s : State) (id : Nat) (o : Op) : Bool :=
  !portHeld s id o && o.parts.all Part.walked && !(opsBefore s o.warp id).any fun e => match e.2.kind with
    | .word (.racc ..) => true
    | _ => false

/-- R337, R338: the contributions of a RACC, in ascending lane order; the traps of the lanes past the limit. DEDUCED: log 55. -/
def raccAct (s : State) (id : Nat) : State × List TrapIn :=
  let o := getOp s id
  let n := o.args.getD 0 0
  let visit := o.args.getD 1 0
  let r := getRegion s (handleKey (o.args.getD 2 0))
  let (ps, past) := (laneList o.lanes).foldl (fun (ps, past) t =>
    match o.parts.find? fun p => p.lane == t with
    | none => (ps, past)
    | some p => match contribute r n visit ps p.pa (usedVal s o p) with
      | some ps1 => (ps1, past)
      | none => (ps, past ++ [t])) ((getWarp s o.warp).partials, ([] : List Nat))
  (finishOp (updWarp s o.warp fun x => { x with partials := ps }) id, past.map fun t => { lane := t, cause := causeOperand })

def execRacc (c : Ctl) (op : RedOp) (ty : Ty) (d : Opd) (m : RoomMem) (s : State) : Host.Outcome State Fault Refusal :=
  issue s c fun i s =>
    let x := getWarp s i.w
    let n := m.slot.toNat
    match roomOf s x n [.accum] with
    | none => trapSet s i causeOperand
    | some r =>
      if op ≠ r.accOp ∨ ty ≠ r.accTy then trapSet s i causeOperand
      else
        let h := getHold x n
        let (s1, ts) := roomAccess s i { opOf (.racc c op ty d m) i c with args := [n, h.visit, h.handle.toNat] } r
          { size := ty.size, align := ty.size, need := { r := true, w := true } } true (roomAddr s i.w x m) (srcVal s i.w x d ty.regs)
        match mapGet s1.ops s.next with
        | some o =>
          if raccMay s1 s.next o then
            let (s2, us) := raccAct s1 s.next
            deliver s2 i.w i.pc (ts ++ us)
          else deliver s1 i.w i.pc ts
        | none => deliver s1 i.w i.pc ts

/-- A RACC that waited for its pages. -/
def replyRacc (s : State) (id : Nat) : State :=
  let o := getOp s id
  if raccMay s id o then
    let (s1, us) := raccAct s id
    deliver s1 o.warp o.pc (liveTraps (getWarp s1 o.warp) us)
  else s

/-! ### RPUSH, RPOP (R339) -/

/-- A ring word issues: slot, visit, handle, and that no elements are assigned yet. -/
def ringWord (s : State) (c : Ctl) (ins : Instr) (ty : Ty) (hh : Opd) (mode : Room) : Host.Outcome State Fault Refusal :=
  issue s c fun i s =>
    let x := getWarp s i.w
    match hh with
    | .h n =>
      match roomOf s x n.val [mode] with
      | none => trapSet s i causeOperand
      | some r =>
        if ty.size ≠ r.elsize then trapSet s i causeOperand
        else
          let h := getHold x n.val
          newOp s { opOf ins i c with
            args := [n.val, h.visit, h.handle.toNat, 0]
            parts := (laneList i.act).map fun t => ringPart ins s i x ty t }
    | _ => s
where
  /-- A lane's value; where it goes is not known yet, so that no later access of the lane goes before it. -/
  ringPart (ins : Instr) (s : State) (i : Issue) (x : Warp) (ty : Ty) (t : Nat) : Part :=
    match ins with
    | .rpush _ _ _ a _ => { lane := t, va := 0, n := 2 ^ 58, val := BitVec.ofNat 128 (srcVal s i.w x a ty.regs t) }
    | _ => { lane := t, va := 0, n := 2 ^ 58 }

def execRpush (c : Ctl) (ty : Ty) (d a h : Opd) (s : State) : Host.Outcome State Fault Refusal :=
  ringWord s c (.rpush c ty d a h) ty h .push
def execRpop (c : Ctl) (ty : Ty) (n : BitVec 3) (d h : Opd) (s : State) : Host.Outcome State Fault Refusal :=
  ringWord s c (.rpop c ty n d h) ty h .pop

/-- R324: element m of a ring. -/
def ringElem (r : Region) (m : Word) : Nat := r.base + 64 + m.toNat % r.count * r.elsize

/-- R339: the wellhead's step of a ring word: elements for the lanes, ascending; the lanes left over find the ring full or empty. -/
def ringAssign (s : State) (id : Nat) (push : Bool) : State :=
  let o := getOp s id
  let k := handleKey (o.args.getD 2 0)
  let (r, ps) := o.parts.foldl (fun (acc : Region × List Part) p =>
    let (r, ps) := acc
    if push then
      if r.tail - r.head = BitVec.ofNat 32 r.count then (r, ps)
      else ({ r with tail := r.tail + 1 }, ps ++ [{ p with va := ringElem r r.tail, n := r.elsize, st := PartSt.retry 0 }])
    else if r.tail = r.head then (r, ps)
    else ({ r with head := r.head + 1 }, ps ++ [{ p with va := ringElem r r.head, n := r.elsize, st := PartSt.retry 0 }])) (getRegion s k, ([] : List Part))
  accept (updOp (updRegion s k fun _ => r) id fun o => { o with parts := ps, args := o.args.take 3 ++ [1] }) id

/-- R339: an earlier ring word of the warp has not reached the wellhead, or a request is on its way. -/
def ringHeld (s : State) (id : Nat) (o : Op) : Bool :=
  portHeld s id o || !wellQuiet s o.warp (handleSlice (o.args.getD 2 0)) || (opsBefore s o.warp id).any fun e => match e.2.kind with
    | .word (.rpush ..) | .word (.rpop ..) => e.2.args.getD 3 0 == 0
    | _ => false

/-- R339: RPUSH: its elements are written as by RST; then Pd. -/
def replyRpush (s : State) (id : Nat) (d : Opd) : State :=
  let o := getOp s id
  if o.args.getD 3 0 = 0 then if ringHeld s id o then s else ringAssign s id true
  else
    let s1 := storeLanes s id 0 (readyLanes s id o)
    let o1 := getOp s1 id
    if allDone o1 then
      finishOp (match d with
        | .p n => retP s1 o1 n.val o1.lanes fun t => !(o1.parts.any fun p => p.lane == t)
        | _ => s1) id
    else s1

/-- R339: RPOP: its elements are read; then Vd and Pn. -/
def replyRpop (s : State) (id : Nat) (ty : Ty) (n : BitVec 3) (d : Opd) : State :=
  let o := getOp s id
  if o.args.getD 3 0 = 0 then if ringHeld s id o then s else ringAssign s id false
  else
    let s1 := readLanes s id 2 (readyLanes s id o)
    let o1 := getOp s1 id
    if allDone o1 then
      let got (t : Nat) : Bool := o1.parts.any fun p => p.lane == t
      let s2 := match d with
        | .v k => retVs s1 o1 k.toNat ty.regs (o1.lanes &&& laneSet got) (gotVal o1)
        | _ => s1
      finishOp (retP s2 o1 n.toNat o1.lanes fun t => !got t) id
    else s1

/-! ### RQUERY (R340) -/

/-- R340: the word of FN 0. -/
def slotWord (h : Hold) : Word :=
  match h.st with
  | .free => 0
  | st =>
    let c := match st with
      | .pending => 1
      | .held => 2
      | _ => 3
    BitVec.ofNat 32 (c * 2 ^ 29 + roomNum h.mode * 2 ^ 26 + h.handle.toNat % 2 ^ 26)

def execRquery (c : Ctl) (d h : Opd) (s : State) : Host.Outcome State Fault Refusal :=
  issue s c fun i s => match h with
    | .h n => newOp s { opOf (.rquery c d h) i c with args := [(slotWord (getHold (getWarp s i.w) n.val)).toNat] }
    | _ => s

def execRqueryR (c : Ctl) (d a : Opd) (s : State) : Host.Outcome State Fault Refusal :=
  issue s c fun i s => newOp s { opOf (.rqueryR c d a) i c with args := [lowVal s i a 1] }

/-- R340: the word of FN 1. -/
def regionWord (s : State) (iface h : Nat) : Word :=
  if !validHandle s iface h then BitVec.ofNat 32 (7 * 2 ^ 29)
  else
    let r := getRegion s (handleKey h)
    let c := match r.st with
      | .idle => 0 | .opened => 1 | .drain => 2 | .close => 3
    BitVec.ofNat 32 (c * 2 ^ 29 + roomNum r.mode * 2 ^ 26 + min r.occupants.length 0x1FFF * 2 ^ 13 + min r.queue.length 0x1FFF)

/-- The replies of the words of rooms. -/
def replyRoom (s : State) (id : Nat) (i : Instr) : State :=
  let o := getOp s id
  match i with
  | .rdesc _ d _ => replyRdesc s id d
  | .rfree .. => replyRfree s id
  | .rdemand _ m _ _ | .rdemandWait _ m _ _ _ => replyDemand s id m
  | .rleave .. => replyLeave s id
  | .rld .. => replyLoad s id i
  | .rst .. => replyStore s id
  | .racc .. => replyRacc s id
  | .rpush _ _ d _ _ => replyRpush s id d
  | .rpop _ ty n d _ => replyRpop s id ty n d
  | .rquery _ d _ => replyWord s id d (BitVec.ofNat 32 (o.args.getD 0 0))
  | .rqueryR _ d _ =>
    let h := o.args.getD 0 0
    if portHeld s id o || !wellQuiet s o.warp (handleSlice h) then s
    else replyWord s id d (regionWord s (getWarp s o.warp).iface h)
  | _ => s

end Sys2Proof.Machine
end

