-- ==== Sys2Proof/Machine/GraphWords.lean ====
section
/-! DEFINITION. The words GFIRE, GTOKEN, GFAIL, GARG, GSTAT (R383 to R392), and inline frames (R386 to R388). -/

namespace Sys2Proof.Machine

/-! ### Running nodes and frames -/

/-- R383: the running node of a warp. -/
def runningNode (s : State) (x : Warp) : Option (Nat × Nat) :=
  match x.frames with
  | f :: _ => some (f.graph, f.node)
  | [] => (getLaunch s x.launch).node

/-- R380: its running node is CANCELLING or RETRY. -/
def runningStale (s : State) (x : Warp) : Bool :=
  match runningNode s x with
  | some (g, n) => (nodeOf s g n).st == .cancelling || (nodeOf s g n).st == .retry
  | none => false

/-- The threads of a warp that have not ended. -/
def liveLanes (x : Warp) : Lanes := lanesWhere x fun th => th.cond != .ended

/-- R387, R388: the innermost frame of a warp is popped: its GFIRE gets a result, and every thread that has not ended resumes at the return address, outside handlers. A GFIRE that was blocked is given up. -/
def popFrame (s : State) (w v : Nat) : State :=
  let x := getWarp s w
  match x.frames with
  | [] => s
  | f :: r =>
    let blocked := (s.ops.filter fun e => e.2.warp == w && waiting x (· == .fire e.1) != 0).map (·.1)
    let s1 := blocked.foldl finishOp (updOp s f.op fun o => { o with args := o.args.take 1 ++ [v] })
    let m := liveLanes x
    let y := updThreads { x with frames := r, cf := (getWarp s1 w).cf } m fun _ th => { th with trapinfo := th.trapinfo &&& 0xFFFFFEFF, sub := 0 }
    settle (setWarp s1 w (makeReady s1 y m fun _ _ => f.ret)) w

/-- R388: a marked frame is popped at a blocking point. -/
def popMarked (s : State) (w : Nat) : State :=
  match (getWarp s w).frames with
  | [] => s
  | f :: _ => popFrame (graphCheck (workStopped s f.graph f.node) f.graph) w 5

/-! ### GFIRE (R384 to R386) -/

/-- A word with a node or header address from the lowest active lane (R383): its operation, where no trap ends it. -/
def addressWord (s : State) (i : Issue) (c : Ctl) (ins : Instr) (a : Opd) : State :=
  let va := lowVal s i a 2
  if va % 64 ≠ 0 then trapSet s i causeAlign 0 va
  else accept (newOp s { opOf ins i c with
    scope := .device, args := [va], parts := [{ lane := lowLane i.act, va := va, n := 64, st := .retry 0 }] }) s.next

/-- The address of the operation has been walked. -/
def addressWalked (o : Op) : Bool := o.parts.all Part.walked

/-- R385: a value is known; the threads go on. -/
def fireAnswer (s : State) (id v : Nat) : State :=
  let o := getOp s id
  let m := waiting (getWarp s o.warp) fun k => k == .held id || k == .fire id
  wake (updOp s id fun o => { o with args := o.args.take 1 ++ [v] }) o.warp m fun _ => o.pc + 12

/-- R386: a node can run inline on the warp of a GFIRE. -/
def inlineOk (s : State) (o : Op) (g : Nat) : Bool :=
  let x := getWarp s o.warp
  liveLanes x &&& o.lanes == liveLanes x && x.frames.length < x.gdepth
    && vNat s x.iface (getGraph s g).funcrec 8 == (codeBase s x).toNat

/-- R386: the node runs inline: a frame is pushed, and the threads go on at its target. -/
def runInline (s : State) (id g n : Nat) : State :=
  let o := getOp s id
  let s1 := updNode s g n fun y => { y with st := .running, inlineWarp := some o.warp }
  let s2 := updWarp s1 o.warp fun x => { x with frames := ⟨g, n, o.pc + 12, id, false⟩ :: x.frames }
  let m := liveLanes (getWarp s2 o.warp) &&& o.lanes
  wake s2 o.warp m fun _ => codeBase s2 (getWarp s2 o.warp) + BitVec.ofNat 64 (nodeOf s2 g n).target

/-- R385: the engine's step of a GFIRE whose address is walked. DEDUCED: log 66. -/
def fireStep (s : State) (id : Nat) : State :=
  let o := getOp s id
  let x := getWarp s o.warp
  if runningStale s x then fireAnswer s id 15
  else match nodeAt s x.iface (o.args.getD 0 0) with
    | none => fireAnswer s id 15
    | some (g, n) =>
      let y := nodeOf s g n
      if y.st ≠ .waiting then fireAnswer s id (nodeCode y.st)
      else if y.kind = 1 ∧ 256 ≤ ((getIface s x.iface).ready.getD y.prio []).length then
        if inlineOk s o g then runInline s id g n
        else setCond s o.warp (o.lanes &&& liveLanes x) (fun _ => .waiting (.fire id)) o.pc
      else fireAnswer (fireNode s g n) id 1

/-- R385, R413: the set is held at the word until the engine has taken its step. -/
def execGfire (c : Ctl) (d : Option Opd) (a : Opd) (s : State) : Host.Outcome State Fault Refusal :=
  issue s c fun i s =>
    let id := s.next
    let s1 := addressWord s i c (.gfire c d a) a
    match if lowVal s i a 2 % 64 ≠ 0 then none else mapGet s1.ops id with
    | none => s1
    | some o =>
      let s2 := setCond s1 i.w i.act (fun _ => .waiting (.held id)) i.pc
      if addressWalked o then fireStep s2 id else s2

/-- R386: a blocked GFIRE tests again. -/
def execInlineFireRetest (s : State) : Host.Outcome State Fault Refusal :=
  event s fun m s => match m with
    | .inlineFireRetest w =>
      let ids := (s.ops.filter fun e => e.2.warp == w && waiting (getWarp s w) (· == .fire e.1) != 0).map (·.1)
      some (if (getWarp s w).resident then ids.foldl fireStep s else s)
    | _ => none

/-! ### GFIRE.END, GFAIL (R387, R390) -/

/-- R387: every thread that has not ended is ready or stopped, and none stands in a handler. -/
def frameQuiet (x : Warp) : Bool :=
  x.threads.all fun th => match th.cond with
    | .ended => true
    | .ready | .stopped _ => th.sub == 0
    | .waiting _ => false

/-- DEDUCED: log 67. -/
def execGfireEnd (c : Ctl) (s : State) : Host.Outcome State Fault Refusal :=
  issue s c fun i s =>
    let x := getWarp s i.w
    match x.frames with
    | f :: _ =>
      if !frameQuiet x then trapSet s i causeOperand
      else if f.marked then popFrame (graphCheck (workStopped s f.graph f.node) f.graph) i.w 5
      else popFrame (completeNode s f.graph f.node) i.w 3
    | [] => if (getLaunch s x.launch).node.isNone then trapSet s i causeOperand else exitThreads s i.w i.act

def execGfail (c : Ctl) (a : Opd) (s : State) : Host.Outcome State Fault Refusal :=
  issue s c fun i s =>
    let x := getWarp s i.w
    let code := lowVal s i a 1 % 256
    match runningNode s x with
    | none => trapSet s i causeOperand
    | some (g, n) =>
      let y := nodeOf s g n
      if y.st ≠ .running then exitThreads s i.w i.act
      else if x.frames.isEmpty then exitThreads (failNode s g n 1 code false) i.w i.act
      else popFrame (failNode s g n 1 code true) i.w (if min (y.attempts + 1) 255 ≤ y.retries then 7 else 4)

/-! ### GTOKEN (R389) -/

/-- R389: the count of a lane that reaches a running graph: judged when the word issues, and again at its step. DEDUCED: log 65. -/
def tokenBad (s : State) (x : Warp) (va n : Nat) : Bool :=
  !runningStale s x && (nodeAt s x.iface va).isSome && (n = 0 || 65535 < n)

def execGtoken (c : Ctl) (d : Option Opd) (a b : Opd) (s : State) : Host.Outcome State Fault Refusal :=
  issue s c fun i s =>
    let x := getWarp s i.w
    let addr := srcVal s i.w x a 2
    let (ps, ts) := planLanes s i { size := 64, align := 64, need := { r := true } } addr (srcVal s i.w x b 1) fun _ => 0
    let bad : List TrapIn := (laneList i.act).filterMap fun t =>
      if (ps.any fun p => p.lane == t) && tokenBad s x (addr t) (srcVal s i.w x b 1 t) then some { lane := t, cause := causeOperand } else none
    let qs := ps.filter fun p => !(bad.any fun t => t.lane == p.lane)
    let ok := laneSet fun t => qs.any fun p => p.lane == t
    let s1 := if ok = 0 then s else accept (newOp s { opOf (.gtoken c d a b) i c with lanes := ok, parts := qs }) s.next
    deliver s1 i.w i.pc (ts ++ bad)

/-- R389: the engine's step of one lane: its value, or its trap. -/
def tokenStep (o : Op) (s : State) (p : Part) : State × Part :=
  let x := getWarp s o.warp
  let value (v : Nat) : Part := { p with got := BitVec.ofNat 128 v, st := .done }
  if !p.undone then (s, p)
  else if tokenBad s x p.va p.val.toNat then (s, { p with va := 0, st := .failed causeOperand })
  else match if runningStale s x then none else nodeAt s x.iface p.va with
    | none => (s, value 15)
    | some (g, n) =>
      let s1 := postToken s g n p.val.toNat
      (s1, value (nodeCode (nodeOf s1 g n).st))

/-- R389: the engine's steps, in ascending lane order; the traps; then the values. -/
def replyToken (s : State) (id : Nat) (d : Option Opd) : State :=
  let o := getOp s id
  if o.parts.any fun p => p.undone && !p.walked then s
  else
    let (s1, ps) := o.parts.foldl (fun (s, ps) p => let r := tokenStep o s p; (r.1, ps ++ [r.2])) (s, ([] : List Part))
    let s2 := updOp s1 id fun o => { o with parts := ps }
    let s3 := failLanes s2 id (failedParts (getOp s2 id))
    match mapGet s3.ops id with
    | none => s3
    | some o =>
      if !(failedParts o).isEmpty then s3
      else finishOp (match d with
        | some (.v k) => retV s3 o k.toNat o.lanes fun t => BitVec.ofNat 32 (gotVal o t)
        | _ => s3) id

/-! ### GARG (R391) -/

def execGarg (c : Ctl) (d a : Opd) (s : State) : Host.Outcome State Fault Refusal :=
  issue s c fun i s =>
    let x := getWarp s i.w
    match runningNode s x with
    | none => trapSet s i causeOperand
    | some (g, n) =>
      let args := (nodeOf s g n).args
      let off := srcVal s i.w x a 1
      let addr (t : Nat) : Nat := (args + off t) % 2 ^ 64
      let trap (t : Nat) (c : Nat) : TrapIn := { lane := t, cause := c, addr := addr t }
      if args = 0 then deliver s i.w i.pc ((laneList i.act).map fun t => trap t causeAccess)
      else
        let odd := ((laneList i.act).filter fun t => off t % 4 != 0).map fun t => trap t causeAlign
        let s1 := issueAccess s { i with act := i.act &&& ~~~trapLanes odd } { opOf (.garg c d a) i c with scope := .device }
          { size := 4, align := 4, need := { r := true } } addr (fun _ => 0) (fun _ => 0)
        deliver s1 i.w i.pc odd

/-- R391: a value of the running node, taken when the word issues. -/
def nodeValue (s : State) (c : Ctl) (ins : Instr) (f : State → Nat → Nat → Nat) : Host.Outcome State Fault Refusal :=
  issue s c fun i s => match runningNode s (getWarp s i.w) with
    | none => trapSet s i causeOperand
    | some (g, n) => newOp s { opOf ins i c with args := [f s g n] }

def execGargAddr (c : Ctl) (d : Opd) (s : State) : Host.Outcome State Fault Refusal :=
  nodeValue s c (.gargAddr c d) fun s g n => nodeVa (getGraph s g).hdr n
def execGargIndex (c : Ctl) (d : Opd) (s : State) : Host.Outcome State Fault Refusal :=
  nodeValue s c (.gargIndex c d) fun _ _ n => n

/-! ### GSTAT (R392) -/

def execGstat (c : Ctl) (d a : Opd) (s : State) : Host.Outcome State Fault Refusal :=
  issue s c fun i s => addressWord s i c (.gstat c d a) a
def execGstatG (c : Ctl) (d a : Opd) (s : State) : Host.Outcome State Fault Refusal :=
  issue s c fun i s => addressWord s i c (.gstatG c d a) a
def execGstatD (c : Ctl) (d : Opd) (s : State) : Host.Outcome State Fault Refusal :=
  issue s c fun i s =>
    let x := getWarp s i.w
    newOp s { opOf (.gstatD c d) i c with args := [x.gdepth * 16 + x.frames.length] }

/-- R392: STATE and the sum of the counts. -/
def graphWord (state sum : Nat) : Word := BitVec.ofNat 32 (state % 8 * 2 ^ 29 + sum % 2 ^ 24)

/-- R392: the status of a graph: the engine's, or the header's in memory. -/
def replyGstatG (s : State) (id : Nat) (d : Opd) : State :=
  let o := getOp s id
  let x := getWarp s o.warp
  match graphAt s x.iface (o.args.getD 0 0), o.parts with
  | some g, _ => let y := getGraph s g; replyWord s id d (graphWord 1 (y.done + y.cancelled + y.failed))
  | none, p :: _ =>
    let (s1, v, _) := readPart s o.core 2 p
    let w (off : Nat) : Nat := v / 2 ^ (8 * off) % 2 ^ 32
    replyWord s1 id d (graphWord (w 4) (w 0x0C + w 0x10 + w 0x14))
  | none, [] => s

/-- R400, R386: a held GFIRE whose threads have all ended is complete: its engine step is not taken. -/
def fireOrphan (s : State) (id : Nat) (o : Op) : Bool :=
  match o.kind with
  | .word (.gfire ..) => o.args.length == 1 && waiting (getWarp s o.warp) (fun k => k == .held id || k == .fire id) == 0
      && !((getWarp s o.warp).frames.any fun f => f.op == id)
  | _ => false

/-- The replies of the graph words. -/
def replyGraph (s : State) (id : Nat) (i : Instr) : State :=
  let o := getOp s id
  let v := o.args.getD 1 0
  match i with
  | .gfire _ d _ =>
    if o.args.length = 2 then
      match d with
      | some d => replyWord s id d (BitVec.ofNat 32 v)
      | none => finishOp s id
    else if fireOrphan s id o then finishOp s id
    else if addressWalked o && waiting (getWarp s o.warp) (· == .held id) != 0 then fireStep s id
    else s
  | .gtoken _ d _ _ => replyToken s id d
  | .garg .. => replyLoad s id i
  | .gargAddr _ d => (match d with
    | .v k => finishOp (retVs s o k.toNat 2 o.lanes fun _ => o.args.getD 0 0) id
    | _ => finishOp s id)
  | .gargIndex _ d | .gstatD _ d => replyWord s id d (BitVec.ofNat 32 (o.args.getD 0 0))
  | .gstat _ d _ =>
    if !addressWalked o then s
    else replyWord s id d (match nodeAt s (getWarp s o.warp).iface (o.args.getD 0 0) with
      | some (g, n) => BitVec.ofNat 32 (nodeWord (nodeOf s g n))
      | none => 15)
  | .gstatG _ d _ => if addressWalked o then replyGstatG s id d else s
  | _ => s

end Sys2Proof.Machine
end

