-- ==== Sys2Proof/Machine/Integer.lean ====
section
/-! DEFINITION. Integer words (R151 to R158). -/

namespace Sys2Proof.Machine

/-- R152: a result modulo 2^w, clamped first where `.SAT`. -/
def intOut (ty : Ty) (sat : Bool) (x : Int) : Nat := wrapTo (tyBits ty) (if sat then clampTo ty x else x)

/-- A two-source integer word: `f` on the values as R152 reads them. -/
def intWord (s : State) (c : Ctl) (ty : Ty) (sat : Bool) (lat : Nat) (d a b : Opd) (f : Int → Int → Int) :
    Host.Outcome State Fault Refusal :=
  fixedWord s c [a, b] d ty.regs lat fun s x i t =>
    intOut ty sat (f (intVal ty (srcVal s i.w x a ty.regs t)) (intVal ty (srcVal s i.w x b ty.regs t)))

/-- A two-source word on bits. -/
def bitWord (s : State) (c : Ctl) (ty : Ty) (d a b : Opd) (f : Nat → Nat → Nat) : Host.Outcome State Fault Refusal :=
  fixedWord s c [a, b] d ty.regs 4 fun s x i t =>
    f (srcVal s i.w x a ty.regs t % 2 ^ tyBits ty) (srcVal s i.w x b ty.regs t % 2 ^ tyBits ty)

def execIadd (c : Ctl) (sat : Bool) (ty : Ty) (d a b : Opd) (s : State) : Host.Outcome State Fault Refusal :=
  intWord s c ty sat 4 d a b (· + ·)

def execIsub (c : Ctl) (sat : Bool) (ty : Ty) (d a b : Opd) (s : State) : Host.Outcome State Fault Refusal :=
  intWord s c ty sat 4 d a b (· - ·)

def execImin (c : Ctl) (ty : Ty) (d a b : Opd) (s : State) : Host.Outcome State Fault Refusal :=
  intWord s c ty false 4 d a b min

def execImax (c : Ctl) (ty : Ty) (d a b : Opd) (s : State) : Host.Outcome State Fault Refusal :=
  intWord s c ty false 4 d a b max

/-- R153: the sum, and the carry out to Pn. -/
def execIaddc (c : Ctl) (ty : Ty) (n : BitVec 3) (d a b : Opd) (s : State) : Host.Outcome State Fault Refusal :=
  issue s c fun i s =>
    let x := getWarp s i.w
    let m := 2 ^ tyBits ty
    let sum (t : Nat) : Nat :=
      srcVal s i.w x a ty.regs t % m + srcVal s i.w x b ty.regs t % m + (pBit s i.w x n.toNat t).toNat
    fixedGen s i [a, b] (some d) 4 (fun _ => {}) fun ok s1 =>
      putP (writeDst s1 i 4 d ty.regs ok fun t => sum t % m) i.w 4 n.toNat ok fun t => m ≤ sum t

/-- R152: `.WIDE` writes the exact 64-bit product. -/
def execImul (c : Ctl) (wide : Bool) (ty : Ty) (d a b : Opd) (s : State) : Host.Outcome State Fault Refusal :=
  if wide then
    fixedWord s c [a, b] d 2 6 fun s x i t =>
      wrapTo 64 (intVal ty (srcVal s i.w x a 1 t) * intVal ty (srcVal s i.w x b 1 t))
  else intWord s c ty false 6 d a b (· * ·)

/-- R152: the high half of the exact product. -/
def execImulh (c : Ctl) (ty : Ty) (d a b : Opd) (s : State) : Host.Outcome State Fault Refusal :=
  intWord s c ty false 6 d a b fun x y => (x * y).fdiv (2 ^ tyBits ty)

/-- R152: the destination is read as the addend, at 64 bits for `.WIDE`. -/
def execImad (c : Ctl) (wide : Bool) (ty : Ty) (d a b : Opd) (s : State) : Host.Outcome State Fault Refusal :=
  let w := if wide then 2 else ty.regs
  let dty : Ty := if wide then (if tySigned ty then .s64 else .u64) else ty
  fixedWord s c [a, b] d w 6 fun s x i t =>
    wrapTo (32 * w) (intVal ty (srcVal s i.w x a ty.regs t) * intVal ty (srcVal s i.w x b ty.regs t)
      + intVal dty (srcVal s i.w x d w t))

/-- R152. -/
def execIabs (c : Ctl) (sat : Bool) (ty : Ty) (d a : Opd) (s : State) : Host.Outcome State Fault Refusal :=
  fixedWord s c [a] d ty.regs 4 fun s x i t => intOut ty sat ((intVal ty (srcVal s i.w x a ty.regs t)).natAbs : Int)

def execAnd (c : Ctl) (ty : Ty) (d a b : Opd) (s : State) : Host.Outcome State Fault Refusal :=
  bitWord s c ty d a b (· &&& ·)

def execOr (c : Ctl) (ty : Ty) (d a b : Opd) (s : State) : Host.Outcome State Fault Refusal :=
  bitWord s c ty d a b (· ||| ·)

def execXor (c : Ctl) (ty : Ty) (d a b : Opd) (s : State) : Host.Outcome State Fault Refusal :=
  bitWord s c ty d a b (· ^^^ ·)

/-- a and not b. -/
def execAndn (c : Ctl) (ty : Ty) (d a b : Opd) (s : State) : Host.Outcome State Fault Refusal :=
  bitWord s c ty d a b fun x y => x &&& (2 ^ tyBits ty - 1 - y)

/-- R154: a shift: the value as `f` takes it and the count, an unsigned 32-bit value. -/
def shiftWord (s : State) (c : Ctl) (ty : Ty) (d a b : Opd) (f : Nat → Nat → Nat) : Host.Outcome State Fault Refusal :=
  fixedWord s c [a, b] d ty.regs 4 fun s x i t =>
    f (srcVal s i.w x a ty.regs t % 2 ^ tyBits ty) (srcVal s i.w x b 1 t % 2 ^ 32)

def shlVal (w a n : Nat) : Nat := if n < w then a * 2 ^ n % 2 ^ w else 0
def shrVal (w a n : Nat) : Nat := if n < w then a / 2 ^ n else 0
/-- R154: a signed at width w. -/
def sarVal (w a n : Nat) : Nat :=
  let v : Int := if a < 2 ^ (w - 1) then a else (a : Int) - 2 ^ w
  wrapTo w (v.fdiv (2 ^ min n w))
def rotlVal (w a n : Nat) : Nat :=
  let k := n % w
  (a * 2 ^ k + a / 2 ^ (w - k)) % 2 ^ w

def execShl (c : Ctl) (ty : Ty) (d a b : Opd) (s : State) : Host.Outcome State Fault Refusal :=
  shiftWord s c ty d a b (shlVal (tyBits ty))

def execShr (c : Ctl) (ty : Ty) (d a b : Opd) (s : State) : Host.Outcome State Fault Refusal :=
  shiftWord s c ty d a b (shrVal (tyBits ty))

def execSar (c : Ctl) (ty : Ty) (d a b : Opd) (s : State) : Host.Outcome State Fault Refusal :=
  shiftWord s c ty d a b (sarVal (tyBits ty))

def execRotl (c : Ctl) (ty : Ty) (d a b : Opd) (s : State) : Host.Outcome State Fault Refusal :=
  shiftWord s c ty d a b (rotlVal (tyBits ty))

/-- R155: the number of zero bits above the highest one bit of the low w. -/
def clzVal (w a : Nat) : Nat := if a = 0 then w else w - 1 - a.log2
/-- R155: the number of zero bits below the lowest one bit. -/
def ctzVal (w a : Nat) : Nat := ((List.range w).find? fun i => a.testBit i).getD w
def brevVal (w a : Nat) : Nat := (List.range w).foldl (fun r i => r + (a.testBit i).toNat * 2 ^ (w - 1 - i)) 0

/-- A one-source word on the bits of its operand, with a destination of `w` registers. -/
def unWord (s : State) (c : Ctl) (ty : Ty) (w : Nat) (d a : Opd) (f : Nat → Nat) : Host.Outcome State Fault Refusal :=
  fixedWord s c [a] d w 4 fun s x i t => f (srcVal s i.w x a ty.regs t % 2 ^ tyBits ty)

def execPopc (c : Ctl) (ty : Ty) (d a : Opd) (s : State) : Host.Outcome State Fault Refusal :=
  unWord s c ty 1 d a fun x => popNat x (tyBits ty)

def execClz (c : Ctl) (ty : Ty) (d a : Opd) (s : State) : Host.Outcome State Fault Refusal :=
  unWord s c ty 1 d a (clzVal (tyBits ty))

def execCtz (c : Ctl) (ty : Ty) (d a : Opd) (s : State) : Host.Outcome State Fault Refusal :=
  unWord s c ty 1 d a (ctzVal (tyBits ty))

def execBrev (c : Ctl) (ty : Ty) (d a : Opd) (s : State) : Host.Outcome State Fault Refusal :=
  unWord s c ty ty.regs d a (brevVal (tyBits ty))

/-- R156: position and length of a field, in a thread. -/
def bfPos (s : State) (i : Issue) (x : Warp) (t : Nat) : BfCtl → Nat × Nat
  | .lit p l => (p.toNat, l.toNat)
  | .reg o => let v := srcVal s i.w x o 1 t; (v % 256, v / 256 % 256)

def bfSrcs (a : Opd) : BfCtl → List Opd
  | .lit _ _ => [a]
  | .reg o => [a, o]

/-- R156: the field of BFX. -/
def bfxVal (ty : Ty) (pos len a : Nat) : Nat :=
  let w := tyBits ty
  let p := min pos w
  let l := min len (w - p)
  let f := a / 2 ^ p % 2 ^ l
  wrapTo w (if tySigned ty && 0 < l && f.testBit (l - 1) then (f : Int) - 2 ^ l else f)

/-- R156: BFI: the low bits of a placed into d. -/
def bfiVal (w pos len d a : Nat) : Nat :=
  let p := min pos w
  let l := min len (w - p)
  d - d / 2 ^ p % 2 ^ l * 2 ^ p + a % 2 ^ l * 2 ^ p

def execBfx (c : Ctl) (ty : Ty) (f : BfCtl) (d a : Opd) (s : State) : Host.Outcome State Fault Refusal :=
  fixedWord s c (bfSrcs a f) d ty.regs 4 fun s x i t =>
    bfxVal ty (bfPos s i x t f).1 (bfPos s i x t f).2 (srcVal s i.w x a ty.regs t % 2 ^ tyBits ty)

def execBfi (c : Ctl) (ty : Ty) (f : BfCtl) (d a : Opd) (s : State) : Host.Outcome State Fault Refusal :=
  fixedWord s c (bfSrcs a f) d ty.regs 4 fun s x i t =>
    bfiVal (tyBits ty) (bfPos s i x t f).1 (bfPos s i x t f).2 (srcVal s i.w x d ty.regs t) (srcVal s i.w x a ty.regs t)

/-- R157: a comparison. -/
def icmp (cmp : ICmp) (a b : Int) : Bool :=
  match cmp with
  | .eq => a == b | .ne => a != b | .lt => a < b | .le => a ≤ b | .gt => b < a | .ge => b ≤ a

/-- R157: the combination with Pc. -/
def combine (q : PComb) (v pc : Bool) : Bool :=
  let g := pc != q.neg
  match q.op.toNat with
  | 0 => v
  | 1 => v && g
  | 2 => v || g
  | _ => v != g

def execIsetp (c : Ctl) (cmp : ICmp) (ty : Ty) (q : PComb) (d a b : Opd) (s : State) : Host.Outcome State Fault Refusal :=
  fixedWord s c [a, b] d 1 4 fun s x i t =>
    (combine q (icmp cmp (intVal ty (srcVal s i.w x a ty.regs t)) (intVal ty (srcVal s i.w x b ty.regs t)))
      (pBit s i.w x q.c.toNat t)).toNat

/-- R158: the index is read signed for `.S`. -/
def execAgen (c : Ctl) (signed : Bool) (ty : Ty) (d : Opd) (m : Mem) (s : State) : Host.Outcome State Fault Refusal :=
  fixedWord s c (m.base :: m.index.toList) d ty.regs 4 fun s x i t =>
    let idx : Int := match m.index with
      | some o => intVal (if signed then .s32 else .u32) (srcVal s i.w x o 1 t)
      | none => 0
    wrapTo (tyBits ty) ((srcVal s i.w x m.base ty.regs t : Int) + idx * 2 ^ m.shift.toNat + m.off.toInt)

end Sys2Proof.Machine
end

