-- ==== Sys2Proof/Machine/Special.lean ====
section
/-! DEFINITION. The approximate special functions (R166, R167): exact values to far more digits than FP32 holds, and the free value within the bound that R167 sets. -/

namespace Sys2Proof.Machine

/-- Fractional bits of the fixed-point values here. -/
def fixP : Nat := 640
def fixOne : Nat := 2 ^ fixP

/-- arctan(1/k), by its series: `p` is 1/k^(2i+1), with alternating signs. -/
def atanInv (k : Nat) : Nat → Nat → Nat → Int
  | 0, _, _ => 0
  | n + 1, i, p => (p / (2 * i + 1) : Nat) - atanInv k n (i + 1) (p / (k * k))

/-- Pi (Machin). -/
def fixPi : Int := 16 * atanInv 5 160 0 (fixOne / 5) - 4 * atanInv 239 60 0 (fixOne / 239)

/-- artanh z by its series, for a fixed-point z below one half. -/
def atanhSum (z2 : Nat) : Nat → Nat → Nat → Nat
  | 0, _, _ => 0
  | n + 1, i, p => p / (2 * i + 1) + atanhSum z2 n (i + 1) (p * z2 / fixOne)

def fixAtanh (z : Nat) : Nat := atanhSum (z * z / fixOne) 220 0 z

/-- The natural logarithm of 2. -/
def fixLn2 : Nat := 2 * fixAtanh (fixOne / 3)

/-- e^r for a fixed-point r from 0 to 1: the series, `t` its next term. -/
def expSum (r : Nat) : Nat → Nat → Nat → Nat
  | 0, _, _ => 0
  | n + 1, i, t => t + expSum r n (i + 1) (t * r / fixOne / (i + 1))

def fixExp (r : Nat) : Nat := expSum r 180 0 fixOne

/-- e^(-y) for a fixed-point y of 0 or more. -/
def fixExpNeg (y : Nat) : Nat :=
  let k := y / fixLn2
  if k > 600 then 0 else fixOne * fixOne / fixExp (y % fixLn2) / 2 ^ k

/-- The sine series: `t` is x^(2i+1) / (2i+1)!, with alternating signs; and the cosine series. -/
def sinSum (x2 : Nat) : Nat → Nat → Nat → Int
  | 0, _, _ => 0
  | n + 1, i, t => (t : Int) - sinSum x2 n (i + 1) (t * x2 / fixOne / ((2 * i + 2) * (2 * i + 3)))
def cosSum (x2 : Nat) : Nat → Nat → Nat → Int
  | 0, _, _ => 0
  | n + 1, i, t => (t : Int) - cosSum x2 n (i + 1) (t * x2 / fixOne / ((2 * i + 1) * (2 * i + 2)))

/-- A finite value as a fixed-point integer (exact for FP32). -/
def fixOf (m : Nat) (e : Int) : Nat := if 0 ≤ e + fixP then m * 2 ^ (e + fixP).toNat else m / 2 ^ (-(e + fixP)).toNat

/-- |x| reduced modulo 2 pi. -/
def fixReduce (x : Nat) : Nat := ((x : Int) % (2 * fixPi)).toNat

/-- The exact value (sign, fixed-point magnitude) of each function of a finite non-special FP32 value. -/
def refSin (s : Bool) (m : Nat) (e : Int) : Bool × Nat :=
  let r := fixReduce (fixOf m e)
  let v := sinSum (r * r / fixOne) 140 0 r
  (s != (v < 0), v.natAbs)
def refCos (_ : Bool) (m : Nat) (e : Int) : Bool × Nat :=
  let r := fixReduce (fixOf m e)
  let v := cosSum (r * r / fixOne) 140 0 fixOne
  (v < 0, v.natAbs)
/-- The exact value is below 1. -/
def refTanh (s : Bool) (m : Nat) (e : Int) : Bool × Nat :=
  let k := fixExpNeg (2 * fixOf m e)
  (s, min (fixOne - 1) ((fixOne - k) * fixOne / (fixOne + k)))
/-- 2^a: a = n + f with f from 0 to 1. -/
def refEx2 (s : Bool) (m : Nat) (e : Int) : Bool × Nat :=
  let x := fixOf m e
  let v : Int := if s then -(x : Int) else x
  let n := v.fdiv fixOne
  let f := (v - n * fixOne).toNat
  let y := fixExp (f * fixLn2 / fixOne)
  (false, if 0 ≤ n then y * 2 ^ n.toNat else y / 2 ^ (-n).toNat)
def refLg2 (_ : Bool) (m : Nat) (e : Int) : Bool × Nat :=
  let k := m.log2
  let x := fixOf m (-(k : Int))
  let z := (x - fixOne) * fixOne / (x + fixOne)
  let l := 2 * fixAtanh z * fixOne / fixLn2
  let v : Int := ((k : Int) + e) * fixOne + l
  (v < 0, v.natAbs)

/-- The fixed-point value of an FP32 pattern, signed; NaN and infinities have none. -/
def fixSigned (y : BitVec 32) : Option Int :=
  match fpOf fmtF32 false y.toNat with
  | .fin s m e => some (if s then -(fixOf m e : Int) else fixOf m e)
  | _ => none

/-- Two units in the last place of FP32 at a fixed-point magnitude. -/
def twoUlp (q : Nat) : Nat := 2 ^ (max (q.log2 : Int) (fixP - 126) - 22).toNat

/-- R167: the free value where it lies within the bound, otherwise the exact value rounded to nearest. `absTol` is the absolute tolerance where one holds. -/
def bounded (free : BitVec 32) (ref : Bool × Nat) (absTol : Option Nat) : BitVec 32 :=
  let exact : Int := if ref.1 then -(ref.2 : Int) else ref.2
  let tol := max (twoUlp ref.2) (absTol.getD 0)
  let near : Bool := match fixSigned free with
    | some v => (v - exact).natAbs ≤ tol
    | none => false
  if near then free
  else BitVec.ofNat 32 (roundMag fmtF32 .rn false ref.1 ref.2 (-(fixP : Int)) true).1

/-- R160, R167: an approximate result: NX; UF where it is subnormal, flushed under FTZ. DEDUCED: log 86. -/
def approxOut (ftz : Bool) (y : BitVec 32) : Nat × Conds :=
  let m := y.toNat % 2 ^ 31
  let tiny := m < 2 ^ 23
  (if tiny && ftz then y.toNat / 2 ^ 31 * 2 ^ 31 else y.toNat, { nx := true, uf := tiny })

/-- R167: FEX2. -/
def fEx2 (ftz : Bool) (a : Nat) : Nat × Conds :=
  match fpOf fmtF32 ftz a with
  | .nan sg => (fmtNaN fmtF32, { nv := sg })
  | .inf s => (if s then 0 else fmtInf fmtF32, {})
  | .fin s m e =>
    let whole := m = 0 || 0 ≤ e || m % 2 ^ (-e).toNat = 0
    let n : Nat := if 0 ≤ e then m * 2 ^ e.toNat else m / 2 ^ (-e).toNat
    if !s && 128 ≤ n then (fmtInf fmtF32, { ofl := true, nx := true })
    else if whole && !(s && 126 < n) then (roundMag fmtF32 .rn ftz false 1 (if s then -(n : Int) else n) false).1 |> (·, {})
    else
      let r := approxOut ftz (bounded (Config.fex2 (BitVec.ofNat 32 a) ftz) (refEx2 s m e) none)
      (r.1, { r.2 with uf := s && 126 ≤ n })

/-- R167: FLG2; 2^n gives n exactly, and 1 gives +0. -/
def fLg2 (ftz : Bool) (a : Nat) : Nat × Conds :=
  match fpOf fmtF32 ftz a with
  | .nan sg => (fmtNaN fmtF32, { nv := sg })
  | .inf s => if s then (fmtNaN fmtF32, { nv := true }) else (fmtInf fmtF32, {})
  | .fin s m e =>
    if m = 0 then (fmtSign fmtF32 true + fmtInf fmtF32, { dz := true })
    else if s then (fmtNaN fmtF32, { nv := true })
    else if m = 2 ^ m.log2 then
      let n : Int := (m.log2 : Int) + e
      ((roundMag fmtF32 .rn ftz (n < 0) n.natAbs 0 false).1, {})
    else
      let ref := refLg2 s m e
      approxOut ftz (bounded (Config.flg2 (BitVec.ofNat 32 a) ftz) ref (if ref.2 < fixOne then some (2 ^ (fixP - 22)) else none))

/-- R167: FSIN and FCOS. -/
def fSinCos (cos ftz : Bool) (a : Nat) : Nat × Conds :=
  match fpOf fmtF32 ftz a with
  | .nan sg => (fmtNaN fmtF32, { nv := sg })
  | .inf _ => (fmtNaN fmtF32, { nv := true })
  | .fin s m e =>
    if m = 0 then (if cos then fmtOne fmtF32 else fmtSign fmtF32 s, {})
    else
      let ref := if cos then refCos s m e else refSin s m e
      let free := if cos then Config.fcos (BitVec.ofNat 32 a) ftz else Config.fsin (BitVec.ofNat 32 a) ftz
      approxOut ftz (bounded free ref (if ref.2 < 2 ^ (fixP - 22) then some (2 ^ (fixP - 46)) else none))

/-- R167: FTANH. -/
def fTanh (ftz : Bool) (a : Nat) : Nat × Conds :=
  match fpOf fmtF32 ftz a with
  | .nan sg => (fmtNaN fmtF32, { nv := sg })
  | .inf s => (fmtSign fmtF32 s + fmtOne fmtF32, {})
  | .fin s m e =>
    if m = 0 then (fmtSign fmtF32 s, {})
    else approxOut ftz (bounded (Config.ftanh (BitVec.ofNat 32 a) ftz) (refTanh s m e) none)

end Sys2Proof.Machine
end

