-- ==== Sys2Proof/Machine/Float.lean ====
section
/-! DEFINITION. Floating-point words, special functions and conversions (R159 to R170). -/

namespace Sys2Proof.Machine

/-- R97: STATUS.FTZ. -/
def ftzOf (x : Warp) : Bool := x.status.getLsbD 0

/-- R112: 8 in FP64, otherwise 4. -/
def floatLat (ty : Ty) : Nat := if ty == .f64 then 8 else 4

/-- A floating-point word of two sources: `f` on the elements. -/
def float2 (s : State) (c : Ctl) (ty : Ty) (d a b : Opd) (f : Bool → Nat → Nat → Nat × Conds) :
    Host.Outcome State Fault Refusal :=
  floatWord s c [a, b] d ty.regs (floatLat ty) fun s x i t =>
    elems2 ty (f (ftzOf x)) (srcVal s i.w x a ty.regs t) (srcVal s i.w x b ty.regs t)

/-- FMA and FMS: the destination is the addend. -/
def float3 (s : State) (c : Ctl) (ty : Ty) (d a b : Opd) (f : Bool → Nat → Nat → Nat → Nat × Conds) :
    Host.Outcome State Fault Refusal :=
  floatWord s c [a, b] d ty.regs (floatLat ty) fun s x i t =>
    elems3 ty (f (ftzOf x)) (srcVal s i.w x a ty.regs t) (srcVal s i.w x b ty.regs t) (srcVal s i.w x d ty.regs t)

def execFadd (c : Ctl) (ty : Ty) (r : Rm) (d a b : Opd) (s : State) : Host.Outcome State Fault Refusal :=
  float2 s c ty d a b fun ftz => fAdd (fmtOf ty) r ftz

def execFsub (c : Ctl) (ty : Ty) (r : Rm) (d a b : Opd) (s : State) : Host.Outcome State Fault Refusal :=
  float2 s c ty d a b fun ftz => fSub (fmtOf ty) r ftz

def execFmul (c : Ctl) (ty : Ty) (r : Rm) (d a b : Opd) (s : State) : Host.Outcome State Fault Refusal :=
  float2 s c ty d a b fun ftz => fMul (fmtOf ty) r ftz

def execFma (c : Ctl) (ty : Ty) (r : Rm) (d a b : Opd) (s : State) : Host.Outcome State Fault Refusal :=
  float3 s c ty d a b fun ftz => fFma (fmtOf ty) r ftz false

def execFms (c : Ctl) (ty : Ty) (r : Rm) (d a b : Opd) (s : State) : Host.Outcome State Fault Refusal :=
  float3 s c ty d a b fun ftz => fFma (fmtOf ty) r ftz true

/-- R162. -/
def execFmin (c : Ctl) (num : Bool) (ty : Ty) (d a b : Opd) (s : State) : Host.Outcome State Fault Refusal :=
  float2 s c ty d a b fun ftz => fMinMax (fmtOf ty) false num ftz

def execFmax (c : Ctl) (num : Bool) (ty : Ty) (d a b : Opd) (s : State) : Host.Outcome State Fault Refusal :=
  float2 s c ty d a b fun ftz => fMinMax (fmtOf ty) true num ftz

/-- R163: NV only for a signalling NaN input. -/
def execFsetp (c : Ctl) (cmp : FCmp) (ty : Ty) (q : PComb) (d a b : Opd) (s : State) : Host.Outcome State Fault Refusal :=
  floatWord s c [a, b] d 1 (floatLat ty) fun s x i t =>
    let u := tyFp ty (ftzOf x) (srcVal s i.w x a ty.regs t)
    let v := tyFp ty (ftzOf x) (srcVal s i.w x b ty.regs t)
    ((combine q (fCompare cmp u v) (pBit s i.w x q.c.toNat t)).toNat, { nv := fpSig u || fpSig v })

/-- R164. -/
def execFclass (c : Ctl) (ty : Ty) (mask : BitVec 10) (d a : Opd) (s : State) : Host.Outcome State Fault Refusal :=
  floatWord s c [a] d 1 (floatLat ty) fun s x i t =>
    ((mask.getLsbD (fClass (fmtOf ty) (srcVal s i.w x a ty.regs t % 2 ^ fmtWidth (fmtOf ty)))).toNat, {})

/-- R165. -/
def execFrnd (c : Ctl) (ty : Ty) (r : Rm) (d a : Opd) (s : State) : Host.Outcome State Fault Refusal :=
  floatWord s c [a] d ty.regs (floatLat ty) fun s x i t =>
    fRnd (fmtOf ty) r (ftzOf x) (srcVal s i.w x a ty.regs t % 2 ^ fmtWidth (fmtOf ty))

/-! ### Special functions (R166, R167) -/

/-- The operands of a special function that is under way: the registers it writes, STATUS at issue, and per lane its sources. -/
def specialOp (ins : Instr) (c : Ctl) (srcs : List Opd) (d : Opd) (w : Nat) (s : State) : Host.Outcome State Fault Refusal :=
  issue s c fun i s =>
    let x := getWarp s i.w
    if streamBad x srcs (some d) then trapSet s i causeOperand
    else
      let ns := streamsOf srcs
      let s1 := ns.foldl (fun s n => popStream s i 0 n) s
      let f1 := popFaults x i ns
      let ok := i.act &&& ~~~trapLanes f1
      let ps : List Part := (laneList ok).map fun t =>
        { lane := t, va := 0, pa := 2 ^ 62, n := 4 * w, val := BitVec.ofNat 128 (srcVal s i.w x (srcs.getD 0 d) w t)
          cmp := BitVec.ofNat 128 (srcVal s i.w x (srcs.getD 1 d) w t) }
      let flags := ns.flatMap fun n => (List.range 4).map fun k =>
        Reg.p (((getStream x n).getD {}).flags.extractLsb' (3 * k) 3).toNat
      let o := opOf ins i c
      let s2 := if ok = 0 then s1
        else newOp s1 { o with lanes := ok, parts := ps, args := [x.status.toNat % 4], writes := o.writes ++ flags.filter (· != .p 7) }
      deliver s2 i.w i.pc f1

def execFrcp (c : Ctl) (ty : Ty) (r : Rm) (d a : Opd) (s : State) : Host.Outcome State Fault Refusal :=
  specialOp (.frcp c ty r d a) c [a] d ty.regs s
def execFrsq (c : Ctl) (ty : Ty) (d a : Opd) (s : State) : Host.Outcome State Fault Refusal :=
  specialOp (.frsq c ty d a) c [a] d ty.regs s
def execFsqrt (c : Ctl) (ty : Ty) (r : Rm) (d a : Opd) (s : State) : Host.Outcome State Fault Refusal :=
  specialOp (.fsqrt c ty r d a) c [a] d ty.regs s
def execFdiv (c : Ctl) (ty : Ty) (r : Rm) (d a b : Opd) (s : State) : Host.Outcome State Fault Refusal :=
  specialOp (.fdiv c ty r d a b) c [a, b] d ty.regs s
def execFex2 (c : Ctl) (d a : Opd) (s : State) : Host.Outcome State Fault Refusal := specialOp (.fex2 c d a) c [a] d 1 s
def execFlg2 (c : Ctl) (d a : Opd) (s : State) : Host.Outcome State Fault Refusal := specialOp (.flg2 c d a) c [a] d 1 s
def execFsin (c : Ctl) (d a : Opd) (s : State) : Host.Outcome State Fault Refusal := specialOp (.fsin c d a) c [a] d 1 s
def execFcos (c : Ctl) (d a : Opd) (s : State) : Host.Outcome State Fault Refusal := specialOp (.fcos c d a) c [a] d 1 s
def execFtanh (c : Ctl) (d a : Opd) (s : State) : Host.Outcome State Fault Refusal := specialOp (.ftanh c d a) c [a] d 1 s

/-- R167: what a special function gives for its sources. -/
def specialVal (ins : Instr) (ftz : Bool) (a b : Nat) : Nat × Conds :=
  match ins with
  | .frcp _ ty r _ _ => fRcp (fmtOf ty) r ftz a
  | .frsq _ ty _ _ => fRsq (fmtOf ty) ftz a
  | .fsqrt _ ty r _ _ => fSqrt (fmtOf ty) r ftz a
  | .fdiv _ ty r _ _ _ => fDiv (fmtOf ty) r ftz a b
  | .fex2 .. => fEx2 ftz a
  | .flg2 .. => fLg2 ftz a
  | .fsin .. => fSinCos false ftz a
  | .fcos .. => fSinCos true ftz a
  | .ftanh .. => fTanh ftz a
  | _ => (a, {})

/-- The destination of a special function. -/
def specialDst : Instr → Option (Opd × Nat)
  | .frcp _ ty _ d _ | .frsq _ ty d _ | .fsqrt _ ty _ d _ | .fdiv _ ty _ d _ _ => some (d, ty.regs)
  | .fex2 _ d _ | .flg2 _ d _ | .fsin _ d _ | .fcos _ d _ | .ftanh _ d _ => some (d, 1)
  | _ => none

/-- The part of an operation that belongs to a lane. -/
def partOf (o : Op) (t : Nat) : Part := (o.parts.find? fun p => p.lane == t).getD { lane := t, va := 0, n := 0 }

/-- A word that completes writes its destination: registers, or a store stream: a special function pushes when it completes, so the positions follow the order of completion, and after an SSTOP of the stream nothing is pushed. DESIGN CHOICE: log 95. -/
def retDst (s : State) (o : Op) (d : Opd) (w : Nat) (m : Lanes) (f : Nat → Nat) : State :=
  match d with
  | .v n => retVs s o n.toNat w m f
  | .s n => pushStream s ⟨o.warp, m, m, o.pc⟩ m n.val f
  | .p n => retP s o n.val m fun t => f t != 0
  | _ => s

/-- R166, R160: a special function completes: results, flags, ARITH at completion. A source that a later word overwrote makes the result undefined (R111). -/
def execSpecialFunctionDone (s : State) : Host.Outcome State Fault Refusal :=
  event s fun m s => match m with
    | .specialFunctionDone id =>
      match mapGet s.ops id with
      | some o =>
        match o.kind with
        | .word ins =>
          match specialDst ins with
          | some (d, w) =>
            let st := o.args.getD 0 0
            let r (t : Nat) : Nat × Conds :=
              let v := specialVal ins (st.testBit 0) (partOf o t).val.toNat (partOf o t).cmp.toNat
              if o.poison.getLsbD t then ((fresh s (freeBase + t)).toNat % 2 ^ (32 * w), {}) else v
            let bad := if st.testBit 1 then (laneList o.lanes).filter fun t => arithDetail (r t).2 != 0 else []
            let traps : List TrapIn := bad.map fun t => { lane := t, cause := causeArith, detail := arithDetail (r t).2 }
            let ok := o.lanes &&& ~~~trapLanes traps
            let s1 := setFlags (retDst s o d w ok fun t => (r t).1) o.warp 0 ok fun t => (r t).2
            some (deliver (finishOp s1 id) o.warp o.pc (traps.filter fun t => (threadOf (getWarp s o.warp) t.lane).cond != .ended))
          | none => some s
        | _ => some s
      | none => some s
    | _ => none

/-! ### Conversion (R168 to R170) -/

def execCvt (c : Ctl) (dst src : Ty) (r : Rm) (d a : Opd) (s : State) : Host.Outcome State Fault Refusal :=
  floatWord s c [a] d dst.regs 6 fun s x i t => convert dst src r (ftzOf x) (srcVal s i.w x a src.regs t)

/-- FN 1: FA gives element 0, FB element 1. -/
def execCvtPack (c : Ctl) (r : Rm) (d a b : Opd) (s : State) : Host.Outcome State Fault Refusal :=
  floatWord s c [a, b] d 1 6 fun s x i t =>
    let u := convert .bf16 .f32 r (ftzOf x) (srcVal s i.w x a 1 t)
    let v := convert .bf16 .f32 r (ftzOf x) (srcVal s i.w x b 1 t)
    (u.1 + 65536 * v.1, condsOr u.2 v.2)

/-- FN 2 reads element 1. -/
def execCvtHi (c : Ctl) (dst : Ty) (r : Rm) (d a : Opd) (s : State) : Host.Outcome State Fault Refusal :=
  floatWord s c [a] d dst.regs 6 fun s x i t => convert dst .bf16 r (ftzOf x) (srcVal s i.w x a 1 t / 65536 % 65536)

/-- FN 3: clamped to the destination's range. -/
def execCvtSat (c : Ctl) (dst src : Ty) (r : Rm) (d a : Opd) (s : State) : Host.Outcome State Fault Refusal :=
  let _ := r
  floatWord s c [a] d dst.regs 6 fun s x i t =>
    (intRes dst (clampTo dst (intVal src (srcVal s i.w x a src.regs t))), {})

end Sys2Proof.Machine
end

