-- ==== Sys2Proof/Machine/Copies.lean ====
section
/-! DEFINITION. The copy engines: slots and ids (R209, R221), acceptance (R215, R219), chunks that land (R216 to R218), suspension and stops (R226 to R228), the end of a copy (R218), LATE (R220). -/

namespace Sys2Proof.Machine

/-! ### Slots (R209, R221) -/

def slotOf (s : State) (core n : Nat) : CopySlot := mapGetD s.copySlots (core * 64 + n) {}

/-- A slot that no unfinished copy holds. -/
def slotFree (s : State) (core n : Nat) : Bool :=
  match (slotOf s core n).copy with
  | none => true
  | some id => match mapGet s.copies id with
    | some c => !unfinished c
    | none => true

def freeSlots (s : State) (core : Nat) : List Nat := (List.range 64).filter (slotFree s core)

/-- R221: the next slot: one never used, the lowest first; else the one that has been free longest. -/
def nextSlot (s : State) (core : Nat) : Option Nat :=
  match freeSlots s core with
  | [] => none
  | n :: r => some (r.foldl (fun a b => if (slotOf s core b).freed < (slotOf s core a).freed then b else a) n)

/-- R209: a word that takes a copy slot. DEDUCED: log 41. -/
def takesSlot : OpKind → Bool
  | .word i => match i with
    | .cpyLoad .. | .cpyBstack .. | .cpyStore .. | .cpyg .. | .cpys .. => true
    | _ => false
  | _ => false

/-- R209: a copy word can issue: a slot of the core is free beyond those that issued words wait to take. -/
def slotForWord (s : State) (core : Nat) : Bool :=
  (s.ops.filter fun e => e.2.core == core && takesSlot e.2.kind).length < (freeSlots s core).length

/-! ### Acceptance (R215, R219, R212) -/

/-- The lines that a copy's destination bytes touch. -/
def copyLines (c : Copy) : List Nat := if intoScratch c then linesOf (copyStart c) c.bytes else []

/-- R214, R355: what the acceptance of a copy makes undefined: scratchpad bytes that another unfinished copy also writes, B operands of pending operations; its B-stack bytes cannot be fetched until it is known to be done. -/
def acceptMarks (s : State) (key : Nat) (own : Option Nat) : State :=
  let c := getCopy s key
  match c.kind with
  | .load .. | .gather .. =>
    let runs := (s.copies.filter fun e => e.1 != key && e.2.group == c.group && e.2.half == c.half && unfinished e.2 && intoScratch e.2).filterMap
      fun e => (overlap (copyStart c) c.bytes (copyStart e.2) e.2.bytes).map fun r => (e.1, r)
    runs.foldl (fun s r => updCopy (updCopy s r.1 fun c => { c with spoiled := r.2 :: c.spoiled }) key
      fun c => { c with spoiled := r.2 :: c.spoiled }) s
  | .bstack .. =>
    let s1 := touchPending s c.group c.half true (copyStart c) c.bytes own
    updGroup s1 c.group fun g => setUnf g true c.half (copyStart c) c.bytes (some { warp := c.warp, op := key, copy := some key })
  | _ => s

/-! ### What a chunk does (R216, R223 to R225, R233, R234) -/

def chunkBytes : Nat := 4096
/-- The stream bytes of the cursor chunk: first, and one past the last. -/
def chunkLo (c : Copy) : Nat := chunkBytes * c.cursor
def chunkHi (c : Copy) : Nat := min c.bytes (chunkLo c + chunkBytes)
def chunksLeft (c : Copy) : Bool := chunkLo c < c.bytes

def scrIndex (s : State) (c : Copy) (p : Nat) : Nat := scrNat (getGroup s c.group) c.half (rowList c.box + 4 * p) 4

/-- The source of stream bit b of a load, with the bit of its value; none for padding. -/
def loadBit (c : Copy) (t : Bool) (layout b : Nat) : Option (Src × Nat) :=
  if layout = 0 then
    let w := descBits c.desc
    if b / w < boxCount c.box then some (elemSrc c.desc (boxIndex c.box (rawIndex c.box t (b / w))), b % w) else none
  else
    let bform : Bool := match c.kind with
      | .bstack .. => true
      | _ => false
    some (canonBit c.desc c.box t bform layout b)

/-- The row and the column of stream bit b of a gather or scatter; none for padding. -/
def rowBit (c : Copy) (rows b : Nat) : Option (Nat × Nat) :=
  let e := b / descBits c.desc
  if e / rowCols c.box < rows then some (e / rowCols c.box, e % rowCols c.box) else none

/-- Where stream bit b of a store or scatter goes in memory: byte and bit; none where it is out of bounds or padding. -/
def storeBit (s : State) (c : Copy) (b : Nat) : Option (Nat × Nat) :=
  let w := descBits c.desc
  let place (x : Src) : Option (Nat × Nat) := x.mem.map fun (va, bit) => ((va + (bit + b % w) / 8) % 2 ^ 64, (bit + b % w) % 8)
  match c.kind with
  | .store t =>
    if b / w < boxCount c.box then place (elemSrc c.desc (boxIndex c.box (rawIndex c.box t (b / w)))) else none
  | .scatter => match rowBit c (rowCount c.box) b with
    | some (j, col) => place (rowSrc c.desc c.box (scrIndex s c j) col)
    | none => none
  | _ => none

/-- The memory bytes that stream byte k reads or writes, each with the permission it needs. -/
def byteNeeds (s : State) (c : Copy) (k : Nat) : List (Nat × Need) :=
  let bits := (List.range 8).map fun i => 8 * k + i
  match c.kind with
  | .load t l | .bstack t l =>
    ((bits.filterMap (loadBit c t l)).flatMap fun x => x.1.needs.map fun va => (va, { r := true })).dedup
  | .gather _ comp =>
    ((bits.filterMap (rowBit c (rowBags c.box))).flatMap fun (g, col) =>
      (bagOf c.box g).flatMap fun p => (rowSrcs c.desc c.desc2 c.box comp (scrIndex s c p) col).flatMap fun x =>
        x.needs.map fun va => (va, { r := true })).dedup
  | .store _ | .scatter =>
    ((bits.filterMap (storeBit s c)).map fun x => (x.1, { r := descBits c.desc < 8, w := true })).dedup
  | .node src dst _ => [((src + k) % 2 ^ 64, { r := true }), ((dst + k) % 2 ^ 64, { w := true })]

/-- Scratchpad lines that the cursor chunk reads: the source of a store, the index list of a gather or scatter. -/
def chunkSources (c : Copy) : List Nat :=
  let lo := chunkLo c
  let n := chunkHi c - lo
  let rowsAt (b : Nat) : Nat := 8 * b / descBits c.desc / rowCols c.box
  match c.kind with
  | .store _ => linesOf (copyStart c + lo) n
  | .scatter =>
    linesOf (copyStart c + lo) n ++ linesOf (rowList c.box + 4 * rowsAt lo) (4 * (min (rowCount c.box) (rowsAt (lo + n) + 1) - rowsAt lo))
  | .gather .. =>
    let p0 := rowsAt lo * rowBag c.box
    linesOf (rowList c.box + 4 * p0) (4 * (min (rowCount c.box) ((rowsAt (lo + n) + 1) * rowBag c.box) - p0))
  | _ => []

/-- R233, R234: an empty source line holds the engine. -/
def sourcesFull (s : State) (c : Copy) : Bool :=
  (chunkSources c).all fun n => (lineOf (getGroup s c.group) c.half n).full

/-- R228: the lowest destination line of the chunk that has BAR, before its first byte lands. -/
def chunkBar (s : State) (c : Copy) : Option Nat :=
  if intoScratch c && !c.begun then
    (linesOf (copyStart c + chunkLo c) (chunkHi c - chunkLo c)).find? fun n => (lineOf (getGroup s c.group) c.half n).bar
  else none

/-- R190: the translation caches of the copy's engine: of its quadrant. -/
def copyUnit (c : Copy) : Nat := 160 + quadOf c.core

/-- R226, R227: the first stream byte of the chunk with an access that does not pass, that access and its outcome. -/
def chunkFault (s : State) (c : Copy) : Option (Nat × Nat × Check) :=
  ((List.range (chunkHi c - chunkLo c)).map (chunkLo c + ·)).findSome? fun k =>
    (byteNeeds s c k).findSome? fun (va, need) => match checkPage s (copyUnit c) c.iface va need with
      | .ok .. => none
      | r => some (k, va, r)

/-! ### Memory of an engine (R217) -/

def copyLevel (s : State) (c : Copy) : Nat :=
  if c.node.isSome then 2 else max 1 (scopeLevel ((getGroup s c.group).cores.length == 2) c.scope)

/-- One byte as the copy reads it: as an LD at its scope, without V copies of the issuing core's L1. DEDUCED: log 40. -/
def engineByte (s : State) (c : Copy) (va : Nat) : Byte :=
  match checkPage s (copyUnit c) c.iface va {} with
  | .ok pa e _ =>
    if c.node.isSome || e.extractLsb' 5 2 == 1 then devByte s pa
    else (readWord s c.core (copyLevel s c) (pa / 4) (e.getLsbD 7) (e.extractLsb' 5 2 == 2)).2.1.extractLsb' (8 * (pa % 4)) 8
  | _ => 0

/-- The copies that such a read leaves: in the cluster cache, none in the L1. -/
def engineFill (c : Copy) (s : State) (va : Nat) : State :=
  match checkPage s (copyUnit c) c.iface va {} with
  | .ok pa e _ =>
    if c.node.isSome || e.extractLsb' 5 2 == 1 then s
    else { (readWord s c.core (copyLevel s c) (pa / 4) (e.getLsbD 7) (e.extractLsb' 5 2 == 2)).1 with l1 := s.l1 }
  | _ => s

/-- What the writes of an engine leave: the state, the words to be pushed, and the largest stamp of what was performed at a slice. -/
abbrev Pushing := State × List Nat × Option Nat

/-- One byte written as an ST at the copy's scope. -/
def engineWrite (c : Copy) (r : Pushing) (va : Nat) (b : Byte) : Pushing :=
  let (s, ws, st) := r
  match checkPage s (copyUnit c) c.iface va {} with
  | .ok pa e _ =>
    if c.node.isSome || e.extractLsb' 5 2 == 1 then
      (breach s (devWrite s pa [b]) pa 1 true false, ws, if c.node.isSome || copyLevel s c < 2 then st else laterStamp st (sliceTime s (homeSlice pa)))
    else
      let x := getWarp s c.warp
      let tag : Tag := { slot := c.core * 64 + x.slot, context := x.context, iface := c.iface, warp := c.warp, va := va, olact := (e.extractLsb' 9 2).toNat, time := s.tick }
      let lvl := scopeLevel ((getGroup s c.group).cores.length == 2) c.scope
      (breach s (writeL1 s c.core lvl (pa / 4) (BitVec.ofNat 32 (b.toNat * 2 ^ (8 * (pa % 4)))) (2 ^ (pa % 4)) (e.getLsbD 7)
          (e.extractLsb' 5 2 == 2) 0 tag) pa 1 true false,
        if ws.contains (pa / 4) then ws else ws ++ [pa / 4], st)
  | _ => r

/-! ### Landing (R216, R225, R233, R234) -/

/-- The output bytes of stream byte k of a copy into scratchpad or B-stack. -/
def outByte (s : State) (c : Copy) (k : Nat) : Byte :=
  let rd := engineByte s c
  let bit (i : Nat) : Bool :=
    match c.kind with
    | .load t l | .bstack t l => match loadBit c t l (8 * k + i) with
      | some (x, off) => (x.val rd).testBit off
      | none => false
    | .gather pool comp => match rowBit c (rowBags c.box) (8 * k + i) with
      | some (g, col) =>
        (gatherVal rd (scrIndex s c) c.desc c.desc2 c.box pool comp g col).testBit ((8 * k + i) % descBits c.desc)
      | none => false
    | _ => false
  BitVec.ofNat 8 ((List.range 8).foldl (fun a i => if bit i then a + 2 ^ i else a) 0)

/-- R234: a row of the bytes used FILL for an index out of bounds. -/
def usesFill (s : State) (c : Copy) (lo hi : Nat) : Bool :=
  match c.kind with
  | .gather _ comp =>
    (List.range (rowBags c.box)).any fun g =>
      let a := g * rowCols c.box * descBits c.desc
      a < 8 * hi && 8 * lo < a + rowCols c.box * descBits c.desc
        && (bagOf c.box g).any fun p => rowOut c.desc c.desc2 c.box comp (scrIndex s c p)
  | _ => false

/-- The source byte of stream byte k of a store or of a node's copy. -/
def sourceByte (s : State) (c : Copy) (k : Nat) : Byte :=
  match c.kind with
  | .node src _ _ => engineByte s c ((src + k) % 2 ^ 64)
  | _ => scrByte (getGroup s c.group) c.half (copyStart c + k)

/-- R214: another write has left the scratchpad byte undefined for the copy. -/
def isSpoiled (c : Copy) (a : Nat) : Bool := c.spoiled.any fun r => r.1 ≤ a && a < r.1 + r.2

/-- An undefined byte of a stream. -/
def openByte (s : State) (k : Nat) : Byte := (fresh s (2 ^ 17 + k % 2 ^ 16)).setWidth 8

/-- The bits of a memory byte that stream bits of a store or scatter go to: for each address of stream byte k, its bit and the stream's. -/
def storeBits (s : State) (c : Copy) (k : Nat) : List (Nat × List (Nat × Nat)) :=
  let ps := (List.range 8).filterMap fun i => (storeBit s c (8 * k + i)).map fun p => (p.1, p.2, i)
  ((ps.map (·.1)).dedup).map fun va => (va, (ps.filter fun p => p.1 == va).map (·.2))

/-- R233: a memory byte of which the copy writes a part: the bits that it does not write as they stand, or undefined where another agent has written them since the copy was accepted: that write may be lost. -/
def keptBits (s : State) (c : Copy) (va : Nat) : Byte :=
  let now := engineByte s c va
  match c.edges.find? fun e => e.1 == va with
  | some (_, old, mine) =>
    if (old ^^^ now) &&& ~~~mine = 0 then now else (now &&& mine) ||| (openByte s (4096 + va) &&& ~~~mine)
  | none => now

/-- R233: the writes of stream byte k: address and the byte merged with what it holds. DEDUCED: log 98. -/
def byteWrites (s : State) (c : Copy) (k : Nat) : List (Nat × Byte) :=
  match c.kind with
  | .node _ dst _ => [((dst + k) % 2 ^ 64, sourceByte s c k)]
  | _ =>
    let x := if isSpoiled c (copyStart c + k) then openByte s k else sourceByte s c k
    (storeBits s c k).map fun (va, ps) =>
      let old := if ps.length = 8 then 0 else keptBits s c va
      (va, ps.foldl (fun b p => if x.getLsbD p.2 then b ||| BitVec.twoPow 8 p.1 else b &&& ~~~(BitVec.twoPow 8 p.1)) old)

/-- R233: the memory bytes of which a copy writes a part of the bits, as they stand. -/
def copyEdges (s : State) (c : Copy) : List (Nat × Byte × Byte) :=
  if descBits c.desc ≥ 8 then []
  else
    let bits : Map Byte := (List.range c.bytes).foldl (fun m k =>
      (storeBits s c k).foldl (fun m e =>
        mapSet m e.1 (e.2.foldl (fun b p => b ||| BitVec.twoPow 8 p.1) (mapGetD m e.1 0))) m) []
    (bits.filter fun e => e.2 != 0xFF).filterMap fun e => match checkPage s (copyUnit c) c.iface e.1 {} with
      | .ok .. => some (e.1, engineByte s c e.1, e.2)
      | _ => none

/-- R215, R221: a copy takes a slot and stands in its engine's queue; its destination lines are marked empty. Its key is `s.next`; `own` is the operation that a raised copy feeds. DEDUCED: log 48. -/
def acceptCopy (s : State) (c : Copy) (n : Nat) (own : Option Nat) : State :=
  let k := c.core * 64 + n
  let old := slotOf s c.core n
  let gen := (old.gen + 1) % 1024
  let now := coreTime s c.core
  let c1 := { c with
    slot := n, id := gen * 64 + n, st := .queued
    promise := if c.bytes = 0 then now else now + Config.promiseTicks s.next }
  let kept := match old.copy with
    | some id => mapErase s.copies id
    | none => s.copies
  let s1 := { s with
    copies := mapSet kept s.next c1, next := s.next + 1
    copySlots := mapSet s.copySlots k { gen := gen, copy := some s.next, freed := old.freed } }
  let s2 := (copyLines c1).foldl (fun s n => emptyLine s c.group c.half n) (updCopy s1 s.next fun c => { c with edges := copyEdges s1 c })
  acceptMarks s2 s.next own

/-- A copy that writes memory. -/
def writesMemory : CopyKind → Bool
  | .store _ | .scatter | .node .. => true
  | _ => false

/-- A run of undefined operand bytes without the scratchpad bytes from a on. -/
def cutRun (a n : Nat) (r : Bool × Nat × Nat) : List (Bool × Nat × Nat) :=
  if r.1 then [r]
  else [(false, r.2.1, min (r.2.1 + r.2.2) a - r.2.1), (false, max r.2.1 (a + n), r.2.1 + r.2.2 - max r.2.1 (a + n))].filter fun x => x.2.2 != 0

/-- R355: a copy or a QPACK writes scratchpad bytes: an operation that fetches them later sees them. -/
def cleanPending (s : State) (gi half a n : Nat) : State :=
  { s with arrays := mapAll s.arrays fun _ l => l.map fun x =>
      if x.group = gi ∧ x.half = half then { x with bad := x.bad.flatMap (cutRun a n) } else x }

/-- R302: bytes land in a line that has become a barrier: all that it holds is undefined. -/
def openLine (s : State) (gi half n : Nat) : State :=
  updGroup s gi fun g => setScr g half (128 * n) ((List.range 128).map fun k => openByte s (8192 + 128 * n + k))

/-- R216: lands the stream bytes from lo up to hi; lines whose last byte lands become full (R212). -/
def landBytes (s : State) (id lo hi : Nat) : State :=
  let c := getCopy s id
  let ks := (List.range (hi - lo)).map (lo + ·)
  let s0 := updCopy s id fun c => { c with begun := c.begun || lo < hi, filled := c.filled || usesFill s c lo hi }
  match c.kind with
  | .load .. | .gather .. =>
    let a := copyStart c + lo
    let out := ks.map fun k => if isSpoiled c (copyStart c + k) then openByte s k else outByte s c k
    let s1 := (ks.flatMap fun k => (byteNeeds s c k).map (·.1)).foldl (engineFill c) s0
    let s2 := updGroup s1 c.group fun g => setUnf (setScr g c.half a out) false c.half a (hi - lo) none
    let s3 := cleanPending (spoilMail s2 c.group c.half a (hi - lo)) c.group c.half a (hi - lo)
    let s4 := ((linesOf a (hi - lo)).filter fun n => (lineOf (getGroup s c.group) c.half n).bar).foldl (fun s n => openLine s c.group c.half n) s3
    let last (n : Nat) : Nat := min (128 * (n + 1)) (copyStart c + c.bytes)
    ((linesOf a (hi - lo)).filter fun n => last n ≤ copyStart c + hi).foldl (fun s n =>
      if lineSettled s c.group c.half n (some id) none then fillLine s c.group c.half n else s) s4
  | .bstack .. =>
    let out := ks.map (outByte s c)
    let s1 := (ks.flatMap fun k => (byteNeeds s c k).map (·.1)).foldl (engineFill c) s0
    updGroup s1 c.group fun g => { g with
      bstack := (ks.zip out).foldl (fun m (k, b) => mapSet m (c.half * 2 ^ 21 + copyStart c + k) b) g.bstack }
  | .store _ | .scatter | .node .. =>
    let (s1, ws, st) := ks.foldl (fun r k =>
      (byteWrites r.1 c k).foldl (fun r (va, b) => engineWrite c r va b) r) (s0, [], c.stamp)
    let lvl := scopeLevel ((getGroup s c.group).cores.length == 2) c.scope
    let (s2, n, hst) := if c.node.isSome then (s1, 0, none) else ownPush s1 c.core lvl id ws
    let vas := ks.flatMap fun k => (byteNeeds s c k).map fun x => (k, x.1)
    updCopy s2 id fun c => { c with
      acks := c.acks + n, stamp := hst.toList.foldl laterStamp st
      landed := if c.node.isSome then [] else c.landed ++ vas.filterMap fun x => match checkPage s (copyUnit c) c.iface x.2 {} with
        | .ok pa _ _ => some (copyStart c + x.1, pa)
        | _ => none
      wrote := match c.kind with
        | .scatter => vas.foldl (fun l x => if l.contains x.2 then l else l ++ [x.2]) c.wrote
        | _ => c.wrote }

/-- R226: the bytes of a chunk that have landed before its access at stream byte k fails: how many is open. -/
def landedBefore (s : State) (c : Copy) (k : Nat) : Nat :=
  chunkLo c + Config.pick (s.free + freeBase) % (k - chunkLo c + 1)

/-! ### Stops and suspension (R226 to R228) -/

/-- R235: the CAUSE of a stopped copy. -/
def copyCause (cause : Nat) : Nat := if cause = causeAccess then 2 else if cause = causeProtect then 3 else 4

/-- R227, R398: the trap of a stopped copy. -/
def copyAsync (id : Nat) (c : Copy) (cause addr : Nat) : Async := {
  cause := cause, detail := if c.raised then 3 else 1, addr := addr, aux1 := BitVec.ofNat 32 (copyId c)
  aux2 := BitVec.ofNat 32 c.cursor, copy := some id }

/-- R227: a copy stops: its state is 3, its parked access is dropped, and its entries are signalled (R298). Who is told follows. -/
def markStopped (s : State) (id cause : Nat) : State :=
  let s1 := updCopy s id fun c => { c with st := .stopped, cause := copyCause cause }
  signalCopy { s1 with parks := mapFilter s1.parks fun _ p => p.copy != some id } (getCopy s1 id)

/-- R353: the array operation that a raised copy stops: its core, place, and itself. -/
def raisedFor (s : State) (id : Nat) : Option (Nat × ArrayOp) :=
  s.arrays.findSome? fun e => (e.2.find? fun a => a.copyA == some id || a.copyB == some id).map fun a => (e.1, a)

/-- R354: the array works on one operation and has a queue of eight; the others wait to issue. An operation that issues raises its copies. -/
def fillQueue (l : List ArrayOp) : List ArrayOp :=
  l.mapIdx fun n a => if n < 9 && !a.issued then { a with issued := true, wantA := a.op.ha, wantB := a.op.hb } else a

/-- R353: a raised copy that stops abandons its operation: every signer's counter falls, and the next one that waits issues; the signers that have a thread take the trap. -/
def abandonOp (s : State) (id : Nat) (tr : Async) : State :=
  let s2 := match raisedFor s id with
    | none => s
    | some (core, a) =>
      let s1 := { s with arrays := mapUpd s.arrays core fun l => fillQueue (l.erase a) }
      a.signers.foldl (fun s g => finishOp s g.2) s1
  let live := (getCopy s id).signers.dedup.filter fun w => match mapGet s2.warps w with
    | some x => !allEnded x
    | none => false
  if live.isEmpty then copyStopLost s2 tr else live.foldl (fun s w => latchAsync s w tr) s2

/-- R227, R228, R353: a copy stops: its warp, or the signers of a raised copy, take an asynchronous trap; a node's copy fails its node. -/
def haltCopy (s : State) (id cause addr : Nat) : State :=
  if !unfinished (getCopy s id) || (mapGet s.copies id).isNone then s
  else
    let s1 := markStopped s id cause
    let c := getCopy s1 id
    match c.node with
    | some (g, n) => send s1 (nodeChan g n) (.nodeFail g n 4 (copyCause cause))
    | none => if c.raised then abandonOp s1 id (copyAsync id c cause addr) else latchAsync s1 c.warp (copyAsync id c cause addr)

/-- R226: a copy parks an access and is suspended; with no entry free it is tried again (R192). DEDUCED: log 49. -/
def suspendCopy (s : State) (id va : Nat) : State :=
  let c := getCopy s id
  let q := quadOf c.core
  match mapFree s.parks (q * 8192) 8192 with
  | none => s
  | some k =>
    let access := if writesMemory c.kind then 5 else 4
    let p : Park := { iface := c.iface, page := va / 4096, line := va / 256, va := va, access := access, copy := some id, order := s.next }
    let s1 := { s with parks := mapSet s.parks k p, next := s.next + 1 }
    replayRecord (updCopy s1 id fun c => { c with st := .suspended, cause := 1 }) c.iface
      (faultRecord 1 access q (k % 8192) (copyId c) c.cursor va 0)

/-- R216: the cursor chunk lands, is suspended, or meets a barrier line. DEDUCED: log 42. -/
def landChunk (s : State) (id : Nat) : State :=
  let c := getCopy s id
  match chunkBar s c with
  | some n => haltCopy s id causeOverlap (128 * n)
  | none => match chunkFault s c with
    | none =>
      updCopy (landBytes s id (chunkLo c) (chunkHi c)) id fun c => { c with cursor := c.cursor + 1, begun := false, st := .running }
    | some (k, va, .park) => suspendCopy (landBytes s id (chunkLo c) (landedBefore s c k)) id va
    | some (k, va, .trap cause) => haltCopy (landBytes s id (chunkLo c) (landedBefore s c k)) id cause va
    | some _ => s

/-- The copy is being carried out. -/
def copyRuns (c : Copy) : Bool := c.st == .queued || c.st == .running

/-- Copies before it in its engine's queue, of its interface: served in the order of acceptance. -/
def copyFirst (s : State) (id : Nat) (c : Copy) : Bool :=
  !(s.copies.any fun e => e.1 < id && copyRuns e.2 && chunksLeft e.2 && e.2.iface == c.iface
    && e.2.node.isNone == c.node.isNone && clusterOf e.2.core == clusterOf c.core)

/-- The next chunk of a copy can land. -/
def chunkMay (s : State) (id : Nat) (c : Copy) : Bool :=
  copyRuns c && chunksLeft c && copyFirst s id c && sourcesFull s c

def execCopyChunkLand (s : State) : Host.Outcome State Fault Refusal :=
  event s fun m s => match m with
    | .copyChunkLand id => some (if chunkMay s id (getCopy s id) then landChunk s id else s)
    | _ => none

/-- COPY_STOP: an error response to a copy's access: a DENY, or an error that cannot be corrected. -/
def execCopyStop (s : State) : Host.Outcome State Fault Refusal :=
  event s fun m s => match m with
    | .copyStop id cause addr => some (haltCopy s id cause addr)
    | _ => none

/-- R353. -/
def execRaisedCopyStop (s : State) : Host.Outcome State Fault Refusal :=
  event s fun m s => match m with
    | .raisedCopyStop id cause addr => some (haltCopy s id cause addr)
    | _ => none

/-! ### Done and LATE (R218, R220) -/

/-- R202, R217: its writes are complete. -/
def copyPublished (s : State) (c : Copy) : Bool :=
  c.acks == 0 && c.stamp.all fun t => t + 2 * s.sys.gband ≤ coreTime s c.core

def copyDoneMay (s : State) (c : Copy) : Bool := copyRuns c && !chunksLeft c && copyPublished s c

/-- R355: a copy into the B-stack is done: its arrival makes that known to its barrier's waiters. -/
def markDone (s : State) (id : Nat) (c : Copy) : State :=
  let done (g : Group) (u : Unf) : Unf :=
    if u.copy == some id then
      let l := match c.bar with
        | some n => (n, barPhase g c.half n) :: u.lines
        | none => u.lines
      { u with fenced := true, lines := l }
    else u
  updGroup s c.group fun g => { g with unfenced := mapAll g.unfenced fun _ u => done g u }

/-- R218: the copy is done: its slot is free, its arrival credits the bytes landed, its entries are signalled. -/
def finishCopy (s : State) (id : Nat) : State :=
  let s1 := updCopy s id fun c => { c with st := .done, cause := 0, landed := [], edges := [] }
  let c := getCopy s1 id
  match c.node with
  | some (g, n) => send s1 (nodeChan g n) (.nodeComplete g n)
  | none =>
    let bytes := match c.kind with
      | .scatter => c.wrote.length
      | _ => c.credit
    signalCopy (copyArrive (freeSlot (markDone s1 id c) c) c bytes false) c

def execCopyDone (s : State) : Host.Outcome State Fault Refusal :=
  event s fun m s => match m with
    | .copyDone id => some (if copyDoneMay s (getCopy s id) then finishCopy s id else s)
    | _ => none

/-- R220: GTIME has passed the promise and the copy is not done. -/
def lateMay (s : State) (c : Copy) : Bool :=
  unfinished c && !c.lateSent && c.node.isNone && c.promise ≤ coreTime s c.core

def execCopyLate (s : State) : Host.Outcome State Fault Refusal :=
  event s fun m s => match m with
    | .copyLate id =>
      let c := getCopy s id
      some (if lateMay s c then
        signalWarp (updCopy s id fun c => { c with lateSent := true }) c.warp fun e => e.typ == 3 && e.object == copyId c
      else s)
    | _ => none

end Sys2Proof.Machine
end

