-- ==== Sys2Proof/Machine/CopyWords.lean ====
section
/-! DEFINITION. TDESC, CPY, CPYG, CPYS and CPYQ (R232 to R236), and the acceptance of their copies. -/

namespace Sys2Proof.Machine

/-! ### TDESC (R232) -/

/-- A block of K registers from the one that an operand names. -/
def kBlockVal (s : State) (i : Issue) (o : Opd) (n : Nat) : List Word :=
  match o with
  | .k a => (List.range n).map fun k => kWord s i.w (getWarp s i.w) (a.toNat + k)
  | _ => []

/-- R232: the descriptor of a slot as a warp sees it: an old or the new one, each whole, while another warp's write is not ordered. -/
def descOf (s : State) (w h : Nat) : Option (List Word) :=
  let g := getGroup s (getWarp s w).group
  seenBy s w (freeBase + 8192 + h) (mapGet g.desc h) ((g.descPend.filter fun p => p.slot == h).map fun p => ⟨p.old, p.warp, p.seq⟩)

/-- R232: a slot is written; `keep`: a write of another warp that is not ordered comes after it. -/
def putDesc (g : Group) (w seq h : Nat) (d : List Word) (keep : Bool) : Group :=
  { g with desc := if keep then g.desc else mapSet g.desc h d, descPend := ⟨h, mapGet g.desc h, w, seq⟩ :: g.descPend }

def execTdesc (c : Ctl) (h a : Opd) (s : State) : Host.Outcome State Fault Refusal :=
  issue s c fun i s =>
    let n := lowVal s i h 1
    let d := kBlockVal s i a 16
    if n > 31 || !descOk d then trapSet s i causeOperand
    else updGroup s (getWarp s i.w).group fun g =>
      let other := g.descPend.any fun p => p.slot == n && p.warp != i.w
      putDesc g i.w s.next n d (other && Config.pick (s.free + freeBase + 8256 + n) % 2 = 0)

/-! ### CPY, CPYG, CPYS (R233, R234) -/

def bstackSize (s : State) (x : Warp) : Nat := (getLaunch s x.launch).record.bstack * 65536

/-- R233: the barrier that a copy names: none, or a line of the allotment with BAR set; the reserved bits are zero. -/
def barOk (s : State) (x : Warp) (box : List Word) : Bool :=
  wordNat box 11 / 2 ^ 13 % 2 ^ 18 == 0 && match boxBar box with
    | none => true
    | some n => 128 * (n + 1) ≤ scratchSize s x && (lineOf (getGroup s x.group) (halfOf s x) n).bar

/-- A run of bytes within the scratchpad allotment. -/
def inScratch (s : State) (x : Warp) (a n : Nat) : Bool := a + n ≤ scratchSize s x

/-- R224, R225, R233: the checks of a box of a CPY with its layout: bytes of the stream where they pass. -/
def cpyBytes (d box : List Word) (t : Bool) (layout : Nat) : Option Nat :=
  if boxEmpty box then some 0
  else if !boxOk d box then none
  else if layout = 0 then some ((boxCount box * descBits d + 7) / 8)
  else if canonOk d box t layout then some (canonBytes box t layout) else none

/-- The bytes of memory that a store writes (R218). -/
def storeCredit (d box : List Word) : Nat :=
  ((List.range (boxCount box)).foldl (fun (m : Map Unit) e =>
    ((elemSrc d (boxIndex box (rawIndex box false e))).needs).foldl (fun m va => mapSet m va ()) m) []).length

/-- A copy of an issuing warp, as its word gives it. -/
def protoCopy (s : State) (i : Issue) (kind : CopyKind) (sc : Scope) (d d2 box : List Word) (bytes : Nat) : Copy :=
  let x := getWarp s i.w
  { kind := kind, core := x.core, group := x.group, half := halfOf s x, warp := i.w, iface := x.iface, pc := i.pc, scope := sc
    desc := d, desc2 := d2, box := box, bytes := bytes, bar := boxBar box
    credit := match kind with
      | .store _ => storeCredit d box
      | _ => bytes }

/-- The checks of a CPY word: the copy that it asks for, or OPERAND. -/
def cpyProto (s : State) (i : Issue) (kind : CopyKind) (sc : Scope) (a b : Opd) : Option Copy :=
  let x := getWarp s i.w
  let box := kBlockVal s i a 12
  let h := lowVal s i b 1
  match if h > 31 then none else descOf s i.w h with
  | none => none
  | some d =>
    let (t, layout) : Bool × Nat := match kind with
      | .load t l | .bstack t l => (t, l)
      | .store t => (t, 0)
      | _ => (false, 0)
    match cpyBytes d box t layout with
    | none => none
    | some n =>
      let dest := boxPlace box
      let placed : Bool := match kind with
        | .bstack .. => dest % 128 == 0 && dest + n ≤ bstackSize s x
        | _ => (layout == 0 || dest % 128 == 0) && inScratch s x dest n
      if (!t || descWidth d ≤ 4) && barOk s x box && (n == 0 || placed) then some (protoCopy s i kind sc d [] box n) else none

/-- The checks of a CPYG or CPYS word. -/
def rowProto (s : State) (i : Issue) (kind : CopyKind) (sc : Scope) (pool comp : Nat) (a b : Opd) : Option Copy :=
  let x := getWarp s i.w
  let box := kBlockVal s i a 12
  let h := lowVal s i b 1
  match if h > 31 then none else descOf s i.w h with
  | none => none
  | some d =>
    let d2 := if comp = 0 || h ≥ 31 then none else descOf s i.w (h + 1)
    let rows := match kind with
      | .gather .. => rowBags box
      | _ => rowCount box
    let n := (rows * rowCols box * descBits d + 7) / 8
    if rowsOk d d2 box pool comp && barOk s x box &&
        (n == 0 || (inScratch s x (boxPlace box) n && inScratch s x (rowList box) (4 * rowCount box))) then
      some (protoCopy s i kind sc d (d2.getD []) box n)
    else none

/-- R211: the operation of a copy word: until its acceptance it stands before later accesses to the lines that it marks. -/
def copyOp (o : Op) (c : Copy) (sc : Scope) : Op :=
  { o with
    scope := sc
    parts := if intoScratch c && c.bytes != 0 then
        [{ lane := lowLane o.lanes, va := copyStart c, pa := 2 ^ 60 + copyStart c, n := c.bytes }] else []
    copy := some c }

def copyWordIssue (s : State) (c : Ctl) (ins : Instr) (scope : Scope) (proto : Issue → Scope → State → Option Copy) :
    Host.Outcome State Fault Refusal :=
  issue s c fun i s => withScope s i scope fun sc s =>
    match proto i sc s with
    | none => trapSet s i causeOperand
    | some k => newOp s (copyOp (opOf ins i c) k sc)

def execCpyLoad (c : Ctl) (scope : Scope) (t : Bool) (layout : BitVec 3) (d a b : Opd) (s : State) : Host.Outcome State Fault Refusal :=
  copyWordIssue s c (.cpyLoad c scope t layout d a b) scope fun i sc s => cpyProto s i (.load t layout.toNat) sc a b
def execCpyBstack (c : Ctl) (scope : Scope) (t : Bool) (layout : BitVec 3) (d a b : Opd) (s : State) : Host.Outcome State Fault Refusal :=
  copyWordIssue s c (.cpyBstack c scope t layout d a b) scope fun i sc s => cpyProto s i (.bstack t layout.toNat) sc a b
def execCpyStore (c : Ctl) (scope : Scope) (t : Bool) (d a b : Opd) (s : State) : Host.Outcome State Fault Refusal :=
  copyWordIssue s c (.cpyStore c scope t d a b) scope fun i sc s => cpyProto s i (.store t) sc a b
def execCpyg (c : Ctl) (scope : Scope) (pool comp : BitVec 2) (d a b : Opd) (s : State) : Host.Outcome State Fault Refusal :=
  copyWordIssue s c (.cpyg c scope pool comp d a b) scope fun i sc s =>
    rowProto s i (.gather pool.toNat comp.toNat) sc pool.toNat comp.toNat a b
def execCpys (c : Ctl) (scope : Scope) (d a b : Opd) (s : State) : Host.Outcome State Fault Refusal :=
  copyWordIssue s c (.cpys c scope d a b) scope fun i sc s => rowProto s i .scatter sc 0 0 a b

/-- The destination quad of a copy word. -/
def copyDst : Instr → Option Opd
  | .cpyLoad _ _ _ _ d _ _ | .cpyBstack _ _ _ _ d _ _ | .cpyStore _ _ _ d _ _ | .cpyg _ _ _ _ d _ _ | .cpys _ _ d _ _ => some d
  | _ => none

/-- The scratchpad lines that a copy reads. -/
def sourceLines (c : Copy) : List Nat :=
  match c.kind with
  | .store _ => linesOf (copyStart c) c.bytes
  | .scatter => linesOf (copyStart c) c.bytes ++ linesOf (rowList c.box) (4 * rowCount c.box)
  | .gather .. => linesOf (rowList c.box) (4 * rowCount c.box)
  | _ => []

/-- R215: a copy word can be accepted: it holds a slot, and nothing before it is in the way. -/
def acceptMay (s : State) (id : Nat) (o : Op) : Bool :=
  takesSlot o.kind && !portHeld s id o && (nextSlot s o.core).isSome
    && !(o.parts.any fun p => (linesOf p.va p.n).any fun n => lineHeld s id o n)
    && !((o.copy.map sourceLines).getD []).any (markPending s o.warp id)

/-- R215, R233: the copy is accepted: its word completes with the id and the promise in the destination quad. A copy of no bytes is done (R219). -/
def acceptWord (s : State) (id : Nat) (i : Instr) (k : Copy) (n : Nat) : State :=
  let o := getOp s id
  let key := s.next
  let s1 := acceptCopy s k n none
  let c := getCopy s1 key
  let s2 := match copyDst i with
    | some (.v d) => retVs s1 o d.toNat 4 o.lanes fun _ => copyId c + 2 ^ 64 * (c.promise % 2 ^ 64)
    | _ => s1
  let s3 := finishOp s2 id
  if k.bytes = 0 then finishCopy s3 key else s3

/-- R353: the copy that a handle form raises. -/
def raisedCopy (s : State) (a : ArrayOp) (layout : Nat) (bform : Bool) : Copy :=
  let box := if bform then a.op.boxB else a.op.boxA
  let d := (if bform then a.op.descB else a.op.descA).getD []
  let n := canonBytes box false layout
  { kind := if bform then .bstack false layout else .load false layout, core := a.core, group := a.group, half := a.half
    warp := a.warp, iface := (getWarp s a.warp).iface, pc := a.pc, scope := .device, desc := d, box := box, bytes := n
    credit := n, bar := boxBar box, raised := true, signers := a.signers.map (·.1) }

/-- The layout code of an operation's operands (R353, R346). -/
def mmaLayout : MmaTy → Nat
  | .t8 | .int8 => 1
  | .t6 => 2
  | .bf16 => 3
  | .f32 => 4
  | .f64 => 5

/-- R353: an issued operation's raised copy takes a slot: that of A first. -/
def acceptRaised (s : State) (a : ArrayOp) (n : Nat) : State :=
  let key := s.next
  let bform := !a.wantA
  let a1 : ArrayOp := if bform then { a with wantB := false, copyB := some key } else { a with wantA := false, copyA := some key }
  let s1 := { s with arrays := mapUpd s.arrays a.core fun l => l.map fun x => if x.id = a.id then a1 else x }
  acceptCopy s1 (raisedCopy s1 a (mmaLayout a.op.ty) bform) n (some a.id)

/-- The operations that wait to raise a copy. -/
def raisers (s : State) : List ArrayOp := (mapVals s.arrays).flatten.filter fun a => a.wantA || a.wantB

def execCopyAccept (s : State) : Host.Outcome State Fault Refusal :=
  event s fun m s => match m with
    | .copyAccept id =>
      let o := getOp s id
      some (match (raisers s).find? fun a => a.id == id with
        | some a => match nextSlot s a.core with
          | some n => acceptRaised s a n
          | none => s
        | none => match o.kind, o.copy, nextSlot s o.core with
          | .word i, some k, some n => if acceptMay s id o then acceptWord s id i k n else s
          | _, _, _ => s)
    | _ => none

/-! ### CPYQ (R235, R236) -/

def execCpyqStat (c : Ctl) (d a : Opd) (s : State) : Host.Outcome State Fault Refusal :=
  issue s c fun i s => newOp s { opOf (.cpyqStat c d a) i c with args := [lowVal s i a 1] }

def execCpyqCancel (c : Ctl) (a : Opd) (s : State) : Host.Outcome State Fault Refusal :=
  issue s c fun i s => newOp s { opOf (.cpyqCancel c a) i c with args := [lowVal s i a 1] }

/-- R355: a warp has read that a copy is done. -/
def knowCopy (s : State) (w k : Nat) : State :=
  updGroup s (getWarp s w).group fun g =>
    { g with unfenced := mapAll g.unfenced fun _ u => if u.copy == some k then { u with known := w :: u.known } else u }

/-- R235, R236: the engine answers. -/
def replyCpyq (s : State) (id : Nat) (i : Instr) : State :=
  let o := getOp s id
  let x := getWarp s o.warp
  let n := o.args.getD 0 0
  if portHeld s id o then s
  else match i with
    | .cpyqStat _ (.v d) _ =>
      let s1 := match copyNamed s x n with
        | some (k, c) => if c.st == .done then knowCopy s o.warp k else s
        | none => s
      finishOp (retV s1 o d.toNat o.lanes fun _ => copyWord s x n) id
    | .cpyqCancel .. => match copyNamed s x n with
      | some (k, _) => finishOp (cancelCopy s k) id
      | none => finishOp s id
    | _ => finishOp s id

end Sys2Proof.Machine
end

