-- ==== Sys2Proof/Machine/MatrixData.lean ====
section
/-! DEFINITION. Tiles, B-rows and histograms (R343 to R346), and the values of a matrix operation (R143, R144). -/

namespace Sys2Proof.Machine

/-! ### Tiles and histograms (R345, R363) -/

def tileKey (half z row col : Nat) : Nat := ((half * 24 + z) * 128 + row) * 128 + col
def tileWord (g : Group) (half z row col : Nat) : Word := mapGetD g.tiles (tileKey half z row col) 0
def setTile (g : Group) (half z row col : Nat) (x : Word) : Group := { g with tiles := mapPut 0 g.tiles (tileKey half z row col) x }

def histKey (half z b : Nat) : Nat := (half * 24 + z) * 256 + b
def histBinOf (g : Group) (half z b : Nat) : Nat := mapGetD g.hist (histKey half z b) 0

/-- R145: a value adds one to its bin, saturating. -/
def feed (g : Group) (half z x : Nat) : Group :=
  let k := histKey half z (histBin x)
  { g with hist := mapPut 0 g.hist k (min (mapGetD g.hist k 0 + 1) 0xFFFFFFFF) }

/-- R344: a B-stack byte; none where nothing was written (R343). -/
def bstackByte (g : Group) (half a : Nat) : Option Byte := mapGet g.bstack (half * 2 ^ 21 + a)

/-! ### An operation (R144, R346) -/

/-- R144: elements of a K-block. -/
def kBlock : MmaTy → Nat
  | .f32 => 8
  | .f64 => 4
  | _ => 32

/-- Element k of a slice whose byte s is `sl s`. -/
def sliceElem (sl : Nat → Nat) (bits k : Nat) : Nat :=
  let b := k * bits
  (List.range ((b % 8 + bits + 7) / 8)).foldl (fun a i => a + sl (b / 8 + i) * 2 ^ (8 * i)) 0 / 2 ^ (b % 8) % 2 ^ bits

/-- R143: an operand element of a type that is no integer. -/
def mmaFp (ty : MmaTy) (x : Nat) : Fp :=
  match ty with
  | .t8 | .int8 => tapOf 8 x
  | .t6 => tapOf 6 x
  | .bf16 => fpOf fmtBF16 false x
  | .f32 => fpOf fmtF32 false x
  | .f64 => fpOf fmtF64 false x

/-- R144: one K-block: the rounded contribution `u` of the block. -/
def blockTerm (ty : MmaTy) (f : FFmt) (a b : Nat → Nat) (sa sb : Nat → Nat) (q : Nat) : Nat :=
  let n := kBlock ty
  let ps := (List.range n).map fun i => (fpMul (mmaFp ty (a (q * n + i))) (mmaFp ty (b (q * n + i)))).1
  let s := (sumFp .rn ps).1
  let scale (x : Nat) : Fp := if ty = .t8 ∨ ty = .t6 then e8Of x else .fin false 1 0
  (roundFp f .rn false (fpMul (fpMul s (scale (sa q))).1 (scale (sb q))).1).1

/-- R144: the new value of an accumulator element. `a` and `b` give the elements of row and column, `sa` and `sb` their scales. -/
def mmaElem (ty : MmaTy) (z : Nat) (a b sa sb : Nat → Nat) : Nat :=
  let k := (layoutOf (mmaLayout ty)).kstep
  if ty = .int8 then
    wrapTo 32 ((List.range k).foldl (fun x i => x + intVal .s8 (a i) * intVal .s8 (b i)) (z : Int))
  else
    let f := if ty = .f64 then fmtF64 else fmtF32
    (List.range (k / kBlock ty)).foldl (fun z q => (fAdd f .rn false z (blockTerm ty f a b sa sb q)).1) z

/-- The bytes of a slice that the operation uses: the scales of INT8 are ignored (R346). -/
def usedSlice (ty : MmaTy) : Nat :=
  let l := layoutOf (mmaLayout ty)
  if ty = .int8 then l.sl else l.sl + l.nq

/-- R346: where byte s of row i lies in A form, from the base. -/
def aPlace (ty : MmaTy) (i s : Nat) : Nat :=
  let l := layoutOf (mmaLayout ty)
  if s < l.sl then l.sl * i + s else 128 * l.sl + l.nq * i + (s - l.sl)

/-- Where the operation's A and B lie. -/
def mmaA (o : MmaOp) : Nat := (fetchRun o false).1
def mmaB (o : MmaOp) : Nat := (fetchRun o true).1

/-- R355, R214: a fetched byte of the operation that is undefined. -/
def badByte (a : ArrayOp) (bstack : Bool) (x : Nat) : Bool := a.bad.any fun r => r.1 == bstack && r.2.1 ≤ x && x < r.2.1 + r.2.2

def badRow (a : ArrayOp) (i : Nat) : Bool :=
  (List.range (usedSlice a.op.ty)).any fun s => badByte a false (mmaA a.op + aPlace a.op.ty i s)

def badCol (g : Group) (a : ArrayOp) (j : Nat) : Bool :=
  (List.range (usedSlice a.op.ty)).any fun s =>
    let x := mmaB a.op + 128 * s + j
    badByte a true x || (bstackByte g a.half x).isNone

/-- The tiles of an operation. -/
def mmaTiles (o : MmaOp) : List Nat := if o.ty = .f64 then [o.z, o.z + 1] else [o.z]

/-- The columns of a lane's four words in ZLD and ZST (R361): tile and column of each. -/
def rowCells (z : Nat) (half : Option Bool) (t : Nat) : List (Nat × Nat) :=
  match half with
  | none => (List.range 4).map fun e => (z, 4 * t + e)
  | some h =>
    let c := 64 * h.toNat + 2 * t
    [(z, c), (z + 1, c), (z, c + 1), (z + 1, c + 1)]

/-- R356: a tile word writes a word of an element of some tiles. -/
def Area.has (zs : List Nat) (i j : Nat) : Area → Bool
  | .tile z => zs.contains z
  | .row z r half lanes => r == i && (laneList lanes).any fun t => (rowCells z half t).any fun c => zs.contains c.1 && c.2 == j

/-- R144, R352, R355, R356, R111: the elements that the operation writes; an element with an undefined operand is a free value. -/
def mmaApply (s : State) (g : Group) (a : ArrayOp) : Group :=
  let o := a.op
  let l := layoutOf (mmaLayout o.ty)
  let rows := (List.range 128).map (badRow a)
  let cols := (List.range 128).map (badCol g a)
  let slA (i x : Nat) : Nat := (scrByte g a.half (mmaA o + aPlace o.ty i x)).toNat
  let slB (j x : Nat) : Nat := ((bstackByte g a.half (mmaB o + 128 * x + j)).getD 0).toNat
  let old (i j : Nat) : Nat :=
    (tileWord g a.half o.z i j).toNat + (if o.ty = .f64 then 2 ^ 32 * (tileWord g a.half (o.z + 1) i j).toNat else 0)
  let lost := a.signers.any fun g => (getOp s g.2).poison != 0
  let new (i j : Nat) : Nat :=
    if lost || a.mixed.any (Area.has (mmaTiles o) i j) || rows.getD i false || cols.getD j false then (fresh s (freeBase + 65536 + 128 * i + j)).toNat % 2 ^ 64
    else mmaElem o.ty (old i j) (sliceElem (slA i) l.bits) (sliceElem (slB j) l.bits)
      (fun q => slA i (l.sl + q)) (fun q => slB j (l.sl + q))
  (List.range 16384).foldl (fun g' k =>
    let v := new (k / 128) (k % 128)
    let g1 := setTile g' a.half o.z (k / 128) (k % 128) (BitVec.ofNat 32 v)
    if o.ty = .f64 then setTile g1 a.half (o.z + 1) (k / 128) (k % 128) (BitVec.ofNat 32 (v / 2 ^ 32)) else g1) g

/-! ### QPACK (R365, R147) -/

/-- The bytes that QPACK writes. -/
def packBytes (t6 : Bool) : Nat := if t6 then 12800 else 16896

/-- The scale of a block of 32 values: at a percentile, or given. -/
def packScale (t6 : Bool) (p : Option Nat) (e : Nat) (xs : List Nat) : Nat :=
  match p with
  | none => e
  | some p => scaleAt (fun b => (xs.filter fun x => histBin x == b).length) p (if t6 then 8 else 12)

/-- R147: one element's code under a scale. -/
def packCode (t6 : Bool) (e x : Nat) : Nat :=
  let y := match fpOf fmtF32 false x with
    | .fin s m g => Fp.fin s m (g - ((e : Int) - 127))
    | v => v
  tapEncode (if t6 then 6 else 8) y

/-- R365: byte k of the output; `tile` gives the words of a row and column. -/
def packByte (t6 : Bool) (p : Option Nat) (e : Nat) (tile : Nat → Nat → Nat) (k : Nat) : Nat :=
  let l := layoutOf (if t6 then 2 else 1)
  let (row, s) := blockPlace l false (k % l.block)
  let col0 := k / l.block * l.kstep
  let blk (q : Nat) : Nat := packScale t6 p e ((List.range 32).map fun i => tile row (col0 + 32 * q + i))
  if s < l.sl then
    (List.range 8).foldl (fun a i =>
      let c := (8 * s + i) / l.bits
      if (packCode t6 (blk (c / 32)) (tile row (col0 + c))).testBit ((8 * s + i) % l.bits) then a + 2 ^ i else a) 0
  else blk (s - l.sl)

end Sys2Proof.Machine
end

