-- ==== Sys2Proof/Machine/Matrix.lean ====
section
/-! DEFINITION. The matrix words (R348 to R365): convergence registers and signatures, the array, and the tile words. -/

namespace Sys2Proof.Machine

/-! ### Convergence registers (R348, R358) -/

def opdJ : Opd → Nat
  | .j n => n.val
  | _ => 0

def opdZ : Opd → Nat
  | .z n => n.val
  | _ => 0

def jOf (g : Group) (n : Nat) : JReg := mapGetD g.j n {}
def setJ (g : Group) (n : Nat) (j : JReg) : Group := { g with j := mapPut {} g.j n j }

/-- R358: the J word as a warp sees it: old or new while another warp's JSET is not ordered. DEDUCED: log 59. -/
def jSeen (s : State) (w n : Nat) : JReg :=
  let g := getGroup s (getWarp s w).group
  seenBy s w (freeBase + 8320 + n) (jOf g n) ((g.jPend.filter fun p => p.j == n).map fun p => ⟨p.old, p.warp, p.seq⟩)

/-- R348: the word of a J register. -/
def jWord (j : JReg) : Nat := j.core * 65536 + j.signed * 256 + j.size

def execJset (c : Ctl) (d a : Opd) (s : State) : Host.Outcome State Fault Refusal :=
  issue s c fun i s =>
    let n := opdJ d
    let size := lowVal s i a 1
    let gi := (getWarp s i.w).group
    if size = 0 || size > 96 || (jOf (getGroup s gi) n).signed ≠ 0 then trapSet s i causeOperand
    else updGroup s gi fun g =>
      let old := jOf g n
      { setJ g n { old with size := size, core := 0 } with jPend := ⟨n, old, i.w, s.next⟩ :: g.jPend }

def execJsetQ (c : Ctl) (d a : Opd) (s : State) : Host.Outcome State Fault Refusal :=
  fixedWord s c [] d 1 8 fun s _ i _ => jWord (jSeen s i.w (opdJ a))

/-! ### Signatures (R349 to R353) -/

/-- R353: a handle form's copy passes the checks of CPY and gives exactly one K-step. -/
def raisedOk (s : State) (x : Warp) (d : Option (List Word)) (box : List Word) (layout : Nat) (bform : Bool) : Bool :=
  match d with
  | none => false
  | some d =>
    let dest := boxPlace box
    let n := canonBytes box false layout
    !boxEmpty box && boxOk d box && canonOk d box false layout && boxExt box 0 == (layoutOf layout).kstep && barOk s x box
      && dest % 128 == 0 && (if bform then dest + n ≤ bstackSize s x else inScratch s x dest n)

/-- R349: the operation of a signature. -/
def signedOp (s : State) (i : Issue) (ty : MmaTy) (ha hb : Bool) (j : BitVec 4) (hA hB : BitVec 5) (z a b : Opd) : MmaOp :=
  { ty := ty, ha := ha, hb := hb, aux := hB ++ hA ++ j, z := opdZ z
    a := if ha then 0 else BitVec.ofNat 32 (lowVal s i a 1)
    b := if hb then 0 else BitVec.ofNat 32 (lowVal s i b 1)
    boxA := if ha then kBlockVal s i a 12 else []
    boxB := if hb then kBlockVal s i b 12 else []
    descA := if ha then descOf s i.w hA.toNat else none
    descB := if hb then descOf s i.w hB.toNat else none }

/-- R351: the checks of a signature's operands. -/
def operandsOk (s : State) (x : Warp) (o : MmaOp) : Bool :=
  let l := mmaLayout o.ty
  let n := (layoutOf l).block
  (o.ty != .f64 || (o.z % 2 == 0 && o.z + 1 < (getLaunch s x.launch).record.acc))
    && (if o.ha then raisedOk s x o.descA o.boxA l false else o.a.toNat % 128 == 0 && inScratch s x o.a.toNat n)
    && (if o.hb then raisedOk s x o.descB o.boxB l true else o.b.toNat % 128 == 0 && o.b.toNat + n ≤ bstackSize s x)

/-- R356: the tiles that a tile word uses. -/
def tilesUsed : OpKind → List Nat
  | .word i => match i with
    | .zclr _ z _ | .qhistRows _ z _ _ | .qpack _ _ _ _ z | .qpackE _ _ _ z _ => [opdZ z]
    | .zld _ h _ z _ => if h.isSome then [opdZ z, opdZ z + 1] else [opdZ z]
    | .zst _ h _ z _ => if h.isSome then [opdZ z, opdZ z + 1] else [opdZ z]
    | _ => []
  | _ => []

/-- R356: an incomplete tile word of the group on the same core uses one of the tiles. -/
def usesTile (s : State) (gi half : Nat) (zs : List Nat) (o : Op) : Bool :=
  opGroupOf s o == gi && halfOf s (getWarp s o.warp) == half && (tilesUsed o.kind).any zs.contains
where
  opGroupOf (s : State) (o : Op) : Nat := (getWarp s o.warp).group

/-- R356: the tile words that a tile word writes. -/
def areasOf (o : Op) : List Area :=
  match o.kind with
  | .word i => match i with
    | .zclr _ z _ => [.tile (opdZ z)]
    | .zst _ h _ z _ => [.row (opdZ z) (o.args.getD 0 0) h o.lanes]
    | _ => []
  | _ => []

/-- R355: a signer vouches for the bytes that it knows can be fetched. -/
def vouchFor (g : Group) (w j : Nat) : Group :=
  { g with unfenced := mapAll g.unfenced fun _ u =>
      if u.fenced && u.known.contains w && !u.vouch.contains j then { u with vouch := j :: u.vouch } else u }

/-- R355: fetched bytes for which no signer of the round vouches. DEDUCED: log 61. -/
def unseenBytes (g : Group) (half j : Nat) (o : MmaOp) : List (Bool × Nat × Nat) :=
  let run (bs : Bool) : List (Bool × Nat × Nat) :=
    let (a, n) := fetchRun o bs
    (List.range n).filterMap fun k => match mapGet g.unfenced (unfKey bs half (a + k)) with
      | some u => if u.vouch.contains j then none else some (bs, a + k, 1)
      | none => none
  (if o.ha then [] else run false) ++ (if o.hb then [] else run true)

/-- R352: a round's last signature issues the operation. DEDUCED: log 60. -/
def issueOp (s : State) (i : Issue) (j : Nat) (o : MmaOp) (signers : List (Nat × Nat)) (id : Nat) : State :=
  let x := getWarp s i.w
  let gi := x.group
  let half := halfOf s x
  let g := getGroup s gi
  let zs := mmaTiles o
  let mixed := (s.ops.filter fun e => usesTile s gi half zs e.2).flatMap fun e => areasOf e.2
  let a : ArrayOp := {
    group := gi, half := half, core := x.core, op := o, id := id, signers := signers, warp := i.w, pc := i.pc
    bad := unseenBytes g half j o, mixed := mixed }
  let g1 := { g with unfenced := mapAll g.unfenced fun _ u => { u with vouch := u.vouch.filter (· != j) } }
  let s1 := setGroup s gi g1
  { s1 with
    ops := mapAll s1.ops fun _ p => if usesTile s gi half zs p then { p with poison := allLanes } else p
    arrays := mapSet s1.arrays x.core (fillQueue (mapGetD s1.arrays x.core [] ++ [a])) }

/-- R349: a signature is counted: the operation is recorded; the last one issues it. -/
def sign (s : State) (i : Issue) (w : Op) (n size : Nat) (o : MmaOp) : State :=
  let x := getWarp s i.w
  let id := s.next
  let s1 := updGroup (newOp s w) x.group fun g => vouchFor g i.w n
  let j := jOf (getGroup s1 x.group) n
  let signers := j.signers ++ [(i.w, id)]
  let core := if j.signed = 0 then x.core else j.core
  if j.signed + 1 = size then
    issueOp (updGroup s1 x.group fun g => setJ g n { j with signed := 0, core := core, op := none, signers := [] }) i n o signers id
  else updGroup s1 x.group fun g => setJ g n { j with signed := j.signed + 1, core := core, op := some o, signers := signers }

def execMma (c : Ctl) (ty : MmaTy) (ha hb : Bool) (j : BitVec 4) (hA hB : BitVec 5) (z a b : Opd) (s : State) :
    Host.Outcome State Fault Refusal :=
  issue s c fun i s =>
    let x := getWarp s i.w
    let o := signedOp s i ty ha hb j hA hB z a b
    let r := jOf (getGroup s x.group) j.toNat
    let size := (jSeen s i.w j.toNat).size
    let clash := r.signed > 0 && (r.op != some o || r.core != x.core || r.signers.any fun g => g.1 == i.w)
    if !operandsOk s x o || size = 0 || clash then trapSet s i causeOperand
    else sign s i { opOf (.mma c ty ha hb j hA hB z a b) i c with phase := .asked } j.toNat size o

/-! ### The array (R352 to R354) -/

/-- R352, R353: the operands of the operation at the head are ready: its A lines are full, and no marking that a signer asked for before is still to come (R212). -/
def mmaReady (s : State) (core : Nat) : Bool :=
  match mapGetD s.arrays core [] with
  | [] => false
  | a :: _ =>
    let g := getGroup s a.group
    let copied := match a.copyB with
      | some k => !unfinished (getCopy s k) || (mapGet s.copies k).isNone
      | none => true
    a.issued && !a.wantA && !a.wantB && copied
      && (linesOf (fetchRun a.op false).1 (fetchRun a.op false).2).all fun n =>
        (lineOf g a.half n).full && a.signers.all fun k => !markPending s k.1 k.2 n

/-- R352: the operation is applied, whole; every signer's word completes; the next one that waits issues. -/
def mmaStep (s : State) (core : Nat) : State :=
  match mapGetD s.arrays core [] with
  | [] => s
  | a :: r =>
    let s1 := setGroup s a.group (mmaApply s (getGroup s a.group) a)
    let s2 := { s1 with arrays := mapPut [] s1.arrays core (fillQueue r) }
    a.signers.foldl (fun s g => finishOp s g.2) s2

def execMmaComplete (s : State) : Host.Outcome State Fault Refusal :=
  event s fun m s => match m with
    | .mmaComplete core => some (if mmaReady s core then mmaStep s core else s)
    | _ => none

/-! ### Tile words: issue (R359 to R365) -/

/-- R356: a tile word becomes incomplete; issued while an operation of its group on the core uses its tile, it reads undefined values, and what it writes is undefined also after the operation. -/
def tileNew (s : State) (o : Op) : State :=
  let x := getWarp s o.warp
  let l := mapGetD s.arrays x.core []
  let hit (a : ArrayOp) : Bool := a.group == x.group && a.half == halfOf s x && (mmaTiles a.op).any (tilesUsed o.kind).contains
  if l.any hit then
    newOp { s with arrays := mapSet s.arrays x.core (l.map fun a => if hit a then { a with mixed := a.mixed ++ areasOf o } else a) }
      { o with poison := allLanes }
  else newOp s o

/-- A tile word issues, with the values that it takes once for its set. -/
def tileIssue (s : State) (i : Issue) (c : Ctl) (ins : Instr) (args : List Nat) (vals : Option (Nat → Nat) := none) : State :=
  let ps := match vals with
    | some f => (laneList i.act).map fun t => { lane := t, va := 0, pa := 2 ^ 62, n := 1, val := BitVec.ofNat 128 (f t) : Part }
    | none => []
  tileNew s { opOf ins i c with args := args, parts := ps }

def execMfenceOp (c : Ctl) (s : State) : Host.Outcome State Fault Refusal :=
  issue s c fun i s => newOp s (opOf (.mfenceOp c) i c)

def execZclr (c : Ctl) (z a : Opd) (s : State) : Host.Outcome State Fault Refusal :=
  issue s c fun i s => tileIssue s i c (.zclr c z a) [lowVal s i a 1]

/-- R361: ZLD and ZST take their row from the lowest active lane. -/
def rowWord (s : State) (c : Ctl) (ins : Instr) (b : Opd) (vals : Issue → State → Option (Nat → Nat)) : Host.Outcome State Fault Refusal :=
  issue s c fun i s =>
    let row := lowVal s i b 1
    if row > 127 then trapSet s i causeOperand else tileIssue s i c ins [row] (vals i s)

def execZld (c : Ctl) (half : Option Bool) (d z b : Opd) (s : State) : Host.Outcome State Fault Refusal :=
  rowWord s c (.zld c half d z b) b fun _ _ => none

/-- FD of ZST is the quad, FA the tile. -/
def execZst (c : Ctl) (half : Option Bool) (d z b : Opd) (s : State) : Host.Outcome State Fault Refusal :=
  rowWord s c (.zst c half d z b) b fun i s => some (srcVal s i.w (getWarp s i.w) d 4)

def execBload (c : Ctl) (d a b : Opd) (s : State) : Host.Outcome State Fault Refusal :=
  issue s c fun i s =>
    let x := getWarp s i.w
    let n := lowVal s i d 1
    let src := lowVal s i a 1
    let dst := lowVal s i b 1
    if n = 0 then s
    else if dst % 128 ≠ 0 || src % 128 ≠ 0 then trapSet s i causeAlign 0 (if dst % 128 ≠ 0 then dst else src)
    else if dst + 128 * n > bstackSize s x || !inScratch s x src (128 * n) then
      trapSet s i causeAccess 0 (if dst + 128 * n > bstackSize s x then dst else src)
    else
      let id := s.next
      let s1 := tileIssue s i c (.bload c d a b) [n, dst, src, 0]
      let s2 := updGroup s1 x.group fun g => setUnf g true (halfOf s x) dst (128 * n) (some { warp := i.w, op := id })
      touchPending s2 x.group (halfOf s x) true dst (128 * n) none

/-- R145: a value of QHIST as FP32. -/
def histValue (ty : Ty) (v : Nat) : Nat :=
  if ty = .f32 then v % 2 ^ 32 else (roundFp fmtF32 .rn false (fpOf (fmtOf ty) false (v % 2 ^ 16))).1

def execQhist (c : Ctl) (ty : Ty) (z a : Opd) (s : State) : Host.Outcome State Fault Refusal :=
  issue s c fun i s =>
    tileIssue s i c (.qhist c ty z a) [] (some fun t => histValue ty (srcVal s i.w (getWarp s i.w) a 1 t))

def execQhistRows (c : Ctl) (z a b : Opd) (s : State) : Host.Outcome State Fault Refusal :=
  issue s c fun i s =>
    let row := lowVal s i a 1
    let n := lowVal s i b 1
    if n < 1 || n > 128 || row + n > 128 then trapSet s i causeOperand
    else tileIssue s i c (.qhistRows c z a b) [row, n]

def execQhistClr (c : Ctl) (z : Opd) (s : State) : Host.Outcome State Fault Refusal :=
  issue s c fun i s => tileIssue s i c (.qhistClr c z) []

def execQscale (c : Ctl) (t6 : Bool) (d z b : Opd) (s : State) : Host.Outcome State Fault Refusal :=
  issue s c fun i s =>
    let p := lowVal s i b 1
    if p < 1 || p > 256 then trapSet s i causeOperand else tileIssue s i c (.qscale c t6 d z b) [p]

/-- R365: the checks of QPACK; its operation first marks its lines in the order of issue (R211, R367), then writes. -/
def packWord (s : State) (c : Ctl) (ins : Instr) (t6 : Bool) (d : Opd) (pe : State → Issue → Nat) (eMax : Option Nat) :
    Host.Outcome State Fault Refusal :=
  issue s c fun i s =>
    let x := getWarp s i.w
    let a := lowVal s i d 1
    let n := packBytes t6
    let v := pe s i
    if a % 128 ≠ 0 then trapSet s i causeAlign 0 a
    else if !inScratch s x a n then trapSet s i causeAccess 0 a
    else match (linesOf a n).find? fun l => (lineOf (getGroup s x.group) (halfOf s x) l).bar with
      | some l => trapSet s i causeBarclobber 0 (128 * l)
      | none =>
        if eMax.any (fun m => v > m) then trapSet s i causeOperand
        else
          tileNew s { opOf ins i c with
            args := [a / 128, n / 128, v]
            parts := [{ lane := lowLane i.act, va := a, pa := 2 ^ 60 + a, n := n }] }

def execQpack (c : Ctl) (t6 : Bool) (p : BitVec 8) (d z : Opd) (s : State) : Host.Outcome State Fault Refusal :=
  packWord s c (.qpack c t6 p d z) t6 d (fun _ _ => p.toNat + 1) none

def execQpackE (c : Ctl) (t6 : Bool) (d z b : Opd) (s : State) : Host.Outcome State Fault Refusal :=
  packWord s c (.qpackE c t6 d z b) t6 d (fun s i => lowVal s i b 1) (some 0xFE)

/-! ### Tile words: completion -/

/-- The tile of a word that feeds, clears or reads a histogram. -/
def histTile : OpKind → Option Nat
  | .word i => match i with
    | .qhist _ _ z _ | .qhistRows _ z _ _ | .qhistClr _ z | .qscale _ _ _ z _ => some (opdZ z)
    | _ => none
  | _ => none

/-- R363: an earlier feed or clear of the same histogram is not applied. -/
def histHeld (s : State) (id : Nat) (o : Op) : Bool :=
  match histTile o.kind with
  | none => false
  | some z => s.ops.any fun e => e.1 < id && histTile e.2.kind == some z
      && (getWarp s e.2.warp).group == (getWarp s o.warp).group && halfOf s (getWarp s e.2.warp) == halfOf s (getWarp s o.warp)

/-- R359: an earlier STS or scratchpad atomic of the warp is not performed. -/
def storesBefore (s : State) (id w : Nat) : Bool :=
  (opsBefore s w id).any fun e => match e.2.kind with
    | .word i => match i with
      | .sts .. => true
      | .atom _ _ t _ _ | .atomf _ _ t _ _ | .cas _ _ t _ _ => t.scratch
      | _ => false
    | _ => false

/-- The word is one that TILE_WORD_COMPLETE moves on. -/
def isTileWord : OpKind → Bool
  | .word i => match i with
    | .mfenceOp .. | .zclr .. | .zld .. | .zst .. | .bload .. | .qhist .. | .qhistRows .. | .qhistClr .. | .qscale .. | .qpack ..
    | .qpackE .. => true
    | _ => false
  | _ => false

/-- What TILE_WORD_COMPLETE can do now for a word. -/
def tileMay (s : State) (id : Nat) (o : Op) : Bool :=
  let x := getWarp s o.warp
  isTileWord o.kind && !histHeld s id o && match o.kind with
    | .word (.mfenceOp _) => !storesBefore s id o.warp
    | .word (.bload ..) =>
      let n := o.args.getD 2 0 / 128 + o.args.getD 3 0
      (lineOf (getGroup s x.group) (halfOf s x) n).full && !markPending s o.warp id n
    | .word (.qpack ..) | .word (.qpackE ..) =>
      o.phase == .asked || !(o.parts.any fun p => (linesOf p.va p.n).any fun n => lineHeld s id o n)
    | _ => true

/-- An undefined word of a tile word (R356, R111). -/
def openWord (s : State) (k : Nat) : Word := (fresh s (freeBase + 131072 + k)).setWidth 32

/-- R359: the writer's earlier writes can be fetched. -/
def fenceWrites (g : Group) (w id : Nat) (bstack : Bool) : Group :=
  { g with unfenced := mapAll g.unfenced fun k u =>
      if u.warp = w ∧ u.copy = none ∧ (2 ^ 23 ≤ k) = bstack ∧ (if bstack then u.op = id else u.op < id) then
        { u with fenced := true, known := if u.known.contains w then u.known else w :: u.known }
      else u }

/-- R362: BLOAD copies lines while they are full. -/
def bloadStep (s : State) (id : Nat) : Nat → State
  | 0 => s
  | k + 1 =>
    let o := getOp s id
    let x := getWarp s o.warp
    let half := halfOf s x
    let g := getGroup s x.group
    let m := o.args.getD 3 0
    let dst := o.args.getD 1 0
    let src := o.args.getD 2 0
    if m ≥ o.args.getD 0 0 then finishOp (updGroup s x.group fun g => fenceWrites g o.warp id true) id
    else if !(lineOf g half (src / 128 + m)).full || markPending s o.warp id (src / 128 + m) then s
    else
      let g1 := (List.range 128).foldl (fun (g : Group) j =>
        { g with bstack := mapSet g.bstack (half * 2 ^ 21 + dst + 128 * m + j) (
            if o.poison = 0 then scrByte g half (src + 128 * m + j) else (openWord s (128 * m + j)).setWidth 8) }) g
      bloadStep (updOp (setGroup s x.group g1) id fun o => { o with args := o.args.set 3 (m + 1) }) id k

/-- R365, R292: QPACK is accepted and marks its lines, or finds one that has become a barrier and traps; then it writes them, and lines in which no accepted copy has bytes to land become full (R212). -/
def packStep (s : State) (id : Nat) (t6 : Bool) (p : Option Nat) (z : Nat) : State :=
  let o := getOp s id
  let x := getWarp s o.warp
  let half := halfOf s x
  let lines := (List.range (o.args.getD 1 0)).map (o.args.getD 0 0 + ·)
  let a := 128 * o.args.getD 0 0
  if o.phase == .ready then
    match lines.find? fun n => (lineOf (getGroup s x.group) half n).bar with
    | some n =>
      deliver (finishOp s id) o.warp o.pc
        (liveTraps x ((laneList o.lanes).map fun t => { lane := t, cause := causeBarclobber, addr := 128 * n }))
    | none => lines.foldl (fun s n => emptyLine s x.group half n) (updOp s id fun o => { o with phase := .asked, parts := [] })
  else
    let g := getGroup s x.group
    let tile (r c : Nat) : Nat := if o.poison ≠ 0 then (openWord s (128 * r + c)).toNat else (tileWord g half z r c).toNat
    let out := (List.range (packBytes t6)).map fun k => BitVec.ofNat 8 (packByte t6 p (o.args.getD 2 0) tile k)
    let put (g : Group) (n : Nat) : Group :=
      if (lineOf g half n).bar then g else setScr g half (128 * n) ((out.drop (128 * n - a)).take 128)
    let s1 := cleanPending (setGroup s x.group (setUnf (lines.foldl put g) false half a (packBytes t6) none)) x.group half a (packBytes t6)
    finishOp (lines.foldl (fun s n => if s.copies.any fun e => landsIn e.2 x.group half n then s else fillLine s x.group half n) s1) id

/-- A tile word, or a step of one, is carried out. -/
def tileStep (s : State) (id : Nat) (i : Instr) : State :=
  let o := getOp s id
  let x := getWarp s o.warp
  let half := halfOf s x
  let lost := o.poison.getLsbD (lowLane o.lanes)
  let row := if lost then (openWord s 20000).toNat % 128 else o.args.getD 0 0
  let val (t : Nat) : Nat := if o.poison.getLsbD t then (fresh s (freeBase + 64 * t)).toNat else (partOf o t).val.toNat
  match i with
  | .mfenceOp _ => finishOp (updGroup s x.group fun g => fenceWrites g o.warp id false) id
  | .zclr _ z _ =>
    let v (k : Nat) : Word := if lost then openWord s k else BitVec.ofNat 32 (o.args.getD 0 0)
    finishOp (updGroup s x.group fun g =>
      (List.range 16384).foldl (fun g k => setTile g half (opdZ z) (k / 128) (k % 128) (v k)) g) id
  | .zld _ h (.v d) z _ =>
    let g := getGroup s x.group
    let v (t : Nat) : Nat := ((rowCells (opdZ z) h t).zipIdx).foldl (fun a (c, k) =>
      a + 2 ^ (32 * k) * (if o.poison.getLsbD t || lost then openWord s (4 * t + k) else tileWord g half c.1 row c.2).toNat) 0
    finishOp (retVs s o d.toNat 4 o.lanes v) id
  | .zst _ h _ z _ =>
    finishOp (updGroup s x.group fun g =>
      (laneList o.lanes).foldl (fun g t => ((rowCells (opdZ z) h t).zipIdx).foldl (fun g (c, k) =>
        setTile g half c.1 row c.2 (BitVec.ofNat 32 (val t / 2 ^ (32 * k)))) g) g) id
  | .bload .. => bloadStep s id (o.args.getD 0 0 + 1)
  | .qhist _ _ z _ =>
    finishOp (updGroup s x.group fun g => (laneList o.lanes).foldl (fun g t => feed g half (opdZ z) (val t % 2 ^ 32)) g) id
  | .qhistRows _ z _ _ =>
    finishOp (updGroup s x.group fun g =>
      (List.range (128 * o.args.getD 1 0)).foldl (fun g' k =>
        feed g' half (opdZ z) (if o.poison ≠ 0 then openWord s k else tileWord g half (opdZ z) (row + k / 128) (k % 128)).toNat) g) id
  | .qhistClr _ z =>
    finishOp (updGroup s x.group fun g =>
      (List.range 256).foldl (fun g b => { g with hist := mapErase g.hist (histKey half (opdZ z) b) }) g) id
  | .qscale _ t6 (.v d) z _ =>
    let g := getGroup s x.group
    let v := if lost then (openWord s 0).toNat else scaleAt (histBinOf g half (opdZ z)) row (if t6 then 8 else 12)
    finishOp (retV s o d.toNat o.lanes fun _ => BitVec.ofNat 32 v) id
  | .qpack _ t6 p _ z => packStep s id t6 (some (p.toNat + 1)) (opdZ z)
  | .qpackE _ t6 _ z _ => packStep s id t6 none (opdZ z)
  | _ => finishOp s id

def execTileWordComplete (s : State) : Host.Outcome State Fault Refusal :=
  event s fun m s => match m with
    | .tileWordComplete id =>
      some (match mapGet s.ops id with
        | none => s
        | some o => match o.kind with
          | .word i => if tileMay s id o then tileStep s id i else s
          | _ => s)
    | _ => none

end Sys2Proof.Machine
end

