-- ==== Sys2Proof/Machine/Schedule.lean ====
section
/-! DEFINITION. Fetch (R59 to R61), what issues (R71, R74 to R77, R86, R87, R114, R115), and what the issue of a set does before its word acts (R80, R395). -/

namespace Sys2Proof.Machine

/-! ### Fetch (R60) -/

inductive Fetched where
  | word (w : IWord)
  | park
  | trap (cause : Nat)
  deriving DecidableEq, Repr

/-- R61: the word of a kernel's code as it stood when the kernel began to run. -/
def oldWord (l : Launch) (off : Nat) : Option IWord :=
  let bs := (l.code.drop off).take 12
  if bs.length = 12 && bs.all Option.isSome then some (BitVec.ofNat 96 (leVal (bs.map fun b => b.getD 0))) else none

/-- R61: which word a fetch gives after a store to the code of a running kernel: the one from before the kernel began to run, or the one that memory now holds; the two never mix. DESIGN CHOICE: log 100. -/
def fetchedWord (s : State) (l : Launch) (off a : Nat) (new : IWord) : IWord :=
  match oldWord l off with
  | none => new
  | some old => if old = new then new else if Config.fetchesOld s.clock a then old else new

/-- R60: the check of the bytes of a word within one page; a fetch waits behind a request of its core that is parked on the span (R193). -/
def fetchPage (s : State) (x : Warp) (a n : Nat) : Check :=
  if spanParked s x.core x.iface (a / 4096) then .park
  else match checkPage s x.core x.iface a { x := true } with
    | .ok pa e w => if hasError s pa n then .trap causeAccess else .ok pa e w
    | c => c

/-- R60: the word at a program counter of a warp. -/
def fetchAt (s : State) (x : Warp) (pc : DWord) : Fetched :=
  let l := getLaunch s x.launch
  let base := l.record.codeBase.toNat
  let a := pc.toNat
  let give (v : Nat) : Fetched := .word (fetchedWord s l (a - base) a (BitVec.ofNat 96 v))
  if a < base || base + 12 * l.record.codeLen ≤ a then .trap causeAccess
  else if (a - base) % 12 ≠ 0 then .trap causeAlign
  else
    let n := min 12 (4096 - a % 4096)
    match fetchPage s x a n with
    | .trap c => .trap c
    | .park => .park
    | .ok pa _ _ =>
      if n = 12 then give (devNat s pa 12)
      else match fetchPage s x (a + n) (12 - n) with
        | .trap c => .trap c
        | .park => .park
        | .ok pb _ _ => give (devNat s pa n + 2 ^ (8 * n) * devNat s pb (12 - n))

/-- R190: the leaves that a fetch meets stay in the translation caches. -/
def fetchFill (s : State) (x : Warp) (pc : DWord) : State :=
  [pc.toNat, pc.toNat + 11].foldl (fun s a => match checkPage s x.core x.iface a { x := true } with
    | .ok _ _ w => tlbFill s x.core x.iface w
    | _ => s) s

/-- The operand limits of a warp (R66, R64): its allotment of V registers, its group's tiles. -/
def limitsOf (s : State) (x : Warp) : Limits :=
  let r := (getLaunch s x.launch).record
  ⟨min 320 ((r.vregs + 15) / 16 * 16), r.acc⟩

/-! ### Hints (R70 to R72) -/

def hintDist (w : IWord) : Nat := (w.extractLsb' 20 4).toNat
def hintSet (w : IWord) : Nat := (w.extractLsb' 16 4).toNat
def hintWait (w : IWord) (n : Nat) : Bool := w.getLsbD (4 + n)
def hintPair (w : IWord) : Bool := w.getLsbD 3
def hintCede (w : IWord) : Bool := w.getLsbD 2

/-- R109: a counter as the issue conditions see it: a decrement counts from the next main clock on. -/
def seenCount (x : Warp) (k : Nat) : Nat := mapGetD x.cf k 0 + mapGetD x.drops k 0

/-- R71 items 2 and 3: the counters waited for are zero, and the counter of SET can rise by `n`. -/
def countersOk (x : Warp) (w : IWord) (n : Nat) : Bool :=
  ((List.range 12).all fun k => !hintWait w k || seenCount x k == 0)
    && (hintSet w > 11 || seenCount x (hintSet w) + n ≤ 63)

/-- R71 item 1: DIST clocks have passed since the warp's previous issue, and at least `least`. -/
def distOk (s : State) (x : Warp) (w : IWord) (least : Nat) : Bool := x.issued.all fun c => c + max least (hintDist w) ≤ s.clock

/-- The streams that a word pops: source positions of classes A and F, but for the words about streams. -/
def popsOf (i : Instr) : List Nat :=
  let f := i.fields
  let opc := f.opc.toNat
  if opc = 0x16 || opc = 0x17 || opc = 0x18 then []
  else
    let src (b : BitVec 11) : List Nat := match opdOf b with
      | some (.s n) => [n.val]
      | _ => []
    (src f.fa ++ src f.fb).dedup

/-- R114: the load streams that a word reads have their next group ready. A stream not bound for loading raises OPERAND instead. -/
def streamsReady (x : Warp) (i : Instr) : Bool :=
  (popsOf i).all fun n => match getStream x n with
    | some st => st.store || !st.groups.isEmpty
    | none => true

/-! ### Sets and candidates (R86, R87, R114) -/

/-- A convergence set: the ready threads at one address, of one sub-warp (R396). -/
structure CSet where
  pc : DWord
  lanes : Lanes
  /-- When the one that has waited longest became ready. -/
  since : Nat
  deriving DecidableEq, Repr

/-- R86: the ready sets of a warp. -/
def readySets (x : Warp) : List CSet :=
  let ready := x.threads.filter fun th => th.cond == .ready
  ((ready.map fun th => (th.pc, th.sub)).dedup).map fun (pc, sub) =>
    let mine := ready.filter fun th => th.pc == pc && th.sub == sub
    ⟨pc, lanesWhere x fun th => th.cond == .ready && th.pc == pc && th.sub == sub,
      (mine.map (·.since)).foldl min ((mine.headD {}).since)⟩

/-- R60: a fetch of these threads is parked. -/
def fetchParked (s : State) (w : Nat) (m : Lanes) : Bool :=
  s.ops.any fun e => e.2.warp == w && e.2.kind == .code && e.2.lanes &&& m != 0

/-- R209: a copy word does not issue until a slot is free for it. -/
def unitReady (s : State) (x : Warp) (i : Instr) : Bool := !takesSlot (.word i) || slotForWord s x.core

/-- R71 items 1 to 3 hold for a word of a warp. -/
def wordMeets (s : State) (x : Warp) (iw : IWord) : Bool := distOk s x iw 1 && countersOk x iw 1

/-- R114: the set's next word meets items 1 to 3 of R71, and its load streams are ready. -/
def setCandidate (s : State) (w : Nat) (x : Warp) (c : CSet) : Bool :=
  !fetchParked s w c.lanes && match fetchAt s x c.pc with
    | .word iw => wordMeets s x iw && match decodeWord (limitsOf s x) iw with
      | .ok i => streamsReady x i && unitReady s x i
      | .error _ => true
    | _ => true

/-- R122: a stream is read by the next word of a ready set, which waits for nothing else. -/
def demands (s : State) (w : Nat) (x : Warp) (n : Nat) : Bool :=
  (readySets x).any fun c => !fetchParked s w c.lanes && match fetchAt s x c.pc with
    | .word iw => wordMeets s x iw && match decodeWord (limitsOf s x) iw with
      | .ok i => (popsOf i).contains n
      | .error _ => false
    | _ => false

/-- R87: a set comes before another: it has waited longer, or holds the lower lane. -/
def setBefore (a b : CSet) : Bool :=
  a.since < b.since || (a.since == b.since && lowLane a.lanes < lowLane b.lanes)

/-- R114: the set that a warp offers. -/
def offer (s : State) (w : Nat) (x : Warp) : Option CSet :=
  match (readySets x).filter (setCandidate s w x) with
  | [] => none
  | c :: r => some (r.foldl (fun a b => if setBefore b a then b else a) c)

/-- An eligible warp with what it offers. -/
structure Offer where
  w : Nat
  core : Nat
  part : Nat
  urgent : Bool
  age : Nat
  set : CSet
  deriving DecidableEq, Repr

/-- R114: the eligible warps of the device; a core that stalls (R192) issues nothing. What only delays is left out. DEDUCED: log 9. -/
def offers (s : State) : List Offer :=
  s.warps.filterMap fun e =>
    if e.2.resident && !coreStalled s e.2.core then (offer s e.1 e.2).map fun c => ⟨e.1, e.2.core, e.2.part, e.2.urgent, e.2.age, c⟩ else none

/-- R115: a warp is chosen before another: urgent first, then the older. -/
def offerBefore (a b : Offer) : Bool := if a.urgent == b.urgent then a.age < b.age else a.urgent

/-- The best of a list of offers. -/
def bestOffer : List Offer → Option Offer
  | [] => none
  | o :: r => some (r.foldl (fun a b => if offerBefore b a then b else a) o)

/-- R115: the first choice of each partition that has not had one in this main clock. -/
def firstChoices (s : State) (os : List Offer) : List Offer :=
  (((os.map fun o => (o.core, o.part)).dedup).filter fun k => !s.chosen.contains k).filterMap fun (c, p) => bestOffer (os.filter fun o => o.core == c && o.part == p)

/-! ### Pairing classes and pairs (R74 to R78) -/

/-- R78: the pairing class of an opcode: 0 A, 1 F, 2 X, 3 M, 4 Q, 5 C. -/
def pairClass (opc : Nat) : Nat :=
  if 0x10 ≤ opc && opc ≤ 0x38 then 0
  else if 0x50 ≤ opc && opc ≤ 0x63 then 1
  else if 0x80 ≤ opc && opc ≤ 0x8A then 2
  else if opc = 0xA8 || opc = 0xC3 || opc = 0xC7 || opc = 0xD2 || opc = 0xE1 then 5
  else if 0x8B ≤ opc && opc ≤ 0xD9 then 3
  else if 0xE0 ≤ opc && opc ≤ 0xE9 then 4
  else 5

def wordClass (w : IWord) : Nat := pairClass (w.extractLsb' 88 8).toNat

/-- R77: words of two warps collide. -/
def collides (a b : Nat) : Bool := a == b && 2 ≤ a

/-- R66: the V registers that a word reads through FD, FA and FB. -/
def vReads (i : Instr) : List Nat :=
  (usesOf i).1.filterMap fun r => match r with
    | .v n => some n
    | _ => none

/-- The predicate that a guard reads. -/
def guardReg (i : Instr) : List Reg :=
  let n := (i.fields.guard.extractLsb' 0 3).toNat
  if n = 7 then [] else [Reg.p n]

/-- The special registers of R62 that a word names as streams or counters. -/
def namedStreams (i : Instr) : List Nat :=
  let f := i.fields
  let one (b : BitVec 11) : List Nat := match opdOf b with
    | some (.s n) => [n.val]
    | _ => []
  one f.fd ++ one f.fa ++ one f.fb

def namedCounters (i : Instr) : List Nat :=
  match opdOf i.fields.fa with
  | some (.cf n) => [n.val]
  | _ => []

def fbIsV (i : Instr) : Bool :=
  match opdOf i.fields.fb with
  | some (.v _) => true
  | _ => false

/-- The word reads LPART's effect (R173). -/
def readsLpart (i : Instr) : Bool := i.fields.opc.toNat == 0x8B

/-- R75: a pair meets the four restrictions. DEDUCED: log 23. -/
def pairOk (a b : Instr) : Bool :=
  let ua := usesOf a
  let ub := usesOf b
  let rb := ub.1 ++ guardReg b
  let waits (n : Nat) : Bool := b.fields.hint.getLsbD (4 + n)
  let setA := (a.fields.hint.extractLsb' 16 4).toNat
  let independent :=
    !(ua.2.any fun r => rb.contains r || ub.2.contains r)
      && !(readsLpart b && ua.2.contains .lpart)
      && !(setA ≤ 11 && (waits setA || (namedCounters b).contains setA))
      && !((namedStreams a).any fun n => (namedStreams b).contains n)
  let banks := (List.range 4).all fun k => ((vReads a ++ vReads b).filter fun n => n % 4 == k).length ≤ 2
  let ca := pairClass a.fields.opc.toNat
  let cb := pairClass b.fields.opc.toNat
  independent && banks && !(fbIsV a && fbIsV b) && ca != cb && ca != 5 && cb != 5

/-- R74: the word at `pc` of a set issues jointly with the next one. -/
def pairs (s : State) (x : Warp) (iw : IWord) (a : Instr) (pc : DWord) : Bool :=
  hintPair iw && match fetchAt s x (pc + 12) with
    | .word jw => match decodeWord (limitsOf s x) jw with
      | .ok b =>
        pairOk a b && countersOk x jw (if hintSet iw == hintSet jw then 2 else 1) && streamsReady x b && unitReady s x b && distOk s x jw 0
      | .error _ => false
    | _ => false

/-! ### Urgency (R115) -/

/-- R115: a warp has stayed eligible for 32 clocks. -/
def urgentMay (s : State) (x : Warp) : Bool :=
  !x.urgent && match x.eligible with
    | some c => c + 32 ≤ s.clock
    | none => false

def execWarpUrgent (s : State) : Host.Outcome State Fault Refusal :=
  event s fun m s => match m with
    | .warpUrgent w => some (if urgentMay s (getWarp s w) then updWarp s w fun x => { x with urgent := true } else s)
    | _ => none

/-! ### The issue of a set -/

/-- R115: eligibility is noted: since when, and urgency ends where a warp is not eligible. -/
def noteEligible (s : State) (os : List Offer) : State :=
  { s with warps := mapAll s.warps fun w x =>
      if os.any fun o => o.w == w then { x with eligible := some (x.eligible.getD s.clock) }
      else { x with eligible := none, urgent := false } }

/-- R107: a word that reads one bank of the vector registers three times or more holds the warp's next issue back by a clock. -/
def bankDelay (i : Instr) : Nat :=
  if (List.range 4).any fun k => 3 ≤ ((vReads i).filter fun n => n % 4 == k).length then 1 else 0

/-- What a set that issues comes to, before its word acts. -/
inductive Issued where
  /-- The word acts. -/
  | act (i : Instr) (s : State)
  /-- A trap, or a parked fetch, instead. -/
  | done (s : State)
  deriving DecidableEq, Repr

/-- R60: a fetch parks: its threads wait for the translation. -/
def parkFetch (s : State) (w : Nat) (m : Lanes) (pc : DWord) : State :=
  let n := min 12 (4096 - pc.toNat % 4096)
  let p : Part := { lane := lowLane m, va := pc.toNat, n := n, st := .retry 0 }
  let q : List Part := if n = 12 then [] else [{ lane := lowLane m, va := pc.toNat + n, n := 12 - n, st := .retry 0 }]
  accept (newOp s { warp := w, kind := .code, lanes := m, pc := pc, parts := p :: q }) s.next

/-- R395: the active threads of a word that would take a latched trap. -/
def asyncLanes (s : State) (w : Nat) (x : Warp) (m : Lanes) (iw : IWord) : Lanes :=
  let act := guardLanes s w x m (iw.extractLsb' 80 4)
  if x.latched.isEmpty || act &&& handlerLanes x != 0 then 0 else act

/-- R70, R73, R107, R115: what issue does to the warp: its clock, with a delay, its urgency, CEDE; a first choice of its partition is made. -/
def markIssue (s : State) (w delay : Nat) (cede first : Bool) : State :=
  let x := getWarp s w
  let s1 := updWarp { s with chosen := if first then (x.core, x.part) :: s.chosen else s.chosen } w fun x =>
    { x with issued := some (s.clock + delay), eligible := none, urgent := false }
  if cede then makeYoungest s1 w else s1

/-- A set issues: fetch (R60), a latched trap (R395), ILLEGAL (R80), or the word with its pairing (R74) and the second issue (R115). `first`: it is a first issue, `joint`: it is the partner of a pair. A trap in place of the word takes the issue. -/
def issueSet (s : State) (w : Nat) (m : Lanes) (pc : DWord) (first joint : Bool) : Issued :=
  let x := getWarp s w
  match fetchAt s x pc with
  | .park => .done (parkFetch s w m pc)
  | .trap c => .done (deliver (markIssue s w 0 false first) w pc ((laneList m).map fun t => { lane := t, cause := c, addr := pc.toNat }))
  | .word iw =>
    let s := fetchFill s x pc
    let am := asyncLanes s w x m iw
    if am ≠ 0 then .done (takeAsync (markIssue s w 0 false first) w am pc)
    else match decodeWord (limitsOf s x) iw with
      | .error d => .done (deliver (markIssue s w 0 false first) w pc ((laneList m).map fun t => { lane := t, cause := causeIllegal, detail := d }))
      | .ok i =>
        let pair := first && pairs s x iw i pc
        let s1 := markIssue s w (if pair || joint then 0 else bankDelay i) (hintCede iw) first
        let s2 := if pair then updWarp s1 w fun x => { x with pair := some ⟨m, pc + 12, (threadOf x (lowLane m)).sub⟩ } else s1
        .act i { s2 with
          cur := some (w, m)
          pairing := if pair then some w else none
          second := if first && !pair then some ⟨x.core, x.part, w, wordClass iw⟩ else none }

/-- R76: the threads for which the partner of a pair issues: those of the set that stand at it. -/
def partnerLanes (x : Warp) : Option (Lanes × DWord) :=
  match x.pair with
  | none => none
  | some p =>
    let m := lanesWhere x (fun th => th.cond == .ready && th.pc == p.pc && th.sub == p.sub) &&& p.lanes
    if m = 0 then none else some (m, p.pc)

/-- R115: the second issue of a partition. -/
def secondChoice (s : State) (os : List Offer) : Option Offer :=
  match s.second with
  | none => none
  | some k => bestOffer (os.filter fun o => o.core == k.core && o.part == k.part && o.w != k.warp &&
      match fetchAt s (getWarp s o.w) o.set.pc with
      | .word iw => !collides k.cls (wordClass iw)
      | _ => false)

end Sys2Proof.Machine
end

