-- ==== Sys2Proof/Machine/Preempt.lean ====
section
/-! DEFINITION. Blocking points and wake conditions (R102, R406), retirement by the graph engine (R380, R388), eviction, saving and resumption (R113, R194, R328, R407 to R411, R426). -/

namespace Sys2Proof.Machine

/-! ### Blocking points (R406) -/

/-- R213: a word of the scratchpad that waits for an empty line, or behind one that does. -/
def scratchWaits (s : State) (id : Nat) (o : Op) : Bool :=
  scratchWord o.kind && o.parts.any fun p => p.undone && (linesOf p.va p.n).any fun n =>
    !(lineOf (getGroup s (opGroup s o)) (opHalf s o) n).full && (waitsFull o.kind || lineHeld s id o n)

/-- R213: a BLOAD whose next line is empty. -/
def bloadWaits (s : State) (o : Op) : Bool :=
  match o.kind with
  | .word (.bload ..) => !(lineOf (getGroup s (opGroup s o)) (opHalf s o) (o.args.getD 2 0 / 128 + o.args.getD 3 0)).full
  | _ => false

/-- R213, R350: a signature whose operation has not issued, or waits for an empty line. -/
def signWaits (s : State) (w id : Nat) (x : Warp) : Bool :=
  ((getGroup s x.group).j.any fun j => j.2.signers.contains (w, id)) || (mapVals s.arrays).flatten.any fun a =>
    a.signers.contains (w, id) && (!a.issued ||
      (linesOf (fetchRun a.op false).1 (fetchRun a.op false).2).any fun n => !(lineOf (getGroup s a.group) a.half n).full)

/-- R213, R350: a counter is held by a word that waits for an empty line, or by a signature whose operation has not issued. -/
def counterHeld (s : State) (w : Nat) (x : Warp) (k : Nat) : Bool :=
  s.ops.any fun e => e.2.warp == w && e.2.cf == some k &&
    (e.2.phase == .lines || scratchWaits s e.1 e.2 || bloadWaits s e.2 || signWaits s w e.1 x)

/-- The next word of a thread waits on a counter of a kind. -/
def waitsOn (s : State) (x : Warp) (pc : DWord) (held : Nat → Bool) : Bool :=
  match fetchAt s x pc with
  | .word iw => (List.range 12).any fun k => hintWait iw k && mapGetD x.cf k 0 != 0 && held k
  | _ => false

def counterBlocks (s : State) (w : Nat) (x : Warp) (pc : DWord) : Bool := waitsOn s x pc (counterHeld s w x)

/-- R194: a load of the thread has been parked for more than 4,096 ticks. -/
def longLoad (w t : Nat) (o : Op) : Bool :=
  o.warp == w && o.phase == .longPark && plainLoad o.kind && o.parts.any fun p => p.lane == t && p.parked

/-- R194, R406: the thread waits for such a load; in a handler, where its next word waits for it. -/
def parkedLoad (s : State) (w : Nat) (x : Warp) (t : Nat) : Bool :=
  let th := threadOf x t
  if th.sub = 0 then s.ops.any fun e => longLoad w t e.2
  else th.cond == .ready && waitsOn s x th.pc fun k => s.ops.any fun e => longLoad w t e.2 && e.2.cf == some k

/-- R406: a thread waits at a blocking point. -/
def threadBlocks (s : State) (w : Nat) (x : Warp) (t : Nat) : Bool :=
  let th := threadOf x t
  match th.cond with
  | .waiting .anyEvent | .waiting (.barrier ..) | .waiting (.sleep ..) | .waiting (.room ..) | .waiting (.fire _) => true
  | .ready => counterBlocks s w x th.pc || parkedLoad s w x t
  | .waiting _ => parkedLoad s w x t
  | _ => false

/-- R102: the warp is at a blocking point: each thread has ended, is stopped, or waits at one, and one of them waits. -/
def atBlock (s : State) (w : Nat) (x : Warp) : Bool :=
  !x.retired && ((List.range 32).any fun t => threadBlocks s w x t) && (List.range 32).all fun t =>
    threadBlocks s w x t || match (threadOf x t).cond with
      | .ended => true
      | .stopped _ => (threadOf x t).sub == 0
      | _ => false

/-! ### Retirement at a blocking point (R380, R388) -/

/-- R380: an armed GRAPH entry is pending and not masked, and no set has been resumed at it since the stop. -/
def graphFires (x : Warp) : Bool :=
  !x.graphSeen && (List.range 8).any fun k => x.evp.getLsbD k && !x.evm.getLsbD k && (mapGet x.events k).any fun e => e.typ == 8

/-- R380: a stopped warp is retired, unless a set of it that waits in WAITANY is first resumed at its GRAPH entry. -/
def stopMay (s : State) (w : Nat) (x : Warp) : Bool := x.stop && !allEnded x && atBlock s w x && !(anySet x != 0 && graphFires x)

/-- R388: its innermost frame is marked. -/
def popMay (s : State) (w : Nat) (x : Warp) : Bool := (x.frames.head?.any fun f => f.marked) && atBlock s w x

/-- R427: a warp of an interface in reset is discarded at a blocking point. -/
def discardMay (s : State) (w : Nat) (x : Warp) : Bool := (getIface s x.iface).resetting && !allEnded x && atBlock s w x

/-- R427: a warp is discarded where it stands: its threads end without any of the effects of R101; private words are dropped. -/
def discardWarp (s : State) (w : Nat) : State :=
  updWarp (markEnded s w allLanes) w fun x => { x with events := [], latched := [], endDone := true, partials := [], pushFails := [] }

/-- R84, R380, R388, R427: a warp retires; or it is discarded, its threads end, or its frame is popped, at a blocking point. -/
def execWarpRetire (s : State) : Host.Outcome State Fault Refusal :=
  event s fun m s => match m with
    | .warpRetire w =>
      let x := getWarp s w
      some (if discardMay s w x then discardWarp s w
        else if stopMay s w x then exitThreads s w allLanes
        else if popMay s w x then popMarked s w
        else if retireMay s w x then retireWarp s w
        else s)
    | _ => none

/-! ### Wake conditions (R406, R410) -/

/-- R406: the wake condition of a thread holds. -/
def wakeHolds (s : State) (w : Nat) (x : Warp) (t : Nat) : Bool :=
  let th := threadOf x t
  match th.cond with
  | .waiting .anyEvent => (firing x).isSome
  | .waiting (.barrier n p _ _) =>
    lineKind (getGroup s x.group) (halfOf s x) n != 1 || phasePassed (barPhase (getGroup s x.group) (halfOf s x) n) p
  | .waiting (.sleep k _ _ _) => k ≤ coreTime s x.core
  | .waiting (.room n _) => (getHold x n).st == .held || (getHold x n).st == .refused
  | .waiting _ => true
  | .ready => !counterBlocks s w x th.pc
  | _ => false

/-- R194: a load of an evicted warp was withdrawn. -/
def withdrawn (s : State) (w : Nat) : Bool := s.ops.any fun e => e.2.warp == w && plainLoad e.2.kind && e.2.parts.any Part.waits

def readyToResume (s : State) (w : Nat) (x : Warp) : Bool :=
  (List.range 32).any (fun t => wakeHolds s w x t) || withdrawn s w

/-! ### Requests for eviction (R408, R411, R426) -/

/-- A free slot and enough rows for a warp in a partition of a core. -/
def partFits (s : State) (core p rows : Nat) : Bool :=
  let l := coreLoad s core false
  l.slots.getD p 0 < 16 && l.rows.getD p 0 + rows ≤ Config.rowsPerPartition

/-- An evicted warp of a resident group that is ready to resume and finds no room on its core. -/
def starved (s : State) (core : Nat) : Bool :=
  s.warps.any fun e => !e.2.resident && !e.2.retired && e.2.core == core && !(getGroup s e.2.group).saved
    && readyToResume s e.1 e.2 && !((List.range 4).any fun p => partFits s core p (recordRows s e.2))

def coreGuar (s : State) (iface : Nat) : Nat := ((getIface s iface).qcore.extractLsb' 0 8).toNat

/-- R426: how far a tenant is above its guaranteed cores. -/
def aboveGuar (s : State) (iface : Nat) : Nat := (tenantCores s iface).length - coreGuar s iface

/-- R426: a tenant below its guaranteed cores has a gang that cannot be placed. -/
def owedCores (s : State) (iface : Nat) : Bool :=
  (tenantCores s iface).length < coreGuar s iface && match placeHead s iface with
    | some l => (gangChoice s l).isNone
    | none => false

/-- R426: the tenant furthest above its own share, where another is owed cores. -/
def overShare (s : State) (iface : Nat) : Bool :=
  (s.ifaces.any fun e => e.1 != iface && owedCores s e.1) && 0 < aboveGuar s iface
    && s.ifaces.all fun e => aboveGuar s e.1 ≤ aboveGuar s iface

/-- R408: an interface whose launches a request names. -/
def ifaceAsked (s : State) (iface : Nat) : Bool := (getIface s iface).preempt || overShare s iface

/-- R121: a pushed element of the warp is not performed. -/
def pushLeft (s : State) (w : Nat) : Bool :=
  s.ops.any fun e => e.2.warp == w && match e.2.kind with
    | .push .. => true
    | _ => false

def evictable (s : State) (w : Nat) (x : Warp) : Bool := x.resident && !pushLeft s w && atBlock s w x

/-- R408: no younger warp that a request names can be evicted. -/
def youngest (s : State) (x : Warp) (named : Warp → Bool) : Bool :=
  s.warps.all fun e => !(named e.2 && x.age < e.2.age && evictable s e.1 e.2)

/-- R408, R411: a warp is evicted next. -/
def evictMay (s : State) (w : Nat) (x : Warp) : Bool :=
  let idle (y : Warp) (k : Nat) : Bool := !((List.range 32).any fun t => wakeHolds s k y t)
  evictable s w x
    && ((ifaceAsked s x.iface && youngest s x fun y => y.iface == x.iface)
      || (starved s x.core && idle x w && s.warps.all fun e =>
        !(e.2.core == x.core && x.age < e.2.age && evictable s e.1 e.2 && idle e.2 e.1)))

/-! ### Eviction (R113, R328, R408) -/

/-- R113: a load that is parked is withdrawn, to be walked again at resumption. -/
def withdrawLoads (s : State) (w : Nat) : State :=
  ((s.ops.filter fun e => e.2.warp == w && plainLoad e.2.kind && e.2.parts.any Part.parked).map (·.1)).foldl (fun s id =>
    freeParks (updOp s id fun o => { o with
      phase := if o.phase == .longPark then .ready else o.phase, parkedAt := 0
      parts := o.parts.map fun p => if p.parked then { p with st := .retry 0 } else p }) id) s

/-- R113: load streams keep their positions; what they fetched ahead is discarded. -/
def dropAhead (s : State) (w : Nat) : State :=
  let ids := (s.ops.filter fun e => e.2.warp == w && match e.2.kind with
    | .fetch .. => true
    | _ => false).map (·.1)
  let s1 := { s with
    ops := mapFilter s.ops fun k _ => !ids.contains k
    parks := mapFilter s.parks fun _ p => match p.op with
      | some k => !ids.contains k
      | none => true }
  updWarp s1 w fun x => { x with streams := mapAll x.streams fun _ z =>
    if z.store then { z with queue := false } else { z with queue := false, groups := [], fetching := false } }

/-- R328: the words of a room that the warp may have written are pushed. -/
def pushRoom (core : Nat) (s : State) (h : Hold) : State :=
  if h.st == .held && (h.mode == .write || h.mode == .push) then
    (ownPush s core 2 0 (regionDirty s core (getRegion s (handleKey h.handle.toNat))).dedup).1
  else s

/-- R408: a warp is evicted: its slot and rows are free, its state is kept. -/
def evictWarp (s : State) (w : Nat) : State :=
  let x := getWarp s w
  let s1 := (mapVals x.holds).foldl (pushRoom x.core) (dropAhead (withdrawLoads s w) w)
  assignQueues (updWarp s1 w fun x => { x with resident := false, pair := none, eligible := none, urgent := false }) x.core x.part 64

/-- R422: PREEMPT reads 1 while any warp of the interface is resident. -/
def anyResident (s : State) (iface : Nat) : Bool := s.warps.any fun e => e.2.iface == iface && e.2.resident

def preemptDone (s : State) (iface : Nat) : State :=
  if (getIface s iface).preempt && !anyResident s iface then updIface s iface fun x => { x with preempt := false } else s

def execEviction (s : State) : Host.Outcome State Fault Refusal :=
  event s fun m s => match m with
    | .eviction w => some (if evictMay s w (getWarp s w) then preemptDone (evictWarp s w) (getWarp s w).iface else s)
    | _ => none

/-! ### Saving a group (R409) -/

/-- R409: every warp of a resident group is evicted, and its copies and operations are done. -/
def saveMay (s : State) (gi : Nat) (g : Group) : Bool :=
  let ws := s.warps.filter fun e => e.2.group == gi && !e.2.retired
  !g.saved && !ws.isEmpty && ws.all (fun e => !e.2.resident)
    && !(s.copies.any fun e => e.2.group == gi && e.2.node.isNone && unfinished e.2)
    && !(s.arrays.any fun e => e.2.any fun a => a.group == gi)

/-- R409: the shared state is saved, and the allotments are free. What its warps have stored and not published stays in the caches until the group is placed again. DEDUCED: log 69. -/
def saveGroup (s : State) (gi : Nat) : State :=
  (getGroup s gi).cores.foldl shrinkCarve (updGroup s gi fun g => { g with saved := true })

def execGroupStateSave (s : State) : Host.Outcome State Fault Refusal :=
  event s fun m s => match m with
    | .groupStateSave gi => some (if (mapGet s.groups gi).isSome && saveMay s gi (getGroup s gi) then saveGroup s gi else s)
    | _ => none

/-! ### Resumption (R113, R328, R410, R411) -/

/-- R410: what is done for a warp before it issues: the acquires of its rooms, and every saved wait is tested again. -/
def wakeUp (s : State) (w : Nat) : State :=
  let x := getWarp s w
  let s1 := (mapVals x.holds).foldl (fun s h =>
    if h.st == .held then regionAcquire s x.core (getRegion s (handleKey h.handle.toNat)) else s) s
  let ids := (s1.ops.filter fun e => e.2.warp == w).map (·.1)
  let s2 := ids.foldl (fun s id => match (getOp s id).kind with
    | .word (.cstore ..) => s
    | _ => accept (failLanes s id (failedParts (getOp s id))) id) s1
  let half := halfOf s2 (getWarp s2 w)
  let lines := ((getWarp s2 w).threads.filterMap fun th => match th.cond with
    | .waiting (.barrier n _ _ _) => some n
    | _ => none).dedup
  let s3 := lines.foldl (fun s n => if lineKind (getGroup s x.group) half n = 1 then wakeBar s x.group half n w else wakeBarInval s n w) s2
  let s4 := send (resumeAny s3 w 16) none (.inlineFireRetest w)
  assignQueues s4 x.core (getWarp s4 w).part 64

/-- R410, R13: a warp takes a slot in a partition, and its incomplete words go on from its core; its age is set. -/
def seatWarp (s : State) (w core p : Nat) : State :=
  let s1 := { s with ops := mapAll s.ops fun _ o => if o.warp == w then { o with core := core } else o }
  makeYoungest (updWarp s1 w fun x => { x with resident := true, core := core, part := p, slot := freeSlotOf s core p }) w

/-- R94, R311: the homes of the groups of a group's gang, with a home for that group; a group that is saved has none now. -/
def gangHomes (s : State) (g : Group) (home : List Nat) : List (List Nat) :=
  let la := getLaunch s g.launch
  let n := gangSize la.record
  (List.range n).map fun k =>
    let i := g.index / n * n + k
    if i = g.index then home
    else if s.groups.any fun e => e.2.launch == g.launch && e.2.index == i && e.2.saved then [] else mapGetD la.homes i []

/-- R13: the stores of a cluster are all at rest: none is being pushed or written back. -/
def clusterQuiet (s : State) (c : Nat) : Bool :=
  !(s.pushOut.any fun e => e.2.cluster == c) && !(s.wbuf.any fun e => ofUnit c e.1)

/-- R410, R93, R95, R311: a home takes a saved group. To leave its cluster, the group waits until the pushes of that cluster are acknowledged. -/
def homeTakes (s : State) (g : Group) (home : List Nat) : Bool :=
  let r := (getLaunch s g.launch).record
  home.all (fun c => c < Config.cores && !coreRetired s c)
    && (placeOn (fun c => coreLoad s c false) [] r home).isSome
    && (tenantCores s g.iface ++ home).dedup.length ≤ coreLimit s g.iface
    && unitsOk r (gangHomes s g home)
    && (clusterOf (home.getD 0 0) == clusterOf (g.cores.getD 0 0) || clusterQuiet s (clusterOf (g.cores.getD 0 0)))

/-- R410: a home for a saved group that starts at a core: which second core is open. -/
def savedHome (s : State) (g : Group) (core : Nat) : Option (List Nat) :=
  let homes : List (List Nat) :=
    if groupWarps (getLaunch s g.launch).record ≤ 64 then [[core]]
    else ((List.range 4).map fun k => [core, core / 4 * 4 + (k + Config.pick (s.free + freeBase)) % 4]).filter fun h => h.getD 1 0 != core
  homes.find? (homeTakes s g)

/-- R411: an earlier evicted warp of the core resumes first. -/
def resumesFirst (s : State) (w core : Nat) : Bool :=
  !(s.warps.any fun e => e.1 < w && !e.2.resident && !e.2.retired && e.2.core == core && !(getGroup s e.2.group).saved
    && readyToResume s e.1 e.2)

/-- R410: a warp can resume on a core: its own, or one that takes its saved group. -/
def resumeMay (s : State) (w core : Nat) : Bool :=
  let x := getWarp s w
  !x.resident && !x.retired && readyToResume s w x &&
    if (getGroup s x.group).saved then
      (savedHome s (getGroup s x.group) core).isSome
    else core == x.core && resumesFirst s w core && (List.range 4).any fun p => partFits s core p (recordRows s x)

/-- R410: a partition for a warp: which one is open. -/
def choosePart (s : State) (core rows : Nat) : Nat :=
  let l := (List.range 4).filter fun p => partFits s core p rows
  l.getD (Config.pick (s.free + freeBase) % l.length) 0

/-- R409: the rings of a group that is placed again receive new handles. -/
def renameRings (g : Group) (half core tag : Nat) : Group :=
  ((List.range (2 ^ 13)).filter fun n => lineKind g half n == 2).foldl (fun g n =>
    setScrNat g half (128 * n + 0x10) 4 (ringHandle core tag n)) g

/-- R92, R94: how many groups of a launch make one unit of its CLUSTER level; 1 without one. -/
def clusterUnit (r : Record) : Nat :=
  let ls := gangLevels r
  match (List.range ls.length).find? fun j => (ls.getD j (7, 1)).1 == 4 with
  | some j => (ls.take (j + 1)).foldl (fun a l => a * l.2) 1
  | none => 1

/-- R13: the unpublished stores of warps leave an L1 for another. -/
def moveL1 (s : State) (mine : Nat → Bool) (old new : Nat) : State :=
  if old = new then s
  else
    let moving := s.l1.filter fun e => ofUnit old e.1 && e.2.dirty && mine e.2.tag.warp
    { s with l1 := moving.foldl (fun m e => mapSet (mapErase m e.1) (cacheKey new (wordOfKey e.1)) e.2) s.l1 }

/-- R13, R312: the unpublished stores of warps leave a cluster cache for another. -/
def moveCc (s : State) (mine : Nat → Bool) (old new : Nat) : State :=
  if old = new then s
  else
    let moving := s.cc.filter fun e => ofUnit old e.1 && e.2.st == .dirty && mine e.2.tag.warp
    moving.foldl (fun s e => noteSector s new (wordOfKey e.1) e.2.tag)
      { s with cc := moving.foldl (fun m e => mapSet (mapErase m e.1) (cacheKey new (wordOfKey e.1)) e.2) s.cc }

/-- R13: what a group has stored and not published goes with it, for GROUP scope from core to core, for CLUSTER scope with the unit's whole cluster. DEDUCED: log 69. -/
def moveWords (s : State) (gi : Nat) (home : List Nat) : State :=
  let g := getGroup s gi
  let n := clusterUnit (getLaunch s g.launch).record
  let own (w : Nat) : Bool := (getWarp s w).group == gi
  let unit (w : Nat) : Bool :=
    let h := getGroup s (getWarp s w).group
    h.launch == g.launch && h.index / n == g.index / n
  let s1 := (g.cores.zip home).foldl (fun s e => moveL1 s own e.1 e.2) s
  moveCc s1 unit (clusterOf (g.cores.getD 0 0)) (clusterOf (home.getD 0 0))

/-- R350: the signatures that are counted go on from the group's new cores. -/
def moveSigns (g : Group) (home : List Nat) : Group :=
  { g with j := mapAll g.j fun _ j => { j with core := home.getD (g.cores.idxOf j.core) j.core } }

/-- R410, R13: a saved group is placed again whole; its warps read nothing that is older than their own writes. -/
def restoreGroup (s : State) (gi : Nat) (home : List Nat) : State :=
  let s0 := moveWords s gi home
  let (s1, tags) := home.foldl (fun (s, ts) c => let r := nextTag s c; (r.1, ts ++ [r.2])) (s0, ([] : List Nat))
  let s2 := updGroup s1 gi fun g => (home.zipIdx).foldl (fun g (c, h) => renameRings g h c (tags.getD h 0))
    { moveSigns g home with cores := home, tags := tags, saved := false }
  let s3 := home.foldl (fun s c => acquireAct (growCarve s c) c 2 true) (setHome s2 (getGroup s gi).launch (getGroup s gi).index home)
  let two := home.length == 2
  let ws := (s3.warps.filter fun e => e.2.group == gi && !e.2.retired).map (·.1)
  let s4 := ws.foldl (fun s w =>
    let (half, part) := warpSpot two (getWarp s w).num
    seatWarp s w (home.getD half 0) part) s3
  ws.foldl wakeUp s4

def execWarpResume (s : State) : Host.Outcome State Fault Refusal :=
  event s fun m s => match m with
    | .warpResume w core =>
      let x := getWarp s w
      some (if !resumeMay s w core then s
        else if (getGroup s x.group).saved then
          match savedHome s (getGroup s x.group) core with
          | some h => restoreGroup s x.group h
          | none => s
        else wakeUp (seatWarp s w core (choosePart s core (recordRows s x))) w)
    | _ => none

end Sys2Proof.Machine
end

