-- ==== Sys2Proof/Machine/Register.lean ====
section
/-! DEFINITION. Register and stream words (R123 to R131). -/

namespace Sys2Proof.Machine

/-- R123. -/
def execMov (c : Ctl) (d a : Opd) (s : State) : Host.Outcome State Fault Refusal :=
  fixedWord s c [a] d 1 4 fun s x i t => srcVal s i.w x a 1 t

def execMov64 (c : Ctl) (d a : Opd) (s : State) : Host.Outcome State Fault Refusal :=
  fixedWord s c [a] d 2 4 fun s x i t => srcVal s i.w x a 2 t

/-- R124: the value is the lowest active lane's. -/
def movkBody (d a : Opd) (w : Nat) (i : Issue) (s : State) : State :=
  fixedGen s i [a] none 4 (fun _ => {}) fun ok s1 =>
    if ok = 0 then s1
    else match d with
      | .k n =>
        let v := srcVal s i.w (getWarp s i.w) a w (lowLane ok)
        (List.range w).foldl (fun s j => putK s i.w 4 (n.toNat + j) (BitVec.ofNat 32 (v / 2 ^ (32 * j)))) s1
      | _ => s1

def execMovk (c : Ctl) (d a : Opd) (s : State) : Host.Outcome State Fault Refusal := issue s c (movkBody d a 1)
def execMovk64 (c : Ctl) (d a : Opd) (s : State) : Host.Outcome State Fault Refusal := issue s c (movkBody d a 2)

/-- R125: the source lane is read whether or not it is active. -/
def execBcast (c : Ctl) (d a b : Opd) (s : State) : Host.Outcome State Fault Refusal :=
  fixedWord s c [a] d 1 6 fun s x i t => srcVal s i.w x a 1 (srcVal s i.w x b 1 t % 32)

/-- R126: byte `pos` of `old` replaced by FA[7:0]. -/
def insertByte (old imm pos : Nat) : Nat :=
  let p := pos % 256 % 4
  old - old / 2 ^ (8 * p) % 256 * 2 ^ (8 * p) + imm % 256 * 2 ^ (8 * p)

def execLimm (c : Ctl) (d a b : Opd) (s : State) : Host.Outcome State Fault Refusal :=
  fixedWord s c [] d 1 4 fun s x i t => insertByte 0 (srcVal s i.w x a 1 t) (srcVal s i.w x b 1 t)

def execLimmIns (c : Ctl) (d a b : Opd) (s : State) : Host.Outcome State Fault Refusal :=
  fixedWord s c [] d 1 4 fun s x i t => insertByte (srcVal s i.w x d 1 t) (srcVal s i.w x a 1 t) (srcVal s i.w x b 1 t)

/-- R127. -/
def execSel (c : Ctl) (neg : Bool) (n : BitVec 3) (d a b : Opd) (s : State) : Host.Outcome State Fault Refusal :=
  fixedWord s c [a, b] d 1 4 fun s x i t =>
    if pBit s i.w x n.toNat t != neg then srcVal s i.w x a 1 t else srcVal s i.w x b 1 t

def execSel64 (c : Ctl) (neg : Bool) (n : BitVec 3) (d a b : Opd) (s : State) : Host.Outcome State Fault Refusal :=
  fixedWord s c [a, b] d 2 4 fun s x i t =>
    if pBit s i.w x n.toNat t != neg then srcVal s i.w x a 2 t else srcVal s i.w x b 2 t

/-- R128: the bit of the table that three predicates select. -/
def lutBit (lut : BitVec 8) (pa pb pc : Bool) : Bool := lut.getLsbD (pc.toNat * 4 + pb.toNat * 2 + pa.toNat)

def execPlog (c : Ctl) (pc : BitVec 3) (lut : BitVec 8) (d a b : Opd) (s : State) : Host.Outcome State Fault Refusal :=
  fixedWord s c [] d 1 4 fun s x i t =>
    (lutBit lut (srcPred s i.w x a t) (srcPred s i.w x b t) (pBit s i.w x pc.toNat t)).toNat

/-- R128: P0 to P7 in bits 7:0. -/
def execPlogTov (c : Ctl) (d : Opd) (s : State) : Host.Outcome State Fault Refusal :=
  fixedWord s c [] d 1 4 fun s x i t =>
    (List.range 8).foldl (fun a n => a + (pBit s i.w x n t).toNat * 2 ^ n) 0

/-- R128: P0 to P6 from bits 6:0 of the source. -/
def execPlogFromv (c : Ctl) (a : Opd) (s : State) : Host.Outcome State Fault Refusal :=
  issue s c fun i s =>
    fixedGen s i [a] none 4 (fun _ => {}) fun ok s1 =>
      (List.range 7).foldl (fun s' n => putP s' i.w 4 n ok fun t => (srcVal s i.w (getWarp s i.w) a 1 t).testBit n) s1

/-- R129: SBIND reads its twelve K registers at issue. -/
def sbindBody (store : Bool) (e : BitVec 12) (d a : Opd) (i : Issue) (s : State) : State :=
  let x := getWarp s i.w
  match d, a with
  | .s n, .k k =>
    let walk := (List.range 12).map fun j => kWord s i.w x (k.toNat + j)
    let size := walk.getD 2 0
    if (getStream x n.val).isSome || size.extractLsb' 3 29 != 0 || size.extractLsb' 0 2 == 3 || walk.getD 3 0 != 0 then
      trapSet s i causeOperand
    else
      let q := queuesUsed s x.core x.part < 64
      let st : Stream := { store := store, walk := walk, flags := e, queue := q, bind := s.next }
      setStream { s with next := s.next + 1 } i.w n.val st
  | _, _ => s

def execSbindLd (c : Ctl) (e : BitVec 12) (d a : Opd) (s : State) : Host.Outcome State Fault Refusal :=
  issue s c (sbindBody false e d a)

def execSbindSt (c : Ctl) (e : BitVec 12) (d a : Opd) (s : State) : Host.Outcome State Fault Refusal :=
  issue s c (sbindBody true e d a)

/-- R121, R130: pushes of a binding that are not written yet. -/
def pushesOf (s : State) (w bind : Nat) : Bool :=
  s.ops.any fun e => e.2.warp == w && match e.2.kind with
    | .push b _ => b == bind
    | _ => false

/-- R121: the failed element writes of a binding become traps of their lanes at the SSTOP: one trap in a lane, that of its first failed element. DESIGN CHOICE: log 95. -/
def pushTraps (s : State) (w : Nat) (pc : DWord) (bind : Nat) : State :=
  let x := getWarp s w
  let fs := x.pushFails.filter fun f => f.bind == bind
  let first := (List.range 32).filterMap fun t => fs.find? fun f => f.lane == t
  let live := first.filter fun f => (threadOf x f.lane).cond != .ended
  deliver (setWarp s w { x with pushFails := x.pushFails.filter fun f => f.bind != bind }) w pc
    (live.map fun f => { lane := f.lane, cause := f.cause, addr := f.addr })

/-- R130: the stream is unbound at issue and its queue freed; a store stream's SSTOP completes once its elements are written. -/
def execSstop (c : Ctl) (a : Opd) (s : State) : Host.Outcome State Fault Refusal :=
  issue s c fun i s =>
    let x := getWarp s i.w
    match a with
    | .s n =>
      match getStream x n.val with
      | none => s
      | some st =>
        let s1 := setWarp s i.w { x with streams := mapErase x.streams n.val }
        let s2 := assignQueues s1 x.core x.part 64
        if !st.store then s2
        else if pushesOf s2 i.w st.bind then newOp s2 { opOf (.sstop c a) i c with args := [st.bind] }
        else pushTraps s2 i.w i.pc st.bind
    | _ => s

/-- R131. -/
def sflagsVal (x : Warp) (n : Nat) : Nat :=
  match getStream x n with
  | none => 0
  | some st => 2 ^ 31 + st.store.toNat * 2 ^ 30 + st.queue.toNat * 2 ^ 29 + min (walkCount st - 32 * st.pos) 0x1FFFFFFF

def execSflags (c : Ctl) (d a : Opd) (s : State) : Host.Outcome State Fault Refusal :=
  fixedWord s c [] d 1 4 fun _ x _ _ => match a with
    | .s n => sflagsVal x n.val
    | _ => 0

end Sys2Proof.Machine
end

