-- ==== Sys2Proof/Machine/Reply.lean ====
section
/-! DEFINITION. How words go on after their issue: replies (R202), releases and acquires that complete (R248, R263), redirections (R242), and the host's answers to translation faults (R193, R226). -/

namespace Sys2Proof.Machine

/-! ### Acquires and releases that end -/

/-- R263: the acquire of a word has acted: the word completes. -/
def acquired (s : State) (id : Nat) : State :=
  match (getOp s id).kind with
  | .word (.barwait ..) => barAcquired s id
  | .word (.mbxpop _ _ n d _) => popAcquired s id n d
  | _ => finishOp s id

/-- R263: an acquire acts once what is before it has its values; at DEVICE scope and wider ACQUIRE_COMPLETE ends its wait. -/
def acquireStep (s : State) (id : Nat) (wide : Bool) : State :=
  let o := getOp s id
  if o.phase ≠ .acquiring ∨ decide (opLevel s o = 2) ≠ wide ∨ acquireMay s id o = false ∨ (wide && !acquireTime s o) = true then s
  else if (relAcq o).2.1 then acquired (acquireNow s id) id
  else acquired s id

def execAcquireComplete (s : State) : Host.Outcome State Fault Refusal :=
  event s fun m s => match m with
    | .acquireComplete id => some (if (mapGet s.ops id).isSome then acquireStep s id true else s)
    | _ => none

/-- R248: the wait of a release, or of a word's own push, is over. -/
def releaseEnd (s : State) (id : Nat) : State :=
  let o := getOp s id
  if !publishedMay s o then s
  else match o.phase, o.kind with
    | .releasing, .word (.rleave ..) => sendLeave s id
    | .releasing, _ => releaseDone s id
    | .publishing, _ => if (relAcq o).2.1 then updOp s id fun o => { o with phase := .acquiring } else finishOp s id
    | _, _ => s

def execReleaseComplete (s : State) : Host.Outcome State Fault Refusal :=
  event s fun m s => match m with
    | .releaseComplete id => some (if (mapGet s.ops id).isSome then releaseEnd s id else s)
    | _ => none

/-! ### Replies -/

/-- R206 to R208: the range word acts where its pages have passed and nothing before it is in the way. -/
def rangeStep (s : State) (id : Nat) (i : Instr) : State :=
  let o := getOp s id
  if readyLanes s id o = 0 ∨ (o.parts.any fun p => !p.walked) then s else replyRange s id i

/-- The accesses of a word whose release part, if any, is complete. -/
def performWord (s : State) (id : Nat) (i : Instr) : State :=
  let o := getOp s id
  match i with
  | .ld .. | .ldx .. => replyLoad s id i
  | .st .. | .stx .. => replyStore s id
  | .cstore .. => replyCstore s id
  | .invr .. | .wbr .. | .invd .. => rangeStep s id i
  | .lds .. | .sts .. | .lmarkEmpty .. | .lmarkFull .. | .lmarkQ .. => replyScratch s id i
  | .atom _ _ t _ _ | .atomf _ _ t _ _ | .cas _ _ t _ _ =>
    if t.scratch then replyScratch s id i
    else
      let m := atomLanes s id o true
      if m = 0 then s else applyLanes s id i m
  | .sstop .. => if pushesOf s o.warp (o.args.getD 0 0) then s else pushTraps (finishOp s id) o.warp o.pc (o.args.getD 0 0)
  | .cpyqStat .. | .cpyqCancel .. => replyCpyq s id i
  | .barinit .. | .barinitInval .. | .mbxinit .. | .mbxinitFree .. => replyInit s id i
  | .bararr .. | .barexp .. => replyArrive s id i
  | .mbxsend .. | .mbxsendSt .. => if portHeld s id o then s else replySend s id
  | .mbxpop .. => replyPop s id
  | .rdemand .. | .rdemandWait .. | .rdesc .. | .rfree .. | .rleave .. | .rld .. | .rst .. | .racc .. | .rpush .. | .rpop .. | .rquery .. | .rqueryR .. =>
    replyRoom s id i
  | .gfire .. | .gtoken .. | .garg .. | .gargAddr .. | .gargIndex .. | .gstat .. | .gstatG .. | .gstatD .. => replyGraph s id i
  | _ => s

/-- The reply of a word: its release part first, its accesses, its narrow acquire. -/
def replyOp (s : State) (id : Nat) (o : Op) (i : Instr) : State :=
  match o.phase with
  | .acquiring => acquireStep s id false
  | .ready | .longPark =>
    if acts o then performWord s id i
    else if releaseMay s id o then releaseStep s id
    else s
  | .lines => replyScratch s id i
  | _ => s

/-- R194: a request of an evicted warp was refused: its word waits for the warp's resumption. -/
def trapWaits (o : Op) : Bool :=
  (match o.kind with
    | .word (.cstore ..) | .fetch .. => false
    | _ => true) && o.parts.any fun p => match p.st with
      | .failed _ => true
      | _ => false

/-- R202, R120, R121, R60: the reply of an operation. -/
def reply (s : State) (id : Nat) : State :=
  match mapGet s.ops id with
  | none => s
  | some o =>
    if trapWaits o then s
    else match o.kind with
      | .fetch .. => if o.parts.all fun p => !p.unwalked then fetchEnd s id else s
      | .push .. => if pushHeld s id o then s else replyPush s id
      | .code => if o.parts.all Part.walked then { s with ops := mapErase s.ops id } else s
      | .word i => replyOp s id o i

def execMemoryReply (s : State) : Host.Outcome State Fault Refusal :=
  event s fun m s => match m with
    | .memoryReply id => some (reply s id)
    | _ => none

/-- R242: the value of an owner cluster arrives; with the last one the load has every value. DEDUCED: log 88. -/
def execRedirectionArrive (s : State) : Host.Outcome State Fault Refusal :=
  event s fun m s => match m with
    | .redirectionArrive _ _ id =>
      let s1 := updOp s id fun o => { o with acks := o.acks - 1 }
      let o := getOp s1 id
      some (match o.kind with
        | .word i => if o.phase == .redirected && o.acks == 0 then loadDone s1 id i else s1
        | _ => s1)
    | _ => none

/-! ### The host's answers (R193) -/

/-- The entry of a record that the host names, of its interface. -/
def parkNamed (s : State) (iface quad entry : Nat) : Option Park :=
  (mapGet s.parks (quad * 8192 + entry)).bind fun p => if p.iface = iface then some p else none

/-- Inserts an entry by its order of parking. -/
def insertPark (e : Nat × Park) : List (Nat × Park) → List (Nat × Park)
  | [] => [e]
  | x :: l => if e.2.order < x.2.order then e :: x :: l else x :: insertPark e l

/-- The entries of a 4 KiB span of a quadrant, in the order of parking. -/
def spanParks (s : State) (quad iface page : Nat) : List (Nat × Park) :=
  (s.parks.filter fun e => e.1 / 8192 == quad && e.2.iface == iface && e.2.page == page).foldl (fun l e => insertPark e l) []

/-- R193: the parts of an operation under an entry are walked again: what they become, and the failures. -/
def replayGo (id order entry : Nat) (o : Op) : State → List Part → State × List Part × List (Nat × Nat × Nat)
  | s, [] => (s, [], [])
  | s, p :: ps =>
    let (s1, p1, f) := if p.st == .parked entry then acceptPart s id o p else (s, p, none)
    let p1 := if p.st == .parked entry && p1.st == .ok then { p1 with st := .replay order } else p1
    let (s2, ps2, fs) := replayGo id order entry o s1 ps
    match f with
    | some c => (s2, { p1 with st := .failed c } :: ps2, (p.lane, c, p.va) :: fs)
    | none => (s2, p1 :: ps2, fs)

/-- R193, R226: one entry after RESOLVE. -/
def replayPark (s : State) (k : Nat) (p : Park) : State :=
  match p.op, p.copy, p.engine with
  | some id, _, _ =>
    let o := getOp s id
    let (s1, ps, fs) := replayGo id p.order (k % 8192) o s o.parts
    failLanes (updOp s1 id fun o => { o with parts := ps, phase := if o.phase == .longPark then .ready else o.phase }) id fs
  | _, some c, _ => updCopy s c fun c => if c.st == .suspended then { c with st := .running, cause := 0 } else c
  | _, _, some e => match mapGet s.engineWaits e with
    | some w => send { s with engineWaits := mapErase s.engineWaits e } none w.msg
    | none => s
  | _, _, _ => s

/-- R193: one entry after DENY. -/
def denyPark (s : State) (k : Nat) (p : Park) : State :=
  match p.op, p.copy, p.engine with
  | some id, _, _ =>
    let mine (q : Part) : Bool := q.st == .parked (k % 8192)
    let fs := ((getOp s id).parts.filter mine).map fun q => (q.lane, causeAccess, q.va)
    failLanes (updOp s id fun o => { o with parts := o.parts.map fun q => if mine q then { q with st := .failed causeAccess } else q }) id fs
  | _, some c, _ => haltCopy s c causeAccess p.va
  | _, _, some e => match mapGet s.engineWaits e with
    | some w => send { s with engineWaits := mapSet s.engineWaits e { w with denied := true } } none w.msg
    | none => s
  | _, _, _ => s

/-- R193: a record is answered: every request parked on its 4 KiB is. -/
def answerSpan (s : State) (iface quad entry : Nat) (f : State → Nat → Park → State) : State :=
  match parkNamed s iface quad entry with
  | none => s
  | some p =>
    let es := spanParks s quad iface p.page
    es.foldl (fun s e => f s e.1 e.2) { s with parks := mapFilter s.parks fun k _ => !(es.any fun e => e.1 == k) }

def execFrespResolve (s : State) : Host.Outcome State Fault Refusal :=
  event s fun m s => match m with
    | .frespResolve iface quad entry => some (answerSpan s iface quad entry replayPark)
    | _ => none

def execFrespDeny (s : State) : Host.Outcome State Fault Refusal :=
  event s fun m s => match m with
    | .frespDeny iface quad entry => some (answerSpan s iface quad entry denyPark)
    | _ => none

end Sys2Proof.Machine
end

