-- ==== Sys2Proof/Machine/Traps.lean ====
section
/-! DEFINITION. TRAP, TRAP.RD and RTE (R401, R402), and fatal records (R405). -/

namespace Sys2Proof.Machine

/-- R401: a software trap in each active thread. -/
def execTrap (c : Ctl) (a : Opd) (s : State) : Host.Outcome State Fault Refusal :=
  issue s c fun i s =>
    let x := getWarp s i.w
    deliver s i.w i.pc ((laneList i.act).map fun t => { lane := t, cause := causeSoftware, detail := srcVal s i.w x a 1 t % 256 })

/-- R401: a word of the trap frame; missing words are zero. -/
def execTrapRd (c : Ctl) (d a : Opd) (s : State) : Host.Outcome State Fault Refusal :=
  issue s c fun i s =>
    let x := getWarp s i.w
    let sel (t : Nat) : Nat := srcVal s i.w x a 1 t
    let bad : List TrapIn := ((laneList i.act).filter fun t => 7 < sel t).map fun t => { lane := t, cause := causeOperand }
    deliver (writeDst s i 6 d 1 (i.act &&& ~~~trapLanes bad) fun t => ((threadOf x t).frame.getD (sel t) 0).toNat) i.w i.pc bad

/-- R402: RTE, RTE.NEXT, RTE.AT: the active threads that are in a handler leave it; the others trap. -/
def rteWord (s : State) (c : Ctl) (target : State → Issue → Nat → DWord) : Host.Outcome State Fault Refusal :=
  issue s c fun i s =>
    let x := getWarp s i.w
    let m := i.act &&& handlerLanes x
    let bad : List TrapIn := (laneList (i.act &&& ~~~m)).map fun t => { lane := t, cause := causeOperand }
    deliver (returnFrom s i.w m (target s i)) i.w i.pc bad

/-- R398, R402: CODEBASE + F1. -/
def framePc (s : State) (w t : Nat) : DWord :=
  codeBase s (getWarp s w) + ((threadOf (getWarp s w) t).frame.getD 1 0).setWidth 64

def execRte (c : Ctl) (s : State) : Host.Outcome State Fault Refusal := rteWord s c fun s i t => framePc s i.w t
def execRteNext (c : Ctl) (s : State) : Host.Outcome State Fault Refusal := rteWord s c fun s i t => framePc s i.w t + 12
def execRteAt (c : Ctl) (a : Opd) (s : State) : Host.Outcome State Fault Refusal :=
  rteWord s c fun s i t => baseTarget s i.w (srcVal s i.w (getWarp s i.w) a 1 t)

/-- R403: the trap that a thread's frame tells of. -/
def frameTrap (x : Warp) (t : Nat) : TrapIn :=
  let f (k : Nat) : Nat := ((threadOf x t).frame.getD k 0).toNat
  { lane := t, cause := f 0 % 16, detail := f 0 / 65536 % 256, addr := f 2 + 2 ^ 32 * f 3
    aux1 := BitVec.ofNat 32 (f 4), aux2 := BitVec.ofNat 32 (f 5), f6 := BitVec.ofNat 32 (f 6), f7 := BitVec.ofNat 32 (f 7) }

/-- R402: the first active thread in a handler takes the END action, which ends the launch; threads outside handlers below it trap first. DEDUCED: log 28. -/
def execRteFail (c : Ctl) (s : State) : Host.Outcome State Fault Refusal :=
  issue s c fun i s =>
    let x := getWarp s i.w
    let m := i.act &&& handlerLanes x
    let below (t : Nat) : Bool := m == 0 || t < lowLane m
    let bad : List TrapIn := ((laneList (i.act &&& ~~~m)).filter below).map fun t => { lane := t, cause := causeOperand }
    let s1 := deliver s i.w i.pc bad
    if m = 0 then s1
    else
      let t := lowLane m
      abort s1 i.w ((threadOf x t).frame.getD 1 0) (frameTrap x t)

/-- R405: a fatal record: it is written or latched, every running launch of the interface takes the END action, and the interface runs none until its reset. -/
def fatal (s : State) (iface kind : Nat) : State :=
  let s1 := fatalRecordWrite s iface kind (trapRecord 2 0 kind 0 0 0 0 0 0)
  let s2 := updIface s1 iface fun x => { x with stopped := true }
  ((s2.launches.filter fun e => e.2.iface == iface && e.2.aborted.isNone).map (·.1)).foldl (fun s l => endLaunch s l kind) s2

def execFatalRecord (s : State) : Host.Outcome State Fault Refusal :=
  event s fun m s => match m with
    | .fatalRecord iface kind => some (fatal s iface kind)
    | _ => none

end Sys2Proof.Machine
end

