-- ==== Sys2Proof/Machine/Host.lean ====
section
/-! DEFINITION. What the host does through the host link and its tenant interfaces: posted writes and reads (R274), snoops and back-invalidation (R419, R420), launches (R373, R423), page-table roots and invalidations (R190, R424), queue heads (R404), MSI-X (R425), buckets (R426). -/

namespace Sys2Proof.Machine

/-- R433, R439: an interface answers: the physical function from stage 2 on, the enabled virtual functions at stage 5. DEDUCED: log 71. -/
def answers (s : State) (i : Nat) : Bool :=
  if i = 0 then 2 ≤ s.sys.stage && s.sys.stage ≤ 5 else s.sys.stage == 5 && i ≤ s.sys.vfs

/-- R422: a register other than RESET, FATALX and the queue heads takes a write. -/
def takesWrites (s : State) (i : Nat) : Bool := answers s i && !(getIface s i).resetting

/-! ### Posted writes and reads (R274) -/

/-- R274: a posted write is performed at its home slices; registered words are recalled and left Home. A slice's copy of a host line is dropped (R419). -/
def postedWrite (s : State) (i addr : Nat) (bs : List Byte) : State :=
  if !answers s i || s.sys.stage ≠ 5 || !physOk addr || !physOk (addr + bs.length - 1) then s
  else
    let s1 := updIface (breach s (devWrite s addr bs) addr bs.length true false) i fun x => { x with posted := x.posted + 1 }
    if isHost addr then { s1 with hostLines := s1.hostLines.filter fun l => !(addr / 64 ≤ l.2 && l.2 ≤ (addr + bs.length - 1) / 64) } else s1

def execPostedWrite (s : State) : Host.Outcome State Fault Refusal :=
  event s fun m s => match m with
    | .postedWrite i a bs => some (postedWrite s i a bs)
    | _ => none

/-- The 64-byte lines of a run. -/
def linesOver (a n : Nat) : List Nat := if n = 0 then [] else (List.range ((a + n - 1) / 64 - a / 64 + 1)).map (a / 64 + ·)

/-- R274, R419, R420: a host read of device memory; a cacheable one leaves the lines host-held, and a BISnp that is outstanding for one is sent again. -/
def hostRead (s : State) (i addr n : Nat) (cached : Bool) : State :=
  if !answers s i || s.sys.stage ≠ 5 || !physOk addr || !physOk (addr + n - 1) then s
  else
    let s1 := { s with hostData := s.hostData ++ [(i, devBytes s addr n)] }
    if cached && !isHost addr then
      { s1 with
        hostHeld := (linesOver addr n).foldl (fun l x => if l.contains x then l else l ++ [x]) s1.hostHeld
        bisnps := s1.bisnps.filter fun l => !(linesOver addr n).contains l
        granted := s1.granted.filter fun l => !(linesOver addr n).contains l }
    else s1

def execHostRead (s : State) : Host.Outcome State Fault Refusal :=
  event s fun m s => match m with
    | .hostRead i a n c => some (hostRead s i a n c)
    | _ => none

/-! ### Snoops, back-invalidation, write-backs (R419, R420) -/

/-- R419: a snoop of a host line is answered from the slice, and the line is dropped there. -/
def hostSnoop (s : State) (line : Nat) : State :=
  if s.sys.stage ≠ 5 || !isHost (64 * line) then s
  else { s with
    hostData := s.hostData ++ [(0, (List.range 64).map fun i => memByte s (64 * line + i))]
    hostLines := s.hostLines.filter fun l => l.2 != line
    hostDirty := s.hostDirty.filter fun l => l.2 != line }

def execHostSnoop (s : State) : Host.Outcome State Fault Refusal :=
  event s fun m s => match m with
    | .hostSnoop l => some (hostSnoop s l)
    | _ => none

/-- R419: a slice sends a BISnp for a line that the host holds; none is outstanding for it. -/
def bisnpMay (s : State) (line : Nat) : Bool := s.hostHeld.contains line && !s.bisnps.contains line

def execBisnp (s : State) : Host.Outcome State Fault Refusal :=
  event s fun m s => match m with
    | .bisnp l => some (if bisnpMay s l then { s with bisnps := s.bisnps ++ [l] } else s)
    | _ => none

/-- R419, R420: the response to an outstanding BISnp clears the host-held bit; the device access comes before a later request of the host. -/
def execBisnpResponse (s : State) : Host.Outcome State Fault Refusal :=
  event s fun m s => match m with
    | .bisnpResponse l =>
      some (if s.bisnps.contains l then
        { s with
          bisnps := s.bisnps.erase l, hostHeld := s.hostHeld.filter (· != l)
          granted := if s.granted.contains l then s.granted else s.granted ++ [l] }
      else s)
    | _ => none

/-- R420: a write-back of a line that the host holds is stored at the slice; the bit stays until the response. -/
def execHostWriteback (s : State) : Host.Outcome State Fault Refusal :=
  event s fun m s => match m with
    | .hostWriteback l bs => some (if s.hostHeld.contains l then
        { breach s (devWrite s (64 * l) (bs.take 64)) (64 * l) (min 64 bs.length) true false with hostHeld := s.hostHeld } else s)
    | _ => none

/-! ### Launches (R373, R423, R433) -/

/-- R423: a LAUNCH write is queued, or refused with code 17, 18 or 20. DEDUCED: log 62. -/
def writeLaunch (s : State) (i : Nat) (v : DWord) : State :=
  if !answers s i then s
  else if s.sys.stage ≠ 5 || (getIface s i).resetting then refusalRecord s i 18 v.toNat
  else if (getIface s i).stopped then refusalRecord s i 20 v.toNat
  else if 256 ≤ (getIface s i).launchq.length then refusalRecord s i 17 v.toNat
  else updIface s i fun x => { x with launchq := x.launchq ++ [(v.toNat, none)] }

def execLaunch (s : State) : Host.Outcome State Fault Refusal :=
  event s fun m s => match m with
    | .launch i v => some (writeLaunch s i v)
    | _ => none

/-! ### Translation (R190, R424) -/

/-- R422, R424: later walks start at the new root. -/
def writePtroot (s : State) (i : Nat) (v : DWord) : State :=
  if takesWrites s i then updIface s i fun x => { x with ptroot := v &&& ~~~0xFFF } else s

def execPtroot (s : State) : Host.Outcome State Fault Refusal :=
  event s fun m s => match m with
    | .ptroot i v => some (writePtroot s i v)
    | _ => none

/-- R422: an invalidation starts; those that are not complete go on beside it. -/
def writeInvaddr (s : State) (i : Nat) (v : DWord) : State :=
  if takesWrites s i then updIface s i fun x => { x with invaddr := v, invbusy := true, invs := (if x.invbusy then x.invs else []) ++ [v] } else s

def execInvaddr (s : State) : Host.Outcome State Fault Refusal :=
  event s fun m s => match m with
    | .invaddr i v => some (writeInvaddr s i v)
    | _ => none

/-- INVADDR: an entry is dropped by an invalidation of one page or of all. -/
def invHits (v : DWord) (e : TlbEntry) : Bool :=
  v.getLsbD 0 || (e.page ≤ (v.extractLsb' 12 36).toNat && (v.extractLsb' 12 36).toNat < e.page + e.count)

/-- R190: the leaves of an interface that its invalidations drop. -/
def dropped (s : State) (i : Nat) (e : TlbEntry) : Bool := e.iface == i && (getIface s i).invs.any fun v => invHits v e

/-- R190: an address of an interface whose translation its invalidations drop: named itself, or mapped by a leaf that is dropped. -/
def invNames (s : State) (i va : Nat) : Bool :=
  ((getIface s i).invs.any fun v => v.getLsbD 0 || va / 4096 == (v.extractLsb' 12 36).toNat)
    || s.tlb.any fun e => dropped s i e && e.page ≤ va / 4096 && va / 4096 < e.page + e.count

/-- R190: a request that has been translated and is not performed is translated again; one that no longer passes is walked as a new one. A part at 2^60 or above lies in a scratchpad. -/
def rewalk (s s1 : State) (i : Nat) (o : Op) (p : Part) : Part :=
  if p.walked && p.pa < 2 ^ 60 && invNames s i p.va then
    match checkPage s1 o.core i p.va (opNeed o) with
    | .ok pa e _ => p.translated pa e (if discards o.kind && !e.getLsbD 8 then .retry 0 else p.st)
    | _ => { p with st := .retry 0 }
  else p

/-- R190: the cached leaves are dropped; what has been translated and is not performed uses the new entries. -/
def invalidate (s : State) (i : Nat) : State :=
  let s1 := { s with tlb := s.tlb.filter fun e => !dropped s i e }
  let ids := (s1.ops.filter fun e => (getWarp s1 e.2.warp).iface == i && e.2.parts.any Part.walked).map (·.1)
  let s2 := ids.foldl (fun s2 id => accept (updOp s2 id fun o => { o with parts := o.parts.map (rewalk s s1 i o) }) id) s1
  updIface s2 i fun x => { x with invbusy := false, invs := [] }

/-- R190: an access through an entry that is dropped has been performed and is not complete: its pushes or answers are outstanding. -/
def oldAccess (s : State) (i : Nat) : Bool :=
  (s.ops.any fun e => (getWarp s e.2.warp).iface == i && (e.2.acks != 0 || e.2.phase == .publishing)
      && e.2.parts.any fun p => p.st == .done && p.pa < 2 ^ 60 && invNames s i p.va)
    || s.copies.any fun e => e.2.iface == i && e.2.acks != 0

/-- R190: an invalidation can report completion. -/
def invMay (s : State) (i : Nat) : Bool := (getIface s i).invbusy && !oldAccess s i

def execInvalidationComplete (s : State) : Host.Outcome State Fault Refusal :=
  event s fun m s => match m with
    | .invalidationComplete i => some (if invMay s i then invalidate s i else s)
    | _ => none

/-! ### Queue heads and FATALX (R404, R405, R422) -/

/-- R404: an advance of a head clears SUMP; stalled records are written. -/
def writeFqhead (s : State) (i : Nat) (v : Word) : State :=
  if !answers s i then s
  else
    let h := v.toNat % 65536
    drainRecords (updIface s i fun x => { x with fqhead := h, fqsump := x.fqsump && h == x.fqhead }) i s.recWaits.length

def writeTqhead (s : State) (i : Nat) (v : Word) : State :=
  if !answers s i then s
  else
    let h := v.toNat % 65536
    updIface s i fun x => { x with tqhead := h, tqsump := x.tqsump && h == x.tqhead }

def execFqhead (s : State) : Host.Outcome State Fault Refusal :=
  event s fun m s => match m with
    | .fqhead i v => some (writeFqhead s i v)
    | _ => none

def execTqhead (s : State) : Host.Outcome State Fault Refusal :=
  event s fun m s => match m with
    | .tqhead i v => some (writeTqhead s i v)
    | _ => none

/-- R405, R422: VALID is cleared by writing one; the interface stays stopped. DEDUCED: log 26. -/
def clearFatalx (s : State) (i : Nat) : State :=
  if answers s i then updIface s i fun x => { x with fatalx := x.fatalx &&& 0x7FFFFFFF } else s

def execFatalxClear (s : State) : Host.Outcome State Fault Refusal :=
  event s fun m s => match m with
    | .fatalxClear i => some (clearFatalx s i)
    | _ => none

/-! ### PREEMPT, MSI-X, buckets (R408, R425, R426) -/

/-- R422: PREEMPT asks for the eviction of every resident warp of the interface. -/
def writePreempt (s : State) (i : Nat) : State :=
  if takesWrites s i && anyResident s i then updIface s i fun x => { x with preempt := true } else s

def execPreempt (s : State) : Host.Outcome State Fault Refusal :=
  event s fun m s => match m with
    | .preempt i => some (writePreempt s i)
    | _ => none

/-- R425: an entry is unmasked: a pending message is sent. -/
def unmask (s : State) (i v : Nat) : State :=
  let v := v % 64
  if !answers s i then s
  else
    let p := (getIface s i).pending.getLsbD v
    let s1 := updIface s i fun x => { x with masked := x.masked &&& ~~~(BitVec.twoPow 64 v), pending := x.pending &&& ~~~(BitVec.twoPow 64 v) }
    if p then { s1 with msix := s1.msix ++ [msixOf s1 i v] } else s1

def execMsixUnmask (s : State) : Host.Outcome State Fault Refusal :=
  event s fun m s => match m with
    | .msixUnmask i v => some (unmask s i v)
    | _ => none

/-- R421, R425: the host masks an entry of the MSI-X table. -/
def maskVector (s : State) (i v : Nat) : State :=
  if !answers s i then s else updIface s i fun x => { x with masked := x.masked ||| BitVec.twoPow 64 (v % 64) }

/-- R421: the host programs an entry of the MSI-X table. -/
def writeVector (s : State) (i v : Nat) (e : MsixEntry) : State :=
  if !answers s i then s else updIface s i fun x => { x with vectors := mapPut {} x.vectors (v % 64) e }

/-- R426: RATE tokens, up to DEPTH. DEDUCED: log 74. -/
def refilled (tok : Nat) (w : Word) : Nat := min (tok + (w.extractLsb' 0 16).toNat) (w.extractLsb' 16 16).toNat

def refillMay (s : State) : Bool := s.refill + 1024 ≤ s.gtime

/-- R426: every bucket of every interface. -/
def refillAll (s : State) : State :=
  { s with
    refill := s.refill + 1024
    ifaces := mapFilter (mapAll s.ifaces fun _ x =>
      { x with tokSlice := refilled x.tokSlice x.qslice, tokHbm := refilled x.tokHbm x.qhbm, tokCopy := refilled x.tokCopy x.qcopy }) fun _ x => x != {} }

def execBucketRefill (s : State) : Host.Outcome State Fault Refusal :=
  event s fun m s => match m with
    | .bucketRefill => some (if refillMay s then refillAll s else s)
    | _ => none

end Sys2Proof.Machine
end

