-- ==== Sys2Proof/Machine/Collectives.lean ====
section
/-! DEFINITION. Peer links (R429) and collectives (R430 to R432). The other devices are outside: what they send arrives in messages, what is sent to them stands in `State.peerData`. -/

namespace Sys2Proof.Machine

def getLink (s : State) (n : Nat) : Link := mapGetD s.sys.links n {}
def updLink (s : State) (n : Nat) (f : Link → Link) : State :=
  { s with sys := { s.sys with links := mapPut {} s.sys.links n (f (getLink s n)) } }

def getColl (s : State) (h : Nat) : Coll := mapGetD s.colls h {}
def updColl (s : State) (h : Nat) (f : Coll → Coll) : State := { s with colls := mapUpd s.colls h f }

/-! ### The end of a collective (R431, R432) -/

/-- R301: COLL is signalled to every warp of the interface whose armed entry names the handle. -/
def signalColl (s : State) (h : Nat) : State :=
  let i := (getColl s h).iface
  ((s.warps.filter fun e => e.2.iface == i).map (·.1)).foldl (fun s w => signalWarp s w fun e => e.typ == 9 && e.object == h) s

/-- A DEVICE-scope store of an engine; one that does not pass is dropped. -/
def collPut (s : State) (i va : Nat) (bs : List Byte) : State :=
  match checkPage s engineUnit i va { w := true } with
  | .ok pa _ _ => devWrite s pa bs
  | _ => s

/-- R430: STATE and CAUSE in the descriptor, and the signal. -/
def endColl (s : State) (m : Msg) (h st cause : Nat) : State :=
  let c := getColl s h
  match engineRuns s m c.iface [(c.desc + 0x2C, 4, { w := true })] with
  | .park va need => parkEngine s m c.iface va need
  | _ =>
    let s1 := collPut (dropDenials s m) c.iface (c.desc + 0x2C) (leBytes (cause * 256 + st) 4)
    signalColl (updColl s1 h fun c => { c with st := st, cause := cause, acc := [] }) h

/-- R432: an open collective aborts. -/
def abortColl (s : State) (h cause : Nat) : State :=
  if (mapGet s.colls h).isSome && (getColl s h).st == 0 then endColl s (.collAbort h cause) h 2 cause else s

def execCollAbort (s : State) : Host.Outcome State Fault Refusal :=
  event s fun m s => match m with
    | .collAbort h cause => some (abortColl s h cause)
    | _ => none

/-- R432: the open collectives that name a link abort. -/
def abortLink (s : State) (n : Nat) : State :=
  ((s.colls.filter fun e => e.2.st == 0 && e.2.links.getLsbD n).map (·.1)).foldl (fun s h => abortColl s h 5) s

/-! ### Links (R429) -/

/-- R429: training starts; a link that was up leaves its collectives. DEDUCED: log 81. -/
def writeRetrain (s : State) (n : Nat) : State :=
  if !takesWrites s 0 || 16 ≤ n then s
  else
    let s1 := if (getLink s n).up then abortLink s n else s
    updLink s1 n fun l => { l with up := false, training := true, retries := 0 }

def execRetrain (s : State) : Host.Outcome State Fault Refusal :=
  event s fun m s => match m with
    | .retrain n => some (writeRetrain s n)
    | _ => none

/-- R429: training ends with or without success. -/
def execTrainingEnd (s : State) : Host.Outcome State Fault Refusal :=
  event s fun m s => match m with
    | .trainingEnd n ok => some (if (getLink s n).training then updLink s n fun l => { l with up := ok, training := false, retries := 0 } else s)
    | _ => none

/-- R429: a flit is delivered in order, or fails its CRC and is resent; more than 16 retries in a row take the link down. -/
def flitArrives (s : State) (n : Nat) (ok : Bool) : State :=
  if !(getLink s n).up then s
  else if ok then updLink s n fun l => { l with retries := 0, flits := l.flits + 1 }
  else
    let s1 := updLink s n fun l => { l with retries := l.retries + 1 }
    if 16 < (getLink s1 n).retries then send s1 none (.linkDown n) else s1

def execFlitReceive (s : State) : Host.Outcome State Fault Refusal :=
  event s fun m s => match m with
    | .flitReceive n ok => some (flitArrives s n ok)
    | _ => none

/-- R429, R425: a link goes down. -/
def execLinkDown (s : State) : Host.Outcome State Fault Refusal :=
  event s fun m s => match m with
    | .linkDown n =>
      some (if (getLink s n).up then
        raiseMsix (abortLink (updLink s n fun l => { l with up := false, downev := true, retries := 0 }) n) 0 0
      else s)
    | _ => none

/-- R429: DOWNEV is cleared by writing one. -/
def clearDownev (s : State) (n : Nat) : State := if takesWrites s 0 then updLink s n fun l => { l with downev := false } else s

def execDownevClear (s : State) : Host.Outcome State Fault Refusal :=
  event s fun m s => match m with
    | .downevClear n => some (clearDownev s n)
    | _ => none

/-! ### Opening (R430, R431) -/

/-- R431: what the check of a descriptor refuses. DEDUCED: log 79. -/
def badColl (s : State) (i va : Nat) : Bool :=
  let v (off n : Nat) : Nat := vNat s i (va + off) n
  let w4 := v 4 4
  let kind := w4 % 16
  let ncont := w4 / 2 ^ 16 % 256
  let ndev := v 8 4 % 2 ^ 16
  w4 / 2 ^ 24 != 0 || v 0x28 4 / 2 ^ 16 != 0 || v 0x38 8 != 0 || 1 < kind
    || (if kind = 0 then ncont == 0 || 63 < ncont else ncont != 1)
    || !([1, 8, 9, 10].contains (w4 / 256 % 256)) || 2 < w4 / 16 % 16
    || ndev == 0 || 16 < ndev || ndev ≤ v 8 4 / 2 ^ 16 || v 0x10 8 % 8 != 0 || (1 < ndev && v 0x28 4 % 2 ^ 16 == 0)

/-- R431: a handle of a link's sequence that names no open collective. -/
def newHandle (s : State) (link : Nat) : Nat :=
  let k := (getLink s link).seq
  ((List.range 65536).find? fun n => !(s.colls.any fun e => e.1 == link * 65536 + (k + n) % 65536 && e.2.st == 0)).elim
    (link * 65536 + k % 65536) fun n => link * 65536 + (k + n) % 65536

/-- R431: the collective opens, or fails at once because a link is down. -/
def startColl (s : State) (i va : Nat) : State :=
  let v (off n : Nat) : Nat := vNat s i (va + off) n
  let links : BitVec 16 := BitVec.ofNat 16 (v 0x28 4)
  let named := (List.range 16).filter fun n => links.getLsbD n
  let link := named.headD 0
  let h := newHandle s link
  let up := named.all fun n => (getLink s n).up
  let c : Coll := {
    iface := i, desc := va, ncont := v 4 4 / 2 ^ 16 % 256, ty := v 4 4 / 256 % 16, op := v 4 4 / 16 % 16, embx := v 4 4 % 16 == 1
    rank := v 8 4 / 2 ^ 16, ndev := v 8 4 % 2 ^ 16, count := v 0xC 4, arrive := (vPa s i (v 0x10 8)).getD 0, src := v 0x18 8
    dst := v 0x20 8, links := links, routes := named.map fun n => (n, (getLink s n).rank), table := v 0x30 8
    st := if up then 0 else 2, cause := if up then 0 else 5 }
  let s1 := updLink { s with colls := mapSet s.colls h c } link fun l => { l with seq := (h % 65536 + 1) % 65536 }
  collPut (collPut s1 i va (leBytes h 4)) i (va + 0x2C) (leBytes (c.cause * 256 + c.st) 4)

/-- R431: a COLLOPEN write, or its read that was parked. -/
def openColl (s : State) (i : Nat) (v : DWord) : State :=
  let m := Msg.collOpen i v
  let va := v.toNat
  let refuse (s : State) : State := refusalRecord (dropDenials s m) i 16 va
  if va % 64 ≠ 0 then refuse s
  else match engineRuns s m i [(va, 64, { r := true, w := true })] with
    | .park a need => parkEngine s m i a need
    | .fail .. => refuse s
    | .ok =>
      if badColl s i va then refuse s
      else match engineRuns s m i [(vNat s i (va + 0x10) 8, 8, { r := true })] with
        | .park a need => parkEngine s m i a need
        | .fail .. => refuse s
        | .ok => startColl (dropDenials s m) i va

def writeCollopen (s : State) (i : Nat) (v : DWord) : State :=
  if takesWrites s i && s.sys.stage == 5 then openColl s i v else s

def execCollOpen (s : State) : Host.Outcome State Fault Refusal :=
  event s fun m s => match m with
    | .collOpen i v => some (writeCollopen s i v)
    | _ => none

/-! ### Contributions (R431) -/

def collTy (c : Coll) : Ty := tyOf (BitVec.ofNat 4 c.ty)
def collOp (c : Coll) : RedOp := match c.op with
  | 0 => .add
  | 1 => .min
  | _ => .max

/-- The elements of a run of bytes. -/
def elemsOf (z n : Nat) (bs : List Byte) : List Nat := (List.range n).map fun k => leVal ((bs.drop (z * k)).take z)

/-- R431: one step of the fold. -/
def foldStep (c : Coll) (a b : List Nat) : List Nat := (a.zip b).map fun (x, y) => accOp (collOp c) (collTy c) x y

/-- The bytes of a fold. -/
def foldBytes (c : Coll) (a : List Nat) : List Byte := a.flatMap fun x => leBytes x (collTy c).size

/-- R431: bits of the arrival word that are set and have not been reported. -/
def newBits (s : State) (c : Coll) : DWord := BitVec.ofNat 64 (devNat s c.arrive 8) &&& ~~~c.bits

/-- The lowest bit to be reported; the abort bit before all. -/
def nextBit (s : State) (c : Coll) : Option Nat :=
  if (newBits s c).getLsbD 63 then some 63 else (List.range 63).find? fun k => (newBits s c).getLsbD k

/-- R431: merging: contribution i is next, and bits 0 to i are set. -/
def mergeMay (c : Coll) : Bool := !c.embx && c.merged < c.ncont && c.bits.getLsbD c.merged

/-- R431: contribution `merged` is read and merged. -/
def mergeNext (s : State) (m : Msg) (h : Nat) : State :=
  let c := getColl s h
  let z := (collTy c).size
  let at8 := c.src + 8 * c.merged
  match engineRuns s m c.iface [(at8, 8, { r := true })] with
  | .park va need => parkEngine s m c.iface va need
  | .fail .. => abortColl (dropDenials s m) h 3
  | .ok =>
    let buf := vNat s c.iface at8 8
    match engineRuns s m c.iface [(buf, z * c.count, { r := true })] with
    | .park va need => parkEngine s m c.iface va need
    | .fail .. => abortColl (dropDenials s m) h 3
    | .ok =>
      let xs := elemsOf z c.count (vBytes s c.iface buf (z * c.count))
      let acc := if c.merged = 0 then xs else foldStep c (c.acc) xs
      updColl (dropDenials s m) h fun c => { c with merged := c.merged + 1, acc := acc }

/-- R431: an EMBX: index list p, a 64-bit address and a 64-bit count of 32-bit row numbers. PRESUMED: log 80. -/
def listRuns (s : State) (c : Coll) : List (Nat × Nat × Need) :=
  (List.range c.ndev).map fun p => (vNat s c.iface (c.src + 16 * p) 8, 4 * vNat s c.iface (c.src + 16 * p + 8) 8, { r := true })

/-- The index list for a rank. -/
def indexList (s : State) (c : Coll) (p : Nat) : List Nat :=
  let a := vNat s c.iface (c.src + 16 * p) 8
  (List.range (vNat s c.iface (c.src + 16 * p + 8) 8)).map fun k => vNat s c.iface (a + 4 * k) 4

/-- What goes to a rank travels on the link whose peer has it. -/
def sendRank (s : State) (h rank : Nat) (bs : List Byte) : State :=
  match (getColl s h).routes.find? fun r => r.2 == rank with
  | some (link, _) => { s with peerData := s.peerData ++ [(h, link, bs)] }
  | none => s

/-- R431: every index list is read and sent to the device of its rank. -/
def sendLists (s : State) (m : Msg) (h : Nat) : State :=
  let c := getColl s h
  match engineRuns s m c.iface [(c.src, 16 * c.ndev, { r := true })] with
  | .park va need => parkEngine s m c.iface va need
  | .fail .. => abortColl (dropDenials s m) h 3
  | .ok => match engineRuns s m c.iface (listRuns s c) with
    | .park va need => parkEngine s m c.iface va need
    | .fail .. => abortColl (dropDenials s m) h 3
    | .ok =>
      (List.range c.ndev).foldl (fun s' p =>
        if p = c.rank then s' else sendRank s' h p ((indexList s c p).flatMap fun k => leBytes k 4)) (updColl (dropDenials s m) h fun c => { c with sent := true })

/-- R431, R12: bytes that nothing constrains. -/
def freeBytes (s : State) (n : Nat) : List Byte := (List.range n).map fun k => (fresh s (2 ^ 18 + k)).setWidth 8

/-- R431: the local fold is sent to every other device; it is undefined where a contribution was changed after it was made. -/
def sendFold (s : State) (h : Nat) : State :=
  let c := getColl s h
  let bs := if c.spoiled then freeBytes s (foldBytes c c.acc).length else foldBytes c c.acc
  c.routes.foldl (fun s r => { s with peerData := s.peerData ++ [(h, r.1, bs)] }) (updColl s h fun c => { c with sent := true })

/-- R431, R432: a bit of the arrival word is reported: bit 63 aborts; an unneeded bit has no effect. `bit` 64 goes on with what is held. -/
def collStep (s : State) (h bit : Nat) : State :=
  let c := getColl s h
  let m := Msg.collContribute h bit
  if (mapGet s.colls h).isNone || c.st ≠ 0 then s
  else if bit = 63 then abortColl s h 2
  else if bit < 63 then updColl s h fun c => { c with bits := c.bits ||| BitVec.twoPow 64 bit }
  else if mergeMay c then mergeNext s m h
  else if c.sent then s
  else if c.embx then (if c.bits.getLsbD 0 then sendLists s m h else s)
  else if c.merged = c.ncont then sendFold s h
  else s

def execCollContribute (s : State) : Host.Outcome State Fault Refusal :=
  event s fun m s => match m with
    | .collContribute h bit => some (collStep s h bit)
    | _ => none

/-! ### EMBX (R431) -/

/-- The descriptor of the table of a collective. -/
def tableDesc (s : State) (c : Coll) : List Word := vWords s c.iface c.table 16

/-- R431, R234: the sources of the listed rows, columns 0 to w − 1. -/
def rowSources (d : List Word) (w : Nat) (rows : List Nat) : List Src :=
  rows.flatMap fun (r : Nat) => (List.range w).map fun (k : Nat) => elemSrc d [(k : Int), (r : Int), 0, 0, 0]

/-- The bytes of a run of elements of `bits` bits, packed from the lowest bit on. -/
def packBits (bits : Nat) (vs : List Nat) : List Byte :=
  leBytes ((vs.zipIdx).foldl (fun a x => a + x.1 % 2 ^ bits * 2 ^ (bits * x.2)) 0) ((bits * vs.length + 7) / 8)

/-- The listed rows of this device's table; what their accesses come to. -/
def gatherRows (s : State) (m : Msg) (c : Coll) (rows : List Nat) : Eng × List Byte :=
  match engineRuns s m c.iface [(c.table, 64, { r := true })] with
  | .ok =>
    let d := tableDesc s c
    let xs := rowSources d c.count rows
    match engineRuns s m c.iface ((xs.flatMap Src.needs).dedup.map fun va => (va, 1, { r := true })) with
    | .ok => (.ok, packBits (descBits d) (xs.map (Src.val (vByte s c.iface))))
    | e => (e, [])
  | e => (e, [])

/-- R431: the index list of a peer arrives: the rows are gathered and sent back. -/
def embxRequest (s : State) (h rank : Nat) (rows : List Nat) : State :=
  let c := getColl s h
  let m := Msg.embxRequest h rank rows
  if (mapGet s.colls h).isNone || c.st ≠ 0 || !c.embx then s
  else match gatherRows s m c rows with
    | (.park va need, _) => parkEngine s m c.iface va need
    | (.fail .., _) => abortColl (dropDenials s m) h 3
    | (.ok, bs) => sendRank (dropDenials s m) h rank bs

def execEmbxRequest (s : State) : Host.Outcome State Fault Refusal :=
  event s fun m s => match m with
    | .embxRequest h r rows => some (embxRequest s h r rows)
    | _ => none

/-! ### The end (R431) -/

/-- This device's part in its rank's place among those of the others. -/
def inRank {α : Type} (rank : Nat) (own : α) (others : List α) : List α := others.take rank ++ own :: others.drop rank

/-- R431: the fold across devices in ascending rank. -/
def foldRanks (c : Coll) : List (List Nat) → List Nat
  | [] => []
  | x :: xs => xs.foldl (foldStep c) x

/-- The bytes for DST, or what their reads come to. -/
def collResult (s : State) (m : Msg) (c : Coll) (parts : List (List Byte)) : Eng × List Byte :=
  if c.embx then
    match gatherRows s m c (indexList s c c.rank) with
    | (.ok, own) => (.ok, (inRank c.rank own parts).flatten)
    | e => e
  else
    let z := (collTy c).size
    let bs := foldBytes c (foldRanks c (inRank c.rank (c.acc) (parts.map (elemsOf z c.count))))
    (.ok, if c.spoiled then freeBytes s bs.length else bs)

/-- R431: the collective can end: its own contributions are in, and every other device's part has come. -/
def collReady (c : Coll) (parts : List (List Byte)) : Bool :=
  c.st == 0 && c.sent && parts.length + 1 == c.ndev

/-- DST in runs that stay within their pages. -/
def putRun (i : Nat) (s : State) (va : Nat) (bs : List Byte) : State :=
  (runPages va bs.length).foldl (fun s a => collPut s i a.1 ((bs.drop (a.1 - va)).take a.2)) s

/-- R431: DST is written, STATE becomes 1, and COLL is signalled. -/
def finishColl (s : State) (h : Nat) (parts : List (List Byte)) : State :=
  let c := getColl s h
  let m := Msg.collEnd h parts
  if (mapGet s.colls h).isNone || !collReady c parts then s
  else match collResult s m c parts with
    | (.park va need, _) => parkEngine s m c.iface va need
    | (.fail .., _) => abortColl (dropDenials s m) h 3
    | (.ok, bs) => match engineRuns s m c.iface [(c.dst, bs.length, { w := true })] with
      | .park va need => parkEngine s m c.iface va need
      | .fail .. => abortColl (dropDenials s m) h 3
      | .ok => endColl (putRun c.iface s c.dst bs) m h 1 0

def execCollEnd (s : State) : Host.Outcome State Fault Refusal :=
  event s fun m s => match m with
    | .collEnd h parts => some (finishColl s h parts)
    | _ => none

end Sys2Proof.Machine
end

