-- ==== Sys2Proof/Machine/Reset.lean ====
section
/-! DEFINITION. Reset of a tenant interface (R427, R329, R382) and the virtual functions (R421). -/

namespace Sys2Proof.Machine

/-- R427 step 1, R382: a running graph is cancelled as a SUBGRAPH is, without retries. -/
def resetGraph (s : State) (g : Nat) : State :=
  let s1 := updGraph s g fun x => { x with resetting := true }
  (List.range (getGraph s g).nodes.length).foldl (fun s n =>
    let gone (s : State) : State := updGraph (updNode s g n fun y => { y with st := .cancelled, cause := 6 }) g fun x => { x with cancelled := x.cancelled + 1 }
    match (nodeOf s g n).st with
    | .waiting => gone s
    | .ready => gone (unready s g n)
    | .running | .retry => updNode s g n fun y => { y with st := .cancelling, cause := 6 }
    | _ => s) s1

/-- The graphs of an interface that run. -/
def runningGraphs (s : State) (i : Nat) : List Nat := (s.graphs.filter fun e => e.2.iface == i && !e.2.closed).map (·.1)

/-- R427: a reset starts. DEDUCED: log 75. -/
def startReset (s : State) (i : Nat) : State :=
  if !answers s i || s.sys.stage ≠ 5 || (getIface s i).resetting then s
  else
    let s1 := updIface s i fun x => { x with resetting := true, launchq := [], killAt := some (s.gtime + 1000000) }
    let s2 := (runningGraphs s1 i).foldl resetGraph s1
    { s2 with launches := mapAll s2.launches fun _ l => if l.iface = i then { l with cancelled := true } else l }

def execReset (s : State) : Host.Outcome State Fault Refusal :=
  event s fun m s => match m with
    | .reset i => some (startReset s i)
    | _ => none

/-- R427: the function-level reset of the physical function. DEDUCED: log 76. -/
def execFunctionLevelReset (s : State) : Host.Outcome State Fault Refusal :=
  event s fun m s => match m with
    | .functionLevelReset => some (startReset s 0)
    | _ => none

/-! ### The kill (R427 step 2) -/

/-- The warps of an interface that have not ended. -/
def liveWarps (s : State) (i : Nat) : List Nat := (s.warps.filter fun e => e.2.iface == i && !allEnded e.2).map (·.1)

def killWarps (s : State) (i : Nat) : State := (liveWarps s i).foldl discardWarp s

/-- The time of the kill has come. -/
def killMay (s : State) (i : Nat) : Bool :=
  match (getIface s i).killAt with
  | some t => t ≤ s.gtime && !(liveWarps s i).isEmpty
  | none => false

def execResetKillTimeout (s : State) : Host.Outcome State Fault Refusal :=
  event s fun m s => match m with
    | .resetKillTimeout i => some (if killMay s i then updIface (killWarps s i) i fun x => { x with killAt := none } else s)
    | _ => none

/-! ### What a reset clears (R427 steps 2 to 5) -/

def ifaceWarps (s : State) (i : Nat) : List Nat := (s.warps.filter fun e => e.2.iface == i).map (·.1)

/-- R427 step 2: copies are cancelled, and their records go. -/
def clearCopies (s : State) (i : Nat) : State :=
  let s1 := ((s.copies.filter fun e => e.2.iface == i).map (·.1)).foldl cancelCopy s
  { s1 with copies := mapFilter s1.copies fun _ c => c.iface != i }

/-- R427 step 2: parked requests are answered, and no word of the interface remains. -/
def clearRequests (s : State) (i : Nat) : State :=
  let ws := ifaceWarps s i
  { s with
    parks := mapFilter s.parks fun _ p => p.iface != i
    recWaits := s.recWaits.filter fun r => r.iface != i
    engineWaits := mapFilter s.engineWaits fun _ e => e.iface != i
    ops := mapFilter s.ops fun _ o => !ws.contains o.warp }

/-- R432: an open collective of the interface aborts with CAUSE 6; a store that does not pass is dropped. -/
def resetColl (s : State) (h : Nat) : State :=
  let c := getColl s h
  let s1 := collPut s c.iface (c.desc + 0x2C) (leBytes (6 * 256 + 2) 4)
  signalColl (updColl s1 h fun c => { c with st := 2, cause := 6, acc := [] }) h

def clearColls (s : State) (i : Nat) : State :=
  ((s.colls.filter fun e => e.2.iface == i && e.2.st == 0).map (·.1)).foldl resetColl s

/-- R329: demands, holds and region entries are released without publication. -/
def clearRegions (s : State) (i : Nat) : State :=
  ((s.regions.filter fun e => e.2.live && e.2.iface == i).map (·.1)).foldl freeRegion s

/-- A message in flight that an engine sends for an interface. -/
def engineMsg (i : Nat) (f : Flight) : Bool :=
  match f.msg with
  | .graphLaunch j _ _ _ | .nodeDispatch j _ | .collOpen j _ => j == i
  | _ => false

/-- R382: the graphs end RESET; nodes whose work was stopped are CANCELLED. -/
def endGraphs (s : State) (i : Nat) : State :=
  let stop (x : Graph) : Graph := { x with
    cancelled := x.cancelled + (x.nodes.filter fun y => y.st == .cancelling).length
    nodes := x.nodes.map fun y => if y.st = .cancelling then { y with st := .cancelled } else y }
  let s1 := (runningGraphs s i).foldl (fun s g => writeEnd (updGraph s g stop) g) s
  { s1 with graphs := mapFilter s1.graphs fun _ x => x.iface != i, net := s1.net.filter fun f => !engineMsg i f }

/-- R427 step 4: a D word of a core's L1 is pushed and written back to Home. -/
def settleWord (core : Nat) (s : State) (w : Nat) : State :=
  let c := clusterOf core
  let s1 := pushToDevice s core w
  let s2 := if isHost (4 * w) then s1 else
    let s2 := match mapGet s1.owner w with
      | some o => if o = c then s1 else revokeWords s1 o [w]
      | none => s1
    recallWord { s2 with owner := mapSet s2.owner w c } w
  { s2 with l1 := mapErase s2.l1 (cacheKey core w) }

/-- R427 step 4: what the tenant's words of a core's L1 and of a cluster cache come to: pushed and written back to Home; private words are dropped. -/
def settleWords (s : State) (i : Nat) : State :=
  let ws := ifaceWarps s i
  let s1 := { s with l1 := mapFilter s.l1 fun _ x => !(x.priv != 0 && ws.any fun w => (x.priv - 1) / 32 == w) }
  let a := s1.l1.filter fun e => e.2.dirty && e.2.priv == 0 && e.2.tag.iface == i
  let s2 := a.foldl (fun s e => settleWord (e.1 / 2 ^ 50) s (wordOfKey e.1)) s1
  let b := s2.cc.filter fun e => e.2.tag.iface == i && match e.2.st with
    | .valid _ => false
    | _ => true
  b.foldl (fun s e => settleHome (e.1 / 2 ^ 50) s (wordOfKey e.1)) s2
where
  /-- A word that a cluster holds as its own is pushed and written back to Home. -/
  settleHome (c : Nat) (s : State) (w : Nat) : State :=
    match mapGet s.cc (cacheKey c w) with
    | some x =>
      if x.st = .dirty ∨ mapGet s.owner w = some c ∨ pushPending s c w = true then
        let s1 := match mapGet s.owner w with
          | some o => if o = c then s else revokeWords s o [w]
          | none => s
        recallWord { s1 with owner := mapSet s1.owner w c } w
      else { s with cc := mapErase s.cc (cacheKey c w) }
    | none => s

/-- R84: groups, warps and launches of the interface are gone; context numbers are free. -/
def clearLaunches (s : State) (i : Nat) : State :=
  let gs := (s.groups.filter fun e => e.2.iface == i).map (·.1)
  let cores := ((s.groups.filter fun e => e.2.iface == i && !e.2.saved).flatMap fun e => e.2.cores).dedup
  let s1 := { s with
    arrays := mapAll s.arrays fun _ l => l.filter fun a => !gs.contains a.group
    groups := mapFilter s.groups fun _ g => g.iface != i
    warps := mapFilter s.warps fun _ x => x.iface != i
    launches := mapFilter s.launches fun _ l => l.iface != i }
  cores.foldl shrinkCarve s1

/-- R427 step 5: registers of the interface; PTROOT, POLICY, queue bases and sizes, and the buckets keep their values. -/
def clearRegisters (s : State) (i : Nat) : State :=
  updIface { s with tlb := s.tlb.filter fun e => e.iface != i } i fun x => { x with
    pending := 0, fqhead := 0, fqtail := 0, fqsump := false, tqhead := 0, tqtail := 0, tqsump := false
    olcount := 0, drops := 0, fatalx := 0, stopped := false, preempt := false, invbusy := false, invs := [], seq := 0, killAt := none
    launchq := [], ready := [[], [], [], []], places := [] }

/-- R427: everything that a reset clears, in its order. -/
def clearIface (s : State) (i : Nat) : State :=
  let s1 := clearRegions (clearColls (clearRequests (clearCopies s i) i) i) i
  clearRegisters (clearLaunches (settleWords (endGraphs s1 i) i) i) i

/-- R427: a reset can complete: every warp has been discarded or killed. -/
def resetDone (s : State) (i : Nat) : Bool := (getIface s i).resetting && (liveWarps s i).isEmpty

def execResetComplete (s : State) : Host.Outcome State Fault Refusal :=
  event s fun m s => match m with
    | .resetComplete i =>
      some (if resetDone s i then raiseMsix (updIface (clearIface s i) i fun x => { x with resetting := false }) i 0 else s)
    | _ => none

/-! ### Virtual functions (R418, R421) -/

/-- R421: an interface that is disabled: its work ends at once, and its registers are reset. -/
def disableIface (s : State) (i : Nat) : State := setIface (clearIface (killWarps s i) i) i {}

/-- R421: the host enables the first `n` virtual functions, and no others. -/
def enableFunctions (s : State) (n : Nat) : State :=
  if !answers s 0 then s
  else
    let n := min n 255
    let gone := (s.ifaces.filter fun e => n < e.1).map (·.1)
    { gone.foldl disableIface s with sys := { s.sys with vfs := n } }

def execVirtualFunctionEnable (s : State) : Host.Outcome State Fault Refusal :=
  event s fun m s => match m with
    | .virtualFunctionEnable n => some (enableFunctions s n)
    | _ => none

end Sys2Proof.Machine
end

