-- ==== Sys2Proof/Machine/Errors.lean ====
section
/-! DEFINITION. Errors of memory arrays: counts, thresholds, retirement, error-log records (R428). -/

namespace Sys2Proof.Machine

/-- R428: the threshold of a unit class, 0 where none is given. -/
def threshold (s : State) (cls : Nat) : Nat :=
  if 1 ≤ cls ∧ cls ≤ 4 then s.sys.thresholds.toNat / 2 ^ (8 * (cls - 1)) % 256 else 0

def updSys (s : State) (f : Sys → Sys) : State := { s with sys := f s.sys }

/-- UNIT of a record: class and number. -/
def unitWord (cls number : Nat) : Nat := cls * 2 ^ 24 + number % 2 ^ 23

/-- The count of a unit in the window. -/
def countOf (s : State) (cls number : Nat) : Nat :=
  match s.sys.counts.find? fun e => e.cls == cls && e.number == number with
  | some e => e.count
  | none => 0

/-- R428: the unit's count has reached its threshold in the window. -/
def isLasting (s : State) (cls number : Nat) : Bool := s.sys.counts.any fun e => e.cls == cls && e.number == number && e.lasting

def setCount (s : State) (cls number n : Nat) (lasting : Bool) : State :=
  updSys s fun x => { x with counts := ⟨cls, number, n, lasting⟩ :: x.counts.filter fun e => !(e.cls == cls && e.number == number) }

/-- R428: which registered words lie in a slice way is open: they are recalled. -/
def recallWay (s : State) : State :=
  ((s.owner.map (·.1)).filter fun w => Config.pick (s.free + freeBase + w) % 2 == 0).foldl recallWord s

/-- R428: which words lie in a cluster-cache way is open: they are evicted. -/
def evictWay (s : State) : State :=
  let secs := ((s.cc.map fun e => (e.1 / 2 ^ 50, wordOfKey e.1 / 16)).dedup).filter fun x =>
    Config.pick (s.free + freeBase + 64 * x.2 + x.1) % 2 == 0
  secs.foldl (fun s x => clusterEvict s x.1 x.2 (BitVec.allOnes 16)) s

/-- R428: a unit with a lasting fault is retired; UNIT of its record. DEDUCED: log 77. -/
def retireUnit (s : State) (cls number : Nat) : State × Nat :=
  let mark (s : State) : State := updSys s fun x => { x with retired := x.retired ++ [(cls, number)] }
  match cls with
  | 1 => (mark (recallWay s), unitWord 1 number)
  | 2 =>
    if s.sys.sparesUsed < Config.spareRows then (updSys s fun x => { x with sparesUsed := x.sparesUsed + 1 }, unitWord 2 number)
    else (s, unitWord 2 number + 2 ^ 23)
  | 3 => (updSys s fun x => { x with retiring := x.retiring ++ [number] }, unitWord 3 number)
  | _ => (mark (evictWay s), unitWord 4 number)

/-- A unit that is retired already. -/
def isRetired (s : State) (cls number : Nat) : Bool :=
  s.sys.retired.contains (cls, number) || (cls == 3 && s.sys.retiring.contains number)

/-- R428: a corrected error counts; at the threshold the unit is retired and a record is written, whose address is open. -/
def corrected (s : State) (cls number : Nat) : State :=
  if s.sys.stage ≠ 5 then s
  else
    let n := countOf s cls number + 1
    let reached := threshold s cls ≠ 0 && threshold s cls ≤ n
    let s1 := setCount s cls number n (reached || isLasting s cls number)
    if !reached || isLasting s cls number || isRetired s cls number then s1
    else
      let (s2, unit) := retireUnit s1 cls number
      errorRecord s2 unit ((fresh s (freeBase + 32768)).toNat % 2 ^ 52)

def execEccCorrected (s : State) : Host.Outcome State Fault Refusal :=
  event s fun m s => match m with
    | .eccCorrected cls number => some (corrected s cls number)
    | _ => none

/-- The parts of an operation that ask for a byte. -/
def asksByte (addr : Nat) (p : Part) : Bool := p.walked && p.pa ≤ addr && addr < p.pa + p.n

/-- R428, R191: an error that cannot be corrected: a record, and an access error for the requester: a word's operation, or whichever engine or fetch meets the byte next. -/
def uncorrectable (s : State) (cls number addr : Nat) (op : Option Nat) : State :=
  if s.sys.stage ≠ 5 then s
  else
    let s1 := errorRecord s (unitWord cls number) addr
    match op with
    | none => if s1.errors.contains addr then s1 else { s1 with errors := addr :: s1.errors }
    | some id => match mapGet s1.ops id with
      | none => s1
      | some o =>
        let fs := (o.parts.filter (asksByte addr)).map fun p => (p.lane, causeAccess, p.va)
        failLanes (updOp s1 id fun o => { o with parts := o.parts.map fun p => if asksByte addr p then { p with st := .failed causeAccess } else p }) id fs

def execEccUncorrectable (s : State) : Host.Outcome State Fault Refusal :=
  event s fun m s => match m with
    | .eccUncorrectable cls number addr op => some (uncorrectable s cls number addr op)
    | _ => none

/-- R428: a window of 2^W ticks has passed. -/
def windowMay (s : State) : Bool := s.sys.windowEnd ≤ s.gtime

def nextWindow (s : State) : State :=
  updSys s fun x => { x with counts := [], windowEnd := x.windowEnd + 2 ^ (x.errwin.extractLsb' 0 6).toNat }

def execErrorWindowExpire (s : State) : Host.Outcome State Fault Refusal :=
  event s fun m s => match m with
    | .errorWindowExpire => some (if windowMay s then nextWindow s else s)
    | _ => none

end Sys2Proof.Machine
end

