-- ==== Sys2Proof/Machine/Boot.lean ====
section
/-! DEFINITION. Bring-up (R433 to R436), attestation (R437), operating limits, shutdown and clock steps (R438 to R441). -/

namespace Sys2Proof.Machine

/-! ### Power (R433, R439) -/

/-- The device without anything that power keeps: host memory is the host's, the fused minimum is fused, and what was sent stays sent. -/
def coldState (s : State) (x : Sys) : State :=
  { State.reset with
    clock := s.clock, gtime := s.gtime, tick := s.tick, free := s.free, next := s.next
    inbox := s.inbox, msix := s.msix, hostData := s.hostData, peerData := s.peerData
    mem := mapFilter s.mem fun a _ => isHost a
    sys := { x with fusedMin := s.sys.fusedMin } }

/-- R433, R439: bring-up starts again at stage 1; the report of a shutdown stays readable. -/
def restart (s : State) : State :=
  coldState s { kept := if s.sys.stage = 6 then some (6, s.sys.error, s.sys.detail) else none }

/-- R439: a shutdown whose cause still stands above its release level is not left. -/
def execPowerOn (s : State) : Host.Outcome State Fault Refusal :=
  event s fun m s => match m with
    | .powerOn => some (if s.sys.stage = 6 ∧ s.sys.above = true then s else restart s)
    | _ => none

/-- R433, R439: a host link reset ends a failed bring-up, or a shutdown whose cause has gone. DEDUCED: log 83. -/
def linkReset (s : State) : State :=
  if s.sys.stage = 6 then (if s.sys.above then s else restart s)
  else if s.sys.stage < 5 ∧ s.sys.error ≠ 0 then restart s
  else s

def execHostLinkReset (s : State) : Host.Outcome State Fault Refusal :=
  event s fun m s => match m with
    | .hostLinkReset => some (linkReset s)
    | _ => none

/-- R439: below 36 V all state is lost. -/
def execSupplyLoss (s : State) : Host.Outcome State Fault Refusal :=
  event s fun m s => match m with
    | .supplyLoss => some (coldState s { stage := 0 })
    | _ => none

/-! ### The stages (R433) -/

/-- A bring-up stage that has not failed. -/
def inStage (s : State) (n : Nat) : Bool := s.sys.stage == n && s.sys.error == 0

def execSupplyStable (s : State) : Host.Outcome State Fault Refusal :=
  event s fun m s => match m with
    | .supplyStable => some (if inStage s 1 then updSys s fun x => { x with stage := 2 } else s)
    | _ => none

/-- R433, R439: with stage 3 the report of a shutdown is no longer kept. -/
def execRomStage (s : State) : Host.Outcome State Fault Refusal :=
  event s fun m s => match m with
    | .romStage ok =>
      some (if !inStage s 2 then s else updSys s fun x => if ok then { x with stage := 3, kept := none } else { x with error := 1 })
    | _ => none

/-! ### Firmware images (R434, R435) -/

/-- A little-endian field of an image. -/
def imageNat (img : List Byte) (off n : Nat) : Nat := leVal ((img.drop off).take n)

/-- R434: the check of an image: the ERROR of the first failure. -/
def imageError (s : State) (img : List Byte) : Option Nat :=
  let key := (img.drop 0x100).take 384
  let body := (img.drop 1024).take (imageNat img 0x28 8)
  if sha256 key ≠ Config.fusedKeyDigest then some 2
  else if Config.rsaVerifies key (img.take 0x280) ((img.drop 0x280).take 384) = false ∨ sha256 body ≠ img.take 32
      ∨ img.length < 1024 + imageNat img 0x28 8 then some 3
  else if imageNat img 0x20 4 < s.sys.fusedMin then some 4
  else none

/-- R434, R435: an image is checked; an accepted one leads to stage 4, one from the flash may raise the fused minimum. -/
def checkImage (s : State) (img : List Byte) (raises : Bool) : State :=
  match imageError s img with
  | some e => updSys s fun x => { x with error := e }
  | none => updSys s fun x => { x with
      stage := 4, error := 0, firmware := img.take 1024
      fusedMin := if raises then max x.fusedMin (imageNat img 0x20 4) else x.fusedMin }

def execVerify (s : State) : Host.Outcome State Fault Refusal :=
  event s fun m s => match m with
    | .verify img => some (if inStage s 3 then checkImage s img true else s)
    | _ => none

/-- R435: the first bytes of the staging window. -/
def stagedImage (s : State) (n : Nat) : List Byte := (List.range n).map fun k => mapGetD s.sys.staging k 0

/-- R435: the length of the image in the staging window is written; in any other stage the write is ignored. -/
def writeBootimg (s : State) (n : Word) : State :=
  if s.sys.stage = 3 ∧ 2 ≤ s.sys.error ∧ s.sys.error ≤ 4 then
    checkImage (updSys s fun x => { x with bootimg := n }) (stagedImage s n.toNat) false
  else s

def execBootimg (s : State) : Host.Outcome State Fault Refusal :=
  event s fun m s => match m with
    | .bootimg n => some (writeBootimg s n)
    | _ => none

/-- R433: HBM, slices and cluster caches are cleared to zero, or a stack fails. -/
def clearMemory (s : State) : State :=
  { s with mem := mapFilter s.mem fun a _ => isHost a, errors := [], l1 := [], cc := [], wbuf := [], owner := [] }

def execMemoryStage (s : State) : Host.Outcome State Fault Refusal :=
  event s fun m s => match m with
    | .memoryStage failed =>
      some (if !inStage s 4 then s
        else match failed with
          | some k => updSys s fun x => { x with error := 5, detail := k }
          | none => updSys (clearMemory s) fun x => { x with trained := true })
    | _ => none

/-- R433, R429: stage 5: GTIME starts from 0, and every peer link trains. -/
def execReady (s : State) : Host.Outcome State Fault Refusal :=
  event s fun m s => match m with
    | .ready =>
      some (if inStage s 4 && s.sys.trained then
        (List.range 16).foldl (fun s n => updLink s n fun l => { l with training := true })
          (updSys { s with gtime := 0, refill := 0 } fun x => { x with stage := 5, windowEnd := 2 ^ (x.errwin.extractLsb' 0 6).toNat })
      else s)
    | _ => none

/-! ### Attestation (R437) -/

/-- R437: a report is asked for: a 64-aligned buffer in host memory. -/
def writeAttreq (s : State) (v : DWord) : State :=
  if takesWrites s 0 && !s.sys.attbusy && v.toNat % 64 == 0 && isHost v.toNat && physOk (v.toNat + 511) then
    updSys s fun x => { x with attreq := v, attbusy := true }
  else s

def execAttreq (s : State) : Host.Outcome State Fault Refusal :=
  event s fun m s => match m with
    | .attreq v => some (writeAttreq s v)
    | _ => none

/-- Bytes that the spec leaves open. -/
def openBytes (s : State) (k n : Nat) : List Byte := (List.range n).map fun i => (fresh s (freeBase + 40000 + k + i)).setWidth 8

/-- R437: the first 128 bytes of a report: nonce, digest, versions, serial number, zeros. Before firmware runs there is nothing to name. DEDUCED: log 85. -/
def reportHead (s : State) : List Byte :=
  let fw := s.sys.firmware
  let digest := if fw.isEmpty then openBytes s 0 32 else sha256 (fw.take 0x280)
  let version := if fw.isEmpty then openBytes s 32 4 else leBytes (imageNat fw 0x24 4) 4
  devBytes s s.sys.attreq.toNat 32 ++ digest ++ version ++ leBytes s.sys.fusedMin 4 ++ leBytes Config.serialNumber.toNat 8
    ++ List.replicate 48 0

/-- R437: the report is written, and ATTBUSY is cleared. -/
def writeReport (s : State) : State :=
  let h := reportHead s
  let sig := (Config.identitySign h).take 384
  let s1 := devWrite s (s.sys.attreq.toNat + 0x20) (h.drop 0x20 ++ sig)
  updSys s1 fun x => { x with attbusy := false }

def execAttestationDone (s : State) : Host.Outcome State Fault Refusal :=
  event s fun m s => match m with
    | .attestationDone => some (if s.sys.attbusy then writeReport s else s)
    | _ => none

/-! ### Operating limits (R438, R440, R441) -/

/-- R440: GBAND at a clock step. -/
def stepBand (n : Nat) : Nat := [8, 8, 9, 10].getD n 10

/-- R441: a step takes effect with its GBAND. -/
def setStep (s : State) (n : Nat) : State :=
  if s.sys.stage = 5 ∧ n ≤ 3 then updSys s fun x => { x with clkstep := n, gband := stepBand n } else s

def execClockStepChange (s : State) : Host.Outcome State Fault Refusal :=
  event s fun m s => match m with
    | .clockStepChange n => some (setStep s n)
    | _ => none

/-- R439: a shutdown: vector 0, then stage 6; all work ends, and all but BOOTSTAT is reset. -/
def shutDown (s : State) (error detail : Nat) : State :=
  if s.sys.stage = 0 ∨ s.sys.stage = 6 then s
  else coldState (raiseMsix s 0 0) { stage := 6, error := error, detail := detail, above := true }

def execShutdown (s : State) : Host.Outcome State Fault Refusal :=
  event s fun m s => match m with
    | .shutdown e d => some (shutDown s e d)
    | _ => none

/-- The sums of the samples of a 1 ms window. -/
def sumOf (l : List LimitSample) (f : LimitSample → Nat) : Nat := (l.map f).foldl (· + ·) 0

/-- R438: the shutdown that a window of samples calls for: ERROR, DETAIL. -/
def stopFor (l : List LimitSample) : Option (Nat × Nat) :=
  let n := l.length
  let last := l.getLast?
  if sumOf l (·.supplyMv) < 40000 * n then some (16, 0)
  else if 105 * n ≤ sumOf l (·.dieC) then some (17, (last.map (·.die)).getD 0)
  else if 95 * n ≤ sumOf l (·.hbmC) then some (18, (last.map (·.stack)).getD 0)
  else none

/-- R438: a throttle condition holds for the window. -/
def throttles (l : List LimitSample) : Bool :=
  let n := l.length
  sumOf l (·.supplyMv) < 42000 * n || 95 * n ≤ sumOf l (·.dieC) || 85 * n ≤ sumOf l (·.hbmC)

/-- R438: every quantity of the window is on the released side, the module power of its last window too. -/
def releases (s : State) (l : List LimitSample) : Bool :=
  let n := l.length
  43000 * n ≤ sumOf l (·.supplyMv) && sumOf l (·.dieC) < 90 * n && sumOf l (·.hbmC) < 80 * n && s.sys.lastPower < 2300 * 10000

/-- R438: the end of a 1 ms window. -/
def windowStep (s : State) (l : List LimitSample) : State :=
  match stopFor l with
  | some (e, d) => send s none (.shutdown e d)
  | none =>
    if throttles l then (if s.sys.clkstep < 3 then send s none (.clockStepChange (s.sys.clkstep + 1)) else s)
    else if releases s l then (if 0 < s.sys.clkstep then send s none (.clockStepChange (s.sys.clkstep - 1)) else s)
    else s

/-- R438: the end of a 10 ms window of the module power. -/
def powerStep (s : State) : State :=
  if s.sys.powers.length < 10000 then s
  else
    let sum := s.sys.powers.foldl (· + ·) 0
    let s1 := updSys s fun x => { x with powers := [], lastPower := sum }
    if 2400 * 10000 ≤ sum && s.sys.clkstep < 3 then send s1 none (.clockStepChange (s.sys.clkstep + 1)) else s1

/-- R439: whether the cause of the shutdown still stands. -/
def stillAbove (error : Nat) (x : LimitSample) : Bool :=
  match error with
  | 16 => x.supplyMv < 43000
  | 17 => 90 ≤ x.dieC
  | _ => 80 ≤ x.hbmC

/-- R438: a sample of the limits. DEDUCED: log 82. -/
def takeSample (s : State) (x : LimitSample) : State :=
  if x.supplyMv < 36000 then send s none .supplyLoss
  else if s.sys.stage = 6 then updSys s fun y => { y with above := stillAbove s.sys.error x }
  else if s.sys.stage < 2 then s
  else
    let l := s.sys.window ++ [x]
    let s1 := updSys s fun y => { y with window := if l.length < 1000 then l else [], powers := y.powers ++ [x.powerW] }
    powerStep (if l.length < 1000 then s1 else windowStep s1 l)

def execLimitSample (s : State) : Host.Outcome State Fault Refusal :=
  event s fun m s => match m with
    | .limitSample x => some (takeSample s x)
    | _ => none

end Sys2Proof.Machine
end

