-- ==== Sys2Proof/Machine/Registers.lean ====
section
/-! DEFINITION. The register pages of the tenant interfaces and of the physical function (R422, R428, R429, R436): reads, and writes of registers without a step of their own. -/

namespace Sys2Proof.Machine

/-! ### Reads -/

/-- R422: a queue's tail register. -/
def tailWord (tail : Nat) (sump : Bool) : Nat := (if sump then 2 ^ 31 else 0) + tail % 65536

/-- R436: BOOTSTAT; a kept report of a shutdown until stage 3 begins. -/
def bootstat (s : State) : Nat :=
  match s.sys.kept with
  | some (st, e, d) => st + 256 * e + 65536 * d
  | none => s.sys.stage + 256 * s.sys.error + 65536 * (s.sys.detail % 256) + if s.sys.stage = 5 then 2 ^ 31 else 0

/-- R429: an entry of PEERMAP. -/
def peermap (l : Link) : Nat :=
  l.rank % 65536 + (if l.training then 2 ^ 28 else 0) + (if l.downev then 2 ^ 29 else 0) + if l.up then 2 ^ 31 else 0

/-- R428, R429, R436: a 32-bit register of the physical function's page. -/
def pfRead (s : State) (off : Nat) : Nat :=
  if off = 0xC00 then s.sys.errwin.toNat
  else if off = 0xC04 then s.sys.thresholds.toNat
  else if 0xD00 ≤ off ∧ off < 0xD40 then peermap (getLink s ((off - 0xD00) / 4))
  else if off = 0xE00 then bootstat s
  else if off = 0xE04 then s.sys.bootimg.toNat
  else if off = 0xE08 then s.sys.attreq.toNat % 2 ^ 32
  else if off = 0xE0C then s.sys.attreq.toNat / 2 ^ 32
  else if off = 0xE10 then s.sys.attbusy.toNat
  else if off = 0xE14 then s.sys.clkstep
  else if 0x1000 ≤ off ∧ off < 0x1800 then
    let x := getIface s ((off - 0x1000) / 8)
    if off % 8 = 0 then x.policy.toNat else if off % 8 = 4 then x.qcore.toNat else 0
  else 0

/-- R422: a 32-bit register of an interface's page. -/
def pageRead (s : State) (i off : Nat) : Nat :=
  let x := getIface s i
  let lo (v : DWord) : Nat := v.toNat % 2 ^ 32
  let hi (v : DWord) : Nat := v.toNat / 2 ^ 32
  match off with
  | 0x000 => i % 256
  | 0x004 => x.policy.toNat
  | 0x008 => x.resetting.toNat
  | 0x010 => lo x.ptroot
  | 0x014 => hi x.ptroot
  | 0x018 => lo x.invaddr
  | 0x01C => hi x.invaddr
  | 0x020 => x.invbusy.toNat
  | 0x030 => lo x.fqbase
  | 0x034 => hi x.fqbase
  | 0x038 => x.fqsize.toNat
  | 0x03C => x.fqhead
  | 0x040 => tailWord x.fqtail x.fqsump
  | 0x048 => lo x.tqbase
  | 0x04C => hi x.tqbase
  | 0x050 => x.tqsize.toNat
  | 0x054 => x.tqhead
  | 0x058 => tailWord x.tqtail x.tqsump
  | 0x064 => x.olcount.toNat
  | 0x068 => x.drops.toNat
  | 0x06C => x.fatalx.toNat
  | 0x070 => (anyResident s i).toNat
  | 0x074 => min x.launchq.length 256
  | 0x080 => x.qslice.toNat
  | 0x084 => x.qhbm.toNat
  | 0x088 => x.qcopy.toNat
  | 0x08C => x.qcore.toNat
  | _ => if i = 0 then pfRead s off else 0

/-! ### Writes -/

/-- R404: a fault queue that is enabled takes the records that were stalled. -/
def drainAll (s : State) (i : Nat) : State := drainRecords s i s.recWaits.length

/-- R193, R422: an FRESP write. -/
def writeFresp (s : State) (i : Nat) (v : Word) : State :=
  let quad := (v.extractLsb' 13 2).toNat
  let entry := (v.extractLsb' 0 13).toNat
  if v.getLsbD 31 then answerSpan s i quad entry denyPark else answerSpan s i quad entry replayPark

/-- R422: the policy table. DEDUCED: log 73. -/
def policyWrite (s : State) (off : Nat) (v : Word) : State :=
  let i := (off - 0x1000) / 8
  if (getIface s i).resetting then s
  else if off % 8 = 0 then updIface s i fun x => { x with policy := v &&& 3 }
  else updIface s i fun x => { x with qcore := v &&& 0xFFFF }

/-- R428, R429, R435: 32-bit registers of the physical function's page. -/
def pfWrite (s : State) (off : Nat) (v : Word) : State :=
  if off = 0xC00 then
    let w := v &&& 63
    if 20 ≤ w.toNat ∧ w.toNat ≤ 40 then updSys s fun x => { x with errwin := w } else s
  else if off = 0xC04 then updSys s fun x => { x with thresholds := v }
  else if 0xD00 ≤ off ∧ off < 0xD40 then
    let n := (off - 0xD00) / 4
    let s1 := updLink s n fun l => { l with rank := (v.extractLsb' 0 16).toNat, downev := l.downev && !v.getLsbD 29 }
    if v.getLsbD 30 then writeRetrain s1 n else s1
  else if off = 0xE04 then writeBootimg s v
  else if 0x1000 ≤ off ∧ off < 0x1800 then policyWrite s off v
  else s

/-- R422: a 32-bit write of an interface's page; half of a 64-bit field takes none. -/
def write32 (s : State) (i off : Nat) (v : Word) : State :=
  if !answers s i then s
  else if off = 0x008 then (if v.getLsbD 0 then startReset s i else s)
  else if off = 0x03C then writeFqhead s i v
  else if off = 0x054 then writeTqhead s i v
  else if off = 0x06C then (if v.getLsbD 31 then clearFatalx s i else s)
  else if 0x1000 ≤ off then (if i = 0 then pfWrite s off v else s)
  else if (getIface s i).resetting then s
  else match off with
    | 0x038 => drainAll (updIface s i fun x => { x with fqsize := v &&& 31 }) i
    | 0x050 => updIface s i fun x => { x with tqsize := v &&& 31 }
    | 0x060 => writeFresp s i v
    | 0x064 => updIface s i fun x => { x with olcount := v }
    | 0x068 => updIface s i fun x => { x with drops := v }
    | 0x070 => if v.getLsbD 0 then writePreempt s i else s
    | 0x080 => updIface s i fun x => { x with qslice := v }
    | 0x084 => updIface s i fun x => { x with qhbm := v }
    | 0x088 => updIface s i fun x => { x with qcopy := v }
    | _ => if i = 0 then pfWrite s off v else s

/-- R422: a 64-bit write: of a 64-bit field, or of two 32-bit registers, the lower first. -/
def write64 (s : State) (i off : Nat) (v : DWord) : State :=
  match off with
  | 0x010 => writePtroot s i v
  | 0x018 => writeInvaddr s i v
  | 0x028 => writeLaunch s i v
  | 0x030 => if takesWrites s i then updIface s i fun x => { x with fqbase := v &&& ~~~0x1F } else s
  | 0x048 => if takesWrites s i then updIface s i fun x => { x with tqbase := v &&& ~~~0x1F } else s
  | 0x090 => writeCollopen s i v
  | 0xE08 => if i = 0 then writeAttreq s v else s
  | _ => write32 (write32 s i off (v.setWidth 32)) i (off + 4) (v.extractLsb' 32 32)

/-- R435: the staging window takes a write while ERROR is 2 to 4. DEDUCED: log 83. -/
def stageWrite (s : State) (off : Nat) (bs : List Byte) : State :=
  if answers s 0 && 2 ≤ s.sys.error && s.sys.error ≤ 4 then
    updSys s fun x => { x with staging := bs.zipIdx.foldl (fun m (b, k) => mapPut 0 m (off - 0x10000 + k) b) x.staging }
  else s

/-- R422: accesses are naturally aligned; others have no effect. DEDUCED: log 72. -/
def registerWrite (s : State) (i off : Nat) (wide : Bool) (v : DWord) : State :=
  if i = 0 ∧ 0x10000 ≤ off ∧ off % (if wide then 8 else 4) = 0 then stageWrite s off (leBytes v.toNat (if wide then 8 else 4))
  else if wide then (if off % 8 = 0 then write64 s i off v else s)
  else if off % 4 = 0 then write32 s i off (v.setWidth 32)
  else s

def execRegisterWrite (s : State) : Host.Outcome State Fault Refusal :=
  event s fun m s => match m with
    | .registerWrite i off wide v => some (registerWrite s i off wide v)
    | .msixEntry i v e => some (writeVector s i v e)
    | .msixMask i v => some (maskVector s i v)
    | _ => none

end Sys2Proof.Machine
end

