-- ==== Sys2Proof/Machine/Dispatch.lean ====
section
/-! DEFINITION. The dispatch of a step to its meaning: one arm for each row of the opcode table. -/

namespace Sys2Proof.Machine

def exec (i : Instr) (s : State) : Host.Outcome State Fault Refusal :=
  match i with
  | .nop c => Sys2Proof.Machine.execNop c s
  | .bra c off => Sys2Proof.Machine.execBra c off s
  | .brak c a => Sys2Proof.Machine.execBrak c a s
  | .brx c a => Sys2Proof.Machine.execBrx c a s
  | .call c d off => Sys2Proof.Machine.execCall c d off s
  | .callk c d a => Sys2Proof.Machine.execCallk c d a s
  | .ret c a => Sys2Proof.Machine.execRet c a s
  | .exit c => Sys2Proof.Machine.execExit c s
  | .reconv c a => Sys2Proof.Machine.execReconv c a s
  | .yield c a => Sys2Proof.Machine.execYield c a s
  | .sread c d a => Sys2Proof.Machine.execSread c d a s
  | .sreadId c d n => Sys2Proof.Machine.execSreadId c d n s
  | .sreadExt c d n => Sys2Proof.Machine.execSreadExt c d n s
  | .sreadNum c d n => Sys2Proof.Machine.execSreadNum c d n s
  | .sreadBind c d n => Sys2Proof.Machine.execSreadBind c d n s
  | .swrite c d a => Sys2Proof.Machine.execSwrite c d a s
  | .mov c d a => Sys2Proof.Machine.execMov c d a s
  | .mov64 c d a => Sys2Proof.Machine.execMov64 c d a s
  | .movk c d a => Sys2Proof.Machine.execMovk c d a s
  | .movk64 c d a => Sys2Proof.Machine.execMovk64 c d a s
  | .bcast c d a b => Sys2Proof.Machine.execBcast c d a b s
  | .limm c d a b => Sys2Proof.Machine.execLimm c d a b s
  | .limmIns c d a b => Sys2Proof.Machine.execLimmIns c d a b s
  | .sel c neg n d a b => Sys2Proof.Machine.execSel c neg n d a b s
  | .sel64 c neg n d a b => Sys2Proof.Machine.execSel64 c neg n d a b s
  | .plog c pc lut d a b => Sys2Proof.Machine.execPlog c pc lut d a b s
  | .plogTov c d => Sys2Proof.Machine.execPlogTov c d s
  | .plogFromv c a => Sys2Proof.Machine.execPlogFromv c a s
  | .sbindLd c e d a => Sys2Proof.Machine.execSbindLd c e d a s
  | .sbindSt c e d a => Sys2Proof.Machine.execSbindSt c e d a s
  | .sstop c a => Sys2Proof.Machine.execSstop c a s
  | .sflags c d a => Sys2Proof.Machine.execSflags c d a s
  | .iadd c sat ty d a b => Sys2Proof.Machine.execIadd c sat ty d a b s
  | .iaddc c ty n d a b => Sys2Proof.Machine.execIaddc c ty n d a b s
  | .isub c sat ty d a b => Sys2Proof.Machine.execIsub c sat ty d a b s
  | .imul c wide ty d a b => Sys2Proof.Machine.execImul c wide ty d a b s
  | .imulh c ty d a b => Sys2Proof.Machine.execImulh c ty d a b s
  | .imad c wide ty d a b => Sys2Proof.Machine.execImad c wide ty d a b s
  | .imin c ty d a b => Sys2Proof.Machine.execImin c ty d a b s
  | .imax c ty d a b => Sys2Proof.Machine.execImax c ty d a b s
  | .iabs c sat ty d a => Sys2Proof.Machine.execIabs c sat ty d a s
  | .and c ty d a b => Sys2Proof.Machine.execAnd c ty d a b s
  | .or c ty d a b => Sys2Proof.Machine.execOr c ty d a b s
  | .xor c ty d a b => Sys2Proof.Machine.execXor c ty d a b s
  | .andn c ty d a b => Sys2Proof.Machine.execAndn c ty d a b s
  | .shl c ty d a b => Sys2Proof.Machine.execShl c ty d a b s
  | .shr c ty d a b => Sys2Proof.Machine.execShr c ty d a b s
  | .sar c ty d a b => Sys2Proof.Machine.execSar c ty d a b s
  | .rotl c ty d a b => Sys2Proof.Machine.execRotl c ty d a b s
  | .popc c ty d a => Sys2Proof.Machine.execPopc c ty d a s
  | .clz c ty d a => Sys2Proof.Machine.execClz c ty d a s
  | .ctz c ty d a => Sys2Proof.Machine.execCtz c ty d a s
  | .brev c ty d a => Sys2Proof.Machine.execBrev c ty d a s
  | .bfx c ty f d a => Sys2Proof.Machine.execBfx c ty f d a s
  | .bfi c ty f d a => Sys2Proof.Machine.execBfi c ty f d a s
  | .isetp c cmp ty q d a b => Sys2Proof.Machine.execIsetp c cmp ty q d a b s
  | .agen c signed ty d m => Sys2Proof.Machine.execAgen c signed ty d m s
  | .fadd c ty r d a b => Sys2Proof.Machine.execFadd c ty r d a b s
  | .fsub c ty r d a b => Sys2Proof.Machine.execFsub c ty r d a b s
  | .fmul c ty r d a b => Sys2Proof.Machine.execFmul c ty r d a b s
  | .fma c ty r d a b => Sys2Proof.Machine.execFma c ty r d a b s
  | .fms c ty r d a b => Sys2Proof.Machine.execFms c ty r d a b s
  | .fmin c num ty d a b => Sys2Proof.Machine.execFmin c num ty d a b s
  | .fmax c num ty d a b => Sys2Proof.Machine.execFmax c num ty d a b s
  | .fsetp c cmp ty q d a b => Sys2Proof.Machine.execFsetp c cmp ty q d a b s
  | .fclass c ty mask d a => Sys2Proof.Machine.execFclass c ty mask d a s
  | .frnd c ty r d a => Sys2Proof.Machine.execFrnd c ty r d a s
  | .frcp c ty r d a => Sys2Proof.Machine.execFrcp c ty r d a s
  | .frsq c ty d a => Sys2Proof.Machine.execFrsq c ty d a s
  | .fsqrt c ty r d a => Sys2Proof.Machine.execFsqrt c ty r d a s
  | .fdiv c ty r d a b => Sys2Proof.Machine.execFdiv c ty r d a b s
  | .fex2 c d a => Sys2Proof.Machine.execFex2 c d a s
  | .flg2 c d a => Sys2Proof.Machine.execFlg2 c d a s
  | .fsin c d a => Sys2Proof.Machine.execFsin c d a s
  | .fcos c d a => Sys2Proof.Machine.execFcos c d a s
  | .ftanh c d a => Sys2Proof.Machine.execFtanh c d a s
  | .cvt c dst src r d a => Sys2Proof.Machine.execCvt c dst src r d a s
  | .cvtPack c r d a b => Sys2Proof.Machine.execCvtPack c r d a b s
  | .cvtHi c dst r d a => Sys2Proof.Machine.execCvtHi c dst r d a s
  | .cvtSat c dst src r d a => Sys2Proof.Machine.execCvtSat c dst src r d a s
  | .lpartset c a => Sys2Proof.Machine.execLpartset c a s
  | .shflIdx c ty vp d a b => Sys2Proof.Machine.execShflIdx c ty vp d a b s
  | .shflUp c ty vp d a b => Sys2Proof.Machine.execShflUp c ty vp d a b s
  | .shflDown c ty vp d a b => Sys2Proof.Machine.execShflDown c ty vp d a b s
  | .shflXor c ty vp d a b => Sys2Proof.Machine.execShflXor c ty vp d a b s
  | .voteAll c neg d a => Sys2Proof.Machine.execVoteAll c neg d a s
  | .voteAny c neg d a => Sys2Proof.Machine.execVoteAny c neg d a s
  | .voteEq c neg d a => Sys2Proof.Machine.execVoteEq c neg d a s
  | .voteBallot c neg d a => Sys2Proof.Machine.execVoteBallot c neg d a s
  | .redux c op ty r d a => Sys2Proof.Machine.execRedux c op ty r d a s
  | .scan c excl op ty r d a => Sys2Proof.Machine.execScan c excl op ty r d a s
  | .matchLanes c ty d a => Sys2Proof.Machine.execMatchLanes c ty d a s
  | .lanepfx c neg d a => Sys2Proof.Machine.execLanepfx c neg d a s
  | .compress c neg ty d a b => Sys2Proof.Machine.execCompress c neg ty d a b s
  | .expand c neg ty d a b => Sys2Proof.Machine.execExpand c neg ty d a b s
  | .slideup c ty d a b => Sys2Proof.Machine.execSlideup c ty d a b s
  | .slidedn c ty d a b => Sys2Proof.Machine.execSlidedn c ty d a b s
  | .cstore c ty scope neg n off d a b => Sys2Proof.Machine.execCstore c ty scope neg n off d a b s
  | .ld c kind ty scope d m => Sys2Proof.Machine.execLd c kind ty scope d m s
  | .st c kind ty scope d m => Sys2Proof.Machine.execSt c kind ty scope d m s
  | .ldx c b128 ty scope d m => Sys2Proof.Machine.execLdx c b128 ty scope d m s
  | .stx c b128 ty scope d m => Sys2Proof.Machine.execStx c b128 ty scope d m s
  | .prefL1 c m => Sys2Proof.Machine.execPrefL1 c m s
  | .prefCc c m => Sys2Proof.Machine.execPrefCc c m s
  | .prefSl c m => Sys2Proof.Machine.execPrefSl c m s
  | .invr c scope a b => Sys2Proof.Machine.execInvr c scope a b s
  | .wbr c scope a b => Sys2Proof.Machine.execWbr c scope a b s
  | .invd c scope a b => Sys2Proof.Machine.execInvd c scope a b s
  | .fenceAr c scope => Sys2Proof.Machine.execFenceAr c scope s
  | .fenceRel c scope => Sys2Proof.Machine.execFenceRel c scope s
  | .fenceAcq c scope => Sys2Proof.Machine.execFenceAcq c scope s
  | .fenceAll c scope => Sys2Proof.Machine.execFenceAll c scope s
  | .atom c op t d b => Sys2Proof.Machine.execAtom c op t d b s
  | .atomf c op t d b => Sys2Proof.Machine.execAtomf c op t d b s
  | .cas c b128 t d b => Sys2Proof.Machine.execCas c b128 t d b s
  | .lds c b128 ty d m => Sys2Proof.Machine.execLds c b128 ty d m s
  | .sts c b128 fill ty d m => Sys2Proof.Machine.execSts c b128 fill ty d m s
  | .lmarkEmpty c a b => Sys2Proof.Machine.execLmarkEmpty c a b s
  | .lmarkFull c a b => Sys2Proof.Machine.execLmarkFull c a b s
  | .lmarkQ c d a => Sys2Proof.Machine.execLmarkQ c d a s
  | .tdesc c h a => Sys2Proof.Machine.execTdesc c h a s
  | .cpyLoad c scope t layout d a b => Sys2Proof.Machine.execCpyLoad c scope t layout d a b s
  | .cpyBstack c scope t layout d a b => Sys2Proof.Machine.execCpyBstack c scope t layout d a b s
  | .cpyStore c scope t d a b => Sys2Proof.Machine.execCpyStore c scope t d a b s
  | .cpyg c scope pool comp d a b => Sys2Proof.Machine.execCpyg c scope pool comp d a b s
  | .cpys c scope d a b => Sys2Proof.Machine.execCpys c scope d a b s
  | .cpyqStat c d a => Sys2Proof.Machine.execCpyqStat c d a s
  | .cpyqCancel c a => Sys2Proof.Machine.execCpyqCancel c a s
  | .sleept c a => Sys2Proof.Machine.execSleept c a s
  | .sleeptP c d a b => Sys2Proof.Machine.execSleeptP c d a b s
  | .sleeptT c a b => Sys2Proof.Machine.execSleeptT c a b s
  | .barinit c a b => Sys2Proof.Machine.execBarinit c a b s
  | .barinitInval c a => Sys2Proof.Machine.execBarinitInval c a s
  | .bararr c lanes scope d a => Sys2Proof.Machine.execBararr c lanes scope d a s
  | .barexp c arr scope d a b => Sys2Proof.Machine.execBarexp c arr scope d a b s
  | .barwait c scope d a b => Sys2Proof.Machine.execBarwait c scope d a b s
  | .evarm c n a => Sys2Proof.Machine.execEvarm c n a s
  | .evarmOne c n a => Sys2Proof.Machine.execEvarmOne c n a s
  | .evmask c a => Sys2Proof.Machine.execEvmask c a s
  | .evmaskOr c a => Sys2Proof.Machine.execEvmaskOr c a s
  | .evmaskAndn c a => Sys2Proof.Machine.execEvmaskAndn c a s
  | .evclr c a => Sys2Proof.Machine.execEvclr c a s
  | .evclrDisarm c a => Sys2Proof.Machine.execEvclrDisarm c a s
  | .waitany c => Sys2Proof.Machine.execWaitany c s
  | .mbxinit c d a b => Sys2Proof.Machine.execMbxinit c d a b s
  | .mbxinitFree c a => Sys2Proof.Machine.execMbxinitFree c a s
  | .mbxsend c scope d a b => Sys2Proof.Machine.execMbxsend c scope d a b s
  | .mbxsendSt c scope d a b => Sys2Proof.Machine.execMbxsendSt c scope d a b s
  | .mbxpop c scope n d a => Sys2Proof.Machine.execMbxpop c scope n d a s
  | .rdesc c d a => Sys2Proof.Machine.execRdesc c d a s
  | .rfree c a => Sys2Proof.Machine.execRfree c a s
  | .rdemand c mode a h => Sys2Proof.Machine.execRdemand c mode a h s
  | .rdemandWait c mode d a h => Sys2Proof.Machine.execRdemandWait c mode d a h s
  | .rleave c h => Sys2Proof.Machine.execRleave c h s
  | .rld c ty d m => Sys2Proof.Machine.execRld c ty d m s
  | .rst c ty d m => Sys2Proof.Machine.execRst c ty d m s
  | .racc c op ty d m => Sys2Proof.Machine.execRacc c op ty d m s
  | .rpush c ty d a h => Sys2Proof.Machine.execRpush c ty d a h s
  | .rpop c ty n d h => Sys2Proof.Machine.execRpop c ty n d h s
  | .rquery c d h => Sys2Proof.Machine.execRquery c d h s
  | .rqueryR c d a => Sys2Proof.Machine.execRqueryR c d a s
  | .jset c d a => Sys2Proof.Machine.execJset c d a s
  | .jsetQ c d a => Sys2Proof.Machine.execJsetQ c d a s
  | .mma c ty ha hb j hA hB z a b => Sys2Proof.Machine.execMma c ty ha hb j hA hB z a b s
  | .mfenceOp c => Sys2Proof.Machine.execMfenceOp c s
  | .zclr c z a => Sys2Proof.Machine.execZclr c z a s
  | .zld c half d z b => Sys2Proof.Machine.execZld c half d z b s
  | .zst c half d z b => Sys2Proof.Machine.execZst c half d z b s
  | .bload c d a b => Sys2Proof.Machine.execBload c d a b s
  | .qhist c ty z a => Sys2Proof.Machine.execQhist c ty z a s
  | .qhistRows c z a b => Sys2Proof.Machine.execQhistRows c z a b s
  | .qhistClr c z => Sys2Proof.Machine.execQhistClr c z s
  | .qscale c t6 d z b => Sys2Proof.Machine.execQscale c t6 d z b s
  | .qpack c t6 p d z => Sys2Proof.Machine.execQpack c t6 p d z s
  | .qpackE c t6 d z b => Sys2Proof.Machine.execQpackE c t6 d z b s
  | .gfire c d a => Sys2Proof.Machine.execGfire c d a s
  | .gfireEnd c => Sys2Proof.Machine.execGfireEnd c s
  | .gtoken c d a b => Sys2Proof.Machine.execGtoken c d a b s
  | .gfail c a => Sys2Proof.Machine.execGfail c a s
  | .garg c d a => Sys2Proof.Machine.execGarg c d a s
  | .gargAddr c d => Sys2Proof.Machine.execGargAddr c d s
  | .gargIndex c d => Sys2Proof.Machine.execGargIndex c d s
  | .gstat c d a => Sys2Proof.Machine.execGstat c d a s
  | .gstatG c d a => Sys2Proof.Machine.execGstatG c d a s
  | .gstatD c d => Sys2Proof.Machine.execGstatD c d s
  | .trap c a => Sys2Proof.Machine.execTrap c a s
  | .trapRd c d a => Sys2Proof.Machine.execTrapRd c d a s
  | .rte c => Sys2Proof.Machine.execRte c s
  | .rteNext c => Sys2Proof.Machine.execRteNext c s
  | .rteAt c a => Sys2Proof.Machine.execRteAt c a s
  | .rteFail c => Sys2Proof.Machine.execRteFail c s
  | .yieldExpire => Sys2Proof.Machine.execYieldExpire s
  | .streamFetchDone => Sys2Proof.Machine.execStreamFetchDone s
  | .specialFunctionDone => Sys2Proof.Machine.execSpecialFunctionDone s
  | .cstoreComplete => Sys2Proof.Machine.execCstoreComplete s
  | .memoryReply => Sys2Proof.Machine.execMemoryReply s
  | .parkTableRetry => Sys2Proof.Machine.execParkTableRetry s
  | .loadParkTimeout => Sys2Proof.Machine.execLoadParkTimeout s
  | .frespResolve => Sys2Proof.Machine.execFrespResolve s
  | .frespDeny => Sys2Proof.Machine.execFrespDeny s
  | .pushArrive => Sys2Proof.Machine.execPushArrive s
  | .pushAck => Sys2Proof.Machine.execPushAck s
  | .releaseComplete => Sys2Proof.Machine.execReleaseComplete s
  | .revokeArrive => Sys2Proof.Machine.execRevokeArrive s
  | .revokeAck => Sys2Proof.Machine.execRevokeAck s
  | .redirectionArrive => Sys2Proof.Machine.execRedirectionArrive s
  | .writebackArrive => Sys2Proof.Machine.execWritebackArrive s
  | .writebackAck => Sys2Proof.Machine.execWritebackAck s
  | .recall => Sys2Proof.Machine.execRecall s
  | .clusterEvict => Sys2Proof.Machine.execClusterEvict s
  | .l1Evict => Sys2Proof.Machine.execL1Evict s
  | .kernelBoundary => Sys2Proof.Machine.execKernelBoundary s
  | .atomicApply => Sys2Proof.Machine.execAtomicApply s
  | .lineFillWake => Sys2Proof.Machine.execLineFillWake s
  | .copyAccept => Sys2Proof.Machine.execCopyAccept s
  | .copyChunkLand => Sys2Proof.Machine.execCopyChunkLand s
  | .copyDone => Sys2Proof.Machine.execCopyDone s
  | .copyLate => Sys2Proof.Machine.execCopyLate s
  | .copyStop => Sys2Proof.Machine.execCopyStop s
  | .sleepWake => Sys2Proof.Machine.execSleepWake s
  | .timerExpire => Sys2Proof.Machine.execTimerExpire s
  | .mbxAppend => Sys2Proof.Machine.execMbxAppend s
  | .mbxReply => Sys2Proof.Machine.execMbxReply s
  | .demandArrive => Sys2Proof.Machine.execDemandArrive s
  | .demandRetry => Sys2Proof.Machine.execDemandRetry s
  | .leaveArrive => Sys2Proof.Machine.execLeaveArrive s
  | .publicationComplete => Sys2Proof.Machine.execPublicationComplete s
  | .grantArrive => Sys2Proof.Machine.execGrantArrive s
  | .drainOverdue => Sys2Proof.Machine.execDrainOverdue s
  | .probeSend => Sys2Proof.Machine.execProbeSend s
  | .probeAtWellhead => Sys2Proof.Machine.execProbeAtWellhead s
  | .probeAtWarp => Sys2Proof.Machine.execProbeAtWarp s
  | .refusalArrive => Sys2Proof.Machine.execRefusalArrive s
  | .mmaComplete => Sys2Proof.Machine.execMmaComplete s
  | .raisedCopyStop => Sys2Proof.Machine.execRaisedCopyStop s
  | .inlineFireRetest => Sys2Proof.Machine.execInlineFireRetest s
  | .graphLaunch => Sys2Proof.Machine.execGraphLaunch s
  | .nodeDispatch => Sys2Proof.Machine.execNodeDispatch s
  | .nodeComplete => Sys2Proof.Machine.execNodeComplete s
  | .nodeFail => Sys2Proof.Machine.execNodeFail s
  | .nodeWorkStopped => Sys2Proof.Machine.execNodeWorkStopped s
  | .groupPlacement => Sys2Proof.Machine.execGroupPlacement s
  | .warpRetire => Sys2Proof.Machine.execWarpRetire s
  | .groupRetire => Sys2Proof.Machine.execGroupRetire s
  | .warpUrgent => Sys2Proof.Machine.execWarpUrgent s
  | .fatalRecord => Sys2Proof.Machine.execFatalRecord s
  | .eviction => Sys2Proof.Machine.execEviction s
  | .warpResume => Sys2Proof.Machine.execWarpResume s
  | .groupStateSave => Sys2Proof.Machine.execGroupStateSave s
  | .postedWrite => Sys2Proof.Machine.execPostedWrite s
  | .hostRead => Sys2Proof.Machine.execHostRead s
  | .hostSnoop => Sys2Proof.Machine.execHostSnoop s
  | .bisnp => Sys2Proof.Machine.execBisnp s
  | .bisnpResponse => Sys2Proof.Machine.execBisnpResponse s
  | .hostWriteback => Sys2Proof.Machine.execHostWriteback s
  | .reset => Sys2Proof.Machine.execReset s
  | .resetKillTimeout => Sys2Proof.Machine.execResetKillTimeout s
  | .resetComplete => Sys2Proof.Machine.execResetComplete s
  | .ptroot => Sys2Proof.Machine.execPtroot s
  | .invaddr => Sys2Proof.Machine.execInvaddr s
  | .invalidationComplete => Sys2Proof.Machine.execInvalidationComplete s
  | .launch => Sys2Proof.Machine.execLaunch s
  | .fqhead => Sys2Proof.Machine.execFqhead s
  | .tqhead => Sys2Proof.Machine.execTqhead s
  | .fatalxClear => Sys2Proof.Machine.execFatalxClear s
  | .preempt => Sys2Proof.Machine.execPreempt s
  | .collOpen => Sys2Proof.Machine.execCollOpen s
  | .registerWrite => Sys2Proof.Machine.execRegisterWrite s
  | .msixUnmask => Sys2Proof.Machine.execMsixUnmask s
  | .bucketRefill => Sys2Proof.Machine.execBucketRefill s
  | .eccCorrected => Sys2Proof.Machine.execEccCorrected s
  | .eccUncorrectable => Sys2Proof.Machine.execEccUncorrectable s
  | .errorWindowExpire => Sys2Proof.Machine.execErrorWindowExpire s
  | .retrain => Sys2Proof.Machine.execRetrain s
  | .trainingEnd => Sys2Proof.Machine.execTrainingEnd s
  | .flitReceive => Sys2Proof.Machine.execFlitReceive s
  | .linkDown => Sys2Proof.Machine.execLinkDown s
  | .downevClear => Sys2Proof.Machine.execDownevClear s
  | .collContribute => Sys2Proof.Machine.execCollContribute s
  | .embxRequest => Sys2Proof.Machine.execEmbxRequest s
  | .collEnd => Sys2Proof.Machine.execCollEnd s
  | .collAbort => Sys2Proof.Machine.execCollAbort s
  | .powerOn => Sys2Proof.Machine.execPowerOn s
  | .supplyStable => Sys2Proof.Machine.execSupplyStable s
  | .romStage => Sys2Proof.Machine.execRomStage s
  | .verify => Sys2Proof.Machine.execVerify s
  | .memoryStage => Sys2Proof.Machine.execMemoryStage s
  | .ready => Sys2Proof.Machine.execReady s
  | .bootimg => Sys2Proof.Machine.execBootimg s
  | .attreq => Sys2Proof.Machine.execAttreq s
  | .attestationDone => Sys2Proof.Machine.execAttestationDone s
  | .limitSample => Sys2Proof.Machine.execLimitSample s
  | .clockStepChange => Sys2Proof.Machine.execClockStepChange s
  | .shutdown => Sys2Proof.Machine.execShutdown s
  | .hostLinkReset => Sys2Proof.Machine.execHostLinkReset s
  | .supplyLoss => Sys2Proof.Machine.execSupplyLoss s
  | .acquireComplete => Sys2Proof.Machine.execAcquireComplete s
  | .tileWordComplete => Sys2Proof.Machine.execTileWordComplete s
  | .functionLevelReset => Sys2Proof.Machine.execFunctionLevelReset s
  | .virtualFunctionEnable => Sys2Proof.Machine.execVirtualFunctionEnable s

end Sys2Proof.Machine
end

