-- ==== Sys2Proof/Machine/Due.lean ====
section
/-! DEFINITION. Which steps that are no words can come next: those that the state makes due, and the messages in flight that can arrive. -/

namespace Sys2Proof.Machine

/-! ### Warps -/

/-- R103: threads whose YIELD is over. -/
def yieldsOver (s : State) (x : Warp) : Lanes :=
  waiting x fun v => match v with
    | .yield c => c ≤ s.clock
    | _ => false

/-- R122: the streams of a warp whose next group is fetched: ahead of the pops with a queue, without one as a word asks for it. -/
def fetchesDue (s : State) (w : Nat) (x : Warp) : List Nat :=
  (x.streams.filter fun e => fetchMay e.2 && (e.2.queue || demands s w x e.1)).map (·.1)

/-- R380, R388, R427: a warp whose end at a blocking point comes before anything else. -/
def forcedMay (s : State) (w : Nat) (x : Warp) : Bool := discardMay s w x || stopMay s w x || popMay s w x

/-- R408: a warp that a request could name. -/
def evictionAsked (s : State) (x : Warp) : Bool := ifaceAsked s x.iface || starved s x.core

/-- R410: a core on which a warp can resume: its own, or one that is open for a saved group. -/
def resumeCore (s : State) (w : Nat) (x : Warp) : Option Nat :=
  if x.resident || x.retired then none
  else if (getGroup s x.group).saved then
    let k := Config.pick (s.free + freeBase) % Config.cores
    ((List.range Config.cores).map fun c => (c + k) % Config.cores).find? (resumeMay s w)
  else if resumeMay s w x.core then some x.core
  else none

def offerIf (c : Bool) (m : Msg) : List Msg := if c then [m] else []

/-- What is due for a warp. -/
def warpDue (s : State) (w : Nat) (x : Warp) : List Msg :=
  offerIf (yieldsOver s x != 0) (.yieldExpire w (yieldsOver s x))
    ++ (if x.resident then
        (fetchesDue s w x).map (fun n => .streamFetchDone w n)
          ++ (sleepers s x).map (fun e => .sleepWake w e.2)
      else [])
    ++ ((x.events.filter fun e => timerMay s x e.1).map fun e => .timerExpire w e.1)
    ++ ((x.holds.filter fun e => retryMay s x e.1).map fun e => .demandRetry w e.1)
    ++ offerIf (retireMay s w x) (.warpRetire w)
    ++ offerIf (x.resident && evictionAsked s x && evictMay s w x) (.eviction w)
    ++ match resumeCore s w x with
      | some c => [.warpResume w c]
      | none => []

/-! ### Operations -/

/-- R192: a refused request of an operation can be tried again. -/
def retryDue (s : State) (o : Op) : Bool := o.parts.zipIdx.any fun (p, k) => walkNow s o (o.parts.take k) p

/-- ATOMIC_APPLY is due for lanes of an atomic. -/
def atomicDue (s : State) (id : Nat) (o : Op) : Bool := memoryAtom o.kind && acts o && atomLanes s id o false != 0

def isSpecial : OpKind → Bool
  | .word i => (specialDst i).isSome
  | _ => false

/-- What is due for an operation. -/
def opDue (s : State) (id : Nat) (o : Op) : List Msg :=
  offerIf (isSpecial o.kind) (.specialFunctionDone id)
    ++ offerIf (retryDue s o) (.parkTableRetry id)
    ++ offerIf (plainLoad o.kind && o.phase == .ready && longParked s o) (.loadParkTimeout id)
    ++ offerIf (reply s id != s) (.memoryReply id)
    ++ offerIf (atomicDue s id o) (.atomicApply id)
    ++ offerIf (isCstore o.kind && cstoreMay s o) (.cstoreComplete id)
    ++ offerIf (releaseEnd s id != s) (.releaseComplete id)
    ++ offerIf (acquireStep s id true != s) (.acquireComplete id)
    ++ offerIf (o.copy.isSome && acceptMay s id o) (.copyAccept id)
    ++ offerIf (tileMay s id o) (.tileWordComplete id)

/-! ### Copies, arrays, wellheads -/

def copyDue (s : State) (id : Nat) (c : Copy) : List Msg :=
  offerIf (chunkMay s id c) (.copyChunkLand id) ++ offerIf (copyDoneMay s c) (.copyDone id) ++ offerIf (lateMay s c) (.copyLate id)

/-- R353: a raised copy waits for a slot. -/
def raiseDue (s : State) : List Msg :=
  ((raisers s).filter fun a => (nextSlot s a.core).isSome).map fun a => .copyAccept a.id

def arrayDue (s : State) : List Msg := (s.arrays.filter fun e => mmaReady s e.1).map fun e => .mmaComplete e.1

def regionDue (s : State) (k : Nat) (r : Region) : List Msg :=
  offerIf (r.live && r.st == .close) (.publicationComplete (k / 64) (k % 64))
    ++ offerIf (overdueMay s k) (.drainOverdue (k / 64) (k % 64))
    ++ (r.queue.filter fun d => probeMay s (k / 64) d).map fun d => .probeSend (k / 64) (k % 64) d.ticket

/-! ### Launches, graphs, interfaces -/

def groupDue (s : State) (gi : Nat) (g : Group) : List Msg :=
  offerIf (groupMay s gi) (.groupRetire gi) ++ offerIf (saveMay s gi g) (.groupStateSave gi)

def launchDue (s : State) (l : Nat) : List Msg := offerIf (boundaryMay s l) (.kernelBoundary l)

/-- R95: the next gang of an interface. -/
def placeDue (s : State) (i : Nat) : List Msg :=
  match placeHead s i with
  | none => []
  | some l => match gangChoice s l with
    | some cores => [.groupPlacement l cores]
    | none => []

/-- R373: the next queued launch of a graph. -/
def launchqDue (s : State) (i : Nat) (x : Iface) : List Msg :=
  match x.launchq with
  | (a, p) :: _ => offerIf (launchMay s) (.graphLaunch i a p false)
  | [] => []

def ifaceDue (s : State) (i : Nat) (x : Iface) : List Msg :=
  offerIf (invMay s i) (.invalidationComplete i) ++ offerIf (resetDone s i) (.resetComplete i)
    ++ if x.resetting then offerIf (killMay s i) (.resetKillTimeout i)
      else launchqDue s i x ++ offerIf (readyHead s i).isSome (.nodeDispatch i none) ++ placeDue s i

/-! ### Collectives, the physical function -/

/-- An engine's read for a message is parked, and not yet answered. -/
def waitsFor (s : State) (m : Msg) : Bool := s.engineWaits.any fun e => e.2.msg == m && !e.2.denied

/-- R431: the engine goes on with what it holds. -/
def collGoes (c : Coll) : Bool := mergeMay c || (!c.sent && if c.embx then c.bits.getLsbD 0 else c.merged == c.ncont)

def collDue (s : State) (h : Nat) (c : Coll) : List Msg :=
  if c.st ≠ 0 then []
  else
    (match nextBit s c with
      | some b => offerIf (!waitsFor s (.collAbort h 2)) (.collContribute h b)
      | none => [])
    ++ offerIf (collGoes c && !waitsFor s (.collContribute h 64)) (.collContribute h 64)
    ++ offerIf (c.ndev == 1 && collReady c [] && !waitsFor s (.collEnd h [])) (.collEnd h [])

def deviceDue (s : State) : List Msg :=
  offerIf (refillMay s) .bucketRefill ++ offerIf (windowMay s) .errorWindowExpire ++ offerIf s.sys.attbusy .attestationDone

/-- The events that the state makes due. DEDUCED: log 91. -/
def due (s : State) : List Msg :=
  s.warps.flatMap (fun e => warpDue s e.1 e.2) ++ s.ops.flatMap (fun e => opDue s e.1 e.2)
    ++ s.copies.flatMap (fun e => copyDue s e.1 e.2) ++ raiseDue s ++ arrayDue s ++ s.regions.flatMap (fun e => regionDue s e.1 e.2)
    ++ s.groups.flatMap (fun e => groupDue s e.1 e.2) ++ s.launches.flatMap (fun e => launchDue s e.1)
    ++ s.ifaces.flatMap (fun e => ifaceDue s e.1 e.2) ++ s.colls.flatMap (fun e => collDue s e.1 e.2) ++ deviceDue s

/-- What comes before anything else: the retirement, discard or pop of a warp at a blocking point, urgency (R115), and an eviction for want of room in a cache (R3, R246). -/
def forced (s : State) : Option Msg :=
  match s.warps.find? fun e => forcedMay s e.1 e.2 with
  | some e => some (.warpRetire e.1)
  | none => match s.warps.find? fun e => urgentMay s e.2 with
    | some e => some (.warpUrgent e.1)
    | none => evictDue s

/-- A message in flight that has been on its way long enough. -/
def flightMay (s : State) (f : Flight) : Bool := f.due ≤ s.gtime

end Sys2Proof.Machine
end

