-- ==== Sys2Proof/Machine/Select.lean ====
section
/-! DEFINITION. The candidates for the next step, what a step begins with, and the passing of time: one indivisible step of the device at a time, in an order that the rules leave open where they give none. -/

namespace Sys2Proof.Machine

/-- A step that can come next. -/
inductive Move where
  /-- A set issues: warp, lanes, address; whether it is a first issue, and the partner of a pair. -/
  | word (w : Nat) (lanes : Lanes) (pc : DWord) (first joint : Bool)
  /-- An event that is due. -/
  | event (m : Msg)
  /-- A message in flight. -/
  | flight (n : Nat)
  /-- An input of the outside: the next one, or one that does not wait for it (R419). -/
  | input (n : Nat)
  /-- The main clock moves on. -/
  | tick
  deriving DecidableEq, Repr

/-- R243: a flight is the first of its channel. -/
def channelHead (net : List Flight) (n : Nat) (f : Flight) : Bool :=
  f.chan.isNone || (net.take n).all fun g => g.chan != f.chan

/-- The flights that can arrive now. -/
def flights (s : State) : List Move :=
  (s.net.zipIdx.filter fun (f, n) => channelHead s.net n f && flightMay s f).map fun (_, n) => Move.flight n

/-- R433, R439: outside stage 5 nothing runs; only the host and the bring-up act. -/
def running (s : State) : Bool := s.sys.stage == 5

/-- DEDUCED: log 11. -/
def inputs (s : State) : List Move := if s.inbox.isEmpty then [] else [.input 0]

def offerMove (first : Bool) (o : Offer) : Move := .word o.w o.set.lanes o.set.pc first false

/-- Every step that can come next, but for the host's lines (R419). The partner of a pair (R74) and a second issue (R115) come at once, in their main clock; the main clock moves on when every partition that can has made its first choice (R115, R116). DEDUCED: log 2. -/
def candidates (s : State) : List Move :=
  if !running s then inputs s ++ flights s ++ [.tick]
  else
    let partner := match s.pairing with
      | some w => partnerLanes (getWarp s w)
      | none => none
    match partner, s.pairing with
    | some (m, pc), some w => [.word w m pc false true]
    | _, _ =>
      let os := offers s
      match secondChoice s os with
      | some o => [offerMove false o]
      | none => match forced s with
        | some m => [.event m]
        | none =>
          let first := (firstChoices s os).map (offerMove true)
          (due s).map Move.event ++ flights s ++ inputs s ++ if first.isEmpty then [.tick] else first

/-- A step begins; eligibility is noted (R115). -/
def beginStep (s : State) : State :=
  let s1 := noteEligible s (if running s then offers s else [])
  { s1 with tick := s.tick + 1, free := s.free + 2 ^ 20, cur := none, msg := none }

/-- R3, R440: the period of the main clock, in thirtieths of a nanosecond: 2.5, 2.0, 1.5 and 1.0 GHz. -/
def clockPeriod (n : Nat) : Nat := [12, 15, 20, 30].getD n 30

/-- R109, R115, R440: a main clock ends: each partition has its first choice again, decrements are seen from now on, and GTIME goes on at 1 GHz. DEDUCED: log 7. -/
def nextClock (s : State) : State :=
  let t := s.frac + clockPeriod s.sys.clkstep
  let s1 := { s with clock := s.clock + 1, chosen := [], warps := mapAll s.warps fun _ x => { x with drops := [] } }
  if running s then { s1 with frac := t % 30, gtime := s.gtime + t / 30 } else s1

/-- R419: the host's part of a wait for a line: it takes no place among the issues of a main clock. -/
def hostPart : Msg → Bool
  | .bisnp _ | .bisnpResponse _ => true
  | _ => false

/-- The step begins that delivers a message. -/
def beginMsg (s : State) (m : Msg) : State :=
  let s1 := if hostPart m then s else { s with pairing := none, second := none }
  { beginStep s1 with msg := some m }

/-- What a move comes to: an instruction with the state in which it acts, or a state without one. -/
def makeMove (s : State) : Move → Issued
  | .word w m pc first joint => issueSet { beginStep s with pairing := none, second := none } w m pc first joint
  | .event m => .act m.instr (beginMsg s m)
  | .flight n =>
    match s.net[n]? with
    | none => .done s
    | some f => .act f.msg.instr (beginMsg { s with net := s.net.eraseIdx n } f.msg)
  | .input n =>
    match s.inbox[n]? with
    | none => .done s
    | some m => .act m.instr (beginMsg { s with inbox := s.inbox.eraseIdx n } m)
  | .tick => .done (nextClock (beginStep { s with pairing := none, second := none }))

/-! ### A machine with one word to issue -/

/-- The page-table entries that map the 4 KiB page at virtual address 0x1000 to physical page 0x5000, readable and executable: root at 0x1000. -/
def bootTables (s : State) : State :=
  let e (s : State) (a v : Nat) : State := { s with mem := (leBytes v 8).zipIdx.foldl (fun m (b, i) => mapPut 0 m (a + i) b) s.mem }
  e (e (e (e s 0x1000 0x2001) 0x2000 0x3001) 0x3000 0x4001) 0x4008 0x5017

/-- One warp of one group of one launch, on core 0, its 32 threads at the first word. -/
def bootWarp : Warp := { launch := 1, group := 1, threads := List.replicate 32 { pc := 0x1000 } }

def bootRecord : Record := {
  codeBase := 0x1000, codeLen := 1, levelN := 3, levels := [0x00000001, 0x21000020, 0x32000001], vregs := 320, acc := 24
  scratch := 2048, bstack := 2, groups := 1, trapvec := List.replicate 16 0xFFFFFFFF }

/-- A running device whose next issue is the one word of `bytes`: what the load of a program by the host leaves, cut down to one launch of one warp. -/
def bootWord (s : State) (bytes : List Byte) : State :=
  let s1 := bootTables { s with
    sys := { s.sys with stage := 5, attbusy := false, windowEnd := s.gtime + 2 ^ 30 }
    chosen := [], refill := s.gtime, net := [], inbox := [], warps := [(1, bootWarp)], ops := [], l1 := [], cc := [], wbuf := [], owner := [], tlb := []
    parks := [], stalls := [], recWaits := [], engineWaits := [], copies := [], pushOut := [], sectorMod := [], errors := [], graphs := [], colls := [], regions := [], arrays := []
    hostHeld := [], granted := [], bisnps := [], pushWaits := [], pairing := none, second := none, cur := none, msg := none, next := max s.next 2
    groups := [(1, { launch := 1, cores := [0], tags := [0] })]
    launches := [(1, { record := bootRecord, count := 1, placed := 1 })]
    ifaces := [(0, { getIface s 0 with ptroot := 0x1000, resetting := false, stopped := false, preempt := false, invbusy := false, launchq := [], ready := [[], [], [], []], places := [] })] }
  { s1 with mem := bytes.zipIdx.foldl (fun m (b, i) => mapPut 0 m (0x5000 + i) b) s1.mem }

end Sys2Proof.Machine
end

