-- ==== Sys2Proof/Machine/Moves.lean ====
section
/-! DEFINITION. The next step: the candidates, but for those that wait until the host has given a line up (R419, R420). -/

namespace Sys2Proof.Machine

/-- What a move comes to. -/
def outcome (s : State) (m : Move) : Host.Outcome State Fault Refusal :=
  match makeMove s m with
  | .act i s1 => exec i s1
  | .done s1 => .next s1

/-! ### Lines of the host (R419, R420) -/

/-- R419: what the host itself sends about its lines, on a channel of its own. -/
def ofHost : Msg → Bool
  | .bisnpResponse _ | .hostWriteback .. => true
  | _ => false

/-- A message that ends the host link, or the device's memory, and the host's lines with it. -/
def endsLink : Msg → Bool
  | .powerOn | .hostLinkReset | .supplyLoss | .shutdown .. | .limitSample _ => true
  | _ => false

/-- The message that a move takes from the outside. -/
def inputOf (s : State) : Move → Option Msg
  | .input n => s.inbox[n]?
  | _ => none

/-- R419: the lines of a list that a move modifies: the host holds no copy of them afterwards. -/
def modifies (s : State) (m : Move) (lines : State → List Nat) : List Nat :=
  if (inputOf s m).any fun x => ofHost x || endsLink x then []
  else match outcome s m with
    | .next t => (lines s).filter fun l => !(lines t).contains l
    | _ => []

/-- R419: the lines that a move must wait for: the host holds them. -/
def waitsLines (s : State) (m : Move) : List Nat := modifies s m (·.hostHeld)

/-- R420: the host asks for a line that it has given up: the device access that it was given up for comes first. -/
def asksGranted (s : State) (ms : List Move) (m : Move) : Bool :=
  match inputOf s m with
  | some (.hostRead _ a n _) => (linesOver a n).any fun l => s.granted.contains l && ms.any fun k =>
      (inputOf s k).isNone && (modifies s k (·.granted)).contains l
  | _ => false

/-- R419: the first message of the host about its lines that need not wait for the inputs before it. -/
def hostAnswer (s : State) : List Move :=
  match s.inbox.findIdx? ofHost with
  | some n => [.input n]
  | none => []

/-- Every step that can come next. R419: a candidate that modifies a line that the host holds waits; the slice sends a BISnp for it, and the host answers. DEDUCED: log 37. -/
def moves (s : State) : List Move :=
  if s.hostHeld.isEmpty && s.granted.isEmpty then candidates s
  else
    let ms := candidates s
    let waits (m : Move) : Bool := !(waitsLines s m).isEmpty || asksGranted s ms m
    let snoops := ((ms.flatMap (waitsLines s)).dedup.filter (bisnpMay s)).map fun l => Move.event (.bisnp l)
    let free := ms.filter fun m => !waits m
    if ms.any waits then
      let rest := (free ++ snoops ++ hostAnswer s).dedup
      if rest.isEmpty then [.tick] else rest
    else ms

/-- The move that is made: the only one, or one that no rule fixes. -/
def chooseMove (s : State) : Move :=
  match moves s with
  | [] => .tick
  | [m] => m
  | m :: ms => (m :: ms).getD (Config.pick s.free % (ms.length + 1)) m

end Sys2Proof.Machine
end

