-- ==== Sys2Proof/Machine/Step.lean ====
section
/-! DEFINITION. One step of the machine, and the state whose next step is a given word. -/

namespace Sys2Proof.Machine

/-- One step: a set issues a word, an event that is due acts, a message arrives, an input of the outside is taken, or the main clock moves on. -/
def step (s : State) : Host.Outcome State Fault Refusal := outcome s (chooseMove s)

/-- `s` with the word whose bits are `w` where the next step fetches. DEDUCED: log 1. -/
def State.withFetchWord (s : State) (nbits w : Nat) : State :=
  bootWord s (bytesOfWord (BitVec.ofNat 96 (w % 2 ^ nbits)))

end Sys2Proof.Machine
end

