-- ==== Sys2Proof/Safety.lean ====
section
/-! DEFINITION. The terms in which claims about the machine are stated: that a word issues, what it reads, what it may change. -/

namespace Sys2Proof.Machine

/-- The step is no word of a program: it is delivered by a message. -/
def isEvent (i : Instr) : Prop := ∃ m : Msg, m.instr = i

/-- R69: a word with control part `c` issues for the threads `set` of warp `w`; its guard holds in `act`, which is not empty. -/
structure Issues (s : State) (c : Ctl) (w : Nat) (set act : Lanes) : Prop where
  cur : s.cur = some (w, set)
  guard : guardLanes s w (getWarp s w) set c.guard = act
  live : act ≠ 0

/-- The issue: warp, active threads, set, and the address of the word. -/
def issueAt (s : State) (w : Nat) (set act : Lanes) : Issue := ⟨w, act, set, (threadOf (getWarp s w) (lowLane set)).pc⟩

/-- The value of a source of `k` registers in a lane, as a word that issues now reads it. -/
def reads (s : State) (w : Nat) (o : Opd) (k t : Nat) : Nat := srcVal s w (getWarp s w) o k t

/-- The value of a predicate operand in a lane. -/
def readsP (s : State) (w : Nat) (o : Opd) (t : Nat) : Bool := srcPred s w (getWarp s w) o t

/-- Predicate `n` in a lane. -/
def predAt (s : State) (w n t : Nat) : Bool := pBit s w (getWarp s w) n t

/-- The value once for the set: that of the lowest active lane. -/
def readsOnce (s : State) (w : Nat) (act : Lanes) (o : Opd) (k : Nat) : Nat := reads s w o k (lowLane act)

/-- R117, R120: every stream that the word names is bound for its use, and no element that an active lane receives brings a trap. -/
def StreamsFit (s : State) (w : Nat) (set act : Lanes) (srcs : List Opd) (d : Option Opd) : Prop :=
  streamBad (getWarp s w) srcs d = false ∧ popFaults (getWarp s w) (issueAt s w set act) (streamsOf srcs) = []

/-- The state in which a word writes: its threads stand at the next word, and the load streams that it reads are popped. -/
def afterReads (s : State) (w : Nat) (set act : Lanes) (srcs : List Opd) (lat : Nat) : State :=
  (streamsOf srcs).foldl (fun s' n => popStream s' (issueAt s w set act) lat n) (advance s w set)

/-- The state after a word that writes `f` to its destination of `k` registers. -/
def written (s : State) (w : Nat) (set act : Lanes) (srcs : List Opd) (lat : Nat) (d : Opd) (k : Nat) (f : Nat → Nat) : State :=
  writeDst (afterReads s w set act srcs lat) (issueAt s w set act) lat d k act f

/-- The stored V register `n` of a lane, and the stored predicate. -/
def vReg (s : State) (w n t : Nat) : Word := mapGetD (getWarp s w).v (32 * n + t) 0
def pReg (s : State) (w n t : Nat) : Bool := (mapGetD (getWarp s w).preds n 0).getLsbD t

/-- Where a thread stands. -/
def pcAt (s : State) (w t : Nat) : DWord := (threadOf (getWarp s w) t).pc

/-- The threads of the set stand at the next word, but for those of `act`, which stand at `f`; no other thread moves. -/
def GoesTo (s t : State) (w : Nat) (set act : Lanes) (f : Nat → DWord) : Prop :=
  ∀ u, u < (getWarp s w).threads.length →
    pcAt t w u = if act.getLsbD u then f u else if set.getLsbD u then pcAt s w u + 12 else pcAt s w u

/-- Nothing changes but the threads of warp `w`. -/
def OnlyThreads (s t : State) (w : Nat) : Prop := t = setWarp s w { getWarp s w with threads := (getWarp t w).threads }

/-- The condition of a thread. -/
def condAt (s : State) (w t : Nat) : Cond := (threadOf (getWarp s w) t).cond

/-- What no word marks: an operation without its marks of R111, and without the addresses of what it has not performed. -/
def Op.unmarked (o : Op) : Op :=
  { o with poison := 0, clobber := [], parts := o.parts.map fun p => if p.movable then { p with va := 0, st := .retry 0 } else p }

/-- Nothing changes but threads, V registers, predicates and streams of warp `w`: memory, caches, every other warp, every special register, group, launch and unit is as before. -/
def RegisterFrame (s t : State) (w : Nat) : Prop :=
  (∃ x, t = { s with warps := mapSet s.warps w x, ops := t.ops }) ∧
  getWarp t w = { getWarp s w with
    threads := (getWarp t w).threads, v := (getWarp t w).v, preds := (getWarp t w).preds, streams := (getWarp t w).streams, haz := (getWarp t w).haz } ∧
  t.ops.map (fun e => (e.1, e.2.unmarked)) = s.ops.map fun e => (e.1, e.2.unmarked)

/-- The V registers that hold `k` registers from `n` on in the lanes of `m` take the value `f`, unless an older result is still to land there (R112); every other one keeps its value. -/
def VTakes (s t : State) (w lat n k : Nat) (m : Lanes) (f : Nat → Nat) : Prop :=
  ∀ r u, u < 32 →
    if n ≤ r ∧ r < n + k ∧ m.getLsbD u then
      lateHaz s (getWarp s w) (.v r) lat u = false → vReg t w r u = BitVec.ofNat 32 (f u / 2 ^ (32 * (r - n)))
    else vReg t w r u = vReg s w r u

/-- The same for a predicate; P7 is not written (R6). -/
def PTakes (s t : State) (w lat n : Nat) (m : Lanes) (f : Nat → Bool) : Prop :=
  ∀ r u, u < 32 →
    if r = n ∧ n ≠ 7 ∧ m.getLsbD u then lateHaz s (getWarp s w) (.p r) lat u = false → pReg t w r u = f u
    else pReg t w r u = pReg s w r u

/-! ### Floating-point patterns (R133 to R138) -/

/-- R133: a pattern without its sign, its sign, and its class. -/
def patMag (f : FFmt) (b : Nat) : Nat := b % 2 ^ (f.eb + f.fb)
def patNeg (f : FFmt) (b : Nat) : Bool := b / 2 ^ (f.eb + f.fb) % 2 == 1
def patNaN (f : FFmt) (b : Nat) : Bool := fmtInf f < patMag f b
def patSig (f : FFmt) (b : Nat) : Bool := patNaN f b && patMag f b < fmtInf f + 2 ^ (f.fb - 1)
def patInf (f : FFmt) (b : Nat) : Bool := patMag f b == fmtInf f

/-- The value of a magnitude; the pattern of infinity stands for the next power of two. -/
def magVal (f : FFmt) (m : Nat) : Rat :=
  let ex := m / 2 ^ f.fb
  let fr : Nat := m % 2 ^ f.fb
  (if ex = 0 then (fr : Rat) else (2 ^ f.fb + fr : Nat)) * (2 : Rat) ^ ((max ex 1 : Nat) - (fmtBias f : Int) - (f.fb : Int))

/-- R138: the magnitude as a form reads it: under FTZ a subnormal is zero. -/
def magRead (f : FFmt) (ftz : Bool) (b : Nat) : Nat := if ftz && patMag f b < 2 ^ f.fb then 0 else patMag f b

/-- The value of a pattern. -/
def patVal (f : FFmt) (ftz : Bool) (b : Nat) : Rat := (if patNeg f b then -1 else 1) * magVal f (magRead f ftz b)

/-- R136, R137: `b` is the rounding of `x`, which is not zero: the nearer pattern (RN: the even one on a tie; RA: the greater), the next one toward zero, or the next one away from it. -/
def RoundsTo (f : FFmt) (r : Rm) (x : Rat) (b : Nat) : Prop :=
  let m := patMag f b
  let far (n : Nat) : Rat := abs (magVal f n - abs x)
  b = fmtSign f (decide (x < 0)) + m ∧ m ≤ fmtInf f ∧
  match r, decide (x < 0) with
  | .rn, _ => ∀ n, n ≤ fmtInf f → n ≠ m → far m < far n ∨ (far m = far n ∧ m % 2 = 0)
  | .ra, _ => ∀ n, n ≤ fmtInf f → n ≠ m → far m < far n ∨ (far m = far n ∧ n < m)
  | .rz, _ | .rp, true | .rm, false => m < fmtInf f ∧ magVal f m ≤ |x| ∧ ∀ n, n < fmtInf f → magVal f n ≤ |x| → n ≤ m
  | .rp, false | .rm, true => (m = fmtInf f ∨ |x| ≤ magVal f m) ∧ ∀ n, n < m → magVal f n < |x|

/-- R137, R138, R160: result and conditions of a finite exact result `x`; `zs` is the sign of an exact zero. Tiny: the rounding to the same precision with smaller exponents lies below the smallest normal; overflow: the rounding with larger exponents lies above the largest finite value. -/
def Rounded (f : FFmt) (r : Rm) (ftz : Bool) (x : Rat) (zs : Bool) (b : Nat) (c : Conds) : Prop :=
  if x = 0 then b = fmtSign f zs ∧ c = {}
  else ∃ b0 b1 b2, RoundsTo f r x b0 ∧ RoundsTo f r (x * 2 ^ (f.fb + 2)) b1 ∧ RoundsTo f r (x / 4) b2 ∧
    let m := patMag f b0
    if ftz = true ∧ 0 < m ∧ m < 2 ^ f.fb then b = fmtSign f (decide (x < 0)) ∧ c = { uf := true, nx := true }
    else
      let nx := decide (¬ (m < fmtInf f ∧ patVal f false b0 = x))
      b = b0 ∧ c = { ofl := decide (fmtInf f ≤ patMag f b2 + 2 * 2 ^ f.fb), uf := nx && decide (patMag f b1 < (f.fb + 3) * 2 ^ f.fb), nx := nx }

/-- R135, R159: a NaN result, an infinite one of a sign, or the rounding of the exact one. -/
def FloatRule (f : FFmt) (r : Rm) (ftz nan nv : Bool) (inf : Option Bool) (x : Rat) (zs : Bool) (b : Nat) (c : Conds) : Prop :=
  if nan then b = fmtNaN f ∧ c = { nv := nv }
  else match inf with
    | some s => b = fmtSign f s + fmtInf f ∧ c = {}
    | none => Rounded f r ftz x zs b c

/-- R159: the sum of two patterns. -/
def FloatSum (f : FFmt) (r : Rm) (ftz : Bool) (x y : Nat) (b : Nat) (c : Conds) : Prop :=
  let bad := patInf f x && patInf f y && patNeg f x != patNeg f y
  FloatRule f r ftz (patNaN f x || patNaN f y || bad) (patSig f x || patSig f y || bad)
    (if patInf f x then some (patNeg f x) else if patInf f y then some (patNeg f y) else none)
    (patVal f ftz x + patVal f ftz y) (if patNeg f x == patNeg f y then patNeg f x else r == .rm) b c

/-- R159: the product of two patterns is invalid: zero times infinity. -/
def mulBad (f : FFmt) (ftz : Bool) (x y : Nat) : Bool :=
  (patInf f x && magRead f ftz y == 0) || (magRead f ftz x == 0 && patInf f y)

/-- R159: the product. -/
def FloatProduct (f : FFmt) (r : Rm) (ftz : Bool) (x y : Nat) (b : Nat) (c : Conds) : Prop :=
  let sg := patNeg f x != patNeg f y
  FloatRule f r ftz (patNaN f x || patNaN f y || mulBad f ftz x y) (patSig f x || patSig f y || mulBad f ftz x y)
    (if patInf f x || patInf f y then some sg else none) (patVal f ftz x * patVal f ftz y) sg b c

/-- R159: the product with an addend `z`, or the addend's opposite, rounded once. -/
def FloatFused (f : FFmt) (r : Rm) (ftz neg : Bool) (x y z : Nat) (b : Nat) (c : Conds) : Prop :=
  let sg := patNeg f x != patNeg f y
  let zg := patNeg f z != neg
  let big := !patNaN f x && !patNaN f y && (patInf f x || patInf f y)
  let bad := mulBad f ftz x y || (big && patInf f z && sg != zg)
  FloatRule f r ftz (patNaN f x || patNaN f y || patNaN f z || bad) (patSig f x || patSig f y || patSig f z || bad)
    (if big then some sg else if patInf f z then some zg else none)
    (patVal f ftz x * patVal f ftz y + if neg then -patVal f ftz z else patVal f ftz z) (if sg == zg then sg else r == .rm) b c

/-- R136: `n` is `x` rounded to an integer. -/
def RoundsInt (r : Rm) (x : Rat) (n : Int) : Prop :=
  match r with
  | .rz => n = if x < 0 then ⌈x⌉ else ⌊x⌋
  | .rp => n = ⌈x⌉
  | .rm => n = ⌊x⌋
  | .rn => |x - n| ≤ 1 / 2 ∧ (|x - n| = 1 / 2 → n % 2 = 0)
  | .ra => |x - n| ≤ 1 / 2 ∧ (|x - n| = 1 / 2 → |x| ≤ |(n : Rat)|)

/-- R159: elements of a value of a type; each stands in its own bits. -/
def elemCount (ty : Ty) : Nat := if ty = .bf16x2 ∨ ty = .f32x2 then 2 else 1
def elemBits (ty : Ty) (v e : Nat) : Nat := v / 2 ^ (fmtWidth (fmtOf ty) * e) % 2 ^ fmtWidth (fmtOf ty)

/-- R159, R160: a floating-point word answers a next state in which each element of the destination, and the conditions that the active lanes signal, are as `P` says of lane and element. -/
def FloatWord (s : State) (w : Nat) (set act : Lanes) (srcs : List Opd) (lat : Nat) (d : Opd) (k es wd : Nat) (i : Instr)
    (P : Nat → Nat → Nat → Conds → Prop) : Prop :=
  ∃ R : Nat → Nat → Nat × Conds,
    exec i s = .next (setFlags (written s w set act srcs lat d k fun u => ((List.range es).map fun e => (R u e).1 * 2 ^ (wd * e)).sum) w lat act
      fun u => ((List.range es).map fun e => (R u e).2).foldl condsOr {}) ∧
    ∀ u e, e < es → P u e (R u e).1 (R u e).2

/-- R160: no active lane traps ARITH. -/
def NoArith (s : State) (w : Nat) : Prop := (getWarp s w).status.getLsbD 1 = false

/-! ### Conversions and special functions (R139 to R141, R166 to R170) -/

/-- R132: the integer that registers hold for a type, and a result reduced modulo 2^w. -/
def regInt (ty : Ty) (b : Nat) : Int := if tySigned ty && 2 ^ (32 * ty.regs - 1) ≤ b then (b : Int) - 2 ^ (32 * ty.regs) else b
def IntResult (ty : Ty) (n : Int) (b : Nat) : Prop :=
  b < 2 ^ (32 * ty.regs) ∧ tyMin ty ≤ regInt ty b ∧ regInt ty b ≤ tyMax ty ∧ ∃ q : Int, n = regInt ty b + q * 2 ^ tyBits ty

/-- R139: the value of a positive tapered code of `n` bits. -/
def tapVal (n c : Nat) : Rat := (tapMag n c).1 * (2 : Rat) ^ (tapMag n c).2

/-- R141: the tapered code of a value that is not zero: the nearest of all codes, the even one on a tie, negated for a negative value. -/
def TapCode (n : Nat) (neg : Bool) (x : Rat) (b : Nat) : Prop :=
  ∃ c, 0 < c ∧ c < 2 ^ (n - 1) ∧ b = (if neg then 2 ^ n - c else c) ∧
    ∀ k, 0 < k → k < 2 ^ (n - 1) → k ≠ c →
      abs (tapVal n c - abs x) < abs (tapVal n k - abs x) ∨ (abs (tapVal n c - abs x) = abs (tapVal n k - abs x) ∧ c % 2 = 0)

/-- What CVT reads: a NaN (signalling or not), an infinity, or a value with its sign. -/
inductive Read where
  | nan (sig : Bool)
  | inf (neg : Bool)
  | num (neg : Bool) (x : Rat)

/-- R134, R138, R140: a source of a type. -/
def readsAs (ty : Ty) (ftz : Bool) (v : Nat) : Read :=
  let tap (n : Nat) : Read :=
    let c := v % 2 ^ n
    if c = 0 then .num false 0
    else if c = 2 ^ (n - 1) then .nan false
    else if c < 2 ^ (n - 1) then .num false (tapVal n c) else .num true (-tapVal n (2 ^ n - c))
  let f := fmtOf ty
  let p := v % 2 ^ fmtWidth f
  if ty = .t8 then tap 8
  else if ty = .t6 then tap 6
  else if ty.isAnyInt then .num (decide (intVal ty v < 0)) (intVal ty v)
  else if patNaN f p then .nan (patSig f p)
  else if patInf f p then .inf (patNeg f p)
  else .num (patNeg f p) (patVal f ftz p)

/-- R169, R170: the conversion of a value to a type. -/
def ConvertRule (dst src : Ty) (r : Rm) (ftz : Bool) (v b : Nat) (c : Conds) : Prop :=
  if dst = .t8 ∨ dst = .t6 then
    let n := if dst = .t8 then 8 else 6
    c = {} ∧ match readsAs src ftz v with
      | .nan _ => b = 2 ^ (n - 1)
      | .inf neg => b = if neg then 2 ^ (n - 1) + 1 else 2 ^ (n - 1) - 1
      | .num neg x => if x = 0 then b = 0 else TapCode n neg x b
  else if dst.isAnyInt ∧ src.isAnyInt then IntResult dst (intVal src v) b ∧ c = {}
  else if dst.isAnyInt then match readsAs src ftz v with
    | .nan _ => b = 0 ∧ c = { nv := true }
    | .inf neg => IntResult dst (if neg then tyMin dst else tyMax dst) b ∧ c = { nv := true }
    | .num _ x => ∃ n : Int, RoundsInt r x n ∧
      if n < tyMin dst then IntResult dst (tyMin dst) b ∧ c = { nv := true }
      else if tyMax dst < n then IntResult dst (tyMax dst) b ∧ c = { nv := true }
      else IntResult dst n b ∧ c = { nx := decide ((n : Rat) ≠ x) }
  else match readsAs src ftz v with
    | .nan sig => b = fmtNaN (fmtOf dst) ∧ c = { nv := sig }
    | .inf neg => b = fmtSign (fmtOf dst) neg + fmtInf (fmtOf dst) ∧ c = {}
    | .num neg x => Rounded (fmtOf dst) r ftz x neg b c

/-- R167: the quotient of two patterns. -/
def FloatQuotient (f : FFmt) (r : Rm) (ftz : Bool) (x y b : Nat) (c : Conds) : Prop :=
  let sg := patNeg f x != patNeg f y
  let zx := magRead f ftz x == 0
  let zy := magRead f ftz y == 0
  let bad := (patInf f x && patInf f y) || (zx && zy)
  if patNaN f x || patNaN f y || bad then b = fmtNaN f ∧ c = { nv := patSig f x || patSig f y || bad }
  else if patInf f x then b = fmtSign f sg + fmtInf f ∧ c = {}
  else if patInf f y then b = fmtSign f sg ∧ c = {}
  else if zy then b = fmtSign f sg + fmtInf f ∧ c = { dz := true }
  else Rounded f r ftz (patVal f ftz x / patVal f ftz y) sg b c

/-- R167: the square root of a pattern, by squares of patterns and of their midpoints. -/
def FloatRoot (f : FFmt) (r : Rm) (ftz : Bool) (x b : Nat) (c : Conds) : Prop :=
  let v := patVal f ftz x
  let m := magVal f
  if patNaN f x then b = fmtNaN f ∧ c = { nv := patSig f x }
  else if magRead f ftz x = 0 then b = fmtSign f (patNeg f x) ∧ c = {}
  else if patNeg f x then b = fmtNaN f ∧ c = { nv := true }
  else if patInf f x then b = fmtInf f ∧ c = {}
  else 0 < b ∧ b < fmtInf f ∧ c = { nx := decide (m b * m b ≠ v) } ∧
    match r with
    | .rz | .rm => m b * m b ≤ v ∧ v < m (b + 1) * m (b + 1)
    | .rp => v ≤ m b * m b ∧ m (b - 1) * m (b - 1) < v
    | .rn | .ra => (m (b - 1) + m b) * (m (b - 1) + m b) < 4 * v ∧ 4 * v < (m b + m (b + 1)) * (m b + m (b + 1))

/-- R167: the reciprocal square root: the exact result, or one of the two patterns that bracket it. -/
def FloatReciprocalRoot (f : FFmt) (ftz : Bool) (x b : Nat) (c : Conds) : Prop :=
  let v := patVal f ftz x
  let m := magVal f
  if patNaN f x then b = fmtNaN f ∧ c = { nv := patSig f x }
  else if magRead f ftz x = 0 then b = fmtSign f (patNeg f x) + fmtInf f ∧ c = { dz := true }
  else if patNeg f x then b = fmtNaN f ∧ c = { nv := true }
  else if patInf f x then b = 0 ∧ c = {}
  else 0 < b ∧ b < fmtInf f ∧ c = { nx := decide (m b * m b * v ≠ 1) } ∧
    m (b - 1) * m (b - 1) * v < 1 ∧ 1 < m (b + 1) * m (b + 1) * v

/-- R167: the special inputs and the exact cases of the approximate functions; elsewhere the result is inexact. -/
def ApproxRule (i : Instr) (ftz : Bool) (x b : Nat) (c : Conds) : Prop :=
  let f := fmtF32
  let z := magRead f ftz x = 0
  let v := patVal f ftz x
  if patNaN f x then b = fmtNaN f ∧ c = { nv := patSig f x }
  else match i with
    | .fex2 .. =>
      if patInf f x then b = (if patNeg f x then 0 else fmtInf f) ∧ c = {}
      else if 128 ≤ v then b = fmtInf f ∧ c = { ofl := true, nx := true }
      else if v = ⌊v⌋ ∧ -126 ≤ v then patVal f false b = (2 : Rat) ^ ⌊v⌋ ∧ patNeg f b = false ∧ c = {}
      else c = { nx := true, uf := decide (v ≤ -126) }
    | .flg2 .. =>
      if z then b = fmtSign f true + fmtInf f ∧ c = { dz := true }
      else if patNeg f x then b = fmtNaN f ∧ c = { nv := true }
      else if patInf f x then b = fmtInf f ∧ c = {}
      else (∀ n : Int, v = (2 : Rat) ^ n → patVal f false b = n ∧ patMag f b < fmtInf f ∧ (n = 0 → b = 0) ∧ c = {}) ∧
        ((∀ n : Int, v ≠ (2 : Rat) ^ n) → c.nx = true ∧ c.nv = false ∧ c.dz = false ∧ c.ofl = false)
    | .fsin .. =>
      if patInf f x then b = fmtNaN f ∧ c = { nv := true }
      else if z then b = fmtSign f (patNeg f x) ∧ c = {} else c.nx = true ∧ c.nv = false ∧ c.dz = false ∧ c.ofl = false
    | .fcos .. =>
      if patInf f x then b = fmtNaN f ∧ c = { nv := true }
      else if z then b = 0x3F800000 ∧ c = {} else c.nx = true ∧ c.nv = false ∧ c.dz = false ∧ c.ofl = false
    | .ftanh .. =>
      if patInf f x then b = fmtSign f (patNeg f x) + 0x3F800000 ∧ c = {}
      else if z then b = fmtSign f (patNeg f x) ∧ c = {} else c.nx = true ∧ c.nv = false ∧ c.dz = false ∧ c.ofl = false
    | _ => True

/-! ### Memory requests (R186 to R203) -/

/-- R190: no cached translation of an interface differs from the walk. -/
def NoStale (s : State) (iface : Nat) : Prop := ∀ unit va, translate s unit iface va = walkFrom s va 3 (getIface s iface).ptroot.toNat

/-- R191, R192: the byte at `va` can be accessed by a resident warp: its physical address, its leaf; nothing of this core is parked on its page, nothing is parked for a word still to come, and the core does not stall. -/
def Allows (s : State) (w : Nat) (need : Need) (va pa : Nat) (e : DWord) : Prop :=
  let x := getWarp s w
  (∃ p k, walkFrom s va 3 (getIface s x.iface).ptroot.toNat = .ok pa e p k) ∧ needOk need e = true ∧
  spanParked s x.core x.iface (va / 4096) = false ∧ (∀ q ∈ s.parks, q.2.op ≠ some s.next) ∧ coreStalled s x.core = false ∧ x.resident = true

/-- R197: no private memory of a running warp of the interface lies in the words of `n` bytes from `va` on. -/
def NotPrivate (s : State) (iface va n : Nat) : Prop := ∀ k, va / 4 ≤ k → 4 * k < va + n → privateOf s iface (4 * k) = none

/-- R12: a store to `n` bytes from `pa` on breaks no duty: none of them is an engine's field of a running graph, of the ring of an open region (unless the ring's own word stores), of a contribution that a collective may still read, or of its arrival word (unless an atomic at DEVICE scope or wider stores). -/
def NoBreach (s : State) (pa n : Nat) (ring atom : Bool) : Prop :=
  ∀ a, pa ≤ a → a < pa + n → graphByte s a = false ∧ (ring = true → ∀ e ∈ s.regions, ringByte e.2 a = false) ∧ ∀ e ∈ s.colls, contributionByte s e.2 a = false ∧ (atom = false → arriveByte e.2 a = false)

/-- The words of `n` bytes from `pa` on. -/
def wordsOf (pa n : Nat) : List Nat := (List.range ((pa + n - 1) / 4 - pa / 4 + 1)).map fun i => pa / 4 + i

/-- R275: the interface grants the scope. -/
def Grants (s : State) (w : Nat) (sc : Scope) : Prop := sc ≠ .system ∨ (getIface s (getWarp s w).iface).policy.getLsbD 0 = true

/-- R203: an access cut at 4 KiB: offset, address, bytes. -/
def piecesOf (va n : Nat) : List (Nat × Nat × Nat) :=
  if va % 4096 + n ≤ 4096 then [(0, va, n)] else [(0, va, 4096 - va % 4096), (4096 - va % 4096, va + (4096 - va % 4096), n - (4096 - va % 4096))]

/-- R195, R196: an access to private memory at offset `o` of thread `u`: 4-byte words, those of the 32 threads side by side. -/
def privPieces (s : State) (w o z u : Nat) : List (Nat × Nat × Nat) :=
  let la := getLaunch s (getWarp s w).launch
  (List.range ((z + 3) / 4)).map fun j =>
    (4 * j, la.pb + (getWarp s w).gnum * 32 * la.ps + (o + 4 * j) / 4 * 128 + u * 4 + (o + 4 * j) % 4, min 4 z)

/-- R191, R200, R202: a word becomes incomplete with the requests of its active lanes, walked. `runs` gives those of a lane, `val` and `cmp` what it stores and compares. -/
def Requests (s : State) (w : Nat) (set act : Lanes) (c : Ctl) (i : Instr) (sc : Scope) (need : Need) (priv : Bool)
    (runs : Nat → List (Nat × Nat × Nat)) (val cmp : Nat → Nat) : Prop :=
  ∀ (pa : Nat → Nat) (e : Nat → DWord),
    (∀ u, u < 32 → act.getLsbD u = true → ∀ r ∈ runs u, r.2.1 + r.2.2 ≤ 2 ^ 48 ∧ Allows s w need r.2.1 (pa r.2.1) (e r.2.1)) →
    ∃ o tl, exec i s = .next { newOp (advance s w set) o with tlb := tl } ∧
      o.warp = w ∧ o.kind = .word i ∧ o.lanes = act ∧ o.pc = (issueAt s w set act).pc ∧ o.cf = setOf c ∧ o.scope = sc ∧ o.phase = .ready ∧
      o.released = false ∧ o.poison = 0 ∧ o.clobber = [] ∧
      o.parts = (laneList act).flatMap fun u => (runs u).map fun r =>
        { lane := u, off := r.1, va := r.2.1, pa := pa r.2.1, n := r.2.2, priv := priv, st := .ok
          ord := if priv then 0 else ((e r.2.1).extractLsb' 5 2).toNat, imm := (e r.2.1).getLsbD 7, olact := ((e r.2.1).extractLsb' 9 2).toNat
          val := BitVec.ofNat 128 (val u / 2 ^ (8 * r.1) % 2 ^ (8 * r.2.2)), cmp := BitVec.ofNat 128 (cmp u / 2 ^ (8 * r.1) % 2 ^ (8 * r.2.2)) }

/-- R241: the value of a word as a core reads it from a level, the one that serves every word of the access (`readLevel`): a copy of its L1, dirty or at level 0; what its cluster holds as its own; at level 1 a copy of its cluster; or what the slice returns. -/
def viewWord (s : State) (core k w : Nat) : Word :=
  let near := (mapGet s.l1 (cacheKey core w)).filter fun x => x.dirty || k == 0
  let mid := (mapGet s.cc (cacheKey (clusterOf core) w)).filter fun _ => decide (k ≤ 1)
  match near, clusterHolds s (clusterOf core) w, mid with
  | some x, _, _ => x.data
  | none, some x, _ => x.data
  | none, none, some x => x.data
  | none, none, none => (homeRead s w).1

/-- One byte of it. -/
def viewByte (s : State) (core k a : Nat) : Byte := (viewWord s core k (a / 4)).extractLsb' (8 * (a % 4)) 8

/-- The V registers from `n` on of the lanes of `m` hold the value `f`; every other one is as before. -/
def Returned (s t : State) (w n k : Nat) (m : Lanes) (f : Nat → Nat) : Prop :=
  ∀ r u, u < 32 → vReg t w r u = if n ≤ r ∧ r < n + k ∧ m.getLsbD u = true then BitVec.ofNat 32 (f u / 2 ^ (32 * (r - n))) else vReg s w r u

/-- `v` is the value whose bytes the parts of lane `u` read: byte `off + j` is that at `pa + j`. -/
def Gathers (ps : List Part) (u v : Nat) (byte : Part → Nat → Byte) : Prop :=
  v < 2 ^ 128 ∧ ∀ k, k < 16 →
    (∀ p ∈ ps, p.lane = u → p.off ≤ k → k < p.off + p.n → v / 256 ^ k % 256 = (byte p (p.pa + (k - p.off))).toNat) ∧
    ((∀ p ∈ ps, p.lane = u → ¬ (p.off ≤ k ∧ k < p.off + p.n)) → v / 256 ^ k % 256 = 0)

/-- The parts of one lane hold different bytes of its value. -/
def PartsApart (ps : List Part) : Prop :=
  ps.Pairwise (fun p q => p.lane = q.lane → p.off + p.n ≤ q.off ∨ q.off + q.n ≤ p.off) ∧ ∀ p ∈ ps, p.lane < 32 ∧ 0 < p.n ∧ p.off + p.n ≤ 16

/-- Two parts have all their words in common, in one way, or none. -/
def PartsAligned (ps : List Part) : Prop :=
  ∀ p ∈ ps, ∀ q ∈ ps, (p.words = q.words ∧ p.priv = q.priv ∧ p.imm = q.imm) ∨ ∀ v ∈ p.words, v ∉ q.words

/-- Memory as bytes: a value of `n` bytes, and the memory with such a value. -/
def memNat (M : Nat → Byte) (a n : Nat) : Nat := leVal ((List.range n).map fun k => M (a + k))
def putBytes (M : Nat → Byte) (a n v : Nat) : Nat → Byte := fun b => if a ≤ b ∧ b < a + n then BitVec.ofNat 8 (v / 256 ^ (b - a)) else M b

/-- R280: atomics applied one after the other: the memory that they leave, and what each read. -/
def atomRun (i : Instr) : List Part → (Nat → Byte) → (Nat → Byte) × List Nat
  | [], M => (M, [])
  | p :: ps, M =>
    let old := memNat M p.pa p.n
    let r := atomRun i ps (putBytes M p.pa p.n (atomNew i old p.val.toNat p.cmp.toNat))
    (r.1, old :: r.2)

/-! ### The scratchpad (R209 to R213, R230, R231, R285) -/

/-- The group, the half and the size of a warp's scratchpad. -/
def homeGroup (s : State) (w : Nat) : Group := getGroup s (getWarp s w).group
def homeHalf (s : State) (w : Nat) : Nat := halfOf s (getWarp s w)
def homeSize (s : State) (w : Nat) : Nat := scratchSize s (getWarp s w)

/-- The bytes of one half of a group's scratchpad. -/
def scratchAt (s : State) (gi half a : Nat) : Byte := scrByte (getGroup s gi) half a

/-- R230: the trap of one lane's access to `z` bytes at `a`, if it has one. -/
def scratchTrap (s : State) (w z : Nat) (wr : Bool) (a : Nat) : Option Nat :=
  if a % z ≠ 0 then some causeAlign
  else if homeSize s w < a + z then some causeAccess
  else if wr = true ∧ (lineOf (homeGroup s w) (homeHalf s w) (a / 128)).bar = true then some causeBarclobber
  else none

/-- R230: the lanes that fail trap at the word, the others become incomplete with their accesses. -/
def ScratchRequests (s : State) (w : Nat) (set act : Lanes) (c : Ctl) (i : Instr) (z : Nat) (wr : Bool) (A val cmp : Nat → Nat) : Prop :=
  let u := advance s w set
  let fails := (laneList act).filterMap fun v => (scratchTrap s w z wr (A v)).map fun k => ({ lane := v, cause := k, addr := A v } : TrapIn)
  let good := (laneList act).filter fun v => (scratchTrap s w z wr (A v)).isNone
  (good = [] → exec i s = .next (deliver u w (issueAt s w set act).pc fails)) ∧
  (good ≠ [] → ∃ o, exec i s = .next (deliver (newOp u o) w (issueAt s w set act).pc fails) ∧
    o.warp = w ∧ o.kind = .word i ∧ o.pc = (issueAt s w set act).pc ∧ o.cf = setOf c ∧ o.phase = .ready ∧ o.poison = 0 ∧ o.clobber = [] ∧
    laneList o.lanes = good ∧
    o.parts.map (fun p => (p.lane, p.va, p.n, p.st)) = good.map (fun v => (v, A v, z, PartSt.ok)) ∧
    o.parts.map (fun p => (p.val.toNat, p.cmp.toNat)) = good.map fun v => (val v % 2 ^ (8 * min z 16), cmp v % 2 ^ (8 * min z 16)))

/-- R211, R263, R267: nothing that the warp issued before holds a word of the lanes `act` that acts on the lines `ls`: no FENCE, no acquire, no access to one of the lines. -/
def NotHeld (s : State) (w : Nat) (act : Lanes) (ls : List Nat) : Prop :=
  (∀ e ∈ s.ops, e.2.warp = w → e.1 < s.next → e.2.lanes &&& act ≠ 0 → isFence e.2.kind = false ∧ (relAcq e.2).2.1 = false) ∧
  ∀ l ∈ ls, raiseHeld s w s.next l = false ∧
    ∀ e ∈ s.ops, e.2.warp = w → e.1 < s.next → scratchWord e.2.kind = true → e.2.parts.any (onLine l) = false

/-! ### The matrix array (R144, R346) -/

/-- R144: an exact product. -/
def Read.mul : Read → Read → Read
  | .nan _, _ | _, .nan _ => .nan false
  | .inf s, .inf t => .inf (s != t)
  | .inf s, .num t x | .num t x, .inf s => if x = 0 then .nan false else .inf (s != t)
  | .num s x, .num t y => .num (s != t) (x * y)

/-- R144: the contribution `u` of one K-block of `n` products, with the product of its scales (none: a NaN scale). -/
def BlockTerm (f : FFmt) (n : Nat) (ps : Nat → Read) (sc : Option Rat) (u : Nat) : Prop :=
  let bad : Prop := sc = none ∨ (∃ k, k < n ∧ ∃ b, ps k = .nan b) ∨ ((∃ k, k < n ∧ ps k = .inf true) ∧ ∃ k, k < n ∧ ps k = .inf false)
  (bad → u = fmtNaN f) ∧
  (¬ bad → (∀ k sg, k < n → ps k = .inf sg → u = fmtSign f sg + fmtInf f) ∧
    ∀ (x : Nat → Rat) (p : Nat → Bool) (r : Rat), sc = some r → (∀ k, k < n → ps k = .num (p k) (x k)) →
      ∃ c, Rounded f .rn false (((List.range n).map x).sum * r) ((List.range n).all p) u c)

/-- The register type of an element of an operation. -/
def mmaTy : MmaTy → Ty
  | .t8 => .t8
  | .t6 => .t6
  | .int8 => .s8
  | .bf16 => .bf16
  | .f32 => .f32
  | .f64 => .f64

/-- R143: the product of two E8 scales; none where one is NaN. -/
def scalePair (x y : Nat) : Option Rat := if x = 255 ∨ y = 255 then none else some ((2 : Rat) ^ ((x : Int) - 127) * (2 : Rat) ^ ((y : Int) - 127))

/-- R144: the new value of an accumulator element from the old one, the elements of its row and column, and their scales. -/
def ElementRule (ty : MmaTy) (old : Nat) (a b sa sb : Nat → Nat) (z : Nat) : Prop :=
  let kstep := (layoutOf (mmaLayout ty)).kstep
  if ty = .int8 then z < 2 ^ 32 ∧ (((old : Int) + ((List.range kstep).map fun k => intVal .s8 (a k) * intVal .s8 (b k)).sum) - z) % 2 ^ 32 = 0
  else
    let f := fmtOf (if ty = .f64 then .f64 else .f32)
    let n := kBlock ty
    ∃ zs : Nat → Nat, zs 0 = old ∧ zs (kstep / n) = z ∧ ∀ q, q < kstep / n → ∃ u c,
      BlockTerm f n (fun k => (readsAs (mmaTy ty) false (a (n * q + k))).mul (readsAs (mmaTy ty) false (b (n * q + k))))
        (if ty = .t8 ∨ ty = .t6 then scalePair (sa q) (sb q) else some 1) u ∧
      FloatSum f .rn false (zs q) u (zs (q + 1)) c

/-- R146: the chosen scale of a histogram at a percentile. -/
def ScaleRule (h : Nat → Nat) (p x e : Nat) : Prop :=
  let upTo (b : Nat) : Nat := ((List.range b).map fun k => h (k + 1)).sum
  if upTo 254 = 0 then e = 127
  else ∃ b, 1 ≤ b ∧ b ≤ 254 ∧ p * upTo 254 ≤ 256 * upTo b ∧ (∀ k, 1 ≤ k → k < b → 256 * upTo k < p * upTo 254) ∧ e = min (b + 1 - x) 254

/-! ### Graphs (R376, R385, R386) -/

/-- The ready queues of an interface with a node at the tail of one. -/
def readyWith (s : State) (iface prio : Nat) (e : Nat × Nat) : List (List (Nat × Nat)) :=
  (getIface s iface).ready.mapIdx fun p l => if p = prio then l ++ [e] else l

/-- Nothing changes but one node, its graph and the ready queues of its interface. -/
def NodeFrame (s t : State) (g n : Nat) : Prop :=
  t = { s with graphs := t.graphs, ifaces := t.ifaces } ∧ (∀ a b, (a, b) ≠ (g, n) → nodeOf t a b = nodeOf s a b) ∧
  (∀ k, k ≠ (getGraph s g).iface → getIface t k = getIface s k) ∧
  getIface t (getGraph s g).iface = { getIface s (getGraph s g).iface with ready := (getIface t (getGraph s g).iface).ready }

/-- R376: `k` tokens reach node `n` of graph `g`; where its need is met a WAITING node fires. -/
def Posted (s t : State) (g n k : Nat) : Prop :=
  let y := nodeOf s g n
  let h := min (y.held + k) 0xFFFF
  let fires : Prop := y.st = .waiting ∧ y.need ≤ h
  NodeFrame s t g n ∧
  (fires → nodeOf t g n = { y with held := h, st := .ready } ∧ (getIface t (getGraph s g).iface).ready = readyWith s (getGraph s g).iface y.prio (g, n)) ∧
  (¬ fires → nodeOf t g n = { y with held := h } ∧ t.ifaces = s.ifaces)

/-- R385, R386: the engine's step of a GFIRE, operation `id` of the lanes `m` of warp `w` at `pc`, that names the address `va`: `s` before, `t` after. A value is known and the threads stand at the next word; or a FUNC node whose queue is full runs inline, or the threads wait. -/
def Fired (s t : State) (id w : Nat) (m : Lanes) (pc : DWord) (va : Nat) : Prop :=
  let x := getWarp s w
  let all (c : Cond) (p : DWord) : Prop := ∀ u, u < x.threads.length → u < 32 → m.getLsbD u = true → condAt t w u = c ∧ pcAt t w u = p
  let answered (v : Nat) : Prop := (∃ o, mapGet t.ops id = some o ∧ o.args = [va, v]) ∧ all .ready (pc + 12) ∧ (getWarp t w).frames = x.frames ∧ t.mem = s.mem
  let still : Prop := t.graphs = s.graphs ∧ t.ifaces = s.ifaces
  if runningStale s x = true then answered 15 ∧ still
  else match nodeAt s x.iface va with
    | none => answered 15 ∧ still
    | some (g, n) =>
      let y := nodeOf s g n
      let inline : Prop := (∀ u, u < x.threads.length → u < 32 → condAt s w u ≠ .ended → m.getLsbD u = true) ∧ x.frames.length < x.gdepth ∧
        vNat s x.iface (getGraph s g).funcrec 8 = (codeBase s x).toNat
      if y.st ≠ .waiting then answered (nodeCode y.st) ∧ still
      else if y.kind = 1 ∧ 256 ≤ ((getIface s x.iface).ready.getD y.prio []).length then
        (inline → nodeOf t g n = { y with st := .running, inlineWarp := some w } ∧ (∀ a b, (a, b) ≠ (g, n) → nodeOf t a b = nodeOf s a b) ∧
          t.ifaces = s.ifaces ∧ t.mem = s.mem ∧ (getWarp t w).frames = ⟨g, n, pc + 12, id, false⟩ :: x.frames ∧ all .ready (codeBase s x + BitVec.ofNat 64 y.target)) ∧
        (¬ inline → still ∧ t.mem = s.mem ∧ (getWarp t w).frames = x.frames ∧ ∀ u, u < x.threads.length → u < 32 → condAt s w u ≠ .ended → m.getLsbD u = true →
          condAt t w u = .waiting (.fire id) ∧ pcAt t w u = pc)
      else answered 1 ∧ nodeOf t g n = { y with st := .ready } ∧ (∀ a b, (a, b) ≠ (g, n) → nodeOf t a b = nodeOf s a b) ∧
        (getIface t x.iface).ready = readyWith s x.iface y.prio (g, n)

/-- R387, R388: the innermost frame of a warp is popped with the result `v`: its GFIRE has its value, and every thread that has not ended stands at the return address, outside handlers. -/
def Popped (s t : State) (w v : Nat) : Prop :=
  ∀ f r, (getWarp s w).frames = f :: r →
    (getWarp t w).frames.map (fun f => { f with marked := false }) = r.map (fun f => { f with marked := false }) ∧
    (∀ o, mapGet s.ops f.op = some o → f.op < s.next → (∀ u, condAt s w u ≠ .waiting (.fire f.op)) → ∃ q, mapGet t.ops f.op = some q ∧ q.args = o.args.take 1 ++ [v]) ∧
    ∀ u, u < (getWarp s w).threads.length → u < 32 → if condAt s w u = .ended then condAt t w u = .ended
      else condAt t w u = .ready ∧ pcAt t w u = f.ret ∧ (threadOf (getWarp t w) u).sub = 0 ∧ (threadOf (getWarp t w) u).trapinfo.getLsbD 8 = false

/-! ### Traps (R393 to R405) -/

/-- R400: the END action of a launch: it is over, every thread of its warps has ended, its copies are finished, no signature of its groups is counted, its node fails with CAUSE 2; no thread of another launch that does not wait moves. -/
def LaunchEnds (s t : State) (l cause : Nat) : Prop :=
  (getLaunch t l).aborted = some cause ∧ (getLaunch t l).cancelled = true ∧
  (∀ w x, mapGet s.warps w = some x → x.launch = l → ∀ u, u < x.threads.length → u < 32 → condAt t w u = .ended) ∧
  (∀ w x, mapGet s.warps w = some x → x.launch ≠ l → mapWf s.warps = true → ∀ u, condAt s w u = .ready ∨ condAt s w u = .ended →
    threadOf (getWarp t w) u = threadOf x u) ∧
  (∀ id c, mapGet s.copies id = some c → c.node = none → (getWarp s c.warp).launch = l → ∃ d, mapGet t.copies id = some d ∧ unfinished d = false) ∧
  (∀ g x n, mapGet s.groups g = some x → x.launch = l → (jOf (getGroup t g) n).signed = 0) ∧
  ∀ g n, (getLaunch s l).node = some (g, n) → ∃ a, t.net = a ++ [⟨nodeChan g n, .nodeFail g n 2 cause, 0⟩]

/-- R400, R403: a trap whose action is END: the first of a launch writes the unrecoverable record and ends the launch; a later one adds to its count. -/
def TrapEnds (s t : State) (w : Nat) (off : Word) (tr : TrapIn) : Prop :=
  let x := getWarp s w
  let la := getLaunch s x.launch
  (la.aborted = none → LaunchEnds s t x.launch tr.cause ∧
    ((∀ e ∈ s.warps, e.2.latched = []) →
      let s1 := plainRecord s x.iface true [BitVec.ofNat 32 (2 ^ 28 + tr.detail * 65536 + tr.cause), BitVec.ofNat 32 (x.context * 2 ^ 14 + (x.core * 64 + x.slot)),
        BitVec.ofNat 32 la.seq, off, BitVec.ofNat 32 tr.addr, BitVec.ofNat 32 (tr.addr / 2 ^ 32), tr.aux1, 0]
      t.mem = s1.mem ∧ t.ifaces = s1.ifaces ∧ t.msix = s1.msix)) ∧
  (∀ c, la.aborted = some c → la.abortRec = none → t = s) ∧
  ∀ c a, la.aborted = some c → la.abortRec = some a → t = devWriteNat s (a + 28) 4 (min (devNat s (a + 28) 4 + 1) 0xFFFFFFFF)

/-- Nothing changes but the threads and the sub-warp number of warp `w`. -/
def OnlyThreadsSubs (s t : State) (w : Nat) : Prop :=
  t = setWarp s w { getWarp s w with threads := (getWarp t w).threads, subs := (getWarp t w).subs }

/-! ### The host (R418 to R427) -/

/-- Nothing changes but the registers of one interface. -/
def IfaceTakes (s t : State) (i : Nat) (x : Iface) : Prop :=
  t = { s with ifaces := t.ifaces } ∧ getIface t i = x ∧ ∀ k, k ≠ i → getIface t k = getIface s k

/-- Memory as DEVICE-scope reads see it holds the bytes `bs` from `a` on, and is elsewhere as before. -/
def BytesLand (s t : State) (a : Nat) (bs : List Byte) : Prop :=
  (∀ k b, bs[k]? = some b → devByte t (a + k) = b) ∧ ∀ c, c < 2 ^ 52 → ¬ (a ≤ c ∧ c < a + bs.length) → devByte t c = devByte s c

/-- R433, R439: all that power keeps is gone: the physical function starts with `x`; the fused minimum, host memory, and what stands outside the device stay. -/
def Cold (s t : State) (x : Sys) : Prop :=
  t = { State.reset with
    clock := s.clock, gtime := s.gtime, tick := s.tick, free := s.free, next := s.next, inbox := s.inbox, msix := s.msix, hostData := s.hostData
    peerData := s.peerData, mem := t.mem, sys := { x with fusedMin := s.sys.fusedMin } } ∧
  (∀ a, Config.hostBase ≤ a → memByte t a = memByte s a) ∧ ∀ a, a < Config.hostBase → memByte t a = 0

end Sys2Proof.Machine
end

