-- ==== Sys2Proof/Certificates/Slice0/Obligations.lean ====
section
/-! DEFINITION. The statements for the provers. -/

open Sys2Proof Sys2Proof.Machine

/-! ### Control words -/

/-- R98, R99: NOP changes nothing but the program counter; the transfers send their active threads to the targets that R99 computes, and every other thread of the set to the next word; CALL and CALLK write the byte offset of the next word to every active thread's link register, CALLK after its source is read. Nothing else changes. It rests on the model's readings of log 29. -/
def Obligations.TransfersReachTheirTargets : Prop :=
  ∀ (s : State) (c : Ctl) (w : Nat) (set act : Lanes), Issues s c w set act →
    let pc := (issueAt s w set act).pc
    let base := codeBase s (getWarp s w)
    let link := ((pc + 12 - base).setWidth 32).toNat
    (∃ t, exec (.nop c) s = .next t ∧ OnlyThreads s t w ∧ GoesTo s t w set 0 fun _ => pc) ∧
    (∀ off, ∃ t, exec (.bra c off) s = .next t ∧ OnlyThreads s t w ∧
      GoesTo s t w set act fun _ => pc + 12 + 12 * off.signExtend 64) ∧
    (∀ a, ∀ i ∈ [Instr.brak c a, .brx c a, .ret c a], ∃ t, exec i s = .next t ∧ OnlyThreads s t w ∧
      GoesTo s t w set act fun u => base + BitVec.ofNat 64 (reads s w a 1 u)) ∧
    (∀ d : BitVec 9, ∀ off, ∃ t, exec (.call c (.v d) off) s = .next t ∧ RegisterFrame s t w ∧
      (GoesTo s t w set act fun _ => pc + 12 + 12 * off.signExtend 64) ∧ VTakes s t w 0 d.toNat 1 act fun _ => link) ∧
    (∀ d : BitVec 9, ∀ a, ∃ t, exec (.callk c (.v d) a) s = .next t ∧ RegisterFrame s t w ∧
      (GoesTo s t w set act fun u => base + BitVec.ofNat 64 (reads s w a 1 u)) ∧ VTakes s t w 0 d.toNat 1 act fun _ => link)

/-- R101, R102, R103. EXIT ends its active threads, drops their private words, evaluates the warp's RECONV conditions, and does nothing else while a thread of the warp has not ended. RECONV stops its active threads at the word with the mask of the lowest active lane and their own lane, and then releases every thread stopped at a word where each stopped thread's mask names only threads that have arrived. YIELD keeps its active threads from issuing until its count of main clocks has passed, and makes the warp the youngest. -/
def Obligations.ThreadsEndStopAndYield : Prop :=
  ∀ (s : State) (c : Ctl) (w : Nat) (set act : Lanes), Issues s c w set act →
    let pc := (issueAt s w set act).pc
    let n := (getWarp s w).threads.length
    (∃ t, exec (.exit c) s = .next (endOfWarp t w) ∧
      (∀ u, u < n → act.getLsbD u → condAt t w u = .ended) ∧
      t = { setWarp s w { getWarp s w with threads := (getWarp t w).threads } with l1 := t.l1 } ∧
      (∀ e, e ∈ t.l1 ↔ e ∈ s.l1 ∧ ∀ u, u < 32 → act.getLsbD u → e.2.priv ≠ privTag w u) ∧
      ((∃ u, u < n ∧ condAt t w u ≠ .ended) → endOfWarp t w = t)) ∧
    (∀ a, ∃ t, exec (.reconv c a) s = .next t ∧ OnlyThreads s t w ∧
      let mask : Lanes := BitVec.ofNat 32 (readsOnce s w act a 1)
      let y := updThreads (getWarp (advance s w set) w) act fun u th =>
        { th with cond := .stopped (mask ||| BitVec.twoPow 32 u), pc := pc, since := s.tick }
      ∀ u, u < n → u < 32 →
        (releasable y (threadOf y u) = true → condAt t w u = .ready ∧ pcAt t w u = (threadOf y u).pc + 12) ∧
        (releasable y (threadOf y u) = false → threadOf (getWarp t w) u = threadOf y u)) ∧
    (∀ a, ∃ t, exec (.yield c a) s = .next t ∧
      let k := readsOnce s w act a 1 % 256
      (getWarp t w).age = s.next ∧
      (∀ u, u < n → pcAt t w u = if k ≠ 0 ∧ act.getLsbD u = true then pc + 12 else if set.getLsbD u then pcAt s w u + 12 else pcAt s w u) ∧
      (k ≠ 0 → ∀ u, u < n → act.getLsbD u → set.getLsbD u → condAt t w u = .waiting (.yield (s.clock + k))) ∧
      t.mem = s.mem ∧ t.ops = s.ops ∧ (getWarp t w).v = (getWarp s w).v ∧ (getWarp t w).preds = (getWarp s w).preds)

/-- R59: every thread of the set of an issuing word stands at one address; what the frame of a register word says of its destination. A word whose streams fit leaves the state `written`: a V destination takes its value in the active lanes unless an older result is still to land there (R112), a predicate destination likewise (P7 is never written, R6), a store stream is pushed (R121); every other register and predicate is what the pops of the word's load streams left, and nothing outside the warp's registers, threads and streams changes. -/
def Obligations.RegisterWordsWriteOnlyTheirDestination : Prop :=
  ∀ (s : State) (w : Nat) (set act : Lanes) (srcs : List Opd) (lat : Nat) (d : Opd) (k : Nat) (f : Nat → Nat), 0 < lat →
    let u := afterReads s w set act srcs lat
    let t := written s w set act srcs lat d k f
    RegisterFrame s u w ∧ (GoesTo s u w set 0 fun _ => 0) ∧ (getWarp u w).v = (getWarp s w).v ∧
    (srcs.all (fun o => match o with | .s _ => false | _ => true) → u = advance s w set) ∧
    (∀ n, d = .v n → RegisterFrame s t w ∧ (getWarp t w).threads = (getWarp u w).threads ∧
      (getWarp t w).preds = (getWarp u w).preds ∧ (getWarp t w).streams = (getWarp u w).streams ∧ VTakes s t w lat n.toNat k act f) ∧
    (∀ n, d = .p n → RegisterFrame s t w ∧ (getWarp t w).threads = (getWarp u w).threads ∧
      (getWarp t w).v = (getWarp s w).v ∧ (getWarp t w).streams = (getWarp u w).streams ∧ PTakes u t w lat n.val act fun j => f j != 0) ∧
    (∀ n, d = .s n → t = pushStream u (issueAt s w set act) act n.val f)

/-- R104, R96: SREAD writes, after 6 clocks (GTIME: 10, into a pair), the register that its field names as it stands at issue, and its other forms the position of the thread in the levels of its launch. R105: SWRITE takes its value from the lowest active lane: STATUS keeps its read-only bits, takes FTZ and ARITHEN, and clears the sticky flags that the value names; EVH takes the value; GDEPTH takes a value up to 8, and a greater one traps OPERAND with no effect. Nothing else changes. -/
def Obligations.SpecialRegistersAreReadAndWritten : Prop :=
  (∀ (s : State) (c : Ctl) (w : Nat) (set act : Lanes) (d : Opd), Issues s c w set act → StreamsFit s w set act [] (some d) →
     let x := getWarp s w
     let r := (getLaunch s x.launch).record
     (∀ a k lat, ∀ f : Nat → Nat, ((a, k, lat, f) ∈ [
         (Opd.sys .laneid, 1, 6, fun u => u), (.sys .warpid, 1, 6, fun _ => x.num),
         (.sys .lpart, 1, 6, fun _ => lpartOf s x), (.sys .evp, 1, 6, fun _ => x.evp.toNat),
         (.sys .evm, 1, 6, fun _ => x.evm.toNat), (.sys .evh, 1, 6, fun _ => x.evh.toNat),
         (.sys .gtime, 2, 10, fun _ => coreTime s x.core % 2 ^ 64), (.sys .gband, 1, 6, fun _ => s.sys.gband),
         (.sys .gdepth, 1, 6, fun _ => x.gdepth), (.sys .fatalx, 1, 6, fun _ => (getIface s x.iface).fatalx.toNat),
         (.sys .status, 1, 6, fun _ => ((statusNow s x &&& 0x3F3) ||| BitVec.ofNat 32 (x.core * 65536 + x.part * 16384)).toNat)]) →
       exec (.sread c d a) s = .next (written s w set act [] lat d k f)) ∧
     (∃ f, exec (.sread c d (.sys .evid)) s = .next (written s w set act [] 6 d 1 f) ∧
       ∀ u, u < x.threads.length → f u = (threadOf x u).evid.toNat) ∧
     (∃ f, exec (.sread c d (.sys .trapinfo)) s = .next (written s w set act [] 6 d 1 f) ∧
       ∀ u, u < x.threads.length → f u = (threadOf x u).trapinfo.toNat) ∧
     (∀ n : Fin 12, exec (.sread c d (.cf n)) s = .next (written s w set act [] 6 d 1 fun _ => mapGetD x.cf n.val 0)) ∧
     (∀ n : BitVec 3, ∃ ext num id bind : Nat → Nat,
       exec (.sreadExt c d n) s = .next (written s w set act [] 6 d 1 ext) ∧
       exec (.sreadNum c d n) s = .next (written s w set act [] 6 d 1 num) ∧
       exec (.sreadId c d n) s = .next (written s w set act [] 6 d 1 id) ∧
       exec (.sreadBind c d n) s = .next (written s w set act [] 6 d 1 bind) ∧
       ∀ u,
         (r.levelN ≤ n.toNat → ext u = 1 ∧ num u = 0 ∧ id u = 0 ∧ bind u = 0xFFFFFFFF) ∧
         (n.toNat < r.levelN →
           let size := ((List.range (n.toNat + 1)).map fun j => (r.levels.getD j 0).toNat % 2 ^ 24).prod
           ext u = (r.levels.getD n.toNat 0).toNat % 2 ^ 24 ∧ num u = (x.gnum * 32 + u) / size ∧
           bind u = (r.levels.getD n.toNat 0).toNat ∧
           id u = if n.toNat + 1 < r.levelN then num u % ((r.levels.getD (n.toNat + 1) 0).toNat % 2 ^ 24) else num u))) ∧
  (∀ (s : State) (c : Ctl) (w : Nat) (set act : Lanes) (a : Opd), Issues s c w set act →
     let u := advance s w set
     let x := getWarp u w
     let v := BitVec.ofNat 32 (readsOnce s w act a 1)
     (∃ st : Word, exec (.swrite c (.sys .status) a) s
         = .next (setWarp u w { x with status := st, flagsNext := x.flagsNext.filter fun e => s.clock < e.1 }) ∧
       ∀ j, j < 32 → st.getLsbD j = if j < 2 then v.getLsbD j else if 4 ≤ j ∧ j < 10 then ((statusNow s x).getLsbD j && !v.getLsbD j) else false) ∧
     exec (.swrite c (.sys .evh) a) s = .next (setWarp u w { x with evh := v }) ∧
     (v.toNat ≤ 8 → exec (.swrite c (.sys .gdepth) a) s = .next (setWarp u w { x with gdepth := v.toNat })) ∧
     (8 < v.toNat → exec (.swrite c (.sys .gdepth) a) s = .next (trapSet u (issueAt s w set act) causeOperand)))

/-! ### Register and stream words -/

/-- R123, R125 to R128, R131: the values that the register words write, and their latencies (R112). R124, R128: MOVK writes the group's K register (a pair for MOVK.64) with the value of the lowest active lane; PLOG.FROMV writes P0 to P6 of each active thread from bits 6:0 of its source. It rests on the model's readings of log 21. -/
def Obligations.RegisterWordsMoveAndSelect : Prop :=
  (∀ (s : State) (c : Ctl) (w : Nat) (set act : Lanes) (d a b : Opd), Issues s c w set act →
     (StreamsFit s w set act [a] (some d) →
       exec (.mov c d a) s = .next (written s w set act [a] 4 d 1 (reads s w a 1)) ∧
       exec (.mov64 c d a) s = .next (written s w set act [a] 4 d 2 (reads s w a 2)) ∧
       exec (.bcast c d a b) s = .next (written s w set act [a] 6 d 1 fun u => reads s w a 1 (reads s w b 1 u % 32))) ∧
     (StreamsFit s w set act [a, b] (some d) → ∀ neg n,
       exec (.sel c neg n d a b) s
         = .next (written s w set act [a, b] 4 d 1 fun u => if predAt s w n.toNat u ^^ neg then reads s w a 1 u else reads s w b 1 u) ∧
       exec (.sel64 c neg n d a b) s
         = .next (written s w set act [a, b] 4 d 2 fun u => if predAt s w n.toNat u ^^ neg then reads s w a 2 u else reads s w b 2 u)) ∧
     (StreamsFit s w set act [] (some d) →
       (∀ n lut, ∃ f, exec (.plog c n lut d a b) s = .next (written s w set act [] 4 d 1 f) ∧
         ∀ u, (f u != 0) = lut.getLsbD ((predAt s w n.toNat u).toNat * 4 + (readsP s w b u).toNat * 2 + (readsP s w a u).toNat)) ∧
       (∃ f, exec (.plogTov c d) s = .next (written s w set act [] 4 d 1 f) ∧
         ∀ u, f u < 256 ∧ (f u).testBit 7 = true ∧ ∀ n, n < 7 → (f u).testBit n = predAt s w n u) ∧
       (∀ n : Fin 16, ∃ f, exec (.sflags c d (.s n)) s = .next (written s w set act [] 4 d 1 f) ∧
         (getStream (getWarp s w) n.val = none → ∀ u, f u = 0) ∧
         ∀ st, getStream (getWarp s w) n.val = some st → ∀ u,
           f u / 2 ^ 31 = 1 ∧ (f u).testBit 30 = st.store ∧ (f u).testBit 29 = st.queue ∧
           f u % 2 ^ 29 = min (walkCount st - 32 * st.pos) 0x1FFFFFFF)) ∧
     (StreamsFit s w set act [] (some d) → ∀ ins : Bool, ∃ f,
       exec (if ins then .limmIns c d a b else .limm c d a b) s = .next (written s w set act [] 4 d 1 f) ∧
       ∀ u, reads s w b 1 u ≤ 3 → reads s w d 1 u < 2 ^ 32 → ∀ j, j < 4 →
         f u / 2 ^ (8 * j) % 256 = if j = reads s w b 1 u then reads s w a 1 u % 256 else if ins then reads s w d 1 u / 2 ^ (8 * j) % 256 else 0)) ∧
  (∀ (s : State) (c : Ctl) (w : Nat) (set act : Lanes) (a : Opd), Issues s c w set act → StreamsFit s w set act [a] none →
     let u := afterReads s w set act [a] 4
     (∀ n : BitVec 9, exec (.movk c (.k n) a) s = .next (putK u w 4 n.toNat (BitVec.ofNat 32 (readsOnce s w act a 1)))) ∧
     (∀ n : BitVec 9, exec (.movk64 c (.k n) a) s
       = .next (putK (putK u w 4 n.toNat (BitVec.ofNat 32 (readsOnce s w act a 2))) w 4 (n.toNat + 1)
           (BitVec.ofNat 32 (readsOnce s w act a 2 / 2 ^ 32)))) ∧
     (∀ n v, let g := getGroup u (getWarp u w).group
       let t := putK u w 4 n v
       (∀ p ∈ g.kPend, p.k = n → p.warp = w) → lateHaz u (getWarp u w) (.k n) 4 0 = false →
         (∀ k, mapGetD (getGroup t (getWarp t w).group).k k 0 = if k = n then v else mapGetD g.k k 0) ∧
         (∃ p ∈ (getGroup t (getWarp t w).group).kPend, p.k = n ∧ p.warp = w) ∧ t.mem = u.mem ∧ (getWarp t w).v = (getWarp u w).v) ∧
     (∃ t, exec (.plogFromv c a) s = .next t ∧ RegisterFrame s t w ∧ (getWarp t w).v = (getWarp s w).v ∧
       ∀ n j, n < 7 → j < 32 → act.getLsbD j → lateHaz u (getWarp u w) (.p n) 4 j = false →
         pReg t w n j = (reads s w a 1 j).testBit n))

/-- R129, R130: SBIND binds a stream that is not bound from the twelve K registers of its block, at position 0, with a queue where one of the partition's 64 is free; a bound stream or a bad walk traps OPERAND with no effect. SSTOP unbinds its stream at issue and frees its queue; for a load stream, or a store stream whose elements are written, it completes at once; of a stream that is not bound it does nothing. R118 to R120, R122: the fetch of the next group of a load stream whose pages can be read reads the elements that its walk names, sign-extends them where SIZE says so, and adds the group to the stream's queue; a stream that is full, or bound for storing, or not bound, fetches nothing. It rests on the model's readings of log 13. -/
def Obligations.StreamsAreBoundAndFetched : Prop :=
  (∀ (s : State) (c : Ctl) (w : Nat) (set act : Lanes) (e : BitVec 12) (n : Fin 16) (k : BitVec 9), Issues s c w set act →
     let u := advance s w set
     let x := getWarp u w
     let walk := (List.range 12).map fun j => kWord s w (getWarp s w) (k.toNat + j)
     let size := walk.getD 2 0
     (∀ st : Bool, let i := if st then Instr.sbindSt c e (.s n) (.k k) else .sbindLd c e (.s n) (.k k)
       (getStream x n.val = none ∧ (∀ j, 3 ≤ j → j < 32 → size.getLsbD j = false) ∧ size.extractLsb' 0 2 ≠ 3 ∧ walk.getD 3 0 = 0 →
         ∃ t b, exec i s = .next t ∧ t = { setWarp u w { x with streams := (getWarp t w).streams } with next := u.next + 1 } ∧
           getStream (getWarp t w) n.val = some b ∧ b.walk = walk ∧ b.store = st ∧ b.flags = e ∧ b.pos = 0 ∧ b.groups = [] ∧
           b.queue = decide (queuesUsed u x.core x.part < 64) ∧
           ∀ m, m ≠ n.val → getStream (getWarp t w) m = getStream x m) ∧
       (getStream x n.val ≠ none ∨ (∃ j, 3 ≤ j ∧ j < 32 ∧ size.getLsbD j = true) ∨ size.extractLsb' 0 2 = 3 ∨ walk.getD 3 0 ≠ 0 →
         exec i s = .next (trapSet u (issueAt s w set act) causeOperand))) ∧
     (getStream x n.val = none → exec (.sstop c (.s n)) s = .next u) ∧
     (∀ b, getStream x n.val = some b →
       let v := assignQueues (setWarp u w { x with streams := mapErase x.streams n.val }) x.core x.part 64
       (b.store = false → exec (.sstop c (.s n)) s = .next v) ∧
       (b.store = true → pushesOf v w b.bind = false → (∀ f ∈ (getWarp v w).pushFails, f.bind ≠ b.bind) →
         exec (.sstop c (.s n)) s = .next (setWarp v w { getWarp v w with pushFails := (getWarp v w).pushFails })) ∧
       (b.store = true → pushesOf v w b.bind = true → ∃ o, exec (.sstop c (.s n)) s = .next (newOp v o) ∧
         o.warp = w ∧ o.kind = .word (.sstop c (.s n)) ∧ o.lanes = act ∧ o.args = [b.bind] ∧ o.cf = setOf c))) ∧
  (∀ (s : State) (w n : Nat), s.msg = some (.streamFetchDone w n) →
     (∀ b, getStream (getWarp s w) n = some b → fetchMay b = false → exec .streamFetchDone s = .next s) ∧
     (getStream (getWarp s w) n = none → exec .streamFetchDone s = .next s) ∧
     ∀ b, getStream (getWarp s w) n = some b → fetchMay b = true → NoStale s (getWarp s w).iface →
       let word (i : Nat) : Nat := (b.walk.getD i 0).toNat
       let z := 2 ^ (word 2 % 4)
       let g := 32 * (b.pos + b.groups.length)
       let count := word 4 * word 6 * word 8 * word 10
       let digit (k d : Nat) : Int := (if d = 0 then k % word 4 else if d = 1 then k / word 4 % word 6 else if d = 2 then k / (word 4 * word 6) % word 8
         else k / (word 4 * word 6 * word 8) : Nat)
       let addr (k : Nat) : Nat := ((word 0 + 2 ^ 32 * word 1 + digit k 0 * (b.walk.getD 5 0).toInt + digit k 1 * (b.walk.getD 7 0).toInt
         + digit k 2 * (b.walk.getD 9 0).toInt + digit k 3 * (b.walk.getD 11 0).toInt : Int) % 2 ^ 64).toNat
       ∀ (pa : Nat → Nat) (e : Nat → DWord),
         (∀ u, u < 32 → g + u < count → addr (g + u) % z = 0 ∧ addr (g + u) + z ≤ 2 ^ 48 ∧ (e u).extractLsb' 5 2 ≠ 1 ∧
           Allows s w { r := true } (addr (g + u)) (pa u) (e u) ∧ NotPrivate s (getWarp s w).iface (addr (g + u)) z) →
         ∃ t q, exec .streamFetchDone s = .next t ∧ t.mem = s.mem ∧
           (getWarp t w).threads.map (fun h => { h with fill := none }) = (getWarp s w).threads.map (fun h => { h with fill := none }) ∧ (getWarp t w).v = (getWarp s w).v ∧
           getStream (getWarp t w) n = some { b with groups := b.groups ++ [q] } ∧ q.length = 32 ∧
           ∀ u, u < 32 → (count ≤ g + u → q.getD u {} = {}) ∧
             (g + u < count → ∃ v : Nat, (∀ j, j < z → v / 256 ^ j % 256 = (viewByte s (getWarp s w).core
               (readLevel s (getWarp s w).core 0 (wordsOf (pa u) z) ((e u).getLsbD 7)) (pa u + j)).toNat) ∧ v < 256 ^ z ∧
               q.getD u {} = { val := BitVec.ofNat 32 (if word 2 / 4 % 2 = 1 ∧ v.testBit (8 * z - 1) = true then v + (2 ^ 32 - 2 ^ (8 * z)) else v) }))

/-! ### Integer words -/

/-- R151 to R153: the sums, differences, products, extremes and magnitudes of the integer words, modulo 2^w, clamped for `.SAT`, exact in 64 bits for `.WIDE`; IADDC writes its carry to Pn. R151, R154 to R156: the bits of the results of the logical words, shifts, rotates, counts, reversals and bit fields. -/
def Obligations.IntegerFormsAreExact : Prop :=
  (∀ (s : State) (c : Ctl) (w : Nat) (set act : Lanes) (ty : Ty) (d a b : Opd), Issues s c w set act → ty.isInt = true →
     let M := 2 ^ tyBits ty
     let va := reads s w a ty.regs
     let vb := reads s w b ty.regs
     let ia (u : Nat) := intVal ty (va u)
     let ib (u : Nat) := intVal ty (vb u)
     let clamp (x : Int) : Int := max (tyMin ty) (min (tyMax ty) x)
     (StreamsFit s w set act [a, b] (some d) →
       (∃ f, exec (.iadd c false ty d a b) s = .next (written s w set act [a, b] 4 d ty.regs f) ∧ ∀ u, f u = (va u + vb u) % M) ∧
       (∃ f, exec (.iadd c true ty d a b) s = .next (written s w set act [a, b] 4 d ty.regs f) ∧
         ∀ u, f u < M ∧ intVal ty (f u) = clamp (ia u + ib u)) ∧
       (∃ f, exec (.isub c false ty d a b) s = .next (written s w set act [a, b] 4 d ty.regs f) ∧
         ∀ u, f u < M ∧ (f u + vb u) % M = va u % M) ∧
       (∃ f, exec (.isub c true ty d a b) s = .next (written s w set act [a, b] 4 d ty.regs f) ∧
         ∀ u, f u < M ∧ intVal ty (f u) = clamp (ia u - ib u)) ∧
       (∃ f, exec (.imul c false ty d a b) s = .next (written s w set act [a, b] 6 d ty.regs f) ∧ ∀ u, f u = va u * vb u % M) ∧
       (∃ f, exec (.imulh c ty d a b) s = .next (written s w set act [a, b] 6 d ty.regs f) ∧
         ∀ u, f u < M ∧ ∃ low : Nat, low < M ∧ ia u * ib u = intVal ty (f u) * M + low) ∧
       (∃ f, exec (.imad c false ty d a b) s = .next (written s w set act [a, b] 6 d ty.regs f) ∧
         ∀ u, f u = (va u * vb u + reads s w d ty.regs u) % M) ∧
       (∃ f, exec (.imin c ty d a b) s = .next (written s w set act [a, b] 4 d ty.regs f) ∧
         ∀ u, f u < M ∧ intVal ty (f u) = min (ia u) (ib u)) ∧
       (∃ f, exec (.imax c ty d a b) s = .next (written s w set act [a, b] 4 d ty.regs f) ∧
         ∀ u, f u < M ∧ intVal ty (f u) = max (ia u) (ib u)) ∧
       (∀ n : BitVec 3, let sum (u : Nat) := va u % M + vb u % M + (predAt s w n.toNat u).toNat
         exec (.iaddc c ty n d a b) s = .next (putP (written s w set act [a, b] 4 d ty.regs fun u => sum u % M) w 4 n.toNat act
           fun u => decide (M ≤ sum u))) ∧
       (ty.regs = 1 → ∃ f g, exec (.imul c true ty d a b) s = .next (written s w set act [a, b] 6 d 2 f) ∧
         exec (.imad c true ty d a b) s = .next (written s w set act [a, b] 6 d 2 g) ∧
         ∀ u, f u < 2 ^ 64 ∧ g u < 2 ^ 64 ∧ (∃ q : Int, ia u * ib u = f u + q * 2 ^ 64) ∧
           ∃ q : Int, ia u * ib u + (reads s w d 2 u : Int) = g u + q * 2 ^ 64)) ∧
     (StreamsFit s w set act [a] (some d) → ∀ sat, ∃ f, exec (.iabs c sat ty d a) s = .next (written s w set act [a] 4 d ty.regs f) ∧
       ∀ u, f u < M ∧ (sat = false → f u = (ia u).natAbs % M) ∧ (sat = true → intVal ty (f u) = clamp ((ia u).natAbs : Int)))) ∧
  (∀ (s : State) (c : Ctl) (w : Nat) (set act : Lanes) (ty : Ty) (d a b : Opd), Issues s c w set act → ty.isInt = true →
     let W := tyBits ty
     let va (u : Nat) := reads s w a ty.regs u % 2 ^ W
     let vb (u : Nat) := reads s w b ty.regs u % 2 ^ W
     let n (u : Nat) := reads s w b 1 u % 2 ^ 32
     (StreamsFit s w set act [a, b] (some d) →
       (∃ f g h k, exec (.and c ty d a b) s = .next (written s w set act [a, b] 4 d ty.regs f) ∧
         exec (.or c ty d a b) s = .next (written s w set act [a, b] 4 d ty.regs g) ∧
         exec (.xor c ty d a b) s = .next (written s w set act [a, b] 4 d ty.regs h) ∧
         exec (.andn c ty d a b) s = .next (written s w set act [a, b] 4 d ty.regs k) ∧
         ∀ u, f u < 2 ^ W ∧ g u < 2 ^ W ∧ h u < 2 ^ W ∧ k u < 2 ^ W ∧ ∀ j, j < W →
           (f u).testBit j = ((va u).testBit j && (vb u).testBit j) ∧ (g u).testBit j = ((va u).testBit j || (vb u).testBit j) ∧
           (h u).testBit j = ((va u).testBit j ^^ (vb u).testBit j) ∧ (k u).testBit j = ((va u).testBit j && !(vb u).testBit j)) ∧
       (∃ f g h k, exec (.shl c ty d a b) s = .next (written s w set act [a, b] 4 d ty.regs f) ∧
         exec (.shr c ty d a b) s = .next (written s w set act [a, b] 4 d ty.regs g) ∧
         exec (.sar c ty d a b) s = .next (written s w set act [a, b] 4 d ty.regs h) ∧
         exec (.rotl c ty d a b) s = .next (written s w set act [a, b] 4 d ty.regs k) ∧
         ∀ u, f u < 2 ^ W ∧ g u < 2 ^ W ∧ h u < 2 ^ W ∧ k u < 2 ^ W ∧ ∀ j, j < W →
           (f u).testBit j = (decide (n u ≤ j) && (va u).testBit (j - n u)) ∧ (g u).testBit j = (va u).testBit (j + n u) ∧
           (h u).testBit j = (va u).testBit (min (j + n u) (W - 1)) ∧ (k u).testBit j = (va u).testBit ((j + (W - n u % W)) % W))) ∧
     (StreamsFit s w set act [a] (some d) →
       (∃ f g h k, exec (.popc c ty d a) s = .next (written s w set act [a] 4 d 1 f) ∧
         exec (.clz c ty d a) s = .next (written s w set act [a] 4 d 1 g) ∧
         exec (.ctz c ty d a) s = .next (written s w set act [a] 4 d 1 h) ∧
         exec (.brev c ty d a) s = .next (written s w set act [a] 4 d ty.regs k) ∧
         ∀ u, f u = ((List.range W).filter fun j => (va u).testBit j).length ∧
           g u ≤ W ∧ (∀ j, W - g u ≤ j → (va u).testBit j = false) ∧ (g u < W → (va u).testBit (W - 1 - g u) = true) ∧
           h u ≤ W ∧ (∀ j, j < h u → (va u).testBit j = false) ∧ (h u < W → (va u).testBit (h u) = true) ∧
           k u < 2 ^ W ∧ ∀ j, j < W → (k u).testBit j = (va u).testBit (W - 1 - j))) ∧
     (∀ f : BfCtl, StreamsFit s w set act (bfSrcs a f) (some d) →
       ∃ g h, exec (.bfx c ty f d a) s = .next (written s w set act (bfSrcs a f) 4 d ty.regs g) ∧
         exec (.bfi c ty f d a) s = .next (written s w set act (bfSrcs a f) 4 d ty.regs h) ∧
         ∀ u,
           let pos := match f with
             | .lit p _ => p.toNat
             | .reg o => reads s w o 1 u % 256
           let len := match f with
             | .lit _ l => l.toNat
             | .reg o => reads s w o 1 u / 256 % 256
           let p := min pos W
           let l := min len (W - p)
           g u < 2 ^ W ∧ ∀ j, j < W →
             (g u).testBit j = (if j < l then (va u).testBit (p + j) else tySigned ty && decide (0 < l) && (va u).testBit (p + l - 1)) ∧
             (reads s w d ty.regs u < 2 ^ W → (h u).testBit j =
               if p ≤ j ∧ j < p + l then (reads s w a ty.regs u).testBit (j - p) else (reads s w d ty.regs u).testBit j)))

/-- R157, R158: ISETP writes the comparison of its sources as the type reads them, combined with Pc; AGEN writes the address of its memory operand. -/
def Obligations.IsetpComparesAndAgenAddresses : Prop :=
  ∀ (s : State) (c : Ctl) (w : Nat) (set act : Lanes) (ty : Ty) (d : Opd), Issues s c w set act → ty.isInt = true →
    (∀ a b cmp (q : PComb), StreamsFit s w set act [a, b] (some d) →
      ∃ f, exec (.isetp c cmp ty q d a b) s = .next (written s w set act [a, b] 4 d 1 f) ∧ ∀ u,
        let x := intVal ty (reads s w a ty.regs u)
        let y := intVal ty (reads s w b ty.regs u)
        let g := predAt s w q.c.toNat u ^^ q.neg
        let r : Prop := match cmp with
          | .eq => x = y | .ne => x ≠ y | .lt => x < y | .le => x ≤ y | .gt => x > y | .ge => x ≥ y
        ((f u != 0) = true ↔
          (q.op = 0 ∧ r) ∨ (q.op = 1 ∧ r ∧ g = true) ∨ (q.op = 2 ∧ (r ∨ g = true)) ∨ (q.op = 3 ∧ ¬ (r ↔ g = true)))) ∧
    (∀ signed (m : Mem), StreamsFit s w set act (m.base :: m.index.toList) (some d) →
      ∃ f, exec (.agen c signed ty d m) s = .next (written s w set act (m.base :: m.index.toList) 4 d ty.regs f) ∧ ∀ u,
        f u < 2 ^ tyBits ty ∧ ∃ q i : Int,
          (m.index = none → i = 0) ∧
          (∀ o, m.index = some o → i = intVal (if signed then .s32 else .u32) (reads s w o 1 u)) ∧
          (reads s w m.base ty.regs u : Int) + i * 2 ^ m.shift.toNat + m.off.toInt = f u + q * 2 ^ tyBits ty)

/-! ### Floating-point words, special functions, conversions -/

/-- R159 to R161, with R135 to R138 and R160: the arithmetic of the scalar formats and of packed pairs, element by element, with the conditions. The latency is 8 in FP64 and 4 elsewhere. -/
def Obligations.FloatArithmeticRoundsOnce : Prop :=
  ∀ (s : State) (c : Ctl) (w : Nat) (set act : Lanes) (ty : Ty) (r : Rm) (d a b : Opd), Issues s c w set act →
    StreamsFit s w set act [a, b] (some d) → NoArith s w → ty.isFloatOrPair = true →
    let f := fmtOf ty
    let z := (getWarp s w).status.getLsbD 0
    let va u := elemBits ty (reads s w a ty.regs u)
    let vb u := elemBits ty (reads s w b ty.regs u)
    let vd u := elemBits ty (reads s w d ty.regs u)
    let word := FloatWord s w set act [a, b] (if ty = .f64 then 8 else 4) d ty.regs (elemCount ty) (fmtWidth f)
    word (.fadd c ty r d a b) (fun u e => FloatSum f r z (va u e) (vb u e)) ∧
    word (.fsub c ty r d a b) (fun u e => FloatSum f r z (va u e) (if patNeg f (vb u e) then patMag f (vb u e) else fmtSign f true + patMag f (vb u e))) ∧
    word (.fmul c ty r d a b) (fun u e => FloatProduct f r z (va u e) (vb u e)) ∧
    word (.fma c ty r d a b) (fun u e => FloatFused f r z false (va u e) (vb u e) (vd u e)) ∧
    word (.fms c ty r d a b) (fun u e => FloatFused f r z true (va u e) (vb u e) (vd u e))

/-- R162: FMIN and FMAX give one of their operands, in the order in which -0 is less than +0; the plain forms give the default NaN for any NaN, the `.NUM` forms only for two; the one condition is that of a signalling NaN. R163, R164, R165: FSETP compares values, -0 equal to +0, under the combination of R157; FCLASS tests the class of the bits as they stand; FRND gives the integral value that its mode chooses, with the sign of its operand. -/
def Obligations.FloatComparisonsAndRounding : Prop :=
  (∀ (s : State) (c : Ctl) (w : Nat) (set act : Lanes) (ty : Ty) (d a b : Opd) (num : Bool), Issues s c w set act →
     StreamsFit s w set act [a, b] (some d) → NoArith s w → ty.isFloatOrPair = true →
     let f := fmtOf ty
     let z := (getWarp s w).status.getLsbD 0
     let word := FloatWord s w set act [a, b] (if ty = .f64 then 8 else 4) d ty.regs (elemCount ty) (fmtWidth f)
     let rule (isMax : Bool) (u e y : Nat) (q : Conds) : Prop :=
       let x1 := elemBits ty (reads s w a ty.regs u) e
       let x2 := elemBits ty (reads s w b ty.regs u) e
       let flush (x : Nat) : Nat := fmtSign f (patNeg f x) + magRead f z x
       let le (x y : Nat) : Prop := patVal f false x < patVal f false y ∨ (patVal f false x = patVal f false y ∧ (patNeg f x || !patNeg f y) = true)
       q = { nv := patSig f x1 || patSig f x2 } ∧
       ((patNaN f x1 && patNaN f x2) = true ∨ (num = false ∧ (patNaN f x1 || patNaN f x2) = true) → y = fmtNaN f) ∧
       (num = true → patNaN f x1 = true → patNaN f x2 = false → y = flush x2) ∧
       (num = true → patNaN f x2 = true → patNaN f x1 = false → y = flush x1) ∧
       (patNaN f x1 = false → patNaN f x2 = false → (y = flush x1 ∨ y = flush x2) ∧
         if isMax then le (flush x1) y ∧ le (flush x2) y else le y (flush x1) ∧ le y (flush x2))
     word (.fmin c num ty d a b) (rule false) ∧ word (.fmax c num ty d a b) (rule true)) ∧
  (∀ (s : State) (c : Ctl) (w : Nat) (set act : Lanes) (ty : Ty) (d a : Opd), Issues s c w set act → NoArith s w → ty.isFloat = true →
     let f := fmtOf ty
     let z := (getWarp s w).status.getLsbD 0
     let lat := if ty = .f64 then 8 else 4
     (∀ b cmp (q : PComb), StreamsFit s w set act [a, b] (some d) →
       FloatWord s w set act [a, b] lat d 1 1 32 (.fsetp c cmp ty q d a b) fun u _ y cd =>
         let x1 := elemBits ty (reads s w a ty.regs u) 0
         let x2 := elemBits ty (reads s w b ty.regs u) 0
         let v1 := patVal f z x1
         let v2 := patVal f z x2
         let un : Prop := (patNaN f x1 || patNaN f x2) = true
         let res : Prop := match cmp with
           | .eq => ¬ un ∧ v1 = v2 | .ne => ¬ un ∧ v1 ≠ v2 | .lt => ¬ un ∧ v1 < v2 | .le => ¬ un ∧ v1 ≤ v2
           | .gt => ¬ un ∧ v1 > v2 | .ge => ¬ un ∧ v1 ≥ v2 | .num => ¬ un | .nan => un
           | .equ => un ∨ v1 = v2 | .neu => un ∨ v1 ≠ v2 | .ltu => un ∨ v1 < v2 | .leu => un ∨ v1 ≤ v2
           | .gtu => un ∨ v1 > v2 | .geu => un ∨ v1 ≥ v2
         let g := predAt s w q.c.toNat u ^^ q.neg
         cd = { nv := patSig f x1 || patSig f x2 } ∧ y ≤ 1 ∧
           (y = 1 ↔ (q.op = 0 ∧ res) ∨ (q.op = 1 ∧ res ∧ g = true) ∨ (q.op = 2 ∧ (res ∨ g = true)) ∨ (q.op = 3 ∧ ¬ (res ↔ g = true)))) ∧
     (∀ mask : BitVec 10, StreamsFit s w set act [a] (some d) →
       FloatWord s w set act [a] lat d 1 1 32 (.fclass c ty mask d a) fun u _ y cd =>
         let x := elemBits ty (reads s w a ty.regs u) 0
         let m := patMag f x
         let neg := patNeg f x
         let cls : List Bool := [patSig f x, patNaN f x && !patSig f x, neg && patInf f x, neg && decide (2 ^ f.fb ≤ m) && decide (m < fmtInf f),
           neg && decide (0 < m) && decide (m < 2 ^ f.fb), neg && m == 0, !neg && m == 0, !neg && decide (0 < m) && decide (m < 2 ^ f.fb),
           !neg && decide (2 ^ f.fb ≤ m) && decide (m < fmtInf f), !neg && patInf f x]
         cd = {} ∧ y ≤ 1 ∧ (y = 1 ↔ ∃ n, n < 10 ∧ mask.getLsbD n = true ∧ cls.getD n false = true)) ∧
     (∀ r, StreamsFit s w set act [a] (some d) →
       FloatWord s w set act [a] lat d ty.regs 1 (fmtWidth f) (.frnd c ty r d a) fun u _ y cd =>
         let x := elemBits ty (reads s w a ty.regs u) 0
         if patNaN f x then y = fmtNaN f ∧ cd = { nv := patSig f x }
         else if patInf f x then y = x ∧ cd = {}
         else cd = {} ∧ patNeg f y = patNeg f x ∧ patMag f y < fmtInf f ∧ y < 2 ^ fmtWidth f ∧ ∃ n : Int, patVal f false y = n ∧ RoundsInt r (patVal f z x) n))

/-- R168 to R170: CVT in its four forms. -/
def Obligations.ConversionsFollowTheirTable : Prop :=
  ∀ (s : State) (c : Ctl) (w : Nat) (set act : Lanes) (r : Rm) (d a : Opd), Issues s c w set act → NoArith s w →
    let z := (getWarp s w).status.getLsbD 0
    let dst1 (ty : Ty) : Prop := ty ≠ .bf16x2 ∧ ty ≠ .f32x2
    (∀ dst src, dst1 dst → src ≠ .f32x2 → StreamsFit s w set act [a] (some d) →
      FloatWord s w set act [a] 6 d dst.regs 1 64 (.cvt c dst src r d a) fun u _ => ConvertRule dst src r z (reads s w a src.regs u)) ∧
    (∀ b, StreamsFit s w set act [a, b] (some d) →
      FloatWord s w set act [a, b] 6 d 1 2 16 (.cvtPack c r d a b) fun u e => ConvertRule .bf16 .f32 r z (reads s w (if e = 0 then a else b) 1 u)) ∧
    (∀ dst, dst.isFloat = true → StreamsFit s w set act [a] (some d) →
      FloatWord s w set act [a] 6 d dst.regs 1 64 (.cvtHi c dst r d a) fun u _ =>
        ConvertRule dst .bf16 r z (reads s w a 1 u / 65536)) ∧
    (∀ dst src, dst.isAnyInt = true → src.isAnyInt = true → StreamsFit s w set act [a] (some d) →
      FloatWord s w set act [a] 6 d dst.regs 1 64 (.cvtSat c dst src r d a) fun u _ y cd =>
        cd = {} ∧ IntResult dst (max (tyMin dst) (min (tyMax dst) (intVal src (reads s w a src.regs u)))) y)

/-- R160: under ARITHEN, a lane of a fixed-latency word with NV, DZ or OF traps ARITH at the word, with the conditions in DETAIL; nothing is written for it and it sets no flag; the other lanes complete. A set of conditions joins the flags of STATUS when the word's latency has passed, and changes nothing else. -/
def Obligations.ArithmeticTrapsAndFlags : Prop :=
  (∀ (s : State) (c : Ctl) (w : Nat) (set act : Lanes) (ty : Ty) (r : Rm) (d a b : Opd), Issues s c w set act →
    StreamsFit s w set act [a, b] (some d) → (getWarp s w).status.getLsbD 1 = true →
    let z := (getWarp s w).status.getLsbD 0
    let R (u : Nat) := elems2 ty (fAdd (fmtOf ty) r z) (reads s w a ty.regs u) (reads s w b ty.regs u)
    let bad (u : Nat) : Bool := (R u).2.nv || (R u).2.dz || (R u).2.ofl
    ∃ ok ts, exec (.fadd c ty r d a b) s = .next (deliver (setFlags (writeDst (afterReads s w set act [a, b] (if ty = .f64 then 8 else 4))
          (issueAt s w set act) (if ty = .f64 then 8 else 4) d ty.regs ok fun u => (R u).1) w (if ty = .f64 then 8 else 4) ok fun u => (R u).2)
        w (issueAt s w set act).pc ts) ∧
      (∀ u, u < 32 → ok.getLsbD u = (act.getLsbD u && !bad u)) ∧
      ∀ t, t ∈ ts ↔ t.lane < 32 ∧ act.getLsbD t.lane = true ∧ bad t.lane = true ∧
        t = { lane := t.lane, cause := causeArith, detail := (R t.lane).2.nv.toNat + 2 * (R t.lane).2.dz.toNat + 4 * (R t.lane).2.ofl.toNat }) ∧
  (∀ (s : State) (w lat : Nat) (m : Lanes) (cs : Nat → Conds),
    let t := setFlags s w lat m cs
    let any (p : Conds → Bool) : Prop := ∃ u, u < 32 ∧ m.getLsbD u = true ∧ p (cs u) = true
    (getWarp t w) = { getWarp s w with status := (getWarp t w).status, flagsNext := (getWarp t w).flagsNext } ∧ (∃ x, t = { s with warps := x }) ∧
    (∀ v, v ≠ w → getWarp t v = getWarp s v) ∧
    ∀ k j, s.clock ≤ k → j < 32 → ((statusNow { t with clock := k } (getWarp t w)).getLsbD j = true ↔
      (statusNow { s with clock := k } (getWarp s w)).getLsbD j = true ∨ (s.clock + lat ≤ k ∧ ((j = 4 ∧ any (·.nv)) ∨ (j = 5 ∧ any (·.dz)) ∨
      (j = 6 ∧ any (·.ofl)) ∨ (j = 7 ∧ any (·.uf)) ∨ (j = 8 ∧ any (·.nx))))))

/-- R166: a special function becomes incomplete, with its sources as they stand at issue; the registers that it writes are busy until it completes, and nothing else changes but its streams. R166, R167, R160: a special function without ARITHEN completes: its results, by its rule, go to its destination, its conditions to the flags, and its counter falls. The rules of the approximate functions here are their special inputs, their exact cases and their conditions; the bound of R167 on the rest of their results is not stated. It rests on the model's readings of log 86. -/
def Obligations.SpecialFunctionsComplete : Prop :=
  (∀ (s : State) (c : Ctl) (w : Nat) (set act : Lanes) (d a b : Opd) (ty : Ty) (r : Rm), Issues s c w set act →
     (StreamsFit s w set act [a] (some d) → ∀ i ∈ [Instr.frcp c ty r d a, .frsq c ty d a, .fsqrt c ty r d a],
       ∃ o, exec i s = .next (newOp (afterReads s w set act [a] 0) o) ∧ o.warp = w ∧ o.kind = .word i ∧ o.lanes = act ∧ o.cf = setOf c ∧
         o.poison = 0 ∧ o.clobber = [] ∧ o.args = [(getWarp s w).status.toNat % 4] ∧
         ∀ u, u < 32 → act.getLsbD u = true → (partOf o u).val = BitVec.ofNat 128 (reads s w a ty.regs u)) ∧
     (StreamsFit s w set act [a] (some d) → ∀ i ∈ [Instr.fex2 c d a, .flg2 c d a, .fsin c d a, .fcos c d a, .ftanh c d a],
       ∃ o, exec i s = .next (newOp (afterReads s w set act [a] 0) o) ∧ o.warp = w ∧ o.kind = .word i ∧ o.lanes = act ∧ o.cf = setOf c ∧
         o.poison = 0 ∧ o.clobber = [] ∧ o.args = [(getWarp s w).status.toNat % 4] ∧
         ∀ u, u < 32 → act.getLsbD u = true → (partOf o u).val = BitVec.ofNat 128 (reads s w a 1 u)) ∧
     (StreamsFit s w set act [a, b] (some d) → let i := Instr.fdiv c ty r d a b
       ∃ o, exec i s = .next (newOp (afterReads s w set act [a, b] 0) o) ∧ o.warp = w ∧ o.kind = .word i ∧ o.lanes = act ∧ o.cf = setOf c ∧
         o.poison = 0 ∧ o.clobber = [] ∧ o.args = [(getWarp s w).status.toNat % 4] ∧
         ∀ u, u < 32 → act.getLsbD u = true → (partOf o u).val = BitVec.ofNat 128 (reads s w a ty.regs u) ∧
           (partOf o u).cmp = BitVec.ofNat 128 (reads s w b ty.regs u))) ∧
  (∀ (s : State) (id : Nat) (o : Op) (i : Instr) (d : Opd) (k : Nat), s.msg = some (.specialFunctionDone id) →
     mapGet s.ops id = some o → o.kind = .word i → specialDst i = some (d, k) → o.poison = 0 → (o.args.getD 0 0).testBit 1 = false →
     let z := (o.args.getD 0 0).testBit 0
     ∃ R : Nat → Nat × Conds,
       exec .specialFunctionDone s = .next (finishOp (setFlags (retDst s o d k o.lanes fun u => (R u).1) o.warp 0 o.lanes fun u => (R u).2) id) ∧
       ∀ u,
         let x := (partOf o u).val.toNat
         let y := (partOf o u).cmp.toNat
         let ok (f : FFmt) : Prop := x < 2 ^ fmtWidth f ∧ y < 2 ^ fmtWidth f
         match i with
         | .frcp _ ty r _ _ => ty = .f32 ∨ ty = .f64 → ok (fmtOf ty) →
             FloatQuotient (fmtOf ty) r z (fmtBias (fmtOf ty) * 2 ^ (fmtOf ty).fb) x (R u).1 (R u).2
         | .fdiv _ ty r _ _ _ => ty = .f32 ∨ ty = .f64 → ok (fmtOf ty) → FloatQuotient (fmtOf ty) r z x y (R u).1 (R u).2
         | .fsqrt _ ty r _ _ => ty = .f32 ∨ ty = .f64 → ok (fmtOf ty) → FloatRoot (fmtOf ty) r z x (R u).1 (R u).2
         | .frsq _ ty _ _ => ty = .f32 ∨ ty = .f64 → ok (fmtOf ty) → FloatReciprocalRoot (fmtOf ty) z x (R u).1 (R u).2
         | _ => ok fmtF32 → ApproxRule i z x (R u).1 (R u).2)

/-! ### Lane exchange -/

/-- R171 to R173, R175, R177, R180 to R182: the moves between the active lanes of a tile of LPART lanes, with the lanes that they write. LPARTSET takes effect after 8 clocks, and traps OPERAND for a value that is no tile size. R178: the votes and masks over the active lanes of a tile. -/
def Obligations.LaneExchangeAndVotes : Prop :=
  (∀ (s : State) (c : Ctl) (w : Nat) (set act : Lanes) (ty : Ty) (d a b : Opd), Issues s c w set act →
     (let v := readsOnce s w act a 1
       let u := advance s w set
       (v ∈ [2, 4, 8, 16, 32] → ∃ x, exec (.lpartset c a) s = .next (setWarp u w x) ∧
         x = { getWarp u w with lpart := x.lpart, lpartNext := x.lpartNext } ∧ lpartOf s x = lpartOf s (getWarp s w) ∧
         (∀ k, s.clock + 8 ≤ k → lpartOf { s with clock := k } x = v) ∧
         ∀ k, s.clock ≤ k → k < s.clock + 8 → lpartEarly { s with clock := k } x = true) ∧
       (v ∉ [2, 4, 8, 16, 32] → exec (.lpartset c a) s = .next (trapSet u (issueAt s w set act) causeOperand))) ∧
     (lpartEarly s (getWarp s w) = false → lpartOf s (getWarp s w) ∈ [2, 4, 8, 16, 32] →
       let L := lpartOf s (getWarp s w)
       let va := reads s w a ty.regs
       let first (u : Nat) : Nat := u / L * L
       let live (v : Nat) : Prop := v < 32 ∧ act.getLsbD v = true
       (∀ vp : Option (BitVec 3), ∀ at_ : Nat → Option Nat, ∀ i : Instr,
         ((i = .shflIdx c ty vp d a b ∧ ∀ u, at_ u = some (first u + reads s w b 1 u % L)) ∨
           (i = .shflUp c ty vp d a b ∧ ∀ u, at_ u = if reads s w b 1 u ≤ u % L then some (u - reads s w b 1 u) else none) ∨
           (i = .shflDown c ty vp d a b ∧ ∀ u, at_ u = if u % L + reads s w b 1 u < L then some (u + reads s w b 1 u) else none) ∨
           (i = .shflXor c ty vp d a b ∧ ∀ u, at_ u = some (first u + Nat.xor (u % L) (reads s w b 1 u % L)))) →
         ∃ f g, (∀ u, u < 32 → (g u = true ↔ ∃ v, at_ u = some v ∧ live v) ∧ (∀ v, at_ u = some v → live v → f u = va v) ∧ (g u = false → f u = va u)) ∧
           (vp = none → exec i s = .next (written s w set act [] 8 d ty.regs f)) ∧
           ∀ n, vp = some n → exec i s = .next (putP (written s w set act [] 8 d ty.regs f) w 8 n.toNat act g)) ∧
       (∃ f, exec (.matchLanes c ty d a) s = .next (written s w set act [] 8 d 1 f) ∧ ∀ u, u < 32 → f u < 2 ^ L ∧
         ∀ k, k < L → ((f u).testBit k = true ↔ live (first u + k) ∧ va (first u + k) = va u)) ∧
       (∀ neg : Bool, let sel (v : Nat) : Bool := act.getLsbD v && (readsP s w b v != neg)
         let rank (u : Nat) : Nat := ((List.range 32).filter fun v => v / L == u / L && v < u && sel v).length
         let count (u : Nat) : Nat := ((List.range 32).filter fun v => v / L == u / L && sel v).length
         (∃ m f, exec (.compress c neg ty d a b) s = .next (written s w set m [] 8 d ty.regs f) ∧ ∀ u, u < 32 →
           m.getLsbD u = (act.getLsbD u && decide (u % L < count u)) ∧
           (u % L < count u → ∃ v, v < 32 ∧ v / L = u / L ∧ sel v = true ∧ rank v = u % L ∧ f u = va v)) ∧
         ∃ m f, exec (.expand c neg ty d a b) s = .next (written s w set m [] 8 d ty.regs f) ∧ ∀ u, u < 32 →
           m.getLsbD u = (sel u && act.getLsbD (first u + rank u)) ∧ f u = va (first u + rank u)) ∧
       (let n := reads s w b 1 0;
         (∃ m, exec (.slideup c ty d a b) s = .next (written s w set m [] 8 d ty.regs fun u => va (u - n)) ∧
           ∀ u, u < 32 → m.getLsbD u = (act.getLsbD u && decide (n ≤ u % L) && act.getLsbD (u - n))) ∧
         ∃ m, exec (.slidedn c ty d a b) s = .next (written s w set m [] 8 d ty.regs fun u => va (u + n)) ∧
           ∀ u, u < 32 → m.getLsbD u = (act.getLsbD u && decide (u % L + n < L) && act.getLsbD (u + n))))) ∧
  (∀ (s : State) (c : Ctl) (w : Nat) (set act : Lanes) (neg : Bool) (d a : Opd), Issues s c w set act →
     lpartEarly s (getWarp s w) = false → lpartOf s (getWarp s w) ∈ [2, 4, 8, 16, 32] →
     let L := lpartOf s (getWarp s w)
     let first (u : Nat) : Nat := u / L * L
     let yes (v : Nat) : Prop := v < 32 ∧ act.getLsbD v = true ∧ readsP s w a v ≠ neg
     let no (v : Nat) : Prop := v < 32 ∧ act.getLsbD v = true ∧ readsP s w a v = neg
     (∀ n : Fin 8, ∀ i : Instr, ∀ P : Nat → Prop,
       ((i = .voteAll c neg (.p n) a ∧ P = fun u => ∀ v, v / L = u / L → ¬ no v) ∨
         (i = .voteAny c neg (.p n) a ∧ P = fun u => ∃ v, v / L = u / L ∧ yes v) ∨
         (i = .voteEq c neg (.p n) a ∧ P = fun u => (∀ v, v / L = u / L → ¬ no v) ∨ ∀ v, v / L = u / L → ¬ yes v)) →
       ∃ g, exec i s = .next (putP (advance s w set) w 8 n.val act g) ∧ ∀ u, u < 32 → (g u = true ↔ P u)) ∧
     (∃ f, exec (.voteBallot c neg d a) s = .next (written s w set act [] 8 d 1 f) ∧ ∀ u, u < 32 → f u < 2 ^ L ∧
       ∀ k, k < L → ((f u).testBit k = true ↔ yes (first u + k))) ∧
     ∃ f, exec (.lanepfx c neg d a) s = .next (written s w set act [] 8 d 1 f) ∧ ∀ u, u < 32 →
       f u = ((List.range 32).filter fun v => v / L == u / L && v < u && act.getLsbD v && readsP s w a v != neg).length)

/-- R179: REDUX and SCAN over the values of the active lanes of a tile: integer sums modulo 2^w, extremes as the type compares, bits, and in F32 the exact sum rounded once, with the identities where a lane's operand set is empty. It rests on the model's readings of log 87. -/
def Obligations.ReductionsAreExact : Prop :=
  ∀ (s : State) (c : Ctl) (w : Nat) (set act : Lanes) (op : RedOp) (ty : Ty) (r : Rm) (d a : Opd), Issues s c w set act → NoArith s w →
    lpartEarly s (getWarp s w) = false → lpartOf s (getWarp s w) ∈ [2, 4, 8, 16, 32] →
    (ty.isInt = true ∨ (ty = .f32 ∧ op ∈ [.add, .min, .max])) →
    let L := lpartOf s (getWarp s w)
    let z := (getWarp s w).status.getLsbD 0
    let W := tyBits ty
    let lane (u v : Nat) : Bool := v / L == u / L && act.getLsbD v
    let rule (l : List Nat) (y : Nat) (cd : Conds) : Prop :=
      let ints := l.map (intVal ty)
      let f := fmtF32
      if ty = .f32 then match op with
        | .add =>
          let both := l.any (fun x => patInf f x && patNeg f x) && l.any fun x => patInf f x && !patNeg f x
          FloatRule f r z (l.any (patNaN f) || both) (if l.any (patNaN f) then l.any (patSig f) else both)
            ((l.find? (patInf f)).map (patNeg f)) ((l.map (patVal f z)).sum)
            (if l.all (fun x => !patNeg f x) then false else if l.all (patNeg f) then true else r == .rm) y cd
        | _ =>
          let flush (x : Nat) : Nat := fmtSign f (patNeg f x) + magRead f z x
          let le (x y : Nat) : Prop := patVal f false x < patVal f false y ∨ (patVal f false x = patVal f false y ∧ (patNeg f x || !patNeg f y) = true)
          cd = { nv := l.any (patSig f) } ∧
          (l = [] → y = if op = .min then 0x7F800000 else 0xFF800000) ∧
          (l.any (patNaN f) = true → y = 0x7FC00000) ∧
          (l ≠ [] → l.any (patNaN f) = false → (∃ x ∈ l, y = flush x) ∧ ∀ x ∈ l, if op = .min then le y (flush x) else le (flush x) y)
      else cd = {} ∧ y < 2 ^ W ∧ match op with
        | .add => (y : Int) % 2 ^ W = (l.map fun x => (x : Int)).sum % 2 ^ W
        | .min => (l = [] → intVal ty y = tyMax ty) ∧ (l ≠ [] → intVal ty y ∈ ints ∧ ∀ x ∈ ints, intVal ty y ≤ x)
        | .max => (l = [] → intVal ty y = tyMin ty) ∧ (l ≠ [] → intVal ty y ∈ ints ∧ ∀ x ∈ ints, x ≤ intVal ty y)
        | .and => ∀ j, j < W → y.testBit j = l.all fun x => x.testBit j
        | .or => ∀ j, j < W → y.testBit j = l.any fun x => x.testBit j
        | .xor => ∀ j, j < W → y.testBit j = ((l.filter fun x => x.testBit j).length % 2 == 1)
    FloatWord s w set act [] 8 d ty.regs 1 64 (.redux c op ty r d a)
      (fun u _ y cd => u < 32 → rule (((List.range 32).filter (lane u)).map (reads s w a ty.regs)) y cd) ∧
    ∀ excl : Bool, FloatWord s w set act [] 8 d ty.regs 1 64 (.scan c excl op ty r d a)
      (fun u _ y cd => u < 32 → rule (((List.range 32).filter fun v => lane u v && (v < u || (v == u && !excl))).map (reads s w a ty.regs)) y cd)

/-! ### Memory words -/

/-- R191, R195 to R203, R284, R285: LD, ST, LDX, STX and the atomics on memory become incomplete with the requests of their active lanes: global ones cut at 4 KiB, private ones in the interleaved words of R196, with the values they store and compare; the scope, the counter, and the translation of each page stand in the operation. Nothing else changes but the cached translations. It rests on the model's readings of log 30, 31, 32. -/
def Obligations.MemoryWordsMakeTheirRequests : Prop :=
  ∀ (s : State) (c : Ctl) (w : Nat) (set act : Lanes) (sc : Scope), Issues s c w set act → NoStale s (getWarp s w).iface → Grants s w sc →
    let active (u : Nat) : Prop := u < 32 ∧ act.getLsbD u = true
    (∀ kind ty d m,
      let priv := kind == .priv || kind == .privB128
      let quad := kind == .b128 || kind == .privB128 || kind == .qualB128
      let z := if quad then 16 else ty.size
      let k := if quad then 4 else ty.regs
      let A := effAddr s w (getWarp s w) m (if priv then 32 else 64)
      let runs (u : Nat) := if priv then privPieces s w (A u) z u else piecesOf (A u) z
      (∀ u, active u → A u % z = 0 ∧ (priv = true → A u + z ≤ (getLaunch s (getWarp s w).launch).ps)) →
        Requests s w set act c (.ld c kind ty sc d m) sc { r := true } priv runs (fun _ => 0) (fun _ => 0) ∧
        Requests s w set act c (.st c kind ty sc d m) sc { w := true } priv runs (reads s w d k) (fun _ => 0)) ∧
    (∀ quad ty d m,
      let z := if quad then 16 else ty.size
      let runs (u : Nat) := piecesOf (effAddr s w (getWarp s w) m 64 u) z
      Requests s w set act c (.ldx c quad ty sc d m) sc { r := true } false runs (fun _ => 0) (fun _ => 0) ∧
      Requests s w set act c (.stx c quad ty sc d m) sc { w := true } false runs (reads s w d (if quad then 4 else ty.regs)) (fun _ => 0)) ∧
    ∀ (t : AtomCtl) b, t.scope = sc → t.scratch = false →
      let A (u : Nat) : Nat := (((reads s w t.base 2 u : Int) + t.off.toInt) % 2 ^ 64).toNat
      ((∀ u, active u → A u % t.ty.size = 0) → ∀ d op fop,
        Requests s w set act c (.atom c op t d b) sc { r := true, w := true } false (fun u => piecesOf (A u) t.ty.size) (reads s w b t.ty.regs) (fun _ => 0) ∧
        Requests s w set act c (.atomf c fop t d b) sc { r := true, w := true } false (fun u => piecesOf (A u) t.ty.size) (reads s w b t.ty.regs) (fun _ => 0)) ∧
      ∀ quad d, let z := if quad then 16 else t.ty.size
        let k := if quad then 4 else t.ty.regs
        (∀ u, active u → A u % z = 0) →
        Requests s w set act c (.cas c quad t d b) sc { r := true, w := true } false (fun u => piecesOf (A u) z) (reads s w b k) (reads s w d k)

/-- R191: the traps of a lane of LD or ST on a global address, before it has any effect: ALIGN for a misaligned address, then ACCESS for an address above 2^48 or an invalid mapping, then PROTECT for a missing permission; the address is the access's. It rests on the model's readings of log 31. -/
def Obligations.RefusedAccessesTrapBeforeAnyEffect : Prop :=
  ∀ (s : State) (c : Ctl) (w : Nat) (set act : Lanes) (sc : Scope) (ty : Ty) (d : Opd) (m : Mem), Issues s c w set act → NoStale s (getWarp s w).iface →
    Grants s w sc →
    let A := effAddr s w (getWarp s w) m 64
    let z := ty.size
    let walk (u : Nat) := walkFrom s (A u) 3 (getIface s (getWarp s w).iface).ptroot.toNat
    ∀ (st : Bool) (cause : Nat → Nat),
      let i := if st then Instr.st c .plain ty sc d m else .ld c .plain ty sc d m
      let need : Need := if st then { w := true } else { r := true }
      (∀ u, u < 32 → act.getLsbD u = true →
        (A u % z ≠ 0 ∧ cause u = causeAlign) ∨
        (A u % z = 0 ∧ 2 ^ 48 < A u + z ∧ cause u = causeAccess) ∨
        (A u % z = 0 ∧ A u + z ≤ 2 ^ 48 ∧ spanParked s (getWarp s w).core (getWarp s w).iface (A u / 4096) = false ∧
          ((walk u = .invalid ∧ cause u = causeAccess) ∨
            ∃ pa e p k, walk u = .ok pa e p k ∧ needOk need e = false ∧ cause u = causeProtect))) →
      exec i s = .next (deliver (advance s w set) w (issueAt s w set act).pc ((laneList act).map fun u => { lane := u, cause := cause u, addr := A u }))

/-- R275: a word of SYSTEM scope under a policy that does not grant it acts at TENANT scope and sets bit 9 of STATUS, or, where the policy says so, traps DEMOTE in every active thread with no effect. -/
def Obligations.SystemScopeIsDemotedOrTraps : Prop :=
  ∀ (s : State) (c : Ctl) (w : Nat) (set act : Lanes), Issues s c w set act → (getIface s (getWarp s w).iface).policy.getLsbD 0 = false →
    let u := advance s w set
    ((getIface s (getWarp s w).iface).policy.getLsbD 1 = true →
      ∀ ty d m a b k q neg n off o fo (t : AtomCtl) dd, t.scope = .system →
        ∀ i ∈ [Instr.ld c k ty .system d m, .st c k ty .system d m, .ldx c q ty .system d m, .stx c q ty .system d m, .invr c .system a b,
          .wbr c .system a b, .invd c .system a b, .fenceAr c .system, .fenceRel c .system, .fenceAcq c .system, .fenceAll c .system,
          .cstore c ty .system neg n off d a b, .atom c o t dd b, .atomf c fo t dd b, .cas c q t d b],
          exec i s = .next (trapSet u (issueAt s w set act) causeDemote)) ∧
    ((getIface s (getWarp s w).iface).policy.getLsbD 1 = false →
      ∃ o, exec (.fenceRel c .system) s
          = .next (newOp (setWarp u w { getWarp u w with status := (getWarp u w).status ||| 0x200 }) o) ∧
        o.scope = .tenant ∧ o.kind = .word (.fenceRel c .system) ∧ o.warp = w ∧ o.lanes = act ∧ o.phase = .ready)

/-- R204, R205, R206, R266, R267: a FENCE becomes incomplete, waiting for its release part or for its acquire. INVR, WBR and INVD take their range from the lowest active lane, widened to 4-byte words, and ask for each of its pages; a range of no bytes is complete at once. PREF changes no value anywhere, and asks for a line only where it can be read. R244, R248, R254, R262, R263, R266, R267: a FENCE whose earlier words are performed pushes what its level asks for, waits for the acknowledgements, and is complete, or goes on to its acquire; the acquire at DEVICE scope and wider drops the unmodified copies of the core's L1 and takes the core's time as its acquire stamp. -/
def Obligations.FencesPushAndSelfInvalidate : Prop :=
  (∀ (s : State) (c : Ctl) (w : Nat) (set act : Lanes), Issues s c w set act →
     let u := advance s w set
     (∀ sc, Grants s w sc → ∀ i ∈ [Instr.fenceAr c sc, .fenceRel c sc, .fenceAll c sc, .fenceAcq c sc],
       ∃ o, exec i s = .next (newOp u o) ∧ o.warp = w ∧ o.kind = .word i ∧ o.lanes = act ∧ o.scope = sc ∧ o.cf = setOf c ∧ o.parts = [] ∧
         o.released = false ∧ o.phase = if i = .fenceAcq c sc then .acquiring else .ready) ∧
     (∀ sc a b, Grants s w sc → NoStale s (getWarp s w).iface → ∀ i ∈ [Instr.invr c sc a b, .wbr c sc a b, .invd c sc a b],
       let start := readsOnce s w act a 2
       let len := readsOnce s w act b 1
       (len = 0 → exec i s = .next u) ∧
       ((∀ va, start / 4 * 4 ≤ va → va < (start + len + 3) / 4 * 4 → va < 2 ^ 48 ∧ ∃ pa e, Allows s w { r := true, w := true } va pa e ∧
           (i = .invd c sc a b → e.getLsbD 8 = true)) → len ≠ 0 →
         ∃ o tl, exec i s = .next { newOp u o with tlb := tl } ∧ o.warp = w ∧ o.kind = .word i ∧ o.lanes = act ∧ o.scope = sc ∧ o.cf = setOf c ∧
           o.phase = .ready ∧ (∀ p ∈ o.parts, p.st = .ok ∧ p.lane = lowLane act ∧ p.va / 4096 = (p.va + p.n - 1) / 4096) ∧
           ∀ va, (∃ p ∈ o.parts, p.va ≤ va ∧ va < p.va + p.n) ↔ start / 4 * 4 ≤ va ∧ va < (start + len + 3) / 4 * 4)) ∧
     (∀ m, exec (.prefSl c m) s = .next u ∧
       ∀ i ∈ [Instr.prefL1 c m, .prefCc c m], ∃ t, exec i s = .next t ∧ t = { u with l1 := t.l1, cc := t.cc, hostLines := t.hostLines } ∧
         (∀ v, homeRead t v = homeRead s v) ∧
         (i = .prefL1 c m → ∀ v, v < 32 → act.getLsbD v = true → ∀ pa e g, checkPage s (getWarp s w).core (getWarp s w).iface (effAddr s w (getWarp s w) m 64 v) { r := true } = .ok pa e g →
           spanParked s (getWarp s w).core (getWarp s w).iface (effAddr s w (getWarp s w) m 64 v / 4096) = false → e.extractLsb' 5 2 ≠ 1 → ∀ j, j < 64 → (mapGet t.l1 (cacheKey (getWarp s w).core (pa / 256 * 64 + j))).isSome = true))) ∧
  (∀ (s : State) (id : Nat) (o : Op) (c : Ctl) (sc : Scope) (i : Instr), mapGet s.ops id = some o → o.kind = .word i → o.scope = sc →
     let uo := decide (i = .fenceAll c sc)
     let rel := decide (i = .fenceRel c sc)
     (s.msg = some (.memoryReply id) → i ∈ [.fenceAr c sc, .fenceRel c sc, .fenceAll c sc] → o.phase = .ready → o.released = false → o.parts = [] →
       releaseMay s id o = true → mapWf s.l1 = true → mapWf s.cc = true →
       let out := if opLevel s o = 2 then (s.pushOut.filter fun e => e.2.cluster == clusterOf o.core).length else 0
       let host : Prop := opLevel s o = 2 ∧ ∃ v ∈ l1Dirty s o.core uo ++ ccDirty s (clusterOf o.core) uo, isHost (4 * v) = true
       ∃ t, exec .memoryReply s = .next t ∧
         (1 ≤ opLevel s o → l1Dirty t o.core uo = []) ∧ (opLevel s o = 2 → ccDirty t (clusterOf o.core) uo = []) ∧
         (opLevel s o = 0 → t.l1 = s.l1 ∧ t.cc = s.cc ∧ t.net = s.net ∧ t.mem = s.mem) ∧
         (t.net = s.net ∧ out = 0 ∧ ¬ host →
           (rel = true → mapGet t.ops id = none) ∧ (rel = false → ∃ q, mapGet t.ops id = some q ∧ q.phase = .acquiring ∧ q.released = true)) ∧
         (t.net ≠ s.net ∨ 0 < out ∨ host → ∃ q, mapGet t.ops id = some q ∧ q.phase = .releasing ∧ q.acks + s.net.length = t.net.length + out)) ∧
     (s.msg = some (.releaseComplete id) → i = .fenceRel c sc → o.phase = .releasing → publishedMay s o = true →
       ∃ t, exec .releaseComplete s = .next t ∧ mapGet t.ops id = none ∧ t.mem = s.mem ∧ t.net = s.net ∧
         (sc ≠ .thread → sc ≠ .warp → ∀ p ∈ (getGroup t (getWarp t o.warp).group).kPend, p.warp ≠ o.warp ∨ id < p.seq)) ∧
     (s.msg = some (.acquireComplete id) → i ∈ [.fenceAr c sc, .fenceAcq c sc, .fenceAll c sc] → o.phase = .acquiring → opLevel s o = 2 →
       acquireMay s id o = true → acquireTime s o = true → mapWf s.l1 = true →
       ∃ t, exec .acquireComplete s = .next t ∧ mapGet t.ops id = none ∧ mapGetD t.acquired o.core 0 = coreTime s o.core ∧
         t.mem = s.mem ∧ t.cc = s.cc ∧ t.net = s.net ∧
         ∀ k, mapGet t.l1 k = (mapGet s.l1 k).filter fun x => !ofUnit o.core k || x.dirty || x.imm || (x.uo && !uo)))

/-- R183, R184, R413: CSTORE packs the selected lanes of each tile from the tile's span on, in ascending position, and holds its set at the word; a base that is not aligned to the element traps ALIGN with counts of zero. R184, R413: CSTORE_COMPLETE, where every element is written and acknowledged: each active thread receives the number of elements of its own tile, the threads that are held at the word go on at the next one, and the word is complete. It rests on the model's readings of log 39. -/
def Obligations.CstorePacksItsTiles : Prop :=
  (∀ (s : State) (c : Ctl) (w : Nat) (set act : Lanes) (ty : Ty) (sc : Scope) (neg : Bool) (n : BitVec 3) (off : BitVec 12) (d a b : Opd),
     Issues s c w set act → NoStale s (getWarp s w).iface → Grants s w sc → lpartEarly s (getWarp s w) = false → ty ∈ [Ty.u32, .u64, .u16, .u8] →
     let i := Instr.cstore c ty sc neg n off d a b
     let z := ty.size
     let L := lpartOf s (getWarp s w)
     let A := (((readsOnce s w act a 2 : Int) + off.toInt) % 2 ^ 64).toNat
     let sel (u : Nat) : Bool := act.getLsbD u && (predAt s w n.toNat u != neg)
     let rank (u : Nat) : Nat := ((List.range 32).filter fun v => v / L == u / L && v < u && sel v).length
     let at_ (u : Nat) : Nat := A + u / L * (L * z) + rank u * z
     (A % z ≠ 0 → exec i s = .next (trapSet (writeDst (advance s w set) (issueAt s w set act) 0 d 1 act fun _ => 0) (issueAt s w set act) causeAlign 0 A)) ∧
     ∀ (pa : Nat → Nat) (e : Nat → DWord), A % z = 0 → (∀ u, u < 32 → sel u = true → at_ u + z ≤ 2 ^ 48 ∧ Allows s w { w := true } (at_ u) (pa u) (e u)) →
       ∃ o tl, exec i s = .next (setCond { newOp (advance s w set) o with tlb := tl } w set (fun _ => .waiting (.held s.next)) (issueAt s w set act).pc) ∧
         o.warp = w ∧ o.kind = .word i ∧ o.lanes = act ∧ o.scope = sc ∧ o.cf = setOf c ∧ o.args = [L, 0] ∧ o.poison = 0 ∧
         o.parts.map (fun p => (p.lane, p.va, p.pa, p.n, p.val)) = ((List.range 32).filter sel).map fun u =>
           (u, at_ u, pa u, z, BitVec.ofNat 128 (reads s w b ty.regs u % 2 ^ (8 * z)))) ∧
  (∀ (s : State) (id : Nat) (o : Op) (i : Instr) (n : BitVec 9), s.msg = some (.cstoreComplete id) → mapGet s.ops id = some o →
     (∃ c ty sc neg p off a b, i = .cstore c ty sc neg p off (.v n) a b) → o.kind = .word i → o.clobber = [] →
     (∀ p ∈ o.parts, p.st = .done) → o.args.getD 1 0 = 0 → publishedMay s o = true →
     let L := o.args.getD 0 32
     let f (u : Nat) : Nat := (o.parts.filter fun p => p.lane / L == u / L).length
     let s1 := retV s o n.toNat o.lanes fun u => BitVec.ofNat 32 (f u)
     let s2 := finishOp { s1 with parks := mapFilter s1.parks fun _ e => e.op != some id } id
     exec .cstoreComplete s = .next (wake s2 o.warp (waiting (getWarp s2 o.warp) fun v => v == .held id) fun _ => o.pc + 12))

/-! ### Memory words as they are performed -/

/-- R201, R202, R241, R242: the reply of LD or LDX, where every lane can be performed: each part receives the bytes of its words as one level shows them to its core, where no other part shares only some of those words: its L1, what its cluster holds as its own, its cluster's copies, or the slice. Nothing of the memory, of another warp, of a dirty or registered copy changes. Where the slice forwards no word, the registers take the values, sign-extended for S8 and S16, and the word is complete, or its acquire follows; where it forwards some, the word waits for as many answers, and the last one to arrive gives it its values. It rests on the model's readings of log 30, 88, 96. -/
def Obligations.LoadsReturnWhatTheirLevelShows : Prop :=
  ∀ (s : State) (id : Nat) (o : Op) (i : Instr) (n : BitVec 9), mapGet s.ops id = some o → o.kind = .word i →
    o.poison = 0 → o.clobber = [] → PartsApart o.parts → o.parts ≠ [] →
    ∀ (ty : Ty) (quad : Bool), ((∃ c kind sc m, i = .ld c kind ty sc (.v n) m ∧ quad = (kind == .b128 || kind == .privB128 || kind == .qualB128)) ∨
        ∃ c sc m, i = .ldx c quad ty sc (.v n) m) →
      let far := forwardedTo s o (opLevel s o) (readyLanes s id o)
      let result (v : Nat) : Nat := if quad then v
        else if ty = .s16 ∧ v.testBit 15 then v + 0xFFFF0000
        else if ty = .s8 ∧ v.testBit 7 then v + 0xFFFFFF00
        else v
      let ends (t : State) (V : Nat → Nat) : Prop :=
        (Returned s t o.warp n.toNat (if quad then 4 else ty.regs) o.lanes fun u => result (V u)) ∧
        ((relAcq o).2.1 = false → mapGet t.ops id = none) ∧ ((relAcq o).2.1 = true → ∃ q, mapGet t.ops id = some q ∧ q.phase = .acquiring)
      (s.msg = some (.memoryReply id) → (o.phase = .ready ∨ o.phase = .longPark) → o.acks = 0 →
        (∀ p ∈ o.parts, p.st = .ok ∧ p.ord ≠ 1 ∧ (readyLanes s id o).getLsbD p.lane = true ∧
          (p.priv = true ∨ NotPrivate s (getWarp s o.warp).iface p.va p.n)) →
        ∃ (t : State) (V : Nat → Nat) (K : Part → Nat → Nat), exec .memoryReply s = .next t ∧
          (∀ u, u < 32 → Gathers o.parts u (V u) fun p a => viewByte s o.core (K p (a / 4)) a) ∧
          (PartsAligned o.parts → ∀ p ∈ o.parts, ∀ v ∈ p.words, K p v = readLevel s o.core (if p.priv then 0 else opLevel s o) p.words p.imm) ∧
          t = { s with warps := t.warps, ops := t.ops, l1 := t.l1, cc := t.cc, hostLines := t.hostLines, net := t.net } ∧
          (∀ v, v ≠ o.warp → getWarp t v = getWarp s v) ∧
          (∀ k x, x.dirty = true → (mapGet t.l1 k = some x ↔ mapGet s.l1 k = some x)) ∧ (∀ v, homeRead t v = homeRead s v) ∧
          (far = [] → t.net = s.net ∧ ends t V) ∧
          (far ≠ [] → (getWarp t o.warp).v = (getWarp s o.warp).v ∧
            t.net = s.net ++ far.map (fun r => ⟨chanOf (64 + homeSlice (4 * r.1)) r.2, .redirectionArrive r.2 r.1 id, 0⟩) ∧
            ∃ q, mapGet t.ops id = some q ∧ q.phase = .redirected ∧ q.acks = far.length ∧ q.lanes = o.lanes ∧ ∀ u, u < 32 → gotVal q u = V u)) ∧
      (∀ c v, s.msg = some (.redirectionArrive c v id) → o.phase = .redirected → 0 < o.acks →
        (1 < o.acks → exec .redirectionArrive s = .next { s with ops := mapSet s.ops id { o with acks := o.acks - 1 } }) ∧
        (o.acks = 1 → ∃ t, exec .redirectionArrive s = .next t ∧ ends t (gotVal o) ∧ t = { s with warps := t.warps, ops := t.ops } ∧
          ∀ v, v ≠ o.warp → getWarp t v = getWarp s v))

/-- R201, R239, R244: the reply of ST or STX without a release part, where every lane can be performed, on pages that are not SO. At THREAD, WARP or one core's GROUP scope the bytes are dirty in the core's L1, where its threads see them, memory and every other copy are as before, and the word is complete; R197: a private part whose thread has ended by then leaves nothing. At DEVICE scope and wider each word of HBM is registered in the cluster cache under the core, a push of it goes to its slice, and the word waits for as many acknowledgements as pushes. It rests on the model's readings of log 30, 92. -/
def Obligations.StoresReachTheirLevel : Prop :=
  ∀ (s : State) (id : Nat) (o : Op) (i : Instr), s.msg = some (.memoryReply id) → mapGet s.ops id = some o → o.kind = .word i →
    (o.phase = .ready ∨ o.phase = .longPark) → o.poison = 0 → PartsApart o.parts → (relAcq o).1 = false → o.acks = 0 → o.stamp = none →
    (∀ p ∈ o.parts, p.st = .ok ∧ p.ord ≠ 1 ∧ p.imm = false ∧ (readyLanes s id o).getLsbD p.lane = true ∧ p.pa + p.n ≤ 2 ^ 52 ∧
      NoBreach s p.pa p.n true false ∧ (p.priv = true ∨ NotPrivate s (getWarp s o.warp).iface p.va p.n)) →
    (∃ c kind ty sc d m, i = .st c kind ty sc d m) ∨ (∃ c q ty sc d m, i = .stx c q ty sc d m) →
    let M0 (a : Nat) : Byte := viewByte s o.core (readLevel s o.core 0 [a / 4] false) a
    let live := o.parts.filter fun p => !(p.priv && (threadOf (getWarp s o.warp) p.lane).cond == .ended)
    let M1 := live.foldl (fun M p => putBytes M p.pa p.n p.val.toNat) M0
    (opLevel s o = 0 → ∃ t, exec .memoryReply s = .next t ∧ mapGet t.ops id = none ∧
      (∀ a, viewByte t o.core (readLevel t o.core 0 [a / 4] false) a = M1 a) ∧ t.mem = s.mem ∧ t.owner = s.owner ∧ t.net = s.net ∧
      (∀ a k core, a < 2 ^ 52 → clusterOf core ≠ clusterOf o.core → viewByte t core k a = viewByte s core k a) ∧
      ∀ p ∈ live, ∀ a, p.pa ≤ a → a < p.pa + p.n → ∃ x, mapGet t.l1 (cacheKey o.core (a / 4)) = some x ∧ x.dirty = true) ∧
    (opLevel s o = 2 → (∀ p ∈ o.parts, p.priv = false ∧ p.pa + p.n ≤ Config.hbmTop) → o.parts ≠ [] → ∃ t q, exec .memoryReply s = .next t ∧
      mapGet t.ops id = some q ∧ q.phase = .publishing ∧ q.acks + s.net.length = t.net.length ∧ t.mem = s.mem ∧
      ∀ p ∈ o.parts, ∀ v, p.pa / 4 ≤ v → v ≤ (p.pa + p.n - 1) / 4 →
        (∃ x, mapGet t.cc (cacheKey (clusterOf o.core) v) = some x ∧ x.st = .core o.core ∧
          ∀ k, k < 4 → x.data.extractLsb' (8 * k) 8 = viewByte t o.core 0 (4 * v + k)) ∧
        ∃ f ∈ t.net, ∃ (m : BitVec 16) (push : Nat), f.msg = .pushArrive (clusterOf o.core) o.core (v / 16) m push ∧ m.getLsbD (v % 16) = true ∧
          ∃ r, mapGet t.pushOut push = some r ∧ id ∈ r.waiters)

/-- R249, R277 to R280: an atomic on memory applies its lanes one after the other, in ascending order, each reading what the one before left, at the level of its scope: in the core's L1, in its cluster cache, or at the slice, where the issuing core's dirty words have come first and other clusters' values are recalled. Each lane receives the old value. R286 to R288: the new values of the integer atomics, of the floating-point ones, and of CAS. It rests on the model's readings of log 12, 36. -/
def Obligations.AtomicsApplyLaneByLane : Prop :=
  (∀ (s : State) (id : Nat) (o : Op) (i : Instr) (t : AtomCtl), mapGet s.ops id = some o → o.kind = .word i → atomCtlOf i = some t → t.scratch = false →
     (o.phase = .ready ∨ o.phase = .longPark) → ((relAcq o).1 = true → o.released = true) → o.poison = 0 → o.clobber = [] → PartsApart o.parts → PartsAligned o.parts →
     o.parts ≠ [] →
     (∀ p ∈ o.parts, p.st = .ok ∧ p.ord ≠ 1 ∧ p.imm = false ∧ p.priv = false ∧ p.off = 0 ∧ (readyLanes s id o).getLsbD p.lane = true ∧
       p.pa + p.n ≤ 2 ^ 52 ∧ NoBreach s p.pa p.n true (opLevel s o == 2) ∧ NotPrivate s (getWarp s o.warp).iface p.va p.n) →
     (∀ v, isHost (4 * v) = true → mapGet s.owner v = none) →
     let dst : Option (BitVec 9 × Nat) := match i with
       | .atom _ _ t (some (.v n)) _ | .atomf _ _ t (some (.v n)) _ => if t.nr then none else some (n, t.ty.regs)
       | .cas _ q t (.v n) _ => if t.nr then none else some (n, if q then 4 else t.ty.regs)
       | _ => none
     let done (t : State) (M : Nat → Byte) : Prop :=
       (∀ n k, dst = some (n, k) → ∃ V, Returned s t o.warp n.toNat k o.lanes V ∧
         ∀ j p, o.parts[j]? = some p → V p.lane = ((atomRun i o.parts M).2.getD j 0)) ∧
       (dst = none → (getWarp t o.warp).v = (getWarp s o.warp).v)
     (opLevel s o = 0 → s.msg = some (.memoryReply id) → ∀ K : Nat → Nat, (∀ p ∈ o.parts, ∀ v ∈ p.words, K v = readLevel s o.core 0 p.words false) →
       ∃ t, exec .memoryReply s = .next t ∧
       let M (a : Nat) : Byte := viewByte s o.core (K (a / 4)) a
       done t M ∧ (∀ a, a < 2 ^ 52 → viewByte t o.core (K (a / 4)) a = (atomRun i o.parts M).1 a) ∧ t.mem = s.mem) ∧
     (opLevel s o = 1 → s.msg = some (.atomicApply id) → ∃ t, exec .atomicApply s = .next t ∧
       let M (a : Nat) : Byte := viewByte s o.core 2 a
       done t M ∧ (∀ a, a < 2 ^ 52 → viewByte t o.core 2 a = (atomRun i o.parts M).1 a) ∧ t.mem = s.mem) ∧
     (opLevel s o = 2 → s.msg = some (.atomicApply id) → ∃ t, exec .atomicApply s = .next t ∧
       let M (a : Nat) : Byte := match (mapGet s.l1 (cacheKey o.core (a / 4))).filter fun x => x.dirty && o.parts.any fun p => p.pa / 4 ≤ a / 4 && a / 4 ≤ (p.pa + p.n - 1) / 4 with
         | some x => x.data.extractLsb' (8 * (a % 4)) 8
         | none => devByte s a
       done t M ∧ ∀ a, a < 2 ^ 52 → devByte t a = (atomRun i o.parts M).1 a)) ∧
  (∀ (c : Ctl) (t : AtomCtl) (d : Option Opd) (b : Opd) (old v : Nat),
     (t.ty.isInt = true → let M := 2 ^ tyBits t.ty
       old < M → v < M →
       let new (op : AtomOp) := atomNew (.atom c op t d b) old v 0
       new .add = (old + v) % M ∧ (new .sub + v) % M = old ∧ new .sub < M ∧ new .exch = v ∧
       intVal t.ty (new .min) = min (intVal t.ty old) (intVal t.ty v) ∧ intVal t.ty (new .max) = max (intVal t.ty old) (intVal t.ty v) ∧
       (∀ j, (new .and).testBit j = (old.testBit j && v.testBit j) ∧ (new .or).testBit j = (old.testBit j || v.testBit j) ∧
         (new .xor).testBit j = (old.testBit j ^^ v.testBit j)) ∧
       new .inc = (if v ≤ old then 0 else old + 1) ∧ new .dec = if old = 0 ∨ v < old then v else old - 1) ∧
     (t.ty.isFloatOrPair = true ∨ t.ty = .f32x2 → let f := fmtOf t.ty
       ∀ e, e < elemCount t.ty → ∃ cd, FloatSum f .rn false (elemBits t.ty old e) (elemBits t.ty v e)
         (elemBits t.ty (atomNew (.atomf c .add t d b) old v 0) e) cd) ∧
     ∀ q o cmp, atomNew (.cas c q t o b) old v cmp = if old = cmp then v else old)

/-- R192 to R194: a request that was refused for want of an entry is walked again; a long park is a blocking point; RESOLVE walks what is parked on the span of its record again and frees its entries; DENY gives those requests an error, so that a lane of a load traps ACCESS. It rests on the model's readings of log 32, 89. -/
def Obligations.ParkedAccessesComeBack : Prop :=
  ∀ (s : State) (id : Nat) (o : Op), mapGet s.ops id = some o →
    (s.msg = some (.loadParkTimeout id) → plainLoad o.kind = true → longParked s o = true → o.phase = .ready →
      exec .loadParkTimeout s = .next { s with ops := mapSet s.ops id { o with phase := .longPark } }) ∧
    (∀ i ty sc d m c, i = Instr.ld c .plain ty sc d m → o.kind = .word i → NoStale s (getWarp s o.warp).iface → o.core = (getWarp s o.warp).core →
      (s.msg = some (.parkTableRetry id) → ∀ (pa : Nat → Nat) (e : Nat → DWord),
        (∀ p ∈ o.parts, (∃ t, p.st = .retry t ∧ t ≤ s.gtime) ∧ p.va < 2 ^ 48 ∧ p.priv = false ∧ Allows s o.warp { r := true } p.va (pa p.va) (e p.va)) →
        ∃ q tl, exec .parkTableRetry s = .next { s with ops := mapSet s.ops id q, tlb := tl } ∧ q.phase = o.phase ∧ q.lanes = o.lanes ∧
          q.parts = o.parts.map fun p => { p with
            pa := pa p.va, st := .ok, ord := ((e p.va).extractLsb' 5 2).toNat, imm := (e p.va).getLsbD 7, olact := ((e p.va).extractLsb' 9 2).toNat }) ∧
      ∀ iface quad entry k, (getWarp s o.warp).iface = iface → quadOf o.core = quad → mapGet s.parks (quad * 8192 + entry) = some k → k.iface = iface →
        k.op = some id → entry < 8192 → (∀ f ∈ s.parks, f.1 / 8192 = quad → f.2.iface = iface → f.2.page = k.page → f = (quad * 8192 + entry, k)) →
        (∀ p ∈ o.parts, p.st = .parked entry ∧ p.va / 4096 = k.page ∧ p.priv = false ∧ p.va < 2 ^ 48) → mapWf s.parks = true → o.phase ≠ .longPark →
        (s.msg = some (.frespResolve iface quad entry) → ∀ (pa : Nat → Nat) (e : Nat → DWord),
          (∀ p ∈ o.parts, needOk { r := true } (e p.va) = true ∧ ∃ a b, walkFrom s p.va 3 (getIface s iface).ptroot.toNat = .ok (pa p.va) (e p.va) a b) →
          ∃ q tl, exec .frespResolve s
              = .next { s with ops := mapSet s.ops id q, tlb := tl, parks := mapErase s.parks (quad * 8192 + entry) } ∧
            q.parts = o.parts.map fun p => { p with
              pa := pa p.va, st := .replay k.order, ord := ((e p.va).extractLsb' 5 2).toNat, imm := (e p.va).getLsbD 7, olact := ((e p.va).extractLsb' 9 2).toNat }) ∧
        (s.msg = some (.frespDeny iface quad entry) → (getWarp s o.warp).resident = true → o.parts ≠ [] →
          (∀ u, u < 32 → o.lanes.getLsbD u = true → ∃ p ∈ o.parts, p.lane = u) → (∀ p ∈ o.parts, p.lane < 32) →
          ∃ t ts, exec .frespDeny s = .next (deliver t o.warp o.pc ts) ∧ mapGet t.ops id = none ∧ (∀ f ∈ t.parks, f.2.op ≠ some id) ∧
            ∀ u, (∃ x ∈ ts, x.lane = u) ↔ u < 32 ∧ (∃ p ∈ o.parts, p.lane = u) ∧ condAt s o.warp u ≠ .ended))

/-! ### Registration (R242 to R252) -/

/-- R245, R248: a push registers the words that its cluster still holds to that cluster at once, whoever owned them; each other owner receives one revoke for its words, and the push is acknowledged with the slice's time when none is outstanding; an acknowledgement lowers the count of each word that waits for the push and raises its stamp. R250, R251: a revoke drops the words that its cluster holds as its own, but for those with a push on the way and those that the slice records for it again, and is acknowledged; where none of the dropped words was Reg-cluster-dirty, nothing else changes. -/
def Obligations.PushesRegisterAndRevoke : Prop :=
  (∀ (s : State) (c core sector push : Nat) (mask : BitVec 16), sector < 2 ^ 46 →
     let home := homeSlice (64 * sector)
     let ack : Flight := ⟨none, .pushAck push (sliceTime s home), 0⟩
     let kept (v : Nat) : Prop := v / 16 = sector ∧ mask.getLsbD (v % 16) = true ∧ (clusterHolds s c v).isSome = true
     let owns (b : Nat) (j : Nat) : Prop := j < 16 ∧ kept (16 * sector + j) ∧ mapGet s.owner (16 * sector + j) = some b
     (s.msg = some (.pushArrive c core sector mask push) → ∃ t, exec .pushArrive s = .next t ∧
       t = { s with owner := t.owner, net := t.net, pushWaits := t.pushWaits, hostHeld := t.hostHeld, granted := t.granted } ∧
       (∀ v, (kept v → mapGet t.owner v = some c) ∧ (¬ kept v → mapGet t.owner v = mapGet s.owner v)) ∧
       (∀ l, l ∈ t.hostHeld ↔ l ∈ s.hostHeld ∧ ¬ (l = sector ∧ ∃ v, kept v)) ∧
       ((∀ b j, owns b j → b = c) → t.net = s.net ++ [ack] ∧ t.pushWaits = s.pushWaits) ∧
       ((∃ b j, owns b j ∧ b ≠ c) → ∃ new, t.net = s.net ++ new ∧ t.pushWaits = s.pushWaits ++ [⟨push, sector, new.length⟩] ∧ new.Nodup ∧
         ∀ f, f ∈ new ↔ ∃ b m, f = ⟨chanOf (64 + home) b, .revokeArrive b c sector m push, 0⟩ ∧ b ≠ c ∧ (∃ j, owns b j) ∧
           ∀ j, j < 16 → (m.getLsbD j = true ↔ owns b j))) ∧
     (∀ p, s.msg = some (.revokeAck sector mask push) → s.pushWaits.find? (fun p => p.push == push) = some p →
       ∃ t, exec .revokeAck s = .next t ∧ t = { s with net := t.net, pushWaits := t.pushWaits } ∧
         (p.left ≤ 1 → t.net = s.net ++ [ack] ∧ t.pushWaits = s.pushWaits.erase p) ∧
         (1 < p.left → t.net = s.net ∧ t.pushWaits = ⟨push, sector, p.left - 1⟩ :: s.pushWaits.erase p)) ∧
     (∀ p stamp, s.msg = some (.pushAck push stamp) → mapGet s.pushOut push = some p → ∃ t, exec .pushAck s = .next t ∧
       t = { s with ops := t.ops, copies := t.copies, launches := t.launches, pushOut := mapErase s.pushOut push } ∧
       ∀ id o, mapGet s.ops id = some o →
         mapGet t.ops id = some { o with acks := o.acks - p.waiters.count id, stamp := if id ∈ p.waiters then laterStamp o.stamp stamp else o.stamp })) ∧
  (∀ (s : State) (c pusher sector push : Nat) (mask : BitVec 16), s.msg = some (.revokeArrive c pusher sector mask push) → sector < 2 ^ 46 →
    let hit (v : Nat) : Prop := v / 16 = sector ∧ mask.getLsbD (v % 16) = true ∧ pushPending s c v = false ∧ mapGet s.owner v ≠ some c ∧
      ∃ x, mapGet s.cc (cacheKey c v) = some x ∧ ∀ st, x.st ≠ .valid st
    ∃ t, exec .revokeArrive s = .next t ∧ t.mem = s.mem ∧ t.l1 = s.l1 ∧ t.owner = s.owner ∧
      t.net = s.net ++ [⟨chanOf c (64 + homeSlice (64 * sector)), .revokeAck sector mask push, 0⟩] ∧
      (∀ k, k / 2 ^ 50 ≠ c → mapGet t.cc k = mapGet s.cc k) ∧
      (∀ v, v < 2 ^ 50 → (hit v → mapGet t.cc (cacheKey c v) = none) ∧ (¬ hit v → mapGet t.cc (cacheKey c v) = mapGet s.cc (cacheKey c v))) ∧
      ((∀ v x, hit v → mapGet s.cc (cacheKey c v) = some x → x.st ≠ .dirty) → t = { s with cc := t.cc, net := t.net }) ∧
      ∀ v x, hit v → mapGet s.cc (cacheKey c v) = some x → x.st = .dirty → (mapGetD s.sectorMod (cacheKey c sector) x.tag).olact = 1 →
        (∀ u y, hit u → mapGet s.cc (cacheKey c u) = some y → y.st = .dirty → u = v) →
        (getIface t x.tag.iface).olcount.toNat = min ((getIface s x.tag.iface).olcount.toNat + 1) 0xFFFFFFFF)

/-- R246, R247, R238: a cluster eviction drops unmodified words and writes its own back through the buffer; the slice stores a write-back from the recorded owner, or to a Home word, discards any other, and says which; the acknowledgement frees the buffer. A recall brings the owner's value home and loses nothing. An L1 eviction leaves a modified word Reg-cluster-dirty. It rests on the model's readings of log 38, 90. -/
def Obligations.EvictionsAndRecallsLoseNothing : Prop :=
  ∀ (s : State) (c sector : Nat) (mask : BitVec 16), sector < 2 ^ 46 →
    let in_ (v : Nat) : Prop := v / 16 = sector ∧ mask.getLsbD (v % 16) = true
    (s.msg = some (.recall sector mask) → ∃ t, exec .recall s = .next t ∧ t.l1 = s.l1 ∧ (∀ v, v < 2 ^ 50 → (homeRead t v).1 = (homeRead s v).1) ∧
      (∀ v, in_ v → mapGet t.owner v = none) ∧ ∀ v, ¬ in_ v → mapGet t.owner v = mapGet s.owner v) ∧
    (s.msg = some (.clusterEvict c sector mask) → (∀ v, in_ v → mapGet s.wbuf (cacheKey c v) = none) → ∃ t, exec .clusterEvict s = .next t ∧ t.mem = s.mem ∧
      t.owner = s.owner ∧ t.l1 = s.l1 ∧ (∀ v, v < 2 ^ 50 → (homeRead t v).1 = (homeRead s v).1) ∧ ∀ v, in_ v → mapGet t.cc (cacheKey c v) = none ∧
        ∀ x, mapGet s.cc (cacheKey c v) = some x → (∀ st, x.st ≠ .valid st) → mapGet t.wbuf (cacheKey c v) = some ⟨s.next, x⟩ ∧
          ∃ m : BitVec 16, m.getLsbD (v % 16) = true ∧ ⟨chanOf c (64 + homeSlice (64 * sector)), .writebackArrive c sector m s.next, 0⟩ ∈ t.net) ∧
    (∀ id, s.msg = some (.writebackArrive c sector mask id) → ∃ t m, exec .writebackArrive s = .next t ∧
      t = { s with
        mem := t.mem, owner := t.owner, errors := t.errors, hostHeld := t.hostHeld, granted := t.granted
        net := s.net ++ [⟨chanOf (64 + homeSlice (64 * sector)) c, .writebackAck c sector m id (sliceTime s (homeSlice (64 * sector))), 0⟩] } ∧
      ∀ v, (in_ v → ∀ b, mapGet s.wbuf (cacheKey c v) = some b → b.id = id →
          (mapGet s.owner v = none ∨ mapGet s.owner v = some c → m.getLsbD (v % 16) = true ∧ memWord t v = b.word.data ∧ mapGet t.owner v = none) ∧
          (∀ d, d ≠ c → mapGet s.owner v = some d → m.getLsbD (v % 16) = false ∧ memWord t v = memWord s v ∧ mapGet t.owner v = some d)) ∧
        (¬ in_ v → memWord t v = memWord s v ∧ mapGet t.owner v = mapGet s.owner v)) ∧
    (∀ id stored stamp, s.msg = some (.writebackAck c sector stored id stamp) →
      (∀ v b, v / 16 = sector → mapGet s.wbuf (cacheKey c v) = some b → b.id = id → b.word.st = .dirty → stored.getLsbD (v % 16) = true) →
      ∃ t, exec .writebackAck s = .next t ∧
        t = { s with wbuf := t.wbuf, pushOut := t.pushOut, ops := t.ops, copies := t.copies, launches := t.launches } ∧ mapGet t.pushOut id = none ∧
        (∀ v, v / 16 = sector → (mapGet s.wbuf (cacheKey c v)).any (·.id == id) = true → mapGet t.wbuf (cacheKey c v) = none) ∧
        ∀ v, v < 2 ^ 50 → (v / 16 ≠ sector ∨ (mapGet s.wbuf (cacheKey c v)).any (·.id == id) = false) →
          mapGet t.wbuf (cacheKey c v) = mapGet s.wbuf (cacheKey c v)) ∧
    (∀ core, s.msg = some (.l1Evict core sector mask) → ∃ t, exec .l1Evict s = .next t ∧ t = { s with l1 := t.l1, cc := t.cc, sectorMod := t.sectorMod } ∧
      ∀ v, in_ v → mapGet t.l1 (cacheKey core v) = none ∧ ∀ x, mapGet s.l1 (cacheKey core v) = some x → x.dirty = true →
        ∃ y, mapGet t.cc (cacheKey (clusterOf core) v) = some y ∧ y.data = x.data ∧ y.st = .dirty ∧ y.tag = x.tag)

/-! ### The scratchpad, sleep -/

/-- R230, R231, R285: LDS, STS, LMARK.Q and the scratchpad atomics check each lane, trap those that fail and ask for the others; LMARK.EMPTY and LMARK.FULL check their lines once for the set, change none where a check fails, and do nothing for no lines. It rests on the model's readings of log 27. -/
def Obligations.ScratchWordsCheckEachLane : Prop :=
  ∀ (s : State) (c : Ctl) (w : Nat) (set act : Lanes), Issues s c w set act →
    let u := advance s w set
    let i0 := issueAt s w set act
    (∀ quad fill ty d m,
      let z := if quad then 16 else ty.size
      let A := effAddr s w (getWarp s w) m 32
      ScratchRequests s w set act c (.lds c quad ty d m) z false A (fun _ => 0) (fun _ => 0) ∧
      ScratchRequests s w set act c (.sts c quad fill ty d m) z true A (reads s w d (if quad then 4 else ty.regs)) (fun _ => 0)) ∧
    (∀ d a, ScratchRequests s w set act c (.lmarkQ c d a) 1 false (reads s w a 1) (fun _ => 0) (fun _ => 0)) ∧
    (∀ (t : AtomCtl) b, t.scratch = true → Grants s w t.scope →
      let A (v : Nat) : Nat := (((reads s w t.base 1 v : Int) + t.off.toInt) % 2 ^ 32).toNat
      (∀ d op fop,
        ScratchRequests s w set act c (.atom c op t d b) t.ty.size true A (reads s w b t.ty.regs) (fun _ => 0) ∧
        ScratchRequests s w set act c (.atomf c fop t d b) t.ty.size true A (reads s w b t.ty.regs) (fun _ => 0)) ∧
      ∀ quad d, let k := if quad then 4 else t.ty.regs
        ScratchRequests s w set act c (.cas c quad t d b) (if quad then 16 else t.ty.size) true A (reads s w b k) (reads s w d k)) ∧
    ∀ (full : Bool) a b,
      let i := if full then Instr.lmarkFull c a b else .lmarkEmpty c a b
      let start := readsOnce s w act a 1
      let n := readsOnce s w act b 1
      let bar (l : Nat) : Prop := (lineOf (homeGroup s w) (homeHalf s w) l).bar = true
      (start % 128 ≠ 0 → exec i s = .next (trapSet u i0 causeAlign 0 start)) ∧
      (start % 128 = 0 → n = 0 → exec i s = .next u) ∧
      (start % 128 = 0 → n ≠ 0 → homeSize s w < start + 128 * n → exec i s = .next (trapSet u i0 causeAccess 0 start)) ∧
      (start % 128 = 0 → start + 128 * n ≤ homeSize s w →
        (∀ l, start / 128 ≤ l → l < start / 128 + n → bar l → (∀ k, start / 128 ≤ k → k < l → ¬ bar k) →
          exec i s = .next (trapSet u i0 causeBarclobber 0 (128 * l))) ∧
        ((∀ l, start / 128 ≤ l → l < start / 128 + n → ¬ bar l) →
          n ≠ 0 → ∃ o, exec i s = .next (newOp u o) ∧ o.warp = w ∧ o.kind = .word i ∧ o.cf = setOf c ∧ o.phase = .ready ∧
            o.parts.map (fun p => (p.va, p.n)) = [(start, 128 * n)]))

/-- R211 to R213, R230, R231, R285: what a scratchpad word does when it is performed, nothing of its warp being in the way. LDS returns the bytes of its full lines and waits where they are empty; LINE_FILL_WAKE ends that wait. STS writes its bytes, the highest lane last, and `.FILL` fills its lines. An atomic applies its lanes in ascending order. LMARK sets FULL of its lines that are no barriers, or shows a line's two marks. It rests on the model's readings of log 50. -/
def Obligations.ScratchWordsActOnTheirLines : Prop :=
  ∀ (s : State) (id : Nat) (o : Op) (i : Instr), mapGet s.ops id = some o → o.kind = .word i → o.poison = 0 → o.clobber = [] →
    let gi := (getWarp s o.warp).group
    let h := homeHalf s o.warp
    let M (a : Nat) : Byte := scratchAt s gi h a
    let line (n : Nat) : Line := lineOf (getGroup s gi) h n
    (s.msg = some (.memoryReply id) → o.phase = .ready → portHeld s id o = false → o.parts ≠ [] → (∀ e ∈ s.ops, e.2.phase ≠ .lines) →
      (∀ p ∈ o.parts, (scrOpen s id o).getLsbD p.lane = true ∧ p.st = .ok ∧ p.off = 0 ∧ 0 < p.n ∧ p.lane < 32 ∧ p.va + p.n ≤ 2 ^ 20 ∧
        ∀ l, p.va / 128 ≤ l → l ≤ (p.va + p.n - 1) / 128 → lineHeld s id o l = false) →
      (o.parts.map (·.lane)).Nodup →
      (∀ c quad ty n m, i = .lds c quad ty (.v n) m → (∀ p ∈ o.parts, p.n ≤ 16) →
        ((∀ p ∈ o.parts, (line (p.va / 128)).full = true) → ∃ (t : State) (V : Nat → Nat), exec .memoryReply s = .next t ∧ mapGet t.ops id = none ∧
          (∀ a, scratchAt t gi h a = M a) ∧ t.mem = s.mem ∧
          (∀ p ∈ o.parts, V p.lane = memNat M p.va p.n) ∧
          Returned s t o.warp n.toNat (if quad then 4 else ty.regs) o.lanes fun u =>
            if ty = .s16 ∧ quad = false ∧ (V u).testBit 15 then V u + 0xFFFF0000
            else if ty = .s8 ∧ quad = false ∧ (V u).testBit 7 then V u + 0xFFFFFF00
            else V u) ∧
        ((∀ p ∈ o.parts, (line (p.va / 128)).full = false) → ∃ t, exec .memoryReply s = .next t ∧
          mapGet t.ops id = some { o with phase := .lines } ∧ t.warps = s.warps ∧ ∀ a, scratchAt t gi h a = M a)) ∧
      (∀ c quad fill ty d m, i = .sts c quad fill ty d m → (∀ e ∈ s.copies, unfinished e.2 = false) → (∀ l, (line l).bar = false) →
        (∀ p ∈ o.parts, p.n ≤ 16 ∧ p.va % 128 + p.n ≤ 128) →
        ∃ t, exec .memoryReply s = .next t ∧ mapGet t.ops id = none ∧ t.mem = s.mem ∧
          (∀ a, a < 2 ^ 20 → scratchAt t gi h a = o.parts.foldl (fun M p => putBytes M p.va p.n p.val.toNat) M a) ∧
          ∀ l, l < 2 ^ 13 → lineOf (getGroup t gi) h l = if fill = true ∧ ∃ p ∈ o.parts, p.va / 128 = l then { line l with full := true } else line l) ∧
      (∀ a, atomCtlOf i = some a → a.scratch = true → ((relAcq o).1 = true → o.released = true) → (∀ e ∈ s.copies, unfinished e.2 = false) →
        (∀ l, (line l).bar = false) → (∀ p ∈ o.parts, p.n ≤ 16 ∧ p.pa = 2 ^ 60 + p.va ∧ (line (p.va / 128)).full = true) →
        let W (b : Nat) : Byte := M (b - 2 ^ 60)
        let dst : Option (BitVec 9 × Nat) := match i with
          | .atom _ _ t (some (.v n)) _ | .atomf _ _ t (some (.v n)) _ => if t.nr then none else some (n, t.ty.regs)
          | .cas _ q t (.v n) _ => if t.nr then none else some (n, if q then 4 else t.ty.regs)
          | _ => none
        ((∃ c op t d b, i = .atom c op t d b) ∨ (∃ c op t d b, i = .atomf c op t d b) ∨ ∃ c q t n b, i = .cas c q t (.v n) b) →
        ∃ t, exec .memoryReply s = .next t ∧
          (∀ a, a < 2 ^ 20 → scratchAt t gi h a = (atomRun i o.parts W).1 (2 ^ 60 + a)) ∧
          (dst = none → (getWarp t o.warp).v = (getWarp s o.warp).v) ∧
          ∀ n k, dst = some (n, k) → ∃ V, Returned s t o.warp n.toNat k o.lanes V ∧
            ∀ j p, o.parts[j]? = some p → V p.lane = ((atomRun i o.parts W).2.getD j 0)) ∧
      (∀ c a b (full : Bool), i = (if full then Instr.lmarkFull c a b else .lmarkEmpty c a b) → o.parts.length = 1 →
        ∃ t, exec .memoryReply s = .next t ∧ mapGet t.ops id = none ∧ (∀ a, scratchAt t gi h a = M a) ∧
          ∀ l, l < 2 ^ 13 → lineOf (getGroup t gi) h l
            = if (∃ p ∈ o.parts, p.va / 128 ≤ l ∧ l ≤ (p.va + p.n - 1) / 128) ∧ (line l).bar = false then { line l with full := full } else line l) ∧
      (∀ c n a, i = .lmarkQ c (.v n) a → (∀ p ∈ o.parts, p.n = 1) → ∃ (t : State) (V : Nat → Nat), exec .memoryReply s = .next t ∧ mapGet t.ops id = none ∧
        Returned s t o.warp n.toNat 1 o.lanes V ∧
        ∀ p ∈ o.parts, V p.lane = (line (p.va / 128)).full.toNat + 2 * (line (p.va / 128)).bar.toNat)) ∧
    (∀ c ty n m l, i = .lds c false ty (.v n) m → ty ∈ [Ty.u8, .u16, .u32, .u64] → s.msg = some (.lineFillWake gi h l) → lineWaiters s gi h = [id] →
      (∀ p ∈ o.parts, p.st = .done ∧ p.off = 0) → (o.parts.map (·.lane)).Nodup →
      ∃ (t : State) (V : Nat → Nat), exec .lineFillWake s = .next t ∧ mapGet t.ops id = none ∧ t.groups = s.groups ∧
        Returned s t o.warp n.toNat ty.regs o.lanes V ∧ ∀ p ∈ o.parts, V p.lane = p.got.toNat)

/-- R237, R103: SLEEPT checks its time and its line at issue, with no effect where a check fails, and its active threads then wait; SLEEP_WAKE lets a set go on at the next word when its time has come, with its line's FULL bit in its predicate, or a LATE trap where the line is empty. YIELD_EXPIRE lets yielding threads go on. It rests on the model's readings of log 27. -/
def Obligations.SleepersWakeAtTheirTime : Prop :=
  (∀ (s : State) (c : Ctl) (w : Nat) (set act : Lanes) (a b : Opd) (n : Fin 8), Issues s c w set act →
    let u := advance s w set
    let i0 := issueAt s w set act
    let time := readsOnce s w act a 2
    let line := readsOnce s w act b 1
    let rests (l : Option Nat) (d : Option Nat) (late : Bool) : State := setCond u w act (fun _ => .waiting (.sleep time l d late)) (i0.pc + 12)
    (coreTime s (getWarp s w).core + 2 ^ 34 < time →
      ∀ i ∈ [Instr.sleept c a, .sleeptP c (.p n) a b, .sleeptT c a b], exec i s = .next (trapSet u i0 causeOperand)) ∧
    (time ≤ coreTime s (getWarp s w).core + 2 ^ 34 →
      exec (.sleept c a) s = .next (rests none none false) ∧
      (homeSize s w ≤ line → ∀ i ∈ [Instr.sleeptP c (.p n) a b, .sleeptT c a b], exec i s = .next (trapSet u i0 causeAccess 0 line)) ∧
      (line < homeSize s w →
        exec (.sleeptP c (.p n) a b) s = .next (rests (some line) (some n.val) false) ∧
        exec (.sleeptT c a b) s = .next (rests (some line) none true)))) ∧
  (∀ (s : State) (w : Nat) (lanes : Lanes) (time : Nat) (line d : Option Nat) (late : Bool), s.msg = some (.sleepWake w lanes) →
    let x := getWarp s w
    let k := Wait.sleep time line d late
    let m := waiting x (· == k)
    let pc (u : Nat) : DWord := pcAt s w u
    let full : Bool := match line with
      | some a => (lineOf (homeGroup s w) (homeHalf s w) (a / 128)).full
      | none => true
    m &&& lanes ≠ 0 → time ≤ coreTime s x.core → (∀ th ∈ x.threads, ∀ a b c d, th.cond = .waiting (.sleep a b c d) → th.cond = .waiting k) →
    (late = true → d = none) → (line = none → d = none) →
    (late = true → full = false → ∀ a, line = some a →
      exec .sleepWake s = .next (deliver s w (pc (lowLane m)) ((laneList m).map fun u => { lane := u, cause := causeLate, addr := a }))) ∧
    ((late = false ∨ full = true) → d = none → exec .sleepWake s = .next (wake s w m pc)) ∧
    ∀ n, d = some n → exec .sleepWake s = .next (wake (putP s w 0 n m fun _ => full) w m pc)) ∧
  ∀ (s : State) (w : Nat) (lanes : Lanes), s.msg = some (.yieldExpire w lanes) →
    ∃ m : Lanes, exec .yieldExpire s = .next (wake s w m (pcAt s w)) ∧
      ∀ u, u < 32 → (m.getLsbD u = true ↔ lanes.getLsbD u = true ∧ u < (getWarp s w).threads.length ∧ ∃ k, condAt s w u = .waiting (.yield k))

/-! ### Barriers, events, mailboxes -/

/-- R290, R302 to R304: a barrier or mailbox word traps where its line is misaligned, outside the allotment, or holds no such object. BARINIT makes a full line that is no object a barrier, with its count; BARINIT.INVAL ends one, and its waiting threads go on. BARARR and BAREXP stand at their line with what they add; BARWAIT begins its acquire where its phase has passed, and waits where it has not. R294: a phase has passed where it lies 1 to 2^31 − 1 behind. R293, R303, R304: an arrival, when its release is made and nothing of its warp is before it on the line, adds its count and bytes as one step, gives its lanes the phase that it joined, and passes the phase where the arrivals and bytes are all there; threads that wait for a phase then passed begin their acquire. An acquire that acts gives the waiting lanes a true predicate, and they go on. BARINIT is then complete. It rests on the model's readings of log 51. -/
def Obligations.BarriersCheckAndPassPhases : Prop :=
  (∀ (s : State) (c : Ctl) (w : Nat) (set act : Lanes) (a b : Opd) (sc : Scope), Issues s c w set act → Grants s w sc →
     let u := advance s w set
     let i0 := issueAt s w set act
     let A := readsOnce s w act a 1
     let n := A / 128
     let gi := (getWarp s w).group
     let g := homeGroup s w
     let h := homeHalf s w
     let l := lineOf g h n
     let free : Prop := NotHeld s w act [n]
     (∀ (e : Opd) (d : Option Opd) (q : Bool) (m : BitVec 3),
       ∀ p ∈ [(Instr.barinitInval c a, 1, true), (.bararr c q sc d a, 1, false), (.barexp c q sc d a b, 1, false), (.barwait c sc e a b, 1, false),
           (.mbxinitFree c a, 2, true), (.mbxpop c sc m e a, 2, false)],
         (A % 128 ≠ 0 → exec p.1 s = .next (trapSet u i0 causeAlign 0 A)) ∧
         (A % 128 = 0 → homeSize s w < A + 128 → exec p.1 s = .next (trapSet u i0 causeAccess 0 A)) ∧
         (A % 128 = 0 → A + 128 ≤ homeSize s w → lineKind g h n ≠ p.2.1 → (p.2.2 = true → free) → exec p.1 s = .next (trapSet u i0 causeOperand))) ∧
     (A % 128 = 0 → A + 128 ≤ homeSize s w → ¬ free → readsOnce s w act b 1 ≠ 0 → readsOnce s w act b 1 < 2 ^ 24 →
       ∀ i ∈ [Instr.barinit c a b, .barinitInval c a, .mbxinitFree c a], ∃ o, exec i s = .next (newOp u o) ∧ o.warp = w ∧ o.kind = .word i ∧
         o.cf = setOf c ∧ o.lanes = act ∧ allDone o = false) ∧
     (A % 128 = 0 → A + 128 ≤ homeSize s w →
       (let count := readsOnce s w act b 1;
         (((free ∧ (l.bar = true ∨ l.full = false)) ∨ count = 0 ∨ 2 ^ 24 ≤ count) → exec (.barinit c a b) s = .next (trapSet u i0 causeOperand)) ∧
         (free → l.bar = false → l.full = true → count ≠ 0 → count < 2 ^ 24 → ∃ g1 o, exec (.barinit c a b) s = .next (newOp (setGroup u gi g1) o) ∧
           o.warp = w ∧ o.kind = .word (.barinit c a b) ∧ o.cf = setOf c ∧ allDone o = true ∧ g1 = { g with scratch := g1.scratch, lines := g1.lines } ∧
           lineOf g1 h n = { l with full := true, bar := true, inval := false } ∧ scrNat g1 h (128 * n + 4) 3 = count ∧ scrByte g1 h (128 * n + 0x7C) = 1 ∧
           (∀ j, j < 128 → j ∉ [4, 5, 6, 0x7C] → scrByte g1 h (128 * n + j) = 0) ∧
           (∀ k, k < 2 ^ 13 → k ≠ n → lineOf g1 h k = lineOf g h k) ∧ ∀ k, k < 2 ^ 20 → k / 128 ≠ n → scrByte g1 h k = scrByte g h k)) ∧
       (lineKind g h n = 1 →
         (∀ q d, ∃ o, exec (.bararr c q sc d a) s = .next (newOp u o) ∧ o.warp = w ∧ o.kind = .word (.bararr c q sc d a) ∧ o.lanes = act ∧
           o.cf = setOf c ∧ o.scope = sc ∧ o.phase = .ready ∧ o.released = false ∧ o.args = [n, if q then (laneList act).length else 1, 0]) ∧
         (∀ q d, ∃ o, exec (.barexp c q sc d a b) s = .next (newOp u o) ∧ o.warp = w ∧ o.kind = .word (.barexp c q sc d a b) ∧ o.lanes = act ∧
           o.cf = setOf c ∧ o.scope = sc ∧ o.phase = .ready ∧ o.released = false ∧ o.args = [n, if q then 1 else 0, readsOnce s w act b 1]) ∧
         (let p := readsOnce s w act b 1; ∀ d : Fin 8,
           (phasePassed (barPhase g h n) p = false →
             exec (.barwait c sc (.p d) a b) s = .next (setCond u w act (fun _ => .waiting (.barrier n p sc d.val)) (i0.pc + 12))) ∧
           (phasePassed (barPhase g h n) p = true → ∃ t q, exec (.barwait c sc (.p d) a b) s = .next t ∧
             mapGet t.ops s.next = some q ∧ q.warp = w ∧ q.phase = .acquiring ∧ q.scope = sc ∧ q.args = [d.val] ∧
             ∀ v, v < (getWarp s w).threads.length → act.getLsbD v = true → condAt t w v = .waiting (.barAcquire s.next))) ∧
         ((∃ e ∈ s.copies, e.2.group = gi ∧ e.2.half = h ∧ e.2.node = none ∧ unfinished e.2 = true ∧ e.2.bar = some n) → free →
           exec (.barinitInval c a) s = .next (trapSet u i0 causeOperand)) ∧
         ((∀ e ∈ s.copies, e.2.bar ≠ some n) → free → ∃ t o, exec (.barinitInval c a) s = .next t ∧ mapGet t.ops s.next = some o ∧
           o.kind = .word (.barinitInval c a) ∧ o.warp = w ∧ o.cf = setOf c ∧ allDone o = true ∧
           lineOf (getGroup t gi) h n = { l with bar := false, inval := true } ∧ (∀ j, j < 128 → scratchAt t gi h (128 * n + j) = 0) ∧
           (∀ k, k < 2 ^ 20 → k / 128 ≠ n → scratchAt t gi h k = scratchAt s gi h k) ∧
           ∀ v e p q d, (mapGet s.warps v).isSome → (getWarp s v).group = gi → homeHalf s v = h → (getWarp s v).resident = true → v ≠ w →
             e < 32 → e < (getWarp s v).threads.length → condAt s v e = .waiting (.barrier n p q d) → condAt t v e = .ready ∧ pcAt t v e = pcAt s v e)))) ∧
  ((∀ phase p, phase < 2 ^ 32 → p < 2 ^ 32 →
     (phasePassed phase p = true ↔ ∃ k, 1 ≤ k ∧ k ≤ 2 ^ 31 - 1 ∧ (p + k) % 2 ^ 32 = phase)) ∧
   ∀ (s : State) (id : Nat) (o : Op) (i : Instr), s.msg = some (.memoryReply id) → mapGet s.ops id = some o → o.kind = .word i → o.clobber = [] →
     (∀ p ∈ o.parts, p.st = .ok ∨ p.st = .done) → o.phase = .ready ∨ o.phase = .acquiring →
     let gi := (getWarp s o.warp).group
     let h := homeHalf s o.warp
     (∀ n cnt bytes, o.args = [n, cnt, bytes] → o.phase = .ready → ((relAcq o).1 = true → o.released = true) → portHeld s id o = false →
       lineHeld s id o n = false → id < s.next → lineKind (getGroup s gi) h n = 1 →
       ∀ d, (∃ c q sc a, i = .bararr c q sc d a) ∨ (∃ c q sc a b, i = .barexp c q sc d a b) →
         let F (t : State) (off len : Nat) : Nat := scrNat (getGroup t gi) h (128 * n + off) len
         let arrived := min (F s 8 3 + cnt) 0xFFFFFF
         let bytesX := (F s 0x10 8 + bytes) % 2 ^ 64
         let pass := F s 4 3 ≤ arrived ∧ bytesX ≤ F s 0x18 8
         ∃ t, exec .memoryReply s = .next t ∧ mapGet t.ops id = none ∧ t.mem = s.mem ∧
           (pass → F t 0 4 = (F s 0 4 + 1) % 2 ^ 32 ∧ F t 8 3 = 0 ∧ F t 0x10 8 = 0 ∧ F t 0x18 8 = 0 ∧ F t 0x20 2 = 0 ∧ F t 0x22 2 = F s 0x20 2) ∧
           (¬ pass → F t 0 4 = F s 0 4 ∧ F t 8 3 = arrived ∧ F t 0x10 8 = bytesX ∧ F t 0x18 8 = F s 0x18 8 ∧ F t 0x20 4 = F s 0x20 4) ∧
           F t 4 3 = F s 4 3 ∧ F t 0x7C 1 = 1 ∧ (∀ k, k < 2 ^ 20 → k / 128 ≠ n → scratchAt t gi h k = scratchAt s gi h k) ∧
           (∀ r, d = some (.v r) → Returned s t o.warp r.toNat 1 o.lanes fun _ => F s 0 4) ∧
           (d = none → (getWarp t o.warp).v = (getWarp s o.warp).v) ∧
           (pass → ∀ v e p q k, (mapGet s.warps v).isSome → (getWarp s v).group = gi → homeHalf s v = h → (getWarp s v).resident = true →
             e < 32 → e < (getWarp s v).threads.length → condAt s v e = .waiting (.barrier n p q k) → phasePassed (F t 0 4) p = true →
             ∃ j, condAt t v e = .waiting (.barAcquire j))) ∧
     (∀ c q e a b d, i = .barwait c q e a b → o.args = [d] → d < 7 → o.phase = .acquiring → opLevel s o ≠ 2 → acquireMay s id o = true →
       let m := waiting (getWarp s o.warp) (· == .barAcquire id)
       ∃ t, exec .memoryReply s = .next t ∧ mapGet t.ops id = none ∧ t.mem = s.mem ∧
         ∀ v, v < 32 → m.getLsbD v = true → pReg t o.warp d v = true ∧ condAt t o.warp v = .ready ∧ pcAt t o.warp v = pcAt s o.warp v) ∧
     (∀ c a b, i ∈ [Instr.barinit c a b, .barinitInval c a, .mbxinitFree c a] → o.phase = .ready → allDone o = true →
       exec .memoryReply s = .next (finishOp s id)))

/-- R296 to R300, R305 to R307: EVARM replaces the list or one entry with entries that keep the rules, and latches those whose condition holds, or traps with the list as it was. EVMASK and EVCLR change the mask, the latches and the list as their forms say. WAITANY traps where nothing is armed; it latches its REPEAT entries and takes the lowest pending entry that is not masked: its threads go on at the handler with EVID, the entry is cleared, and leaves the list unless it repeats; with no such entry they wait. A TIMER latches once when its time has come. It rests on the model's readings of log 52, 53. -/
def Obligations.EventsLatchAndFire : Prop :=
  (∀ (s : State) (c : Ctl) (w : Nat) (set act : Lanes), Issues s c w set act →
    let u := advance s w set
    let i0 := issueAt s w set act
    let x := getWarp u w
    let quiet : Prop := ∀ v, condAt u w v ≠ .waiting .anyEvent
    (∀ a, quiet → let v := BitVec.ofNat 16 (readsOnce s w act a 1 % 256)
      exec (.evmask c a) s = .next (setWarp u w { x with evm := v }) ∧
      exec (.evmaskOr c a) s = .next (setWarp u w { x with evm := x.evm ||| v }) ∧
      exec (.evmaskAndn c a) s = .next (setWarp u w { x with evm := x.evm &&& ~~~v })) ∧
    (∀ a (disarm : Bool), ∃ y, exec (if disarm then .evclrDisarm c a else .evclr c a) s = .next (setWarp u w y) ∧
      y = { x with evp := y.evp, events := y.events } ∧
      ∀ k, k < 8 → let hit := (readsOnce s w act a 1).testBit k
        y.evp.getLsbD k = (x.evp.getLsbD k && !hit) ∧ y.evp.getLsbD (8 + k) = (x.evp.getLsbD (8 + k) && !hit) ∧
        mapGet y.events k = if hit = true ∧ disarm = true then none else mapGet x.events k) ∧
    (∀ (one : Bool) (n : BitVec 4) (k0 : BitVec 3) (a : BitVec 9), 1 ≤ n.toNat → n.toNat ≤ 8 → a.toNat + 4 * n.toNat ≤ 512 →
      let i := if one then Instr.evarmOne c k0 (.k a) else .evarm c n (.k a)
      let cnt := if one then 1 else n.toNat
      let first := if one then k0.toNat else 0
      let word (j : Nat) : Nat := reads s w (.k (a + BitVec.ofNat 9 j)) 1 0
      let typ (k : Nat) : Nat := word (4 * k) / 2 ^ 28
      let object (k : Nat) : Nat := word (4 * k + 1) + 2 ^ 32 * word (4 * k + 2)
      let good (k : Nat) : Prop := typ k ≤ 9 ∧ word (4 * k) / 2 ^ 24 % 8 = 0 ∧ (typ k ≠ 1 → word (4 * k + 3) = 0) ∧
        ((word (4 * k)).testBit 27 = true → typ k = 1 ∨ typ k = 4) ∧
        object k < (if typ k = 1 ∨ typ k = 4 then 2 ^ 13 else if typ k = 2 ∨ typ k = 3 ∨ typ k = 9 then 2 ^ 32
          else if typ k = 5 ∨ typ k = 6 then 4 else if typ k = 7 then 2 ^ 64 else 1)
      (¬ (∀ k, k < cnt → good k) → exec i s = .next (trapSet u i0 causeOperand)) ∧
      ((∀ k, k < cnt → good k) → quiet → ∃ y, exec i s = .next (setWarp u w y) ∧ y = { x with evp := y.evp, events := y.events } ∧
        (∀ k, k < cnt → (y.evp.getLsbD (8 + first + k) = false) ∧
          (typ k = 0 → mapGet y.events (first + k) = none ∧ y.evp.getLsbD (first + k) = false) ∧
          (typ k ≠ 0 → ∃ e, mapGet y.events (first + k) = some e ∧ e.typ = typ k ∧ e.repeats = (word (4 * k)).testBit 27 ∧
            e.hoff = word (4 * k) % 2 ^ 24 ∧ e.object = object k ∧ e.arg = word (4 * k + 3) ∧ y.evp.getLsbD (first + k) = evHolds u x e)) ∧
        ∀ k, k < 8 → (k < first ∨ first + cnt ≤ k) →
          if one then mapGet y.events k = mapGet x.events k ∧ y.evp.getLsbD k = x.evp.getLsbD k ∧ y.evp.getLsbD (8 + k) = x.evp.getLsbD (8 + k)
          else mapGet y.events k = none ∧ y.evp.getLsbD k = false ∧ y.evp.getLsbD (8 + k) = false)) ∧
    (x.events = [] → exec (.waitany c) s = .next (trapSet u i0 causeOperand)) ∧
    (x.events ≠ [] → mapWf x.events = true → quiet → (∃ v, v < x.threads.length ∧ act.getLsbD v = true) →
      (∀ e ∈ x.events, e.1 < 8 ∧ e.2.typ ≠ 0 ∧ e.2.typ ≤ 9 ∧ (e.2.repeats = true → e.2.typ = 1 ∨ e.2.typ = 4)) →
      x.resident = true → x.stop = false → x.graphSeen = false →
      let pend (k : Nat) : Bool := x.evp.getLsbD k || (match mapGet x.events k with
        | some e => e.repeats && evHolds u x e
        | none => false)
      let ready (k : Nat) : Prop := k < 8 ∧ pend k = true ∧ x.evm.getLsbD k = false
      ((∀ k, ¬ ready k) → ∃ t, exec (.waitany c) s = .next t ∧ t.mem = s.mem ∧
        ∀ v, v < x.threads.length → act.getLsbD v = true → condAt t w v = .waiting .anyEvent ∧ pcAt t w v = i0.pc) ∧
      ∀ k e, ready k → (∀ j, j < k → ¬ ready j) → mapGet x.events k = some e → ∃ t, exec (.waitany c) s = .next t ∧ t.mem = s.mem ∧
        (∀ v, v < x.threads.length → act.getLsbD v = true → condAt t w v = .ready ∧
          pcAt t w v = codeBase s (getWarp s w) + BitVec.ofNat 64 ((x.evh.toNat + e.hoff) % 2 ^ 32) ∧
          let id := (threadOf (getWarp t w) v).evid.toNat
          id % 256 = e.typ * 16 + (x.evp.getLsbD (8 + k)).toNat * 8 + k ∧
          (e.typ ∈ [3, 7, 8] → id / 256 = 0) ∧ (e.typ = 5 ∨ e.typ = 6 → id / 256 = e.object % 4)) ∧
        (getWarp t w).evp.getLsbD k = false ∧ (getWarp t w).evp.getLsbD (8 + k) = false ∧
        (∀ j, j < 8 → j ≠ k → (getWarp t w).evp.getLsbD j = pend j ∧ (getWarp t w).evp.getLsbD (8 + j) = x.evp.getLsbD (8 + j)) ∧
        (e.repeats = false → mapGet (getWarp t w).events k = none) ∧
        (e.repeats = true → ∃ f, mapGet (getWarp t w).events k = some f ∧ f.typ = e.typ ∧ f.object = e.object ∧ f.hoff = e.hoff ∧ f.repeats = true ∧
          f.arg = if e.typ = 1 then (e.arg + 1) % 2 ^ 32 else e.arg))) ∧
  ∀ (s : State) (w k : Nat) (e : EvEntry), s.msg = some (.timerExpire w k) → k < 8 → mapGet (getWarp s w).events k = some e → e.typ = 7 →
    (∀ v, condAt s w v ≠ .waiting .anyEvent) →
    let x := getWarp s w
    (e.rung = true ∨ coreTime s x.core < e.object → exec .timerExpire s = .next s) ∧
    (e.rung = false → e.object ≤ coreTime s x.core → ∃ y, exec .timerExpire s = .next (setWarp s w y) ∧
      y = { x with evp := y.evp, events := y.events } ∧ (∃ f, mapGet y.events k = some f ∧ f = { e with rung := true, gone := f.gone }) ∧
      ∀ j, j < 8 → y.evp.getLsbD j = (x.evp.getLsbD j || j == k) ∧ y.evp.getLsbD (8 + j) = (x.evp.getLsbD (8 + j) || (j == k && x.evp.getLsbD k)))

/-- R295, R308 to R310: MBXINIT makes full lines that are no objects a ring, with its handle; MBXINIT.FREE ends one. MBXSEND asks, after its release, for one append for each lane, in lane order; an append puts the message into the slot at TAIL, counts a full ring's refusal, or finds no mailbox; the replies give each lane its status. MBXPOP takes messages at HEAD, one for each lane in ascending order while there are any, and after its acquire writes which lanes have one, and theirs. It rests on the model's readings of log 51. -/
def Obligations.MailboxesKeepTheirMessages : Prop :=
  (∀ (s : State) (c : Ctl) (w : Nat) (set act : Lanes) (a b d : Opd) (sc : Scope), Issues s c w set act → Grants s w sc →
    let u := advance s w set
    let i0 := issueAt s w set act
    let A := readsOnce s w act a 1
    let n := A / 128
    let gi := (getWarp s w).group
    let g := homeGroup s w
    let h := homeHalf s w
    (let z := readsOnce s w act b 1;
      (A % 128 ≠ 0 → exec (.mbxinit c d a b) s = .next (trapSet u i0 causeAlign 0 A)) ∧
      (A % 128 = 0 → homeSize s w < A + 128 * (z + 1) → exec (.mbxinit c d a b) s = .next (trapSet u i0 causeAccess 0 A)) ∧
      (A % 128 = 0 → A + 128 * (z + 1) ≤ homeSize s w →
        ((z = 0 ∨ 512 < z ∨ (NotHeld s w act (linesOf A (128 * (z + 1))) ∧
            ∃ l, n ≤ l ∧ l ≤ n + z ∧ ((lineOf g h l).bar = true ∨ (lineOf g h l).full = false))) →
          exec (.mbxinit c d a b) s = .next (trapSet u i0 causeOperand)) ∧
        (z ≠ 0 → z ≤ 512 → ¬ NotHeld s w act (linesOf A (128 * (z + 1))) → ∃ o, exec (.mbxinit c d a b) s = .next (newOp u o) ∧ o.warp = w ∧
          o.kind = .word (.mbxinit c d a b) ∧ o.lanes = act ∧ o.cf = setOf c ∧ allDone o = false) ∧
        (z ≠ 0 → z ≤ 512 → NotHeld s w act (linesOf A (128 * (z + 1))) →
          (∀ l, n ≤ l → l ≤ n + z → (lineOf g h l).bar = false ∧ (lineOf g h l).full = true) →
          ∃ g1 o, exec (.mbxinit c d a b) s = .next (newOp (setGroup u gi g1) o) ∧ o.warp = w ∧ o.kind = .word (.mbxinit c d a b) ∧ o.lanes = act ∧
            o.args = [n, (getWarp s w).core * 2 ^ 24 + g.tags.getD h 0 % 2 ^ 11 * 2 ^ 13 + n] ∧ allDone o = true ∧
            lineOf g1 h n = { lineOf g h n with full := true, bar := true, freed := false } ∧ scrNat g1 h (128 * n + 8) 4 = z ∧ scrByte g1 h (128 * n + 0x7C) = 2 ∧
            scrNat g1 h (128 * n + 0x10) 4 = o.args.getD 1 0 % 2 ^ 32 ∧
            (∀ j, j < 128 * (z + 1) → j ∉ [8, 9, 10, 11, 0x10, 0x11, 0x12, 0x13, 0x7C] → scrByte g1 h (128 * n + j) = 0) ∧
            (∀ k, k < 2 ^ 20 → k / 128 < n ∨ n + z < k / 128 → scrByte g1 h k = scrByte g h k) ∧ ∀ k, k < 2 ^ 13 → k ≠ n → lineOf g1 h k = lineOf g h k))) ∧
    (A % 128 = 0 → A + 128 ≤ homeSize s w → lineKind g h n = 2 →
      (NotHeld s w act [n] → ∃ t o, exec (.mbxinitFree c a) s = .next t ∧ mapGet t.ops s.next = some o ∧ o.kind = .word (.mbxinitFree c a) ∧ o.warp = w ∧
        o.cf = setOf c ∧ allDone o = true ∧ lineOf (getGroup t gi) h n = { lineOf g h n with bar := false, freed := true } ∧
        ∀ j, j < 128 → scratchAt t gi h (128 * n + j) = 0) ∧
      ∀ m : BitVec 3, ∃ o, exec (.mbxpop c sc m d a) s = .next (newOp u o) ∧ o.warp = w ∧ o.kind = .word (.mbxpop c sc m d a) ∧ o.lanes = act ∧
        o.scope = sc ∧ o.phase = .ready ∧ o.args = [n]) ∧
    ∀ st : Bool, ∃ o, exec (if st then .mbxsendSt c sc d a b else .mbxsend c sc d a b) s = .next (newOp u o) ∧ o.warp = w ∧ o.lanes = act ∧ o.scope = sc ∧
      o.kind = .word (if st then .mbxsendSt c sc d a b else .mbxsend c sc d a b) ∧ o.phase = .ready ∧ o.released = false ∧
      o.parts.map (fun p => (p.lane, p.va, p.n, p.val)) = (laneList act).map fun v => (v, reads s w a 1 v, 16, BitVec.ofNat 128 (reads s w b 4 v))) ∧
  (∀ (s : State) (id : Nat) (o : Op) (i : Instr), mapGet s.ops id = some o → o.kind = .word i → o.poison = 0 → o.clobber = [] →
    let gi := (getWarp s o.warp).group
    let h := homeHalf s o.warp
    (∀ c sc d a b, i ∈ [Instr.mbxsend c sc d a b, .mbxsendSt c sc d a b] → o.phase = .ready → ((relAcq o).1 = true → o.released = true) →
      (∀ p ∈ o.parts, p.st = .ok) → portHeld s id o = false → (∀ e ∈ opsBefore s o.warp id, sendsMail e.2.kind = true → e.2.phase = .asked) →
      s.msg = some (.memoryReply id) →
      exec .memoryReply s = .next { s with
        ops := mapSet s.ops id { o with phase := .asked }
        net := s.net ++ o.parts.map fun p => ⟨chanOf (2048 + o.warp) (256 + p.va / 2 ^ 24), .mbxAppend id p.lane, 0⟩ }) ∧
    (∀ v p, s.msg = some (.mbxAppend id v) → o.parts.find? (fun p => p.lane == v) = some p → p.va < 2 ^ 32 →
      ∃ (t : State) (st : Nat), exec .mbxAppend s = .next { t with net := t.net ++ [⟨none, .mbxReply id v st, 0⟩] } ∧ t.net = s.net ∧ t.mem = s.mem ∧
        let ring (gj k : Nat) : Prop := ringOf s (getWarp s o.warp).iface p.va = some (gj, k)
        let m := p.va % 2 ^ 13
        ((∀ gj k, ¬ ring gj k) → st = 2 ∧ t = s) ∧
        ∀ gj k, ring gj k →
          let F (t : State) (off : Nat) : Nat := scrNat (getGroup t gj) k (128 * m + off) 4
          let slots := 8 * (F s 8 % 1024)
          let count := (F s 4 + 2 ^ 32 - F s 0) % 2 ^ 32
          (count = slots → st = 1 ∧ F t 0xC = min (F s 0xC + 1) 0xFFFFFFFF ∧ F t 0 = F s 0 ∧ F t 4 = F s 4) ∧
          (count ≠ slots → st = 0 ∧ F t 4 = (F s 4 + 1) % 2 ^ 32 ∧ F t 0 = F s 0 ∧ F t 0xC = F s 0xC ∧
            ∀ j, j < 16 → scratchAt t gj k (128 * m + 128 + 16 * (F s 4 % slots) + j) = BitVec.ofNat 8 (p.val.toNat / 256 ^ j))) ∧
    (∀ v st, s.msg = some (.mbxReply id v st) → st < 3 → (∀ p ∈ o.parts, p.off = 0 ∧ (p.lane = v ∨ p.st = .done)) → (∃ p ∈ o.parts, p.lane = v) →
      (o.parts.map (·.lane)).Nodup → (∀ u, o.lanes.getLsbD u = true → ∃ p ∈ o.parts, p.lane = u) →
      let status (u : Nat) : Nat := if u = v then st else ((o.parts.find? fun p => p.lane == u).map fun p => p.got.toNat).getD 0
      (∀ c sc n a b, i = .mbxsendSt c sc (.v n) a b → (∀ p ∈ o.parts, p.got.toNat < 2 ^ 32) →
        ∃ t, exec .mbxReply s = .next t ∧ mapGet t.ops id = none ∧ Returned s t o.warp n.toNat 1 o.lanes status) ∧
      (∀ c sc (n : Fin 8) a b, i = .mbxsend c sc (.p n) a b → n.val ≠ 7 → ∃ t, exec .mbxReply s = .next t ∧ mapGet t.ops id = none ∧
        (getWarp t o.warp).v = (getWarp s o.warp).v ∧
        ∀ r u, u < 32 → pReg t o.warp r u = if r = n.val ∧ o.lanes.getLsbD u = true then decide (status u = 0) else pReg s o.warp r u)) ∧
    (∀ c sc m d a n, i = .mbxpop c sc m (.v d) a → o.args = [n] →
      (s.msg = some (.memoryReply id) → o.phase = .ready → (∀ p ∈ o.parts, p.st = .ok) → portHeld s id o = false → lineHeld s id o n = false →
        lineKind (getGroup s gi) h n = 2 →
        let F (t : State) (off : Nat) : Nat := scrNat (getGroup t gi) h (128 * n + off) 4
        let count := (F s 4 + 2 ^ 32 - F s 0) % 2 ^ 32
        let k := min count (laneList o.lanes).length
        ∃ t q, exec .memoryReply s = .next t ∧ mapGet t.ops id = some q ∧ q.phase = .acquiring ∧ q.lanes = o.lanes ∧ t.mem = s.mem ∧
          F t 0 = (F s 0 + k) % 2 ^ 32 ∧ F t 4 = F s 4 ∧
          q.parts.map (fun p => (p.lane, p.got.toNat)) = (List.range k).map fun j =>
            ((laneList o.lanes).getD j 0, scrNat (getGroup s gi) h (128 * n + 128 + 16 * ((F s 0 + j) % 2 ^ 32 % (8 * (F s 8 % 1024)))) 16)) ∧
      (s.msg = some (.memoryReply id) → o.phase = .acquiring → (∀ p ∈ o.parts, p.st = .done ∧ p.off = 0) → (o.parts.map (·.lane)).Nodup → opLevel s o ≠ 2 →
        acquireMay s id o = true → m.toNat ≠ 7 → ∃ (t : State) (V : Nat → Nat), exec .memoryReply s = .next t ∧ mapGet t.ops id = none ∧ t.mem = s.mem ∧
          let got : Lanes := laneSet fun u => o.lanes.getLsbD u && o.parts.any fun p => p.lane == u
          (∀ p ∈ o.parts, V p.lane = p.got.toNat) ∧ Returned s t o.warp d.toNat 4 got V ∧
          ∀ u, u < 32 → o.lanes.getLsbD u = true → pReg t o.warp m.toNat u = got.getLsbD u)))

/-! ### Copies -/

/-- R222, R232 to R236: TDESC writes the slot where the sixteen words keep the rules of a descriptor, and traps with the slot as it was where they do not. A copy word whose descriptor, box, barrier and place keep their rules becomes incomplete with the copy that it asks for, and traps OPERAND with no effect where one is broken. CPYQ asks the engine about the id of its lowest active lane. It rests on the model's readings of log 15, 41, 43, 45. -/
def Obligations.CopyWordsCheckTheirBlocks : Prop :=
  ∀ (s : State) (c : Ctl) (w : Nat) (set act : Lanes) (a : BitVec 9) (b d : Opd) (sc : Scope), Issues s c w set act → Grants s w sc →
    (homeGroup s w).descPend = [] →
    let u := advance s w set
    let i0 := issueAt s w set act
    let x := getWarp s w
    let K (j : Nat) : Nat := reads s w (.k (a + BitVec.ofNat 9 j)) 1 0
    let words (n : Nat) : List Word := (List.range n).map fun j => BitVec.ofNat 32 (K j)
    let trap : State := trapSet u i0 causeOperand
    let width (q : Nat) : Nat := [4, 6, 8, 16, 32, 64].getD q 0
    (a.toNat + 16 ≤ 512 →
      let n := readsOnce s w act b 1
      let dims := K 2 / 2 ^ 11 % 8
      let q := K 2 % 8
      let ty := K 2 / 16 % 16
      let fmt := K 2 / 2 ^ 8 % 8
      let base := K 0 + 2 ^ 32 * K 1
      let good : Prop := n ≤ 31 ∧ K 2 / 2 ^ 14 = 0 ∧ K 2 / 8 % 2 = 0 ∧ 1 ≤ dims ∧ dims ≤ 5 ∧ fmt ≤ 1 ∧
        (q, ty) ∈ [(0, 0), (1, 15), (2, 6), (2, 7), (2, 14), (3, 4), (3, 5), (3, 10), (3, 11), (4, 0), (4, 1), (4, 8), (4, 12), (5, 2), (5, 3), (5, 9), (5, 13)] ∧
        (∀ k, k < 5 → 1 ≤ K (3 + k) ∧ (dims ≤ k → K (3 + k) = 1)) ∧ (∀ k, 1 ≤ k → k < 5 → dims ≤ k → K (7 + k) = 0) ∧
        (3 ≤ q → base % (width q / 8) = 0) ∧ (fmt = 0 → K 12 = 0 ∧ K 13 = 0 ∧ K 14 = 0) ∧ (fmt = 1 → ty = 14 ∨ ty = 15) ∧
        (q ≠ 5 → K 15 < 2 ^ width q)
      (¬ good → exec (.tdesc c b (.k a)) s = .next trap) ∧
      (good → ∃ g1, exec (.tdesc c b (.k a)) s = .next (setGroup u x.group g1) ∧ mapGet g1.desc n = some (words 16) ∧
        (∀ k, k ≠ n → mapGet g1.desc k = mapGet (homeGroup s w).desc k) ∧ g1 = { homeGroup s w with desc := g1.desc, descPend := g1.descPend })) ∧
    (a.toNat + 12 ≤ 512 →
      let h := readsOnce s w act b 1
      let barrier : Prop := K 11 / 2 ^ 13 % 2 ^ 18 = 0 ∧
        (K 11 < 2 ^ 31 → 128 * (K 11 % 2 ^ 13 + 1) ≤ homeSize s w ∧ (lineOf (homeGroup s w) (homeHalf s w) (K 11 % 2 ^ 13)).bar = true)
      let asks (i : Instr) (kind : CopyKind) (desc : List Word) (n : Nat) : Prop := ∃ o k, exec i s = .next (newOp u o) ∧ o.warp = w ∧ o.kind = .word i ∧
        o.lanes = act ∧ o.cf = setOf c ∧ o.scope = sc ∧ o.phase = .ready ∧ o.copy = some k ∧ k.kind = kind ∧ k.core = x.core ∧ k.group = x.group ∧
        k.half = homeHalf s w ∧ k.warp = w ∧ k.iface = x.iface ∧ k.scope = sc ∧ k.desc = desc ∧ k.box = words 12 ∧ k.bytes = n ∧
        k.bar = (if K 11 < 2 ^ 31 then some (K 11 % 2 ^ 13) else none) ∧ k.st = .queued ∧ k.cursor = 0
      (∀ (t : Bool) (layout : BitVec 3), ∀ p ∈ [(Instr.cpyLoad c sc t layout d (.k a) b, CopyKind.load t layout.toNat, layout.toNat),
          (.cpyBstack c sc t layout d (.k a) b, .bstack t layout.toNat, layout.toNat), (.cpyStore c sc t d (.k a) b, .store t, 0)],
        let empty : Prop := ∃ j, j < 5 ∧ K (5 + j) = 0
        let fits (ds : List Word) (n : Nat) : Prop :=
          (∀ j, j < 5 → K (5 + j) ≤ 2 ^ 24 ∧ (descDims ds ≤ j → K j = 0 ∧ K (5 + j) = 1)) ∧
          (if p.2.2 = 0 then n = (K 5 * K 6 * K 7 * K 8 * K 9 * descBits ds + 7) / 8
            else canonOk ds (words 12) t p.2.2 = true ∧ n = canonBytes (words 12) t p.2.2) ∧
          (if p.2.1 = .bstack t layout.toNat then K 10 % 128 = 0 ∧ K 10 + n ≤ bstackSize s x
            else (p.2.2 ≠ 0 → K 10 % 128 = 0) ∧ K 10 + n ≤ homeSize s w)
        ((31 < h ∨ mapGet (homeGroup s w).desc h = none) → exec p.1 s = .next trap) ∧
        ∀ ds, h ≤ 31 → mapGet (homeGroup s w).desc h = some ds → 0 < descBits ds →
          (∀ n, barrier → (t = true → descWidth ds ≤ 4) → ((empty ∧ n = 0) ∨ (¬ empty ∧ fits ds n)) → asks p.1 p.2.1 ds n) ∧
          ((¬ barrier ∨ (t = true ∧ 4 < descWidth ds) ∨ (¬ empty ∧ ∀ n, ¬ fits ds n)) → exec p.1 s = .next trap)) ∧
      (∀ (pool comp : BitVec 2), ∀ p ∈ [(Instr.cpyg c sc pool comp d (.k a) b, CopyKind.gather pool.toNat comp.toNat, pool.toNat, comp.toNat),
          (.cpys c sc d (.k a) b, .scatter, 0, 0)],
        ((31 < h ∨ mapGet (homeGroup s w).desc h = none) → exec p.1 s = .next trap) ∧
        ∀ ds, h ≤ 31 → mapGet (homeGroup s w).desc h = some ds → 0 < descBits ds →
          let mates : Prop := p.2.2.2 = 0 ∨ (h < 31 ∧ ∃ e, mapGet (homeGroup s w).desc (h + 1) = some e ∧ descDims e = 2 ∧ descType e = descType ds ∧
            descExt e 0 = descExt ds 0)
          let rules : Prop := descDims ds = 2 ∧ K 0 % 4 = 0 ∧ 1 ≤ K 2 ∧ (p.2.2.1 = 0 → K 2 = 1) ∧ (p.2.2.2 = 0 ↔ K 5 = 0) ∧
            (∀ j, j < 4 → K (6 + j) = 0) ∧ (p.2.2.1 ≠ 0 ∨ p.2.2.2 ≠ 0 → descType ds = 8 ∨ descType ds = 10) ∧ mates
          let rows := if p.2.1 = .scatter then K 1 else (K 1 + K 2 - 1) / K 2
          let n := (rows * K 4 * descBits ds + 7) / 8
          let placed : Prop := n = 0 ∨ (K 10 + n ≤ homeSize s w ∧ K 0 + 4 * K 1 ≤ homeSize s w)
          (rules → barrier → placed → asks p.1 p.2.1 ds n) ∧ ((¬ rules ∨ ¬ barrier ∨ ¬ placed) → exec p.1 s = .next trap))) ∧
    ∀ e : Opd, ∀ i ∈ [Instr.cpyqStat c d e, .cpyqCancel c e],
      ∃ o, exec i s = .next (newOp u o) ∧ o.warp = w ∧ o.kind = .word i ∧ o.lanes = act ∧ o.cf = setOf c ∧ o.phase = .ready ∧ o.args = [readsOnce s w act e 1]

/-- R209, R212, R215, R219, R221: a copy word that holds a free slot is accepted: the slot is one never used, the lowest, or the one that has been free longest; its generation advances; the destination quad takes the id and the promised time; the destination lines of a copy into the scratchpad are empty; the word is complete. A copy of no bytes is done, at the time of its acceptance. R235, R236: CPYQ.STAT gives the state of the copy that the id names, or that there is none; CPYQ.CANCEL ends an unfinished copy, and changes no other. It rests on the model's readings of log 41, 48. -/
def Obligations.CopiesAreAcceptedAndAnswered : Prop :=
  (∀ (s : State) (core n : Nat), nextSlot s core = some n → n < 64 ∧ slotFree s core n = true ∧
    ∀ m, m < 64 → slotFree s core m = true → (slotOf s core n).freed ≤ (slotOf s core m).freed ∧
      ((slotOf s core n).freed = (slotOf s core m).freed → n ≤ m)) ∧
  ∀ (s : State) (id : Nat) (o : Op) (i : Instr), mapGet s.ops id = some o → o.kind = .word i → o.clobber = [] →
    (∀ k n d, s.msg = some (.copyAccept id) → o.copy = some k → k.core = o.core → nextSlot s o.core = some n → (∀ a ∈ raisers s, a.id ≠ id) →
      portHeld s id o = false → (∀ p ∈ o.parts, ∀ l, p.va / 128 ≤ l → l ≤ (p.va + p.n - 1) / 128 → lineHeld s id o l = false) →
      (∀ l ∈ sourceLines k, markPending s o.warp id l = false) →
      k.group = (getWarp s o.warp).group → k.half < 2 → k.node = none → k.raised = false → id < s.next → (∀ e ∈ s.copies, e.1 < s.next) →
      ((∃ c t l a b, i = .cpyLoad c k.scope t l (.v d) a b ∧ k.kind = .load t l.toNat) ∨ (∃ c t l a b, i = .cpyBstack c k.scope t l (.v d) a b ∧ k.kind = .bstack t l.toNat) ∨
        (∃ c t a b, i = .cpyStore c k.scope t (.v d) a b ∧ k.kind = .store t) ∨
        (∃ c p q a b, i = .cpyg c k.scope p q (.v d) a b ∧ k.kind = .gather p.toNat q.toNat) ∨ ∃ c a b, i = .cpys c k.scope (.v d) a b ∧ k.kind = .scatter) →
      let gen := ((slotOf s o.core n).gen + 1) % 1024
      ∃ t q, exec .copyAccept s = .next t ∧ mapGet t.ops id = none ∧ mapGet t.copies s.next = some q ∧ t.mem = s.mem ∧
        q.id = gen * 64 + n ∧ q.slot = n ∧ q.kind = k.kind ∧ q.box = k.box ∧ q.desc = k.desc ∧ q.bytes = k.bytes ∧ q.cursor = k.cursor ∧
        (slotOf t o.core n).gen = gen ∧ (slotOf t o.core n).copy = some s.next ∧
        (Returned s t o.warp d.toNat 4 o.lanes fun _ => q.id + 2 ^ 64 * (q.promise % 2 ^ 64)) ∧
        (k.bytes = 0 → q.st = .done ∧ q.promise = coreTime s o.core) ∧
        (k.bytes ≠ 0 → q.st = .queued ∧ (∀ a, scratchAt t k.group k.half a = scratchAt s k.group k.half a) ∧ ∀ l, l < 2 ^ 13 →
          (lineOf (getGroup t k.group) k.half l).bar = (lineOf (getGroup s k.group) k.half l).bar ∧
          (lineOf (getGroup t k.group) k.half l).full = ((lineOf (getGroup s k.group) k.half l).full &&
            !(intoScratch k && decide ((k.box.getD 10 0).toNat / 128 ≤ l ∧ l ≤ ((k.box.getD 10 0).toNat + k.bytes - 1) / 128))))) ∧
    (s.msg = some (.memoryReply id) → o.phase = .ready → (∀ p ∈ o.parts, p.st = .ok) → portHeld s id o = false → ∀ n, o.args = [n] →
      let x := getWarp s o.warp
      let named (key : Nat) (q : Copy) : Prop := (key, q) ∈ s.copies ∧ q.core = x.core ∧ q.group = x.group ∧ q.id = n ∧ q.node = none
      (∀ c d a, i = .cpyqStat c (.v d) a → ∃ (t : State) (v : Nat), exec .memoryReply s = .next t ∧ mapGet t.ops id = none ∧ t.copies = s.copies ∧
        (Returned s t o.warp d.toNat 1 o.lanes fun _ => v) ∧
        ((∀ key q, ¬ named key q) → v = 6 * 2 ^ 29) ∧
        ∀ key q, named key q → (∀ k2 q2, named k2 q2 → (k2, q2) = (key, q)) → q.cause < 32 →
          v / 2 ^ 29 = (match q.st with
            | .queued => 0 | .running => 1 | .suspended => 2 | .stopped => 3 | .done => 4 | .cancelled => 5) ∧
          v / 2 ^ 24 % 32 = q.cause ∧ v.testBit 23 = q.filled ∧ v % 2 ^ 23 = min q.cursor 0x7FFFFF) ∧
      (∀ c a, i = .cpyqCancel c a →
        ((∀ key q, ¬ named key q) → exec .memoryReply s = .next (finishOp s id)) ∧
        ∀ key q, named key q → (∀ k2 q2, named k2 q2 → (k2, q2) = (key, q)) → mapGet s.copies key = some q → id < s.next →
          (q.st = .done ∨ q.st = .cancelled → exec .memoryReply s = .next (finishOp s id)) ∧
          (q.st ≠ .done → q.st ≠ .cancelled → (∀ e ∈ s.ops, e.2.phase ≠ .lines) → ∃ t q1, exec .memoryReply s = .next t ∧ mapGet t.ops id = none ∧ mapGet t.copies key = some q1 ∧
            q1.st = .cancelled ∧ q1.cause = 0 ∧ q1.cursor = q.cursor ∧ t.mem = s.mem ∧ (∀ e ∈ t.parks, e.2.copy ≠ some key) ∧
            (∀ j, j ≠ key → mapGet t.copies j = mapGet s.copies j) ∧
            ∀ a, (∀ m, q.bar = some m → a / 128 ≠ m) → a < 2 ^ 20 → q.half < 2 → scratchAt t q.group q.half a = scratchAt s q.group q.half a)))

/-- R216, R223 to R228: the cursor chunk of a RAW copy of dense elements of whole bytes. A load puts into the scratchpad the bytes of the elements of its box as its core reads them above its clean copies, FILL for an element out of bounds, and fills the lines whose last byte it landed; a store writes the bytes of the elements in bounds. The cursor then names the next chunk. A chunk with a barrier among its lines lands nothing and stops the copy; one with a translation fault suspends it. It rests on the model's readings of log 40, 42, 44. -/
def Obligations.ChunksLandTheirBytes : Prop :=
  ∀ (s : State) (id : Nat) (q : Copy), s.msg = some (.copyChunkLand id) → mapGet s.copies id = some q →
    chunkMay s id q = true → q.node = none →
    let gi := q.group
    let h := q.half
    let dest := (q.box.getD 10 0).toNat
    let lo := 4096 * q.cursor
    let hi := min q.bytes (lo + 4096)
    let D (j : Nat) : Nat := (q.desc.getD j 0).toNat
    let z := [0, 0, 1, 2, 4, 8].getD (D 2 % 8) 1
    let org (j : Nat) : Int := (q.box.getD j 0).toInt
    let ext (j : Nat) : Nat := (q.box.getD (5 + j) 0).toNat
    let index (k j : Nat) : Int := org j + (k / z / ((List.range j).map ext).prod % ext j : Nat)
    let inside (k : Nat) : Prop := ∀ j, j < 5 → 0 ≤ index k j ∧ index k j < D (3 + j)
    let addr (k : Nat) : Nat := (((D 0 + 2 ^ 32 * D 1 : Nat) + index k 0 * z + index k 1 * (q.desc.getD 8 0).toInt + index k 2 * (q.desc.getD 9 0).toInt
      + index k 3 * (q.desc.getD 10 0).toInt + index k 4 * (q.desc.getD 11 0).toInt + (k % z : Nat) : Int) % 2 ^ 64).toNat
    let walk (va : Nat) := walkFrom s va 3 (getIface s q.iface).ptroot.toNat
    let Goes (need : Need) (pa : Nat → Nat) (e : Nat → DWord) : Prop := ∀ k, lo ≤ k → k < hi → inside k →
      addr k < 2 ^ 48 ∧ (∃ a b, walk (addr k) = .ok (pa k) (e k) a b) ∧ needOk need (e k) = true ∧ (e k).extractLsb' 5 2 = 0
    let raw : Prop := 2 ≤ D 2 % 8 ∧ D 2 % 8 ≤ 5 ∧ q.bytes = ext 0 * ext 1 * ext 2 * ext 3 * ext 4 * z
    let bar (l : Nat) : Prop := (lineOf (getGroup s gi) h l).bar = true
    let alone : Prop := (∀ e ∈ s.copies, e.1 ≠ id → unfinished e.2 = false) ∧ (∀ e ∈ s.ops, e.2.phase ≠ .lines ∧ e.2.phase ≠ .asked) ∧ q.spoiled = []
    (q.kind = .load false 0 → raw → alone → NoStale s q.iface → (∀ l, ¬ bar l) → dest + q.bytes ≤ 2 ^ 20 → ∀ pa e, Goes { r := true } pa e →
      ∃ t, exec .copyChunkLand s = .next t ∧ mapGet t.copies id = some { q with cursor := q.cursor + 1, begun := false, st := .running } ∧ t.mem = s.mem ∧
        (∀ k, lo ≤ k → k < hi → (inside k → scratchAt t gi h (dest + k) = viewByte s q.core (readLevel s q.core (copyLevel s q) [pa k / 4] ((e k).getLsbD 7)) (pa k)) ∧
          (¬ inside k → scratchAt t gi h (dest + k) = BitVec.ofNat 8 (D 15 / 256 ^ (k % z % 4)))) ∧
        (∀ a, a < 2 ^ 20 → (a < dest + lo ∨ dest + hi ≤ a) → scratchAt t gi h a = scratchAt s gi h a) ∧
        ∀ l, l < 2 ^ 13 → (lineOf (getGroup t gi) h l).bar = (lineOf (getGroup s gi) h l).bar ∧
          ((lineOf (getGroup t gi) h l).full = true ↔ (lineOf (getGroup s gi) h l).full = true ∨
            (lo < hi ∧ (dest + lo) / 128 ≤ l ∧ l ≤ (dest + hi - 1) / 128 ∧ min (128 * (l + 1)) (dest + q.bytes) ≤ dest + hi))) ∧
    (q.kind = .store false → raw → q.spoiled = [] → NoStale s q.iface → q.begun = false → ∀ pa e, Goes { w := true } pa e →
      (∀ k, lo ≤ k → k < hi → inside k → pa k < Config.hbmTop ∧ NoBreach s (pa k) 1 true false) →
      ∃ t c1, exec .copyChunkLand s = .next t ∧ mapGet t.copies id = some c1 ∧ c1.cursor = q.cursor + 1 ∧ c1.st = .running ∧ t.mem = s.mem ∧ t.groups = s.groups ∧
        (copyLevel s q = 2 → c1.acks + s.net.length = q.acks + t.net.length) ∧
        ∀ k, lo ≤ k → k < hi → inside k → (∀ j, lo ≤ j → j < hi → inside j → j ≠ k → pa j ≠ pa k) →
          viewByte t q.core 0 (pa k) = scratchAt s gi h (dest + k)) ∧
    (q.begun = false → intoScratch q = true → ∀ n, lo < hi → (dest + lo) / 128 ≤ n → n ≤ (dest + hi - 1) / 128 → bar n →
      (∀ l, (dest + lo) / 128 ≤ l → l < n → ¬ bar l) → exec .copyChunkLand s = .next (haltCopy s id causeOverlap (128 * n))) ∧
    (q.kind = .load false 0 → raw → alone → NoStale s q.iface → (∀ l, ¬ bar l) → lo < hi → inside lo → addr lo < 2 ^ 48 → walk (addr lo) = .fault →
      s.parks = [] → ∃ t, exec .copyChunkLand s = .next t ∧ (∀ a, scratchAt t gi h a = scratchAt s gi h a) ∧
        (∃ c1, mapGet t.copies id = some c1 ∧ c1.st = .suspended ∧ c1.cause = 1 ∧ c1.cursor = q.cursor) ∧
        ∃ p, mapGet t.parks (quadOf q.core * 8192) = some p ∧ p.copy = some id ∧ p.iface = q.iface ∧ p.page = addr lo / 4096)

/-- R218, R220, R227, R235, R353: a copy all of whose chunks have landed and whose writes are complete is done: its arrival credits its bytes, and can pass its barrier's phase; a node's copy reports to its graph. A copy that stops keeps its slot and its barrier as they are; its warp latches the trap of its cause. A copy late for its promise signals once. It rests on the model's readings of log 47. -/
def Obligations.CopiesEndStopAndRunLate : Prop :=
  (∀ (s : State) (id : Nat) (q : Copy), s.msg = some (.copyDone id) → mapGet s.copies id = some q → copyDoneMay s q = true →
    (∀ g n, q.node = some (g, n) → ∃ f : Flight, f.msg = .nodeComplete g n ∧
      exec .copyDone s = .next { s with copies := mapSet s.copies id { q with st := .done, cause := 0, landed := [], edges := [] }, net := s.net ++ [f] }) ∧
    (q.node = none → ∃ t, exec .copyDone s = .next t ∧ t.mem = s.mem ∧ t.l1 = s.l1 ∧
      mapGet t.copies id = some { q with st := .done, cause := 0, landed := [], edges := [] } ∧
      (∀ k, q.bar = some k → lineKind (getGroup s q.group) q.half k = 1 →
        let F (t : State) (off len : Nat) : Nat := scrNat (getGroup t q.group) q.half (128 * k + off) len
        let bytes := if q.kind = .scatter then q.wrote.length else q.credit
        let arrived := min (F s 8 3 + 1) 0xFFFFFF
        let landed := (F s 0x18 8 + bytes) % 2 ^ 64
        let pass := F s 4 3 ≤ arrived ∧ F s 0x10 8 ≤ landed
        (pass → F t 0 4 = (F s 0 4 + 1) % 2 ^ 32 ∧ F t 8 3 = 0 ∧ F t 0x18 8 = 0) ∧
        (¬ pass → F t 0 4 = F s 0 4 ∧ F t 8 3 = arrived ∧ F t 0x18 8 = landed)) ∧
      ((∀ k, q.bar = some k → lineKind (getGroup s q.group) q.half k ≠ 1) → ∀ a, scratchAt t q.group q.half a = scratchAt s q.group q.half a))) ∧
  (∀ (s : State) (id cause addr : Nat) (q : Copy) (ev : Instr), mapGet s.copies id = some q → cause ∈ [causeAccess, causeProtect, causeOverlap] →
    ((s.msg = some (.copyStop id cause addr) ∧ ev = .copyStop) ∨ (s.msg = some (.raisedCopyStop id cause addr) ∧ ev = .raisedCopyStop)) →
    let stopped : Copy := { q with st := .stopped, cause := if cause = causeAccess then 2 else if cause = causeProtect then 3 else 4 }
    ((unfinished q = false) → exec ev s = .next s) ∧
    (unfinished q = true → q.node = none → q.raised = false → (∃ x, mapGet s.warps q.warp = some x ∧ allEnded x = false ∧
        ∀ e ∈ s.warps, e.2.events = []) → ∃ t y, exec ev s = .next t ∧ t.groups = s.groups ∧ t.mem = s.mem ∧ mapGet t.copies id = some stopped ∧
      t.copySlots = s.copySlots ∧ getWarp t q.warp = { getWarp s q.warp with latched := (getWarp s q.warp).latched ++ [y] } ∧
      y.cause = cause ∧ y.addr = addr ∧ y.aux1 = BitVec.ofNat 32 q.id ∧ y.aux2 = BitVec.ofNat 32 q.cursor) ∧
    (∀ g n, unfinished q = true → q.node = some (g, n) → (∀ e ∈ s.warps, e.2.events = []) →
      ∃ t, exec ev s = .next t ∧ mapGet t.copies id = some stopped ∧ ∃ f : Flight, f.msg = .nodeFail g n 4 stopped.cause ∧ t.net = s.net ++ [f])) ∧
  ∀ (s : State) (id : Nat) (q : Copy), s.msg = some (.copyLate id) → mapGet s.copies id = some q →
    ((q.lateSent = true ∨ unfinished q = false ∨ coreTime s q.core < q.promise) → exec .copyLate s = .next s) ∧
    (q.lateSent = false → unfinished q = true → q.node = none → q.promise ≤ coreTime s q.core → (∀ v, condAt s q.warp v ≠ .waiting .anyEvent) →
      let x := getWarp s q.warp
      mapWf x.events = true → mapWf s.copies = true → (∀ e ∈ x.events, e.1 < 8) → q.core = x.core → q.group = x.group →
      (∀ e ∈ s.copies, e.1 ≠ id → e.2.core = q.core → e.2.group = q.group → e.2.id ≠ q.id) →
      ∃ t, exec .copyLate s = .next t ∧ mapGet t.copies id = some { q with lateSent := true } ∧ t.mem = s.mem ∧
        ∀ k, k < 8 → let hit := (mapGet x.events k).any fun e => e.typ == 3 && e.object == q.id
          (getWarp t q.warp).evp.getLsbD k = (x.evp.getLsbD k || hit) ∧
          (getWarp t q.warp).evp.getLsbD (8 + k) = (x.evp.getLsbD (8 + k) || (hit && x.evp.getLsbD k)))

/-! ### Shared regions -/

/-- R316 to R318, R323, R332 to R340: what the words of rooms check at issue, and what they then ask. RDEMAND traps where its handle is unknown, its mode is not permitted, its slot is taken or the warp has another slot for the region; else the slot is PENDING and the demand is on its way. RLEAVE frees its slot, and what it then asks is complete later. A demand that a FENCE holds becomes incomplete. RLD, RST, RACC, RPUSH and RPOP need a HELD slot in a mode that admits them; the lanes of an access must lie in the region, and RST outside a ring's header. RACC adds to the warp's partials, in lane order. It rests on the model's readings of log 55, 56. -/
def Obligations.RoomWordsKeepTheirModes : Prop :=
  (∀ (s : State) (c : Ctl) (w : Nat) (set act : Lanes), Issues s c w set act → NoStale s (getWarp s w).iface →
    let u := advance s w set
    let i0 := issueAt s w set act
    let x := getWarp u w
    let trap : State := trapSet u i0 causeOperand
    let region (n : Nat) : Region := getRegion s (handleKey (getHold x n).handle.toNat)
    let admits (n : Nat) (modes : List Room) : Prop := (getHold x n).st = .held ∧ (getHold x n).mode ∈ modes
    (∀ d a, let va := readsOnce s w act a 2
      (va % 64 ≠ 0 → exec (.rdesc c d a) s = .next (trapSet u i0 causeAlign 0 va)) ∧
      (∀ pa e, va % 64 = 0 → va < 2 ^ 48 → Allows s w { r := true } va pa e → ∃ o tl, exec (.rdesc c d a) s = .next { newOp u o with tlb := tl } ∧
        o.warp = w ∧ o.kind = .word (.rdesc c d a) ∧ o.lanes = act ∧ o.scope = .device ∧ o.args = [] ∧
        o.parts.map (fun p => (p.va, p.pa, p.n, p.st)) = [(va, pa, 64, PartSt.ok)])) ∧
    (∀ d a, (∃ o, exec (.rfree c a) s = .next (newOp u o) ∧ o.kind = .word (.rfree c a) ∧ o.lanes = act ∧ o.args = [readsOnce s w act a 1]) ∧
      ∃ o, exec (.rqueryR c d a) s = .next (newOp u o) ∧ o.kind = .word (.rqueryR c d a) ∧ o.lanes = act ∧ o.args = [readsOnce s w act a 1]) ∧
    (∀ (n : Fin 4) d a m,
      let h := readsOnce s w act a 1
      let k := getHold x n.val
      let r := getRegion s (handleKey h)
      let good : Prop := h ≠ 0 ∧ r.live = true ∧ r.gen = h / 64 % 2 ^ 20 ∧ r.iface = x.iface ∧ r.perm.getLsbD (roomNum m) = true ∧
        (k.st = .free ∨ k.st = .refused) ∧ ∀ j, j < 4 → j ≠ n.val → (getHold x j).st = .free ∨ (getHold x j).handle ≠ BitVec.ofNat 32 h
      (¬ good → exec (.rdemand c m a (.h n)) s = .next trap ∧ ∀ p : Fin 8, exec (.rdemandWait c m (.p p) a (.h n)) s = .next trap) ∧
      (good → ∃ y,
        y = { x with visits := x.visits + 1, holds := y.holds } ∧
        (getHold y n.val).st = .pending ∧ (getHold y n.val).mode = m ∧ (getHold y n.val).handle = BitVec.ofNat 32 h ∧ (getHold y n.val).visit = y.visits ∧
        (∀ j, j ≠ n.val → getHold y j = getHold x j) ∧
        let waits (p : Fin 8) (t : State) : State := setCond t w act (fun _ => .waiting (.room n.val p.val)) (i0.pc + 12)
        (NotHeld s w act [] →
          let t : State := { setWarp u w y with net := s.net ++ [⟨toWell w (h / 2 ^ 26 % 64), .demandArrive w n.val y.visits h m, s.gtime + 50⟩] }
          exec (.rdemand c m a (.h n)) s = .next t ∧ ∀ p : Fin 8, exec (.rdemandWait c m (.p p) a (.h n)) s = .next (waits p t)) ∧
        (¬ NotHeld s w act [] → ∀ p : Fin 8, ∃ o o', o.args = [n.val, y.visits, h] ∧ o.kind = .word (.rdemand c m a (.h n)) ∧ o.lanes = act ∧
          o' = { o with kind := .word (.rdemandWait c m (.p p) a (.h n)), writes := o'.writes } ∧
          exec (.rdemand c m a (.h n)) s = .next (newOp (setWarp u w y) o) ∧
          exec (.rdemandWait c m (.p p) a (.h n)) s = .next (waits p (newOp (setWarp u w y) o')))) ∧
      (k.st = .free → exec (.rleave c (.h n)) s = .next u) ∧
      (k.st ≠ .free → ∃ o, o.warp = w ∧ o.lanes = act ∧ o.cf = setOf c ∧ o.phase = .ready ∧
        o.args = [n.val, k.handle.toNat, roomNum k.mode, k.visit, if k.st = .held then 0 else if k.st = .pending then 1 else 2] ∧
        exec (.rleave c (.h n)) s = .next (newOp (setHold u w n.val {}) o)) ∧
      ∃ o, exec (.rquery c d (.h n)) s = .next (newOp u o) ∧ o.kind = .word (.rquery c d (.h n)) ∧ o.lanes = act ∧ ∃ v, o.args = [v] ∧
        (k.st = .free → v = 0) ∧ (k.st ≠ .free → v / 2 ^ 29 = (if k.st = .pending then 1 else if k.st = .held then 2 else 3) ∧
          v / 2 ^ 26 % 8 = roomNum k.mode ∧ v % 2 ^ 26 = k.handle.toNat % 2 ^ 26)) ∧
    (∀ ty d (m : RoomMem),
      let n := m.slot.toNat
      let r := region n
      let z := ty.size
      let A := roomAddr s w (getWarp s w) m
      let active (v : Nat) : Prop := v < 32 ∧ act.getLsbD v = true
      let within (v : Nat) : Prop := A v % z = 0 ∧ r.base ≤ A v ∧ A v + z ≤ r.base + r.size
      let head (v : Nat) : Prop := r.perm.getLsbD 3 = true ∧ A v < r.base + 64
      (¬ admits n [.read, .write] → exec (.rld c ty d m) s = .next trap) ∧
      (¬ admits n [.write] → exec (.rst c ty d m) s = .next trap) ∧
      (admits n [.read, .write] → (∀ v, active v → within v) →
        Requests s w set act c (.rld c ty d m) .thread { r := true } false (fun v => piecesOf (A v) z) (fun _ => 0) (fun _ => 0)) ∧
      (admits n [.write] → (∀ v, active v → within v ∧ ¬ head v) →
        Requests s w set act c (.rst c ty d m) .thread { w := true } false (fun v => piecesOf (A v) z) (reads s w d ty.regs) (fun _ => 0)) ∧
      (∀ cause : Nat → Nat, (∀ v, active v → (A v % z ≠ 0 ∧ cause v = causeAlign) ∨ (A v % z = 0 ∧ cause v = causeAccess ∧
          (2 ^ 48 < A v + z ∨ A v < r.base ∨ r.base + r.size < A v + z ∨ (head v ∧ admits n [.write])))) → admits n [.write] →
        exec (.rst c ty d m) s = .next (deliver u w i0.pc ((laneList act).map fun v => { lane := v, cause := cause v, addr := A v }))) ∧
      ∀ op,
        ((¬ admits n [.accum] ∨ op ≠ r.accOp ∨ ty ≠ r.accTy) → exec (.racc c op ty d m) s = .next trap) ∧
        (admits n [.accum] → op = r.accOp → ty = r.accTy → (∀ v, active v → within v ∧ ¬ head v ∧ A v + z ≤ 2 ^ 48) → (∀ e ∈ s.ops, e.2.warp ≠ w ∧ e.1 < s.next) →
          let visit := (getHold x n).visit
          let words := if ty.size = 8 then 2 else 1
          ((x.partials.filter fun p => p.slot == n && p.visit == visit).length + 32) * words ≤ 4096 →
          ∀ (pa : Nat → Nat) (e : Nat → DWord), (∀ v, active v → Allows s w { r := true, w := true } (A v) (pa v) (e v)) →
          ∃ t, exec (.racc c op ty d m) s = .next t ∧ t.mem = s.mem ∧ mapGet t.ops s.next = none ∧ (getWarp t w).v = x.v ∧ (getWarp t w).threads = x.threads ∧
            ∀ a, let sum (y : Warp) : Option (BitVec 64) := (y.partials.find? fun p => p.slot == n && p.visit == visit && p.addr == a).map (·.val)
              sum (getWarp t w) = (((laneList act).filter fun v => pa v == a).map fun v => reads s w d ty.regs v % 2 ^ (8 * z)).foldl (fun acc v =>
                some (match acc with
                  | none => BitVec.ofNat 64 v
                  | some p => BitVec.ofNat 64 (accOp op ty p.toNat v))) (sum x))) ∧
    ∀ ty p d b (n : Fin 4),
      (¬ admits n.val [.push] ∨ ty.size ≠ (region n.val).elsize → exec (.rpush c ty d b (.h n)) s = .next trap) ∧
      (¬ admits n.val [.pop] ∨ ty.size ≠ (region n.val).elsize → exec (.rpop c ty p d (.h n)) s = .next trap) ∧
      (ty.size = (region n.val).elsize → ∀ i, (i = .rpush c ty d b (.h n) ∧ admits n.val [.push]) ∨ (i = .rpop c ty p d (.h n) ∧ admits n.val [.pop]) →
        ∃ o, exec i s = .next (newOp u o) ∧ o.warp = w ∧ o.kind = .word i ∧ o.lanes = act ∧
          o.args = [n.val, (getHold x n.val).visit, (getHold x n.val).handle.toNat, 0] ∧
          o.parts.map (·.lane) = laneList act ∧ (i = .rpush c ty d b (.h n) → o.parts.map (·.val) = (laneList act).map fun v => BitVec.ofNat 128 (reads s w b ty.regs v)))) ∧
  ∀ (ty : Ty) (p v : Nat),
    (ty ∈ [Ty.u32, .s32, .u64, .s64] → p < 2 ^ tyBits ty → v < 2 ^ tyBits ty →
      accOp .add ty p v = (p + v) % 2 ^ tyBits ty ∧ intVal ty (accOp .min ty p v) = min (intVal ty p) (intVal ty v) ∧
      intVal ty (accOp .max ty p v) = max (intVal ty p) (intVal ty v) ∧
      ∀ j, (accOp .and ty p v).testBit j = (p.testBit j && v.testBit j) ∧ (accOp .or ty p v).testBit j = (p.testBit j || v.testBit j) ∧
        (accOp .xor ty p v).testBit j = (p.testBit j ^^ v.testBit j)) ∧
    (ty ∈ [Ty.f32, .f64, .bf16] → ∃ cd, FloatSum (fmtOf ty) .rn false (elemBits ty p 0) (elemBits ty v 0) (elemBits ty (accOp .add ty p v) 0) cd)

/-- R314 to R316, R324, R332, R333, R335, R339, R340: how the words of rooms go on. RDESC judges the sixteen words that it read, then the pages, and registers the region in the lowest free entry of its wellhead, or writes 0. RFREE frees an IDLE region without demands, or traps. RLEAVE waits for the room words before it. RPUSH and RPOP take ring elements in lane order, and then write or read them. RQUERY gives the slot as it was at issue, RQUERY.R the region as the wellhead answers. It rests on the model's readings of log 54, 55, 56. -/
def Obligations.RoomRepliesComeFromTheWellhead : Prop :=
  ∀ (s : State) (id : Nat) (o : Op) (i : Instr), s.msg = some (.memoryReply id) → mapGet s.ops id = some o → o.kind = .word i → o.phase = .ready →
    o.poison = 0 → o.clobber = [] → portHeld s id o = false →
    let iface := (getWarp s o.warp).iface
    let fails : Prop := ∃ t, mapGet t.ops id = none ∧ exec .memoryReply s = .next (deliver t o.warp o.pc ((laneList o.lanes).map fun v => { lane := v, cause := causeOperand }))
    let alive : Prop := ∀ v, o.lanes.getLsbD v = true → condAt s o.warp v ≠ .ended
    let gives (d : Opd) (v : Nat) (t : State) : Prop := mapGet t.ops id = none ∧ ∀ n, d = .v n → Returned s t o.warp n.toNat 1 o.lanes fun _ => v
    (∀ c d a p, i = .rdesc c d a → o.parts = [p] → p.st = .ok → alive → NoStale s iface → o.core = (getWarp s o.warp).core →
      (o.args = [] → p.n = 64 → p.off = 0 → p.ord ≠ 1 → p.priv = false → readyLanes s id o ≠ 0 →
        let W (k : Nat) : Nat := memNat (fun a => viewByte s o.core (readLevel s o.core 2 p.words p.imm) a) (p.pa + 4 * k) 4
        let base := W 0 + 2 ^ 32 * W 1
        let size := W 2 + 2 ^ 32 * W 3
        let bit (k : Nat) : Bool := (W 4).testBit k
        let ty := W 7 / 2 ^ 24 % 16
        let op := W 7 / 2 ^ 16 % 16
        let el := if W 8 % 2 = 1 then 8 else 4
        let caps := [W 5 % 2 ^ 12, W 5 / 2 ^ 16 % 2 ^ 12, W 6 % 2 ^ 12, W 6 / 2 ^ 16 % 2 ^ 12, W 7 % 2 ^ 12]
        let valid : Prop := W 4 < 32 ∧ W 4 ≠ 0 ∧ (∀ k, k = 5 ∨ k = 6 ∨ k = 7 → W k / 2 ^ 28 = 0 ∧ W k / 2 ^ 12 % 16 = 0) ∧ W 7 / 2 ^ 20 % 16 = 0 ∧ W 8 < 2 ∧
          (∀ k, 12 ≤ k → k < 16 → W k = 0) ∧ base % 256 = 0 ∧ size % 256 = 0 ∧ 256 ≤ size ∧ size < 2 ^ 40 ∧ base + size ≤ 2 ^ 48 ∧
          (∀ m, m < 5 → bit m = false → caps.getD m 0 = 0) ∧
          (if bit 2 then ty ∈ [0, 1, 2, 3, 8, 9, 10] ∧ op ≤ 5 ∧ (3 ≤ op → ty ≤ 3) else ty = 0 ∧ op = 0) ∧
          (bit 3 = bit 4) ∧ (if bit 3 then 1 ≤ W 9 ∧ 64 + W 9 * el ≤ size else W 8 = 0 ∧ W 9 = 0)
        (¬ valid → fails) ∧
        (valid → ∀ pa e, Allows s o.warp { r := true, w := true } base pa e → ∃ t q, exec .memoryReply s = .next t ∧ mapGet t.ops id = some q ∧
          q.args = (List.range 16).map W ∧ t.mem = s.mem ∧
          q.parts.map (fun p => (p.va, p.pa, p.n, p.st)) = [(base, pa, min size (4096 - base % 4096), PartSt.ok)])) ∧
      (∀ r, parseRegion ((o.args.take 16).map (BitVec.ofNat 32)) = some r → o.args.length = 16 → p.va = r.base → p.n = r.size →
        (p.ord ≠ 0 → fails) ∧
        (p.ord = 0 →
          let sl := homeSlice p.pa
          let live (e : Nat) : Prop := (getRegion s (sl * 64 + e)).live = true
          ((∀ e, e < 64 → live e) → ∃ t, exec .memoryReply s = .next t ∧ gives d 0 t ∧ t.regions = s.regions) ∧
          ∀ e, e < 64 → ¬ live e → (∀ j, j < e → live j) →
            let old := (getRegion s (sl * 64 + e)).gen
            let gen := if old + 1 < 2 ^ 20 then old + 1 else 1
            ∃ t, exec .memoryReply s = .next t ∧ gives d (sl * 2 ^ 26 + gen * 64 + e) t ∧
              getRegion t (sl * 64 + e) = { r with live := true, gen := gen, iface := iface, spans := [(p.pa, p.n)] } ∧
              ∀ k, k ≠ sl * 64 + e → getRegion t k = getRegion s k))) ∧
    (∀ c a h, i = .rfree c a → o.args = [h] → wellQuiet s o.warp (handleSlice h) = true → alive → (∀ p ∈ o.parts, p.st = .ok) →
      let r := getRegion s (handleKey h)
      let free : Prop := validHandle s iface h = true ∧ r.st = .idle ∧ r.queue = []
      (¬ free → fails) ∧
      (free → ∃ t, exec .memoryReply s = .next t ∧ mapGet t.ops id = none ∧ t.mem = s.mem ∧ getRegion t (handleKey h) = { gen := r.gen } ∧
        ∀ k, k ≠ handleKey h → getRegion t k = getRegion s k)) ∧
    (∀ c hd n h mode visit v, i = .rleave c hd → o.args = [n, h, mode, visit, v] → o.parts = [] →
      (leaveMay s id o = false → exec .memoryReply s = .next s) ∧
      (leaveMay s id o = true → v = 2 → exec .memoryReply s = .next (finishOp s id)) ∧
      (leaveMay s id o = true → v ≠ 2 → (v = 1 ∨ (mode ≠ 1 ∧ mode ≠ 3)) → exec .memoryReply s = .next { s with
        ops := mapSet s.ops id { o with phase := .asked }, net := s.net ++ [⟨toWell o.warp (handleSlice h), .leaveArrive o.warp n visit h, 0⟩] }) ∧
      (leaveMay s id o = true → v = 0 → mode = 1 ∨ mode = 3 → ∃ t q, exec .memoryReply s = .next t ∧
        mapGet t.ops id = some q ∧ (q.phase = .asked ∨ q.phase = .releasing) ∧
        (q.phase = .releasing → q.acks + s.net.length = t.net.length + (s.pushOut.filter fun e => e.2.cluster == clusterOf o.core).length))) ∧
    (∀ c a hd m n visit h, i = .rdemand c m a hd → o.args = [n, visit, h] → o.parts = [] → exec .memoryReply s =
      .next { finishOp s id with net := s.net ++ [⟨toWell o.warp (handleSlice h), .demandArrive o.warp n visit h m, s.gtime + 50⟩] }) ∧
    (∀ n visit h, o.args = [n, visit, h, 0] → ringHeld s id o = false → NoStale s iface → o.core = (getWarp s o.warp).core → (∀ p ∈ o.parts, p.st = .ok ∧ p.priv = false) →
      let k := handleKey h
      let r := getRegion s k
      let used := (r.tail - r.head).toNat
      let at_ (m : Nat) : Nat := r.base + 64 + m % 2 ^ 32 % r.count * r.elsize
      used ≤ r.count → r.count < 2 ^ 32 → 0 < r.count → r.elsize = 4 ∨ r.elsize = 8 → r.base % 256 = 0 →
      ∀ push : Bool, (if push then ∃ c ty d b hd, i = .rpush c ty d b hd else ∃ c ty q d hd, i = .rpop c ty q d hd) →
      let m := min o.parts.length (if push then r.count - used else used)
      let first := if push then r.tail.toNat else r.head.toNat
      ∀ (pa : Nat → Nat) (e : Nat → DWord),
        (∀ j, j < m → at_ (first + j) + r.elsize ≤ 2 ^ 48 ∧ Allows s o.warp (if push then { w := true } else { r := true }) (at_ (first + j)) (pa j) (e j)) →
      ∃ t q, exec .memoryReply s = .next t ∧ t.mem = s.mem ∧ t.net = s.net ∧ mapGet t.ops id = some q ∧ q.args = [n, visit, h, 1] ∧ q.lanes = o.lanes ∧
        getRegion t k = (if push then { r with tail := r.tail + BitVec.ofNat 32 m } else { r with head := r.head + BitVec.ofNat 32 m }) ∧
        q.parts.map (fun p => (p.lane, p.va, p.pa, p.n, p.val, p.st)) = (List.range m).map fun j =>
          ((o.parts.map (·.lane)).getD j 0, at_ (first + j), pa j, r.elsize, (o.parts.map (·.val)).getD j 0, PartSt.ok)) ∧
    (∀ n visit h c hd, o.args = [n, visit, h, 1] → PartsApart o.parts → (∀ p ∈ o.parts, p.st = .ok ∧ p.ord = 0 ∧ p.imm = false ∧ p.priv = false ∧ p.off = 0 ∧
        p.pa + p.n ≤ Config.hbmTop ∧ (readyLanes s id o).getLsbD p.lane = true ∧ NoBreach s p.pa p.n false false ∧ NotPrivate s iface p.va p.n) →
      let has (v : Nat) : Bool := o.parts.any fun p => p.lane == v
      (∀ ty (d : Fin 8) b, i = .rpush c ty (.p d) b hd → d.val ≠ 7 → ∃ t, exec .memoryReply s = .next t ∧ mapGet t.ops id = none ∧ t.mem = s.mem ∧
        (∀ a, viewByte t o.core (readLevel t o.core 0 [a / 4] false) a =
          o.parts.foldl (fun M p => putBytes M p.pa p.n p.val.toNat) (fun a => viewByte s o.core (readLevel s o.core 0 [a / 4] false) a) a) ∧
        ∀ v, v < 32 → o.lanes.getLsbD v = true → pReg t o.warp d.val v = !has v) ∧
      (∀ ty q d, i = .rpop c ty q (.v d) hd → ty = .u32 ∨ ty = .u64 → q.toNat ≠ 7 → ∃ (t : State) (V : Nat → Nat) (K : Part → Nat → Nat), exec .memoryReply s = .next t ∧
        mapGet t.ops id = none ∧ t.mem = s.mem ∧
        (∀ v, v < 32 → Gathers o.parts v (V v) fun p a => viewByte s o.core (K p (a / 4)) a) ∧
        (PartsAligned o.parts → ∀ p ∈ o.parts, ∀ v ∈ p.words, K p v = readLevel s o.core 2 p.words false) ∧
        Returned s t o.warp d.toNat ty.regs (o.lanes &&& laneSet has) V ∧
        ∀ v, v < 32 → o.lanes.getLsbD v = true → pReg t o.warp q.toNat v = !has v)) ∧
    (∀ c d hd v, i = .rquery c d hd → o.args = [v] → v < 2 ^ 32 → o.parts = [] → ∃ t, exec .memoryReply s = .next t ∧ gives d v t) ∧
    (∀ c d a h, i = .rqueryR c d a → o.args = [h] → o.parts = [] → wellQuiet s o.warp (handleSlice h) = true → ∃ t v, exec .memoryReply s = .next t ∧ gives d v t ∧
      t.regions = s.regions ∧
      let r := getRegion s (handleKey h)
      (validHandle s iface h = false → v / 2 ^ 29 = 7) ∧
      (validHandle s iface h = true → v / 2 ^ 29 = (match r.st with
          | .idle => 0 | .opened => 1 | .drain => 2 | .close => 3) ∧ v / 2 ^ 26 % 8 = roomNum r.mode ∧
        v / 2 ^ 13 % 2 ^ 13 = min r.occupants.length 0x1FFF ∧ v % 2 ^ 13 = min r.queue.length 0x1FFF))

/-- R313, R319 to R323, R330, R334, R335: a demand that reaches its wellhead opens an IDLE region, joins a room of its own mode with an empty queue and a free place, or joins the tail of the queue with its ticket; the room drains where the new head demands another mode. A demand that finds no entry is sent again after 256 ticks; one that finds its handle unknown traps OPERAND. A grant acquires the region and makes the slot HELD; one that its slot does not wait for is discarded. The last leave closes the room; after publication the region is IDLE or opens for the head of the queue, and then admits. Publication merges the partials of each word in the order of their keys, and stores the pointer that a ring's room kept. It rests on the model's readings of log 57. -/
def Obligations.RoomsOpenDrainAndClose : Prop :=
  (∀ (s : State) (w n visit h : Nat) (m : Room), s.msg = some (.demandArrive w n visit h m) → validHandle s (getWarp s w).iface h = true →
    let k := handleKey h
    let sl := k / 64
    let r := getRegion s k
    let granted (t : State) : Prop := t.net = s.net ++ [⟨fromWell sl w, .grantArrive w n visit, 0⟩] ∧
      (getRegion t k).occupants = r.occupants ++ [⟨w, n, visit, (getWarp s w).context⟩] ∧ (getRegion t k).queue = r.queue
    let place : Prop := r.caps.getD (roomNum r.mode) 0 = 0 ∨ r.occupants.length < r.caps.getD (roomNum r.mode) 0
    (r.st = .idle → ∃ t, exec .demandArrive s = .next t ∧ granted t ∧ (getRegion t k).st = .opened ∧ (getRegion t k).mode = m ∧ t.mem = s.mem ∧
      (m = .push ∨ m = .pop → (getRegion t k).head.toNat = devNat s (basePa r) 4 ∧ (getRegion t k).tail.toNat = devNat s (basePa r + 4) 4)) ∧
    (r.st = .opened → m = r.mode → r.queue = [] → place → ∃ t, exec .demandArrive s = .next t ∧ granted t ∧ (getRegion t k).st = .opened ∧ (getRegion t k).mode = m) ∧
    (r.st ≠ .idle → ¬ (r.st = .opened ∧ m = r.mode ∧ r.queue = [] ∧ place) →
      (demandsOf s sl < 1024 → ∃ t, exec .demandArrive s = .next t ∧ t.net = s.net ∧ t.warps = s.warps ∧
        let now := sliceTime s sl
        let q := r.queue ++ [⟨⟨now, sl, mapGetD s.tickets sl 0⟩, w, n, visit, m, now⟩]
        let turns : Prop := r.st = .opened ∧ ∀ d, q.head? = some d → d.mode ≠ r.mode
        mapGetD t.tickets sl 0 = mapGetD s.tickets sl 0 + 1 ∧ (getRegion t k).queue = q ∧ (getRegion t k).occupants = r.occupants ∧ (getRegion t k).mode = r.mode ∧
          (turns → (getRegion t k).st = .drain ∧ (getRegion t k).timer = some now) ∧ (¬ turns → (getRegion t k).st = r.st)) ∧
      (1024 ≤ demandsOf s sl → slotStands s w n visit = true →
        exec .demandArrive s = .next (setHold s w n { getHold (getWarp s w) n with retry := some (s.gtime + 256) })))) ∧
  (∀ (s : State) (w n visit h : Nat) (m : Room), s.msg = some (.demandArrive w n visit h m) → validHandle s (getWarp s w).iface h = false →
    let k := getHold (getWarp s w) n
    (slotStands s w n visit = false → exec .demandArrive s = .next s) ∧
    (slotStands s w n visit = true → (∀ v, k.lanes.getLsbD v = true → condAt s w v ≠ .ended) →
      exec .demandArrive s = .next (deliver (setHold s w n {}) w k.pc ((laneList k.lanes).map fun v => { lane := v, cause := causeOperand })))) ∧
  (∀ (s : State) (w n : Nat), s.msg = some (.demandRetry w n) → ∀ at_, (getHold (getWarp s w) n).st = .pending → (getHold (getWarp s w) n).retry = some at_ → at_ ≤ s.gtime →
    let h := getHold (getWarp s w) n
    exec .demandRetry s = .next { setHold s w n { h with retry := none } with
      net := s.net ++ [⟨toWell w (handleSlice h.handle.toNat), .demandArrive w n h.visit h.handle.toNat h.mode, s.gtime + 50⟩] }) ∧
  (∀ (s : State) (w n visit : Nat), s.msg = some (.grantArrive w n visit) →
    let x := getWarp s w
    let h := getHold x n
    (¬ (h.st = .pending ∧ h.visit = visit) → exec .grantArrive s = .next s) ∧
    (h.st = .pending → h.visit = visit → ∃ t, exec .grantArrive s = .next t ∧ t.mem = s.mem ∧ t.cc = s.cc ∧ t.net = s.net ∧
      (getHold (getWarp t w) n).st = .held ∧ (getHold (getWarp t w) n).handle = h.handle ∧ (getHold (getWarp t w) n).mode = h.mode ∧
      (x.resident = true → mapGetD t.acquired x.core 0 = coreTime s x.core ∧ (mapWf s.l1 = true → ∀ key, mapGet t.l1 key = (mapGet s.l1 key).filter fun y =>
        !ofUnit x.core key || y.dirty || !inRegion (getRegion s (handleKey h.handle.toNat)) (4 * wordOfKey key))) ∧
      (x.resident = false → t.l1 = s.l1) ∧
      ∀ d v, d < 7 → v < 32 → v < x.threads.length → condAt s w v = .waiting (.room n d) → (∀ u p, condAt s w u = .waiting (.room n p) → p = d) →
        (∀ r, lateHaz s x (.p d) 0 r = false) → condAt t w v = .ready ∧ pcAt t w v = pcAt s w v ∧ pReg t w d v = true)) ∧
  (∀ (s : State) (w n visit h : Nat), s.msg = some (.leaveArrive w n visit h) → validHandle s (getWarp s w).iface h = true →
    let k := handleKey h
    let r := getRegion s k
    let o : Occupant := ⟨w, n, visit, (getWarp s w).context⟩
    let mine (q : Partial) : Bool := q.slot == n && q.visit == visit
    o ∈ r.occupants → ∃ t, exec .leaveArrive s = .next t ∧ t.mem = s.mem ∧
      (∀ id q, mapGet s.ops id = some q → q.warp = w → (∃ c hd, q.kind = .word (.rleave c hd)) → q.phase = .asked → q.args.getD 0 4 = n → q.args.getD 3 0 = visit →
        mapWf s.ops = true → mapGet t.ops id = none) ∧
      (getWarp t w).partials = (getWarp s w).partials.filter (fun q => !mine q) ∧
      (getRegion t k).partials = r.partials ++ ((getWarp s w).partials.filter mine).map (fun q =>
        ⟨(getLaunch s (getWarp s w).launch).seq, (getWarp s w).gnum, visit, q.addr, q.val⟩) ∧
      ((∀ p ∈ r.occupants, p.warp = w ∧ p.slot = n ∧ p.visit = visit) → (getRegion t k).st = .close ∧ (getRegion t k).occupants = [] ∧ (getRegion t k).queue = r.queue) ∧
      ((∃ p ∈ r.occupants, ¬ (p.warp = w ∧ p.slot = n ∧ p.visit = visit)) → (r.st = .drain ∨ (r.st = .opened ∧ r.queue = [])) →
        (getRegion t k).st = r.st ∧ (getRegion t k).queue = r.queue ∧
        ∀ p, p ∈ (getRegion t k).occupants ↔ p ∈ r.occupants ∧ ¬ (p.warp = w ∧ p.slot = n ∧ p.visit = visit))) ∧
  ∀ (s : State) (sl e : Nat), s.msg = some (.publicationComplete sl e) →
    let k := sl * 64 + e
    let r := getRegion s k
    (r.st ≠ .close → exec .publicationComplete s = .next s) ∧
    (r.st = .close → r.live = true → basePa r + 8 ≤ Config.hbmTop → ∃ t, exec .publicationComplete s = .next t ∧ t.warps = s.warps ∧
      (r.queue = [] → (getRegion t k).st = .idle ∧ t.net = s.net) ∧
      (∀ d q, r.queue = d :: q → (getRegion t k).mode = d.mode ∧ ((getRegion t k).st = .opened ∨ (getRegion t k).st = .drain) ∧
        ∃ a b, r.queue = a ++ b ∧ (getRegion t k).queue = b ∧ (∀ f ∈ a, f.mode = d.mode) ∧
          t.net = s.net ++ a.map (fun f => ⟨fromWell (k / 64) f.warp, .grantArrive f.warp f.slot f.visit, 0⟩) ∧
          (getRegion t k).occupants = r.occupants ++ a.map (fun f => ⟨f.warp, f.slot, f.visit, (getWarp s f.warp).context⟩) ∧
          ∀ f, b.head? = some f → f.mode ≠ d.mode ∨ (r.caps.getD (roomNum d.mode) 0 ≠ 0 ∧ r.caps.getD (roomNum d.mode) 0 ≤ (getRegion t k).occupants.length)) ∧
      (r.mode = .read ∨ r.mode = .write → t.mem = s.mem) ∧
      (r.mode = .push → devNat t (basePa r + 4) 4 = r.tail.toNat) ∧ (r.mode = .pop → devNat t (basePa r) 4 = r.head.toNat) ∧
      (r.mode = .accum → (∀ p ∈ r.partials, p.addr % r.accTy.size = 0 ∧ p.addr + r.accTy.size ≤ Config.hbmTop) → (getRegion t k).partials = [] ∧
        ∃ l : List KeyedPartial, l.Perm r.partials ∧
          l.Pairwise (fun p q => p.seq < q.seq ∨ (p.seq = q.seq ∧ (p.gnum < q.gnum ∨ (p.gnum = q.gnum ∧ p.visit ≤ q.visit)))) ∧
          ∀ a, a % r.accTy.size = 0 → a + r.accTy.size ≤ Config.hbmTop → devNat t a r.accTy.size = ((l.filter fun p => p.addr == a).map (·.val.toNat)).foldl
            (fun m p => accOp r.accOp r.accTy m p % 256 ^ r.accTy.size) (devNat s a r.accTy.size)))

/-- R325 to R327, R342: crossed waits. A wellhead sends a probe for a demand each 2,048 ticks; a probe is copied to the occupants of an open or draining room, at a warp to the wellheads of its queued demands, with the youngest ticket, and dropped where its demand is gone, the room is not open, or after 16 hops. At its origin, through a demand of its own queue, it refuses the youngest demand, once for each round. A refused demand leaves its queue; its slot is REFUSED; the warp keeps its rooms, and a waiting set goes on with a false predicate. A room that drains for longer than its limit gives one record. It rests on the model's readings of log 58. -/
def Obligations.CrossedWaitsAreFound : Prop :=
  (∀ (s : State) (sl e : Nat) (tk : Ticket) (d : Demand), s.msg = some (.probeSend sl e tk) → sl < 64 → e < 64 →
    let k := sl * 64 + e
    let r := getRegion s k
    d ∈ r.queue → d.ticket = tk → (∀ f ∈ r.queue, f.ticket = tk → f = d) → r.live = true →
    (sliceTime s sl < d.probed + 2048 → exec .probeSend s = .next s) ∧
    (d.probed + 2048 ≤ sliceTime s sl → ∃ t, exec .probeSend s = .next t ∧ t.mem = s.mem ∧
      (getRegion t k).queue = r.queue.map (fun f => if f.ticket = tk then { f with probed := f.probed + 2048 } else f) ∧ (getRegion t k).rounds = r.rounds + 1 ∧
      t.net = s.net ++ (if r.st = .opened ∨ r.st = .drain then r.occupants else []).map fun o =>
        ⟨probeOut sl o.warp, .probeAtWarp o.warp ⟨sl, e, r.rounds + 1, 1, none, none⟩, 0⟩)) ∧
  (∀ (s : State) (w : Nat) (p : Probe), s.msg = some (.probeAtWarp w p) → ∃ l : List (Nat × Demand),
    exec .probeAtWarp s = .next { s with net := s.net ++ l.map fun x =>
      let k := handleKey (getHold (getWarp s w) x.1).handle.toNat
      ⟨probeIn w (k / 64), .probeAtWellhead (k / 64) (k % 64) { p with
        hops := p.hops + 1, via := some x.2.ticket
        youngest := match p.youngest with
          | some y => if ticketBefore y x.2.ticket then some x.2.ticket else some y
          | none => some x.2.ticket }, 0⟩ } ∧
    ∀ n d, (n, d) ∈ l ↔ n < 4 ∧ (getHold (getWarp s w) n).st = .pending ∧
      (getRegion s (handleKey (getHold (getWarp s w) n).handle.toNat)).queue.find? (fun d => d.warp == w && d.slot == n && d.visit == (getHold (getWarp s w) n).visit) = some d) ∧
  (∀ (s : State) (sl e : Nat) (p : Probe), s.msg = some (.probeAtWellhead sl e p) → sl < 64 → e < 64 →
    let r := getRegion s (sl * 64 + e)
    let alive : Prop := p.hops ≤ 16 ∧ (r.st = .opened ∨ r.st = .drain) ∧ ∃ d ∈ r.queue, some d.ticket = p.via
    (¬ alive → exec .probeAtWellhead s = .next s) ∧
    (alive → ¬ (p.originSlice = sl ∧ p.originEntry = e) → p.originEntry < 64 → exec .probeAtWellhead s = .next { s with
      net := s.net ++ r.occupants.map fun o => ⟨probeOut sl o.warp, .probeAtWarp o.warp { p with hops := p.hops + 1 }, 0⟩ }) ∧
    (alive → p.originSlice = sl → p.originEntry = e →
      (p.round ∈ r.refusedRounds → exec .probeAtWellhead s = .next s) ∧
      ∀ y, p.youngest = some y → p.round ∉ r.refusedRounds → r.live = true → ∃ t, exec .probeAtWellhead s = .next t ∧
        t.net = s.net ++ [⟨none, .refusalArrive sl e y, 0⟩] ∧ getRegion t (sl * 64 + e) = { r with refusedRounds := p.round :: r.refusedRounds })) ∧
  (∀ (s : State) (sl e e0 : Nat) (tk : Ticket), s.msg = some (.refusalArrive sl e0 tk) → tk.slice = sl →
    ((∀ j, j < 64 → ∀ d ∈ (getRegion s (sl * 64 + j)).queue, d.ticket ≠ tk) → exec .refusalArrive s = .next s) ∧
    let r := getRegion s (sl * 64 + e)
    ∀ d q, e < 64 → (∀ j, j < e → ∀ d ∈ (getRegion s (sl * 64 + j)).queue, d.ticket ≠ tk) → r.queue = d :: q → d.ticket = tk → r.st = .drain → r.live = true →
      (∀ f, q.head? = some f → f.mode ≠ r.mode) → q ≠ [] → slotStands s d.warp d.slot d.visit = true →
      let x := getWarp s d.warp
      ∃ t, exec .refusalArrive s = .next t ∧ t.mem = s.mem ∧ getRegion t (sl * 64 + e) = { r with queue := q } ∧
        (getHold (getWarp t d.warp) d.slot).st = .refused ∧ (∀ j, j ≠ d.slot → getHold (getWarp t d.warp) j = getHold x j) ∧
        ((∀ v a, condAt s d.warp v ≠ .waiting (.room d.slot a)) → x.events = [] → (∃ y, mapGet s.warps d.warp = some y) → allEnded x = false →
          (getWarp t d.warp).latched = x.latched ++ [{ cause := causeCross, detail := d.slot, addr := 0, aux1 := (getHold x d.slot).handle }]) ∧
        ∀ a v, a < 7 → v < 32 → v < x.threads.length → condAt s d.warp v = .waiting (.room d.slot a) → (∀ u p, condAt s d.warp u = .waiting (.room d.slot p) → p = a) →
          (∀ u, lateHaz s x (.p a) 0 u = false) → condAt t d.warp v = .ready ∧ pReg t d.warp a v = false) ∧
  ∀ (s : State) (sl e : Nat), s.msg = some (.drainOverdue sl e) → sl < 64 → e < 64 →
    let k := sl * 64 + e
    let r := getRegion s k
    (r.overdue = true ∨ r.st ≠ .drain ∨ r.drain = 0 → exec .drainOverdue s = .next s) ∧
    ∀ since, r.live = true → r.st = .drain → r.drain ≠ 0 → r.overdue = false → r.timer = some since → since + r.drain < sliceTime s sl →
      ∃ s1, exec .drainOverdue s = .next (plainRecord s1 r.iface true [0x0000000B, 0, BitVec.ofNat 32 (roomNum r.mode * 2 ^ 29 + min r.occupants.length 0x1FFF), 0, 0, 0,
          BitVec.ofNat 32 (sl * 2 ^ 26 + r.gen * 64 + e), BitVec.ofNat 32 (min (sliceTime s sl - since) 0xFFFFFFFF)]) ∧
        s1 = { s with regions := s1.regions } ∧ getRegion s1 k = { r with overdue := true } ∧ ∀ j, j ≠ k → getRegion s1 j = getRegion s j

/-! ### The matrix array -/

/-- R348 to R351, R353, R356, R358, R361 to R365: how the matrix words issue. JSET sets SIZE where its value is 1 to 96 and no signature is counted; JSET.Q reads the J word. MMA is a signature: an operand that fails its checks, a J register of SIZE 0, another operation or core than the round's, or a second signature of the warp traps OPERAND and is not counted; otherwise the word becomes incomplete and is counted, and the last of SIZE signatures issues the operation once into the queue of the core's array. The tile words become incomplete with their values taken once, after the checks of row, count, percentile, alignment, allotment, BAR and scale; their values are undefined where an operation of the group on the core uses the tile. It rests on the model's readings of log 59, 60, 61. -/
def Obligations.MatrixWordsIssue : Prop :=
  (∀ ty, let l := layoutOf (mmaLayout ty)
    (l.kstep, l.sl, l.bits, l.nq, l.block) = match ty with
      | .t8 | .int8 => (64, 64, 8, 2, 8448)
      | .t6 => (128, 96, 6, 4, 12800)
      | .bf16 => (32, 64, 16, 0, 8192)
      | .f32 => (8, 32, 32, 0, 4096)
      | .f64 => (4, 32, 64, 0, 4096)) ∧
  ∀ (s : State) (c : Ctl) (w : Nat) (set act : Lanes), Issues s c w set act →
    let u := advance s w set
    let i0 := issueAt s w set act
    let x := getWarp s w
    let g := homeGroup s w
    let half := homeHalf s w
    let once (o : Opd) : Nat := readsOnce s w act o 1
    let hit (z : List Nat) (a : ArrayOp) : Bool := a.group == x.group && a.half == half && z.any fun n => n == a.op.z || (a.op.ty == .f64 && n == a.op.z + 1)
    let starts (i : Instr) (z : List Nat) (o : Op) : Prop := ∃ ar, exec i s = .next { newOp u o with arrays := ar } ∧ o.warp = w ∧ o.kind = .word i ∧
      o.cf = setOf c ∧ o.phase = .ready ∧ o.poison = (if (mapGetD s.arrays x.core []).any (hit z) then allLanes else 0) ∧ o.clobber = [] ∧
      (∀ k, k ≠ x.core → mapGet ar k = mapGet s.arrays k) ∧
      ∃ m, mapGetD ar x.core [] = (mapGetD s.arrays x.core []).map fun a => if hit z a then { a with mixed := a.mixed ++ m } else a
    let tile (i : Instr) (z : List Nat) (args : List Nat) : Prop := ∃ o, starts i z o ∧ o.lanes = act ∧ o.pc = i0.pc ∧ o.args = args ∧ o.parts = []
    let fed (i : Instr) (z : List Nat) (args : List Nat) (f : Nat → Nat) : Prop := ∃ o, starts i z o ∧ o.lanes = act ∧ o.args = args ∧ o.parts.map (fun p => (p.lane, p.val)) = (laneList act).map fun v => (v, BitVec.ofNat 128 (f v))
    (∀ (n : Fin 16) a,
      let r := jOf g n.val
      (once a = 0 ∨ 96 < once a ∨ r.signed ≠ 0 → exec (.jset c (.j n) a) s = .next (trapSet u i0 causeOperand)) ∧
      (1 ≤ once a → once a ≤ 96 → r.signed = 0 → ∃ t, exec (.jset c (.j n) a) s = .next t ∧ t = { u with groups := t.groups } ∧
        (∀ k, k ≠ x.group → getGroup t k = getGroup s k) ∧ homeGroup t w = { g with j := (homeGroup t w).j, jPend := (homeGroup t w).jPend } ∧
        (∀ k, jOf (homeGroup t w) k = if k = n.val then { r with size := once a, core := 0 } else jOf g k) ∧
        ∃ p ∈ (homeGroup t w).jPend, p.j = n.val ∧ p.warp = w)) ∧
    (∀ d (n : Fin 16), let r := jSeen s w n.val
      exec (.jsetQ c d (.j n)) s = .next (written s w set act [] 8 d 1 fun _ => r.core * 2 ^ 16 + r.signed * 2 ^ 8 + r.size)) ∧
    (∀ ty ha hb (j : BitVec 4) (hA hB : BitVec 5) (z : Fin 24) a b,
      let i := Instr.mma c ty ha hb j hA hB (.z z) a b
      let o := signedOp u i0 ty ha hb j hA hB (.z z) a b
      let l := layoutOf (mmaLayout ty)
      let r := jOf g j.toNat
      let size := (jSeen s w j.toNat).size
      let acc := (getLaunch s x.launch).record.acc
      let good : Prop := (ty = .f64 → z.val % 2 = 0 ∧ z.val + 1 < acc) ∧
        (if ha then raisedOk s x (descOf s w hA.toNat) o.boxA (mmaLayout ty) false = true else once a % 128 = 0 ∧ once a + l.block ≤ homeSize s w) ∧
        (if hb then raisedOk s x (descOf s w hB.toNat) o.boxB (mmaLayout ty) true = true else once b % 128 = 0 ∧ once b + l.block ≤ bstackSize s x)
      let counts : Prop := good ∧ size ≠ 0 ∧ (r.signed ≠ 0 → r.op = some o ∧ r.core = x.core ∧ ∀ q ∈ r.signers, q.1 ≠ w)
      let core := if r.signed = 0 then x.core else r.core
      (ha = false → hb = false → o = ⟨ty, false, false, hB ++ hA ++ j, z.val, BitVec.ofNat 32 (once a), BitVec.ofNat 32 (once b), [], [], none, none⟩) ∧
      (¬ counts → exec i s = .next (trapSet u i0 causeOperand)) ∧
      (counts → ∃ t p, exec i s = .next t ∧ t = { newOp u p with groups := t.groups, ops := t.ops, arrays := t.arrays } ∧
        p.warp = w ∧ p.kind = .word i ∧ p.lanes = act ∧ p.cf = setOf c ∧ p.phase = .asked ∧
        t.ops.map (fun e => (e.1, e.2.unmarked)) = (newOp u p).ops.map (fun e => (e.1, e.2.unmarked)) ∧
        (∀ k, k ≠ x.group → getGroup t k = getGroup s k) ∧
        homeGroup t w = { g with j := (homeGroup t w).j, unfenced := (homeGroup t w).unfenced } ∧
        (∀ k, k ≠ j.toNat → jOf (homeGroup t w) k = jOf g k) ∧
        (r.signed + 1 ≠ size → t.ops = (newOp u p).ops ∧ t.arrays = s.arrays ∧
          jOf (homeGroup t w) j.toNat = { r with signed := r.signed + 1, core := core, op := some o, signers := r.signers ++ [(w, s.next)] }) ∧
        (r.signed + 1 = size → jOf (homeGroup t w) j.toNat = { r with signed := 0, core := core, op := none, signers := [] } ∧
          (∀ k, k ≠ x.core → mapGet t.arrays k = mapGet s.arrays k) ∧
          ∃ q m, mapGetD t.arrays x.core [] = q ++ [m] ∧ q.map (·.op) = (mapGetD s.arrays x.core []).map (·.op) ∧ m.op = o ∧ m.group = x.group ∧ m.half = half ∧
            m.core = x.core ∧ m.signers = r.signers ++ [(w, s.next)] ∧ m.warp = w ∧ m.issued = decide ((mapGetD s.arrays x.core []).length < 9) ∧
            m.wantA = (m.issued && ha) ∧ m.wantB = (m.issued && hb)))) ∧
    tile (.mfenceOp c) [] [] ∧
    (∀ (z : Fin 24) a, tile (.zclr c (.z z) a) [z.val] [once a]) ∧
    (∀ (h : Option Bool) d (z : Fin 24) b,
      let zs := if h.isSome then [z.val, z.val + 1] else [z.val]
      (127 < once b → ∀ i ∈ [Instr.zld c h d (.z z) b, .zst c h d (.z z) b], exec i s = .next (trapSet u i0 causeOperand)) ∧
      (once b ≤ 127 → tile (.zld c h d (.z z) b) zs [once b] ∧ fed (.zst c h d (.z z) b) zs [once b] fun v => reads s w d 4 v)) ∧
    (∀ d a b,
      let n := once d
      let src := once a
      let dst := once b
      let i := Instr.bload c d a b
      let fits : Prop := dst + 128 * n ≤ bstackSize s x
      (n = 0 → exec i s = .next u) ∧
      (n ≠ 0 → dst % 128 ≠ 0 → exec i s = .next (trapSet u i0 causeAlign 0 dst)) ∧
      (n ≠ 0 → dst % 128 = 0 → src % 128 ≠ 0 → exec i s = .next (trapSet u i0 causeAlign 0 src)) ∧
      (n ≠ 0 → dst % 128 = 0 → src % 128 = 0 → ¬ fits → exec i s = .next (trapSet u i0 causeAccess 0 dst)) ∧
      (n ≠ 0 → dst % 128 = 0 → src % 128 = 0 → fits → homeSize s w < src + 128 * n → exec i s = .next (trapSet u i0 causeAccess 0 src)) ∧
      (n ≠ 0 → dst % 128 = 0 → src % 128 = 0 → fits → src + 128 * n ≤ homeSize s w → ∃ t o, exec i s = .next t ∧ t = { newOp u o with groups := t.groups, arrays := t.arrays } ∧
        o.warp = w ∧ o.kind = .word i ∧ o.cf = setOf c ∧ o.phase = .ready ∧ o.args = [n, dst, src, 0] ∧
        homeGroup t w = { g with unfenced := (homeGroup t w).unfenced } ∧
        ∀ k, k < 128 * n → ∃ y, mapGet (homeGroup t w).unfenced (unfKey true half (dst + k)) = some y ∧ y.warp = w ∧ y.op = s.next ∧ y.fenced = false)) ∧
    (∀ ty (z : Fin 24) a, ty = .f32 → fed (.qhist c ty (.z z) a) [] [] fun v => reads s w a 1 v % 2 ^ 32) ∧
    (∀ ty (z : Fin 24) a, ty = .f16 ∨ ty = .bf16 → ∃ f, fed (.qhist c ty (.z z) a) [] [] f ∧ ∀ v,
      let y := reads s w a 1 v % 2 ^ 16
      (patNaN (fmtOf ty) y = true → patNaN fmtF32 (f v) = true) ∧ (patInf (fmtOf ty) y = true → patInf fmtF32 (f v) = true) ∧
      (patMag (fmtOf ty) y < fmtInf (fmtOf ty) → patMag fmtF32 (f v) < fmtInf fmtF32 ∧ patVal fmtF32 false (f v) = patVal (fmtOf ty) false y)) ∧
    (∀ (z : Fin 24) a b, (once b < 1 ∨ 128 < once b ∨ 128 < once a + once b → exec (.qhistRows c (.z z) a b) s = .next (trapSet u i0 causeOperand)) ∧
      (1 ≤ once b → once a + once b ≤ 128 → tile (.qhistRows c (.z z) a b) [z.val] [once a, once b])) ∧
    (∀ z : Fin 24, tile (.qhistClr c (.z z)) [] []) ∧
    (∀ t6 d (z : Fin 24) b, (once b < 1 ∨ 256 < once b → exec (.qscale c t6 d (.z z) b) s = .next (trapSet u i0 causeOperand)) ∧
      (1 ≤ once b → once b ≤ 256 → tile (.qscale c t6 d (.z z) b) [] [once b])) ∧
    ∀ (t6 : Bool) d (z : Fin 24) (p : BitVec 8) b,
      let a := once d
      let n := if t6 then 12800 else 16896
      let bars : List Nat := ((List.range (n / 128)).map (a / 128 + ·)).filter fun k => (lineOf g half k).bar
      (∀ i ∈ [Instr.qpack c t6 p d (.z z), .qpackE c t6 d (.z z) b],
        (a % 128 ≠ 0 → exec i s = .next (trapSet u i0 causeAlign 0 a)) ∧
        (a % 128 = 0 → homeSize s w < a + n → exec i s = .next (trapSet u i0 causeAccess 0 a)) ∧
        ∀ k r, a % 128 = 0 → a + n ≤ homeSize s w → bars = k :: r → exec i s = .next (trapSet u i0 causeBarclobber 0 (128 * k))) ∧
      (a % 128 = 0 → a + n ≤ homeSize s w → bars = [] →
        (0xFE < once b → exec (.qpackE c t6 d (.z z) b) s = .next (trapSet u i0 causeOperand)) ∧
        ∀ i v, i = .qpack c t6 p d (.z z) ∧ v = p.toNat + 1 ∨ (i = .qpackE c t6 d (.z z) b ∧ v = once b ∧ v ≤ 0xFE) →
          ∃ o, starts i [z.val] o ∧ o.args = [a / 128, n / 128, v])

/-- R144 to R147, R346, R352, R354, R359 to R365: what the matrix words do when they complete. The array applies the operation at its head once its copies are done and its A lines are full: each of the 16,384 elements takes the value of R144 from its row, its column and their scales; every signer's word completes. MFENCE.OP waits for the warp's earlier scratchpad stores and lets operations fetch them. ZCLR, ZLD and ZST write and read the words of a tile; BLOAD copies lines while they are full; QHIST adds to the bins of R145 and clears them, QSCALE gives the scale of R146; QPACK first marks its lines empty, or traps where one has become a barrier, then writes each row's codes and scales in A form and marks them full. It rests on the model's readings of log 60, 61. -/
def Obligations.MatrixWordsComplete : Prop :=
  (∀ (s : State) (core : Nat), s.msg = some (.mmaComplete core) →
    (mmaReady s core = false → exec .mmaComplete s = .next s) ∧
    ∀ a r, mapGetD s.arrays core [] = a :: r → a.issued = true → a.wantA = false → a.wantB = false →
      (∀ k, a.copyB = some k → mapGet s.copies k = none ∨ unfinished (getCopy s k) = false) →
      let o := a.op
      let g := getGroup s a.group
      let l := layoutOf (mmaLayout o.ty)
      let pA := if o.ha then (o.boxA.getD 10 0).toNat else o.a.toNat
      let pB := if o.hb then (o.boxB.getD 10 0).toNat else o.b.toNat
      (∀ k, k < l.block → (lineOf g a.half ((pA + k) / 128)).full = true) →
      (∀ n, pA / 128 ≤ n → n ≤ (pA + l.block - 1) / 128 → ∀ q ∈ a.signers, markPending s q.1 q.2 n = false) → a.half < 2 → o.z < 24 → (o.ty = .f64 → o.z + 1 < 24) →
      ∃ t, exec .mmaComplete s = .next t ∧ t.mem = s.mem ∧ (∀ q ∈ a.signers, mapGet t.ops q.2 = none) ∧
        (∀ k, k ≠ core → mapGet t.arrays k = mapGet s.arrays k) ∧
        (mapGetD t.arrays core []).map (·.op) = r.map (·.op) ∧ (∀ k y, k < 9 → (mapGetD t.arrays core [])[k]? = some y → y.issued = true) ∧
        (∀ k, k ≠ a.group → getGroup t k = getGroup s k) ∧ getGroup t a.group = { g with tiles := (getGroup t a.group).tiles } ∧
        (∀ h z i j, h < 2 → z < 24 → i < 128 → j < 128 → ¬ (h = a.half ∧ (z = o.z ∨ (o.ty = .f64 ∧ z = o.z + 1))) →
          tileWord (getGroup t a.group) h z i j = tileWord g h z i j) ∧
        let byteA (k : Nat) : Nat := (scrByte g a.half (pA + k)).toNat
        let byteB (k : Nat) : Nat := ((bstackByte g a.half (pB + k)).getD 0).toNat
        let elem (G : Group) (i j : Nat) : Nat := (tileWord G a.half o.z i j).toNat + if o.ty = .f64 then 2 ^ 32 * (tileWord G a.half (o.z + 1) i j).toNat else 0
        (a.mixed = [] → a.bad = [] → (∀ q ∈ a.signers, (getOp s q.2).poison = 0) → (∀ k, k < l.block → bstackByte g a.half (pB + k) ≠ none) → ∀ i j, i < 128 → j < 128 →
          ElementRule o.ty (elem g i j) (sliceElem (fun x => byteA (l.sl * i + x)) l.bits) (sliceElem (fun x => byteB (128 * x + j)) l.bits)
            (fun q => byteA (128 * l.sl + l.nq * i + q)) (fun q => byteB (128 * (l.sl + q) + j)) (elem (getGroup t a.group) i j))) ∧
  ∀ (s : State) (id : Nat) (o : Op) (i : Instr), s.msg = some (.tileWordComplete id) → mapGet s.ops id = some o → o.kind = .word i → o.poison = 0 → o.clobber = [] →
    let gi := (getWarp s o.warp).group
    let g := homeGroup s o.warp
    let half := homeHalf s o.warp
    let arg (k : Nat) : Nat := o.args.getD k 0
    let done (t : State) : Prop := exec .tileWordComplete s = .next t ∧ mapGet t.ops id = none ∧ t.mem = s.mem ∧ t.arrays = s.arrays ∧ ∀ k, k ≠ gi → getGroup t k = getGroup s k
    let cells (t : State) (P : Nat → Nat → Nat → Word → Prop) : Prop := getGroup t gi = { g with tiles := (getGroup t gi).tiles } ∧
      ∀ h z r k, h < 2 → z < 24 → r < 128 → k < 128 → if h = half then P z r k (tileWord (getGroup t gi) h z r k) else tileWord (getGroup t gi) h z r k = tileWord g h z r k
    let feeds (z : Nat) : Prop := ∃ e ∈ s.ops, e.1 < id ∧ histTile e.2.kind = some z ∧ (getWarp s e.2.warp).group = gi ∧ homeHalf s e.2.warp = half
    let fed (t : State) (z : Nat) (f : Nat → Nat) : Prop := getGroup t gi = { g with hist := (getGroup t gi).hist } ∧
      ∀ b, b < 256 → histBinOf g half z b ≤ 0xFFFFFFFF → histBinOf (getGroup t gi) half z b = f b
    (∀ c, i = .mfenceOp c →
      (∀ e ∈ s.ops, e.1 < id → e.2.warp = o.warp → (∃ c k f ty v m, e.2.kind = .word (.sts c k f ty v m)) → exec .tileWordComplete s = .next s) ∧
      (storesBefore s id o.warp = false → ∃ t, done t ∧ getGroup t gi = { g with unfenced := (getGroup t gi).unfenced } ∧
        ∀ k, mapGet (getGroup t gi).unfenced k = (mapGet g.unfenced k).map fun y =>
          if y.warp = o.warp ∧ y.copy = none ∧ k < 2 ^ 23 ∧ y.op < id then { y with fenced := true, known := if o.warp ∈ y.known then y.known else o.warp :: y.known } else y)) ∧
    (∀ c (z : Fin 24) a, i = .zclr c (.z z) a → ∃ t, done t ∧ cells t fun z' r k v => v = if z' = z.val then BitVec.ofNat 32 (arg 0) else tileWord g half z' r k) ∧
    (∀ (h : Option Bool) (z : Fin 24), (h.isSome → z.val + 1 < 24) → arg 0 < 128 →
      let cell (u e : Nat) : Nat × Nat := match h with
        | none => (z.val, 4 * u + e)
        | some b => (z.val + e % 2, 64 * b.toNat + 2 * u + e / 2)
      (∀ c (d : BitVec 9) b, i = .zld c h (.v d) (.z z) b → ∃ t, done t ∧ getGroup t gi = g ∧ ∃ V : Nat → Nat, Returned s t o.warp d.toNat 4 o.lanes V ∧
        ∀ u e, u < 32 → e < 4 → BitVec.ofNat 32 (V u / 2 ^ (32 * e)) = tileWord g half (cell u e).1 (arg 0) (cell u e).2) ∧
      ∀ c d b, i = .zst c h d (.z z) b → ∃ t, done t ∧ cells t fun z' r k v =>
        (∀ u e, u < 32 → e < 4 → o.lanes.getLsbD u = true → (z', r, k) = ((cell u e).1, arg 0, (cell u e).2) → v = BitVec.ofNat 32 ((partOf o u).val.toNat / 2 ^ (32 * e))) ∧
        ((∀ u e, u < 32 → e < 4 → o.lanes.getLsbD u = true → (z', r, k) ≠ ((cell u e).1, arg 0, (cell u e).2)) → v = tileWord g half z' r k)) ∧
    (∀ c d a b, i = .bload c d a b →
      let n := arg 0
      let dst := arg 1
      let src := arg 2
      ((lineOf g half (src / 128 + arg 3)).full = false → exec .tileWordComplete s = .next s) ∧
      (0 < n → arg 3 = 0 → o.args.length = 4 → dst + 128 * n ≤ 2 ^ 21 → (∀ k, k < n → (lineOf g half (src / 128 + k)).full = true ∧ markPending s o.warp id (src / 128 + k) = false) → ∃ t, done t ∧
        getGroup t gi = { g with bstack := (getGroup t gi).bstack, unfenced := (getGroup t gi).unfenced } ∧
        ∀ y, y < 2 ^ 21 → bstackByte (getGroup t gi) half y = if dst ≤ y ∧ y < dst + 128 * n then some (scrByte g half (src + (y - dst))) else bstackByte g half y)) ∧
    (∀ z : Fin 24,
      let counts (l : List Nat) (b : Nat) : Nat := min (histBinOf g half z.val b + (l.filter fun v => v / 2 ^ 23 % 256 == b).length) 0xFFFFFFFF
      (∀ c ty a, i = .qhist c ty (.z z) a → (feeds z.val → exec .tileWordComplete s = .next s) ∧
        (¬ feeds z.val → ∃ t, done t ∧ fed t z.val (counts ((laneList o.lanes).map fun u => (partOf o u).val.toNat)))) ∧
      (∀ c a b, i = .qhistRows c (.z z) a b → (feeds z.val → exec .tileWordComplete s = .next s) ∧
        (¬ feeds z.val → ∃ t, done t ∧ fed t z.val (counts ((List.range (128 * arg 1)).map fun k => (tileWord g half z.val (arg 0 + k / 128) (k % 128)).toNat)))) ∧
      (∀ c, i = .qhistClr c (.z z) → (feeds z.val → exec .tileWordComplete s = .next s) ∧ (¬ feeds z.val → ∃ t, done t ∧ fed t z.val fun _ => 0)) ∧
      ∀ c (t6 : Bool) (d : BitVec 9) b, i = .qscale c t6 (.v d) (.z z) b → (feeds z.val → exec .tileWordComplete s = .next s) ∧
        (¬ feeds z.val → ∃ t e, done t ∧ getGroup t gi = g ∧ ScaleRule (histBinOf g half z.val) (arg 0) (if t6 then 8 else 12) e ∧ Returned s t o.warp d.toNat 1 o.lanes fun _ => e)) ∧
    ∀ c (t6 : Bool) (p : BitVec 8) d (z : Fin 24) b, i = .qpack c t6 p d (.z z) ∨ i = .qpackE c t6 d (.z z) b →
      let l := layoutOf (if t6 then 2 else 1)
      let size := if t6 then 12800 else 16896
      let a := 128 * arg 0
      let bar (k : Nat) : Bool := (lineOf g half k).bar
      arg 1 = size / 128 → a + size ≤ 2 ^ 20 →
      (o.phase = .ready → (∀ q ∈ o.parts, ∀ k ∈ linesOf q.va q.n, lineHeld s id o k = false) →
        ∀ n, n < arg 1 → bar (arg 0 + n) = true → (∀ k, k < n → bar (arg 0 + k) = false) → (∀ v, o.lanes.getLsbD v = true → condAt s o.warp v ≠ .ended) →
        exec .tileWordComplete s = .next (deliver (finishOp s id) o.warp o.pc ((laneList o.lanes).map fun v => { lane := v, cause := causeBarclobber, addr := 128 * (arg 0 + n) }))) ∧
      (o.phase = .ready → (∀ q ∈ o.parts, ∀ k ∈ linesOf q.va q.n, lineHeld s id o k = false) → (∀ k, k < arg 1 → bar (arg 0 + k) = false) → ∃ t, exec .tileWordComplete s = .next t ∧
        mapGet t.ops id = some { o with phase := .asked, parts := [] } ∧ getGroup t gi = { g with lines := (getGroup t gi).lines } ∧
        ∀ k, lineOf (getGroup t gi) half k = if arg 0 ≤ k ∧ k < arg 0 + arg 1 then { lineOf g half k with full := false } else lineOf g half k) ∧
      (o.phase = .asked → (∀ e ∈ s.ops, e.2.phase ≠ .lines) → (∀ k, k < arg 1 → bar (arg 0 + k) = false) → ∃ t, exec .tileWordComplete s = .next t ∧
        mapGet t.ops id = none ∧ t.mem = s.mem ∧ (∀ k, k ≠ gi → getGroup t k = getGroup s k) ∧ getGroup t gi = { g with scratch := (getGroup t gi).scratch, lines := (getGroup t gi).lines, unfenced := (getGroup t gi).unfenced } ∧
        (∀ k, k < arg 1 → lineSettled s gi half (arg 0 + k) none (some id) = true → (lineOf (getGroup t gi) half (arg 0 + k)).full = true) ∧
        (∀ y, y < 2 ^ 20 → ¬ (a ≤ y ∧ y < a + size) → scratchAt t gi half y = scratchAt s gi half y) ∧
        ∀ r k, r < 128 → k < 128 / l.kstep →
          let byte (y : Nat) : Nat := (scratchAt t gi half (a + l.block * k + y)).toNat
          let word (m : Nat) : Nat := (tileWord g half z.val r (l.kstep * k + m)).toNat
          ∀ q, q < l.nq →
            let e := byte (128 * l.sl + l.nq * r + q)
            (i = .qpackE c t6 d (.z z) b → arg 2 ≤ 0xFE → e = arg 2) ∧
            (i = .qpack c t6 p d (.z z) → ScaleRule (fun v => (((List.range 32).map fun m => word (32 * q + m)).filter fun y => y / 2 ^ 23 % 256 == v).length) (p.toNat + 1)
              (if t6 then 8 else 12) e) ∧
            ∀ m, m < 32 →
              let code := sliceElem (fun y => byte (l.sl * r + y)) l.bits (32 * q + m)
              match readsAs .f32 false (word (32 * q + m)) with
              | .nan _ => code = 2 ^ (l.bits - 1)
              | .inf neg => code = if neg then 2 ^ (l.bits - 1) + 1 else 2 ^ (l.bits - 1) - 1
              | .num neg y => if y = 0 then code = 0 else TapCode l.bits neg (y / (2 : Rat) ^ ((e : Int) - 127)) code)

/-! ### Graphs -/

/-- R383, R385 to R392: what the graph words do. GFIRE holds its set until the engine has answered: 15 for a stale warp or an address that is no node of a running graph, the status of a node that is not WAITING, a FUNC node inline or a wait where its queue is full, else 1 and the node is READY at the tail of its queue. GFIRE.END completes the innermost inline node and pops its frame, or ends its threads as EXIT does; GFAIL fails the running node with CAUSE 1, retried while its budget lasts. GTOKEN posts each lane's tokens in lane order. GARG reads the word at ARGS + off as a load at DEVICE scope; GARG.ADDR, GARG.INDEX and the forms of GSTAT give what the engine holds. It rests on the model's readings of log 65, 66, 67. -/
def Obligations.GraphWordsActOnNodes : Prop :=
  (∀ (s : State) (c : Ctl) (w : Nat) (set act : Lanes), Issues s c w set act → NoStale s (getWarp s w).iface →
    let u := advance s w set
    let i0 := issueAt s w set act
    let x := getWarp s w
    let once (o : Opd) (k : Nat) : Nat := readsOnce s w act o k
    let node := runningNode s x
    let plain (i : Instr) (args : List Nat) : Prop := ∃ o, exec i s = .next (newOp u o) ∧ o.warp = w ∧ o.kind = .word i ∧ o.lanes = act ∧ o.cf = setOf c ∧
      o.phase = .ready ∧ o.poison = 0 ∧ o.clobber = [] ∧ o.args = args ∧ o.parts = []
    (∀ a d, let va := once a 2
      let is : List Instr := [.gfire c (some d) a, .gfire c none a, .gstat c d a, .gstatG c d a]
      (va % 64 ≠ 0 → ∀ i ∈ is, exec i s = .next (trapSet u i0 causeAlign 0 va)) ∧
      ∀ pa e, va % 64 = 0 → va + 64 ≤ 2 ^ 48 → Allows s w { r := true } va pa e →
        (∀ i ∈ is.drop 2, ∃ o tl, exec i s = .next { newOp u o with tlb := tl } ∧ o.warp = w ∧ o.kind = .word i ∧ o.lanes = act ∧ o.cf = setOf c ∧ o.phase = .ready ∧
          o.args = [va] ∧ o.parts.map (fun p => (p.va, p.pa, p.n, p.st)) = [(va, pa, 64, PartSt.ok)]) ∧
        (mapWf s.graphs = true → (∀ t, t < 32 → act.getLsbD t = true → t < x.threads.length ∧ condAt s w t = .ready) →
          ∀ i ∈ is.take 2, ∃ t o, exec i s = .next t ∧ mapGet t.ops s.next = some o ∧ o.warp = w ∧ o.kind = .word i ∧ o.lanes = act ∧ o.cf = setOf c ∧
            Fired { setCond u w act (fun _ => .waiting (.held s.next)) i0.pc with tlb := t.tlb } t s.next w act i0.pc va)) ∧
    (let live (t : Nat) : Prop := t < x.threads.length ∧ condAt s w t ≠ .ended
      let quiet : Prop := ∀ t, live t → (threadOf x t).sub = 0 ∧ (set.getLsbD t = true ∨ ∀ k, condAt s w t ≠ .waiting k)
      (x.frames = [] → node = none → exec (.gfireEnd c) s = .next (trapSet u i0 causeOperand)) ∧
      (x.frames = [] → node ≠ none → exec (.gfireEnd c) s = exec (.exit c) s) ∧
      ∀ f r, x.frames = f :: r →
        (¬ quiet → exec (.gfireEnd c) s = .next (trapSet u i0 causeOperand)) ∧
        (quiet → f.marked = true → ∃ t, exec (.gfireEnd c) s = .next t ∧ Popped u t w 5 ∧
          (f.node < (getGraph s f.graph).nodes.length → (nodeOf s f.graph f.node).st = .cancelling → (nodeOf t f.graph f.node).st = .cancelled ∧
            (getGraph t f.graph).cancelled = (getGraph s f.graph).cancelled + 1)) ∧
        (quiet → f.marked = false → ∃ t, exec (.gfireEnd c) s = .next t ∧ Popped u t w 3 ∧
          (f.node < (getGraph s f.graph).nodes.length → (nodeOf s f.graph f.node).st = .running → (nodeOf t f.graph f.node).st = .done ∧
            (getGraph t f.graph).done = (getGraph s f.graph).done + 1))) ∧
    (∀ a, let i := Instr.gfail c a
      (node = none → exec i s = .next (trapSet u i0 causeOperand)) ∧
      ∀ g n, node = some (g, n) → n < (getGraph s g).nodes.length →
        let y := nodeOf s g n
        let k := min (y.attempts + 1) 255
        let failed (st : NodeSt) : Node := { y with attempts := k, cause := 1, code := once a 1 % 256, st := st }
        (y.st ≠ .running → exec i s = exec (.exit c) s) ∧
        (y.st = .running → x.frames = [] → ∀ l, y.launch = some l → ∃ t, exec i s = .next t ∧
          (let z := nodeOf t g n
           z.st = (if k ≤ y.retries then .retry else .failed) ∧ z.attempts = k ∧ z.cause = 1 ∧ z.code = once a 1 % 256) ∧
          (∀ v z, mapGet s.warps v = some z → z.launch = l → z.retired = false → mapWf s.warps = true → (∃ la, mapGet s.launches l = some la) → (getWarp t v).stop = true) ∧
          ∀ v, v < 32 → act.getLsbD v = true → v < x.threads.length → condAt t w v = .ended) ∧
        (y.st = .running → x.frames ≠ [] → ∃ t, exec i s = .next t ∧ Popped u t w (if k ≤ y.retries then 7 else 4) ∧
          nodeOf t g n = { failed (if k ≤ y.retries then .ready else .failed) with launch := none, copy := none, child := none, inlineWarp := none, signal := none })) ∧
    (∀ d a b, let i := Instr.gtoken c d a b
      let va (t : Nat) := reads s w a 2 t
      let n (t : Nat) := reads s w b 1 t
      ∀ (pa : Nat → Nat) (e : Nat → DWord), (∀ t, t < 32 → act.getLsbD t = true → va t % 64 = 0 ∧ va t + 64 ≤ 2 ^ 48 ∧ Allows s w { r := true } (va t) (pa (va t)) (e (va t))) →
        let known (t : Nat) : Prop := runningStale s x = false ∧ nodeAt s x.iface (va t) ≠ none
        ((∀ t, t < 32 → act.getLsbD t = true → known t → 0 < n t ∧ n t ≤ 65535) → ∃ o tl, exec i s = .next { newOp u o with tlb := tl } ∧ o.warp = w ∧ o.kind = .word i ∧
          o.lanes = act ∧ o.cf = setOf c ∧ o.phase = .ready ∧ o.poison = 0 ∧ o.clobber = [] ∧
          o.parts.map (fun p => (p.lane, p.va, p.val, p.st)) = (laneList act).map fun t => (t, va t, BitVec.ofNat 128 (n t), PartSt.ok)) ∧
        ((∀ t, t < 32 → act.getLsbD t = true → known t ∧ (n t = 0 ∨ 65535 < n t)) → exec i s = .next (trapSet u i0 causeOperand))) ∧
    (∀ d a, let i := Instr.garg c d a
      let off (t : Nat) := reads s w a 1 t
      (node = none → exec i s = .next (trapSet u i0 causeOperand)) ∧
      ∀ g n, node = some (g, n) →
        let at_ (t : Nat) : Nat := ((nodeOf s g n).args + off t) % 2 ^ 64
        ((nodeOf s g n).args = 0 → exec i s = .next (deliver u w i0.pc ((laneList act).map fun t => { lane := t, cause := causeAccess, addr := at_ t }))) ∧
        ((nodeOf s g n).args ≠ 0 → (nodeOf s g n).args % 4 = 0 → (∀ t, t < 32 → act.getLsbD t = true → off t % 4 ≠ 0) →
          exec i s = .next (deliver u w i0.pc ((laneList act).map fun t => { lane := t, cause := causeAlign, addr := at_ t }))) ∧
        ((nodeOf s g n).args ≠ 0 → (nodeOf s g n).args % 4 = 0 → (∀ t, t < 32 → act.getLsbD t = true → off t % 4 = 0) →
          Requests s w set act c i .device { r := true } false (fun t => [(0, at_ t, 4)]) (fun _ => 0) fun _ => 0)) ∧
    (∀ d, (node = none → ∀ i ∈ [Instr.gargAddr c d, .gargIndex c d], exec i s = .next (trapSet u i0 causeOperand)) ∧
      (∀ g n, node = some (g, n) → plain (.gargAddr c d) [(getGraph s g).hdr + 64 + 64 * n] ∧ plain (.gargIndex c d) [n]) ∧
      plain (.gstatD c d) [x.gdepth * 16 + x.frames.length])) ∧
  (∀ (s : State) (w id : Nat) (o : Op) (c : Ctl) (d : Option Opd) (a : Opd) (va : Nat) (m : Lanes), s.msg = some (.inlineFireRetest w) → (getWarp s w).resident = true →
    mapGet s.ops id = some o → mapWf s.ops = true → mapWf s.graphs = true → o.warp = w → o.kind = .word (.gfire c d a) → o.args = [va] →
    (∀ u, u < 32 → (m.getLsbD u = true ↔ u < (getWarp s w).threads.length ∧ condAt s w u = .waiting (.fire id))) → m ≠ 0 →
    (∀ u, u < 32 → o.lanes.getLsbD u = true ↔ m.getLsbD u = true ∨ (o.lanes.getLsbD u = true ∧ (u < (getWarp s w).threads.length → condAt s w u = .ended))) →
    (∀ k u, condAt s w u = .waiting (.fire k) → k = id) → ∃ t, exec .inlineFireRetest s = .next t ∧ Fired s t id w m o.pc va) ∧
  ∀ (s : State) (id : Nat) (o : Op) (i : Instr), s.msg = some (.memoryReply id) → mapGet s.ops id = some o → o.kind = .word i → o.phase = .ready → o.poison = 0 → o.clobber = [] →
    (∀ p ∈ o.parts, ∀ k, p.st ≠ .failed k) →
    let x := getWarp s o.warp
    let arg := o.args.getD 0 0
    let walked : Prop := ∀ p ∈ o.parts, p.st = .ok
    let gives (d : Opd) (v : Nat) : Prop := ∃ t, exec .memoryReply s = .next t ∧ mapGet t.ops id = none ∧ t.mem = s.mem ∧ t.graphs = s.graphs ∧
      ∀ n, d = .v n → Returned s t o.warp n.toNat 1 o.lanes fun _ => v
    (∀ c d a v, i = .gfire c (some d) a → o.args = [arg, v] → v < 2 ^ 32 → gives d v) ∧
    (∀ c a v, i = .gfire c none a → o.args = [arg, v] → ∃ t, exec .memoryReply s = .next t ∧ mapGet t.ops id = none ∧ t.mem = s.mem ∧ t.graphs = s.graphs) ∧
    (∀ c d a m, i = .gfire c d a → o.args = [arg] → walked → mapWf s.graphs = true → m ≠ 0 →
      (∀ u, u < 32 → (m.getLsbD u = true ↔ u < x.threads.length ∧ condAt s o.warp u = .waiting (.held id))) → (∀ u, u < 32 → m.getLsbD u = true → o.lanes.getLsbD u = true) →
      (∀ u, u < x.threads.length → u < 32 → o.lanes.getLsbD u = true → condAt s o.warp u ≠ .ended → m.getLsbD u = true) →
      (∀ u, condAt s o.warp u ≠ .waiting (.fire id)) → ∃ t, exec .memoryReply s = .next t ∧ Fired s t id o.warp m o.pc arg) ∧
    (∀ c d a, i = .gstat c d a → walked → (∀ g n, nodeAt s x.iface arg = some (g, n) → let y := nodeOf s g n
        y.code < 256 → y.cause < 256 → y.attempts < 256 → gives d (y.code * 2 ^ 24 + y.cause * 2 ^ 16 + y.attempts * 256 + nodeCode y.st)) ∧
      (nodeAt s x.iface arg = none → gives d 15)) ∧
    (∀ c d a, i = .gstatG c d a → walked → (∀ g, graphAt s x.iface arg = some g → let y := getGraph s g
        gives d (2 ^ 29 + (y.done + y.cancelled + y.failed) % 2 ^ 24)) ∧
      (graphAt s x.iface arg = none → ∀ p, o.parts = [p] → p.ord ≠ 1 → p.priv = false → p.n = 64 →
        let byte (k : Nat) : Byte := viewByte s o.core (readLevel s o.core 2 p.words p.imm) (p.pa + k)
        let field (k : Nat) : Nat := leVal ((List.range 4).map fun j => byte (k + j))
        gives d (field 4 % 8 * 2 ^ 29 + (field 12 + field 16 + field 20) % 2 ^ 24))) ∧
    (∀ c d, i = .gargIndex c d ∨ i = .gstatD c d → arg < 2 ^ 32 → gives d arg) ∧
    (∀ c (n : BitVec 9), i = .gargAddr c (.v n) → ∃ t, exec .memoryReply s = .next t ∧ mapGet t.ops id = none ∧ t.mem = s.mem ∧ Returned s t o.warp n.toNat 2 o.lanes fun _ => arg) ∧
    (∀ c (n : BitVec 9) a, i = .garg c (.v n) a → forwardedTo s o 2 (readyLanes s id o) = [] → PartsApart o.parts → PartsAligned o.parts → o.parts ≠ [] → opLevel s o = 2 → o.acks = 0 →
      (∀ p ∈ o.parts, p.st = .ok ∧ p.ord ≠ 1 ∧ p.priv = false ∧ (readyLanes s id o).getLsbD p.lane = true ∧ NotPrivate s x.iface p.va p.n) →
      ∃ (t : State) (V : Nat → Nat), exec .memoryReply s = .next t ∧ mapGet t.ops id = none ∧
        (∀ u, u < 32 → Gathers o.parts u (V u) fun p a => viewByte s o.core (readLevel s o.core 2 p.words p.imm) a) ∧ Returned s t o.warp n.toNat 1 o.lanes V) ∧
    (∀ c d a b p, i = .gtoken c d a b → walked → o.parts = [p] → (p.val.toNat = 0 ∨ 65535 < p.val.toNat) → runningStale s x = false →
      nodeAt s x.iface p.va ≠ none → x.resident = true → p.lane < 32 → condAt s o.warp p.lane ≠ .ended → o.lanes = BitVec.twoPow 32 p.lane →
      ∃ t, mapGet t.ops id = none ∧ t.graphs = s.graphs ∧ t.mem = s.mem ∧
        exec .memoryReply s = .next (deliver t o.warp o.pc [{ lane := p.lane, cause := causeOperand }])) ∧
    ∀ c d a b, i = .gtoken c d a b → walked → o.parts ≠ [] → mapWf s.graphs = true → (o.parts.map (·.lane)).Nodup →
      (∀ p ∈ o.parts, p.off = 0 ∧ 0 < p.val.toNat ∧ p.val.toNat ≤ 65535) → ∃ (S : Nat → State) (V : Nat → Nat) (t : State), exec .memoryReply s = .next t ∧
      mapGet t.ops id = none ∧ S 0 = s ∧ (∀ k p, o.parts[k]? = some p →
        let named := if runningStale (S k) (getWarp (S k) o.warp) = true then none else nodeAt (S k) x.iface p.va
        (named = none → S (k + 1) = S k ∧ V p.lane = 15) ∧
        ∀ g n, named = some (g, n) → Posted (S k) (S (k + 1)) g n p.val.toNat ∧ V p.lane = nodeCode (nodeOf (S (k + 1)) g n).st) ∧
      t = { S o.parts.length with warps := t.warps, ops := t.ops } ∧
      ((∀ u, o.lanes.getLsbD u = true → ∃ p ∈ o.parts, p.lane = u) → ∀ n, d = some (.v n) → Returned s t o.warp n.toNat 1 o.lanes V)

/-- R371 to R382: what the engine holds of graphs. A launch takes the head of its interface's launch queue, is refused for what R374 names, and otherwise starts a graph whose nodes are those of its records, with the nodes that need no token READY in index order. Dispatch takes the first node of the highest queue that is not empty and begins its work by its kind. A node that completes is DONE and posts a token to each successor in order; a failed one is retried, or FAILED, and the nodes that can be reached from it and have not begun are CANCELLED. A graph ends when no node of it is active: its slot is free, and its parent completes where nothing failed or was cancelled and else fails with CAUSE 5. It rests on the model's readings of log 63, 64, 68. -/
def Obligations.GraphsRunTheirNodes : Prop :=
  (∀ (s : State) (iface hdr : Nat) (q : List (Nat × Option (Nat × Nat))), s.msg = some (.graphLaunch iface hdr none false) →
    ((getIface s iface).launchq.head? ≠ some (hdr, none) → exec .graphLaunch s = .next s) ∧
    ((getIface s iface).launchq = (hdr, none) :: q → (∀ e ∈ s.engineWaits, e.2.denied = false) →
      (launchMay s = false → exec .graphLaunch s = .next s) ∧
      (launchMay s = true →
        let x := getIface s iface
        let s0 := setIface s iface { x with launchq := q }
        let m := Msg.graphLaunch iface hdr none true
        let refused (code : Nat) : Prop := exec .graphLaunch s = .next (refusalRecord s0 iface code hdr)
        let h (off n : Nat) : Nat := vNat s iface (hdr + off) n
        let rec_ (i off n : Nat) : Nat := vNat s iface (hdr + 64 + 64 * i + off) n
        let nodes := h 0 4
        let succ (i k : Nat) : Nat := if k < 5 then rec_ i (0x20 + 4 * k) 4 else vNat s iface (rec_ i 0x38 8 + 4 * (k - 5)) 4
        let badH : Prop := nodes = 0 ∨ 2 ^ 24 ≤ nodes ∨ h 4 4 % 8 = 1 ∨ 8 ≤ h 4 4 ∨ 128 ≤ h 8 4 ∨ h 0x38 8 ≠ 0 ∨ (∃ o ∈ [0x0C, 0x10, 0x14, 0x30], 2 ^ 24 ≤ h o 4) ∨ h 0x20 8 % 8 ≠ 0 ∨
          ∃ e ∈ s.graphs, e.2.iface = iface ∧ e.2.hdr = hdr ∧ e.2.ended = false
        let badR (i : Nat) : Prop := rec_ i 3 1 ≠ 0 ∨ 64 ≤ rec_ i 0 1 ∨ 16 ≤ rec_ i 8 1 ∨ 2 ^ 24 ≤ rec_ i 0x34 4 ∨ rec_ i 0x0C 4 ≠ i ∨ 4 < rec_ i 0 1 % 16 ∨
          (∃ k, k < max 5 (rec_ i 2 1) ∧ 2 ^ 24 ≤ succ i k) ∨ (∃ k, k < rec_ i 2 1 ∧ nodes ≤ succ i k) ∨ (∃ j k, j < k ∧ k < rec_ i 2 1 ∧ succ i j = succ i k) ∨
          (rec_ i 2 1 ≤ 5 ∧ rec_ i 0x38 8 ≠ 0) ∨ (rec_ i 0 1 % 16 = 1 ∧ h 0x18 8 = 0)
        (x.stopped = true → refused 20) ∧ (x.stopped = false → x.resetting = true → refused 18) ∧
        (x.stopped = false → x.resetting = false →
          (hdr % 64 ≠ 0 → refused 16) ∧
          (hdr % 64 = 0 →
            (∀ va need, engineRuns s m iface [(hdr, 64, { r := true, w := true })] = .park va need → exec .graphLaunch s = .next (parkEngine s0 m iface va need)) ∧
            (∀ c va, engineRuns s m iface [(hdr, 64, { r := true, w := true })] = .fail c va → refused 16) ∧
            (engineRuns s m iface [(hdr, 64, { r := true, w := true })] = .ok → (badH → refused 16) ∧
              (¬ badH → (∀ c va, engineRuns s m iface (launchRuns s iface hdr) = .fail c va → refused 16) ∧
                (engineRuns s m iface (launchRuns s iface hdr) = .ok → (∀ i, i < nodes → badR i → refused 16) ∧
                  ((∀ i, i < nodes → ¬ badR i) → (∃ i, i < nodes ∧ rec_ i 4 2 = 0) → ∃ t, exec .graphLaunch s = .next t ∧
                    let g := getGraph t s.next
                    g.iface = iface ∧ g.hdr = hdr ∧ g.irq = (h 8 4).testBit 6 ∧ g.vector = h 8 4 % 64 ∧ g.funcrec = h 0x18 8 ∧ g.cword = h 0x20 8 ∧ g.parent = none ∧
                    g.runs.toNat = (h 0x34 4 + 1) % 2 ^ 32 ∧ g.done = 0 ∧ g.cancelled = 0 ∧ g.failed = 0 ∧ g.ended = false ∧ g.nodes.length = nodes ∧
                    (∀ i, i < nodes → let y := nodeOf t s.next i
                      y.kind = rec_ i 0 1 % 16 ∧ y.prio = rec_ i 0 1 / 16 ∧ y.retries = rec_ i 1 1 ∧ y.need = rec_ i 4 2 ∧ y.held = 0 ∧ y.code = 0 ∧ y.cause = 0 ∧ y.attempts = 0 ∧
                      y.st = (if rec_ i 4 2 = 0 then .ready else .waiting) ∧ y.target = rec_ i 0x10 8 ∧ y.args = rec_ i 0x18 8 ∧ y.succ = (List.range (rec_ i 2 1)).map (succ i)) ∧
                    (getIface t iface).ready = x.ready.mapIdx fun p l => l ++ ((List.range nodes).filter fun i => rec_ i 4 2 == 0 && rec_ i 0 1 / 16 == p).map fun i => (s.next, i)))))))))) ∧
  (∀ (s : State) (iface g n p : Nat) (q : List (Nat × Nat)), s.msg = some (.nodeDispatch iface none) →
    ((∀ l ∈ (getIface s iface).ready, l = []) → exec .nodeDispatch s = .next s) ∧
    ((getIface s iface).ready[p]? = some ((g, n) :: q) → (∀ k l, p < k → (getIface s iface).ready[k]? = some l → l = []) → (g, n) ∉ q →
      n < (getGraph s g).nodes.length → (getGraph s g).iface = iface → (nodeOf s g n).prio = p → mapWf s.warps = true → (∀ w u k, condAt s w u ≠ .waiting (.fire k)) →
      (∀ e ∈ s.engineWaits, e.2.denied = false) → (getGraph s g).closed = false →
      let y := nodeOf s g n
      let m := Msg.nodeDispatch iface (some (g, n, y.attempts))
      let left (t : State) : Prop := (getIface t iface).ready = (getIface s iface).ready.set p q
      let fails (t : State) (code : Nat) : Prop := let k := min (y.attempts + 1) 255
        exec .nodeDispatch s = .next t ∧ nodeOf t g n = { y with
          st := if k ≤ y.retries then .ready else .failed, attempts := k, cause := 3, code := code % 256, launch := none, copy := none, child := none, inlineWarp := none, signal := none }
      let field (off k : Nat) : Nat := if y.args = 0 then 0 else vNat s iface (y.args + off) k
      (y.kind = 4 → ∃ t, exec .nodeDispatch s = .next t ∧ left t ∧ nodeOf t g n = { y with st := .running } ∧ t.mem = s.mem ∧
        (getIface t iface).launchq = (getIface s iface).launchq ++ [(y.target, some (g, n))]) ∧
      (y.kind = 2 → (y.args = 0 ∨ engineRuns s m iface [(y.args, 16, { r := true })] = .ok) →
        (2 ^ 40 < field 8 8 → ∃ t, fails t 8) ∧
        (field 8 8 ≤ 2 ^ 40 → ∃ t c, exec .nodeDispatch s = .next t ∧ left t ∧ nodeOf t g n = { y with st := .running, copy := some s.next } ∧ t.mem = s.mem ∧
          mapGet t.copies s.next = some c ∧ c.kind = .node (field 0 8) y.target (field 8 8) ∧ c.bytes = field 8 8 ∧ c.node = some (g, n) ∧ c.iface = iface ∧ c.st = .queued)) ∧
      (y.kind = 3 → y.signal = none →
        (y.target % 8 ≠ 0 → ∃ t, fails t 4) ∧
        (y.target % 8 = 0 → (y.args = 0 ∨ engineRuns s m iface [(y.args, 16, { r := true })] = .ok) → ∃ t, exec .nodeDispatch s = .next t ∧ left t ∧ t.mem = s.mem ∧
          nodeOf t g n = { y with st := .running, signal := some (field 0 8, field 8 1 % 128) } ∧ t.net = s.net ++ [⟨none, m, 0⟩])) ∧
      (y.kind = 2 ∨ (y.kind = 3 ∧ y.signal = none ∧ y.target % 8 = 0) → y.args ≠ 0 → ∀ c va, engineRuns s m iface [(y.args, 16, { r := true })] = .fail c va → ∃ t, fails t 8) ∧
      (y.kind = 0 ∨ y.kind = 1 → (getIface s iface).stopped = true → ∃ t, fails t 20) ∧
      (y.kind = 0 ∨ y.kind = 1 → (getIface s iface).stopped = false →
        let va := if y.kind = 1 then (getGraph s g).funcrec else y.target
        let r := parseRecord (vWords s iface va 40) (vWords s iface (va + 0xA0) (vNat s iface (va + 0x0E) 2 % 1024))
        let kernel : Bool := y.kind == 0
        let count := if kernel && y.args ≠ 0 && vNat s iface y.args 4 ≠ 0 then vNat s iface y.args 4 else if kernel then r.groups else 1
        (va % 64 ≠ 0 → ∃ t, fails t 9) ∧
        (va % 64 = 0 → engineRuns s m iface [(va, 0xA0, { r := true })] = .ok → engineRuns s m iface (recordRuns s iface va) = .ok →
          (kernel = false ∨ y.args = 0 ∨ engineRuns s m iface [(y.args, 16 + argBytes r, { r := true })] = .ok) →
          (∀ c, launchCode s iface r (some count) true (!kernel) = some c → ∃ t, fails t c) ∧
          (launchCode s iface r (some count) true (!kernel) = none → ∃ t la, exec .nodeDispatch s = .next t ∧ left t ∧ nodeOf t g n = { y with st := .running, launch := some s.next } ∧
            t.mem = s.mem ∧ mapGet t.launches s.next = some la ∧ la.record = r ∧ la.count = count ∧ la.node = some (g, n) ∧ la.iface = iface ∧ la.seq = (getIface s iface).seq.toNat ∧
            la.entry = (if kernel then 0 else y.target) ∧ la.ps = (if kernel then field 4 4 else 0) ∧ la.pb = (if kernel then field 8 8 else 0) ∧
            la.func = !kernel ∧ la.code = codeImage s iface r ∧ la.kinit = kInit r (if kernel && y.args ≠ 0 then vWords s iface (y.args + 16) (argBytes r / 4) else []) ∧
            (getIface t iface).seq = (getIface s iface).seq + 1 ∧ (getIface t iface).places = ((getIface s iface).places ++ [(⟨g, n, none⟩ : Place)]).map fun p =>
              if p.launch = none ∧ p.graph = g ∧ p.node = n then { p with launch := some s.next } else p))))) ∧
  (∀ (s : State) (iface g n v how : Nat), s.msg = some (.nodeDispatch iface (some (g, n, (nodeOf s g n).attempts))) → (getGraph s g).iface = iface → n < (getGraph s g).nodes.length →
    let y := nodeOf s g n
    y.kind = 3 → y.st = .running → y.launch = none → y.copy = none → y.child = none → y.inlineWarp = none → y.signal = some (v, how) → y.succ = [] →
    (∃ k, k ≠ n ∧ activeNode (nodeOf s g k) = true) → (∀ e ∈ s.engineWaits, e.2.denied = false) → how < 128 → (getGraph s g).closed = false →
    ∀ pa e p c, (y.target = 0 ∨ (y.target % 8 = 0 ∧ checkPage s engineUnit iface y.target { r := true, w := true } = .ok pa e (.ok pa e p c) ∧ pa % 8 = 0 ∧ pa + 8 ≤ Config.hbmTop ∧ hasError s pa 8 = false)) →
      ∃ t, exec .nodeDispatch s = .next t ∧ (nodeOf t g n).st = .done ∧ (getGraph t g).done = (getGraph s g).done + 1 ∧
        (y.target = 0 → t.mem = s.mem) ∧
        (y.target ≠ 0 → devNat t pa 8 = (devNat s pa 8 + v) % 2 ^ 64 ∧ ∀ a, a < 2 ^ 52 → ¬ (pa ≤ a ∧ a < pa + 8) → devByte t a = devByte s a) ∧
        (how < 64 → t.msix = s.msix) ∧ (64 ≤ how → (getIface s iface).masked.getLsbD (how % 64) = false → t.msix = s.msix ++ [msixOf s iface (how % 64)]) ∧
        (64 ≤ how → (getIface s iface).masked.getLsbD (how % 64) = true → t.msix = s.msix ∧ (getIface t iface).pending.getLsbD (how % 64) = true)) ∧
  (∀ (s : State) (g n : Nat), s.msg = some (.nodeComplete g n) → n < (getGraph s g).nodes.length → (getGraph s g).closed = false →
    let y := nodeOf s g n
    let bare (st : NodeSt) : Node := { y with st := st, launch := none, copy := none, child := none, inlineWarp := none, signal := none }
    (y.st = .running → (∀ k ∈ y.succ, k < (getGraph s g).nodes.length) → ∃ (S : Nat → State) (t : State), exec .nodeComplete s = .next t ∧
      nodeOf (S 0) g n = bare .done ∧ (getGraph (S 0) g).done = (getGraph s g).done + 1 ∧ (∀ a b, (a, b) ≠ (g, n) → nodeOf (S 0) a b = nodeOf s a b) ∧
      S 0 = { s with graphs := (S 0).graphs, ifaces := (S 0).ifaces } ∧ (∀ i, getIface (S 0) i =
        if i = (getGraph s g).iface then { getIface s i with places := (getIface s i).places.filter fun p => p.launch.isSome || p.graph != g || p.node != n } else getIface s i) ∧
      (∀ k j, y.succ[k]? = some j → Posted (S k) (S (k + 1)) g j 1) ∧
      ((∃ k, activeNode (nodeOf (S y.succ.length) g k) = true) → t = S y.succ.length) ∧
      ((getGraph s g).ended = false → (∀ k, activeNode (nodeOf (S y.succ.length) g k) = false) → (getGraph t g).ended = true)) ∧
    (y.st = .cancelling → ∃ t, exec .nodeComplete s = .next t ∧ nodeOf t g n = bare .cancelled ∧ (getGraph t g).cancelled = (getGraph s g).cancelled + 1 ∧ (getGraph t g).done = (getGraph s g).done) ∧
    (y.st = .retry → ∃ t, exec .nodeComplete s = .next t ∧ nodeOf t g n = bare .ready ∧ t.mem = s.mem ∧
      (getIface t (getGraph s g).iface).ready = readyWith s (getGraph s g).iface y.prio (g, n))) ∧
  (∀ (s : State) (g n : Nat), s.msg = some (.nodeWorkStopped g n) → n < (getGraph s g).nodes.length → (getGraph s g).ended = false → (getGraph s g).closed = false →
    let y := nodeOf s g n
    let bare (st : NodeSt) : Node := { y with st := st, launch := none, copy := none, child := none, inlineWarp := none, signal := none }
    (y.st = .cancelling → ∃ t, exec .nodeWorkStopped s = .next t ∧ nodeOf t g n = bare .cancelled ∧ (getGraph t g).cancelled = (getGraph s g).cancelled + 1) ∧
    (y.st = .retry → ∃ t, exec .nodeWorkStopped s = .next t ∧ nodeOf t g n = bare .ready ∧ (getIface t (getGraph s g).iface).ready = readyWith s (getGraph s g).iface y.prio (g, n))) ∧
  (∀ (s : State) (g n cause code : Nat), s.msg = some (.nodeFail g n cause code) → n < (getGraph s g).nodes.length → (nodeOf s g n).st = .running → cause < 6 → code < 256 → (getGraph s g).closed = false →
    (∀ k j, k < (getGraph s g).nodes.length → j ∈ (nodeOf s g k).succ → j < (getGraph s g).nodes.length) → (∀ k, (nodeOf s g k).succ.Nodup) →
    let y := nodeOf s g n
    let k := min (y.attempts + 1) 255
    let failed (st : NodeSt) : Node := { y with attempts := k, cause := cause, code := code, st := st }
    (cause ≤ 2 → ∀ l, y.launch = some l → ∃ t, exec .nodeFail s = .next t ∧ (k ≤ y.retries → nodeOf t g n = failed .retry) ∧
      (y.retries < k → let z := nodeOf t g n; z.st = .failed ∧ z.attempts = k ∧ z.cause = cause ∧ z.code = code)) ∧
    (3 ≤ cause → ∃ t, exec .nodeFail s = .next t ∧
      nodeOf t g n = { failed (if k ≤ y.retries then .ready else .failed) with launch := none, copy := none, child := none, inlineWarp := none, signal := none }) ∧
    (y.retries < k →
      let below := Relation.TransGen (fun a b => b ∈ (nodeOf s g a).succ) n
      (3 ≤ cause ∨ ∃ l, y.launch = some l) → (∀ j, j ≠ n → below j → (nodeOf s g j).st ≠ .running) → ∃ t, exec .nodeFail s = .next t ∧
        (getGraph t g).failed = (getGraph s g).failed + 1 ∧ ∀ j, j < (getGraph s g).nodes.length → j ≠ n →
          let z := nodeOf s g j
          let after (st : NodeSt) (c : Nat) : Prop := let v := nodeOf t g j; v.st = st ∧ v.cause = c ∧ v.code = z.code ∧ v.attempts = z.attempts ∧ v.held = z.held
          (¬ below j → after z.st z.cause) ∧
          (below j → match z.st with
            | .waiting | .ready => after .cancelled 6
            | .retry => after .cancelling 6
            | _ => after z.st z.cause)) ∧
    (k ≤ y.retries → y.child = none → ∃ t, exec .nodeFail s = .next t ∧ ∀ j, j ≠ n → nodeOf t g j = nodeOf s g j)) ∧
  ∀ (s : State) (g pg pn : Nat), s.msg = some (.nodeWorkStopped g 0) → (∃ x, mapGet s.graphs g = some x) →
    let x := getGraph s g
    x.ended = true → x.closed = false → x.resetting = false → x.parent = some (pg, pn) → pg ≠ g → pn < (getGraph s pg).nodes.length → (getGraph s pg).closed = false →
    engineRuns s (.nodeWorkStopped g 0) x.iface (closeRuns x) = .ok → ∃ t, exec .nodeWorkStopped s = .next t ∧ (getGraph t g).closed = true ∧
      let y := nodeOf s pg pn
      let k := min (y.attempts + 1) 255
      (y.st = .running → if x.failed = 0 ∧ x.cancelled = 0 then (nodeOf t pg pn).st = .done
        else (nodeOf t pg pn).attempts = k ∧ (nodeOf t pg pn).cause = 5 ∧ (nodeOf t pg pn).st = (if k ≤ y.retries then .ready else .failed))

/-! ### Traps -/

/-- R393 to R405: taking a trap, its queue records, and the return. The lanes of one cause outside handlers form a sub-warp: TRAPINFO with INHANDLER and the frame F0 to F7 are written, and the threads stand at CODEBASE + TRAPVEC[cause]; without an entry LATE and OWNER_LOST return to the frame's word at once, F0 being TRAPINFO as delivered (R397, R398), and every other cause ends the launch, as a trap inside a handler always does, with bit 7 of DETAIL; no thread of a launch that has ended enters a handler. Causes of one word are taken in ascending order. TRAP raises SOFTWARE with DETAIL n; TRAP.RD reads the frame; RTE, RTE.NEXT and RTE.AT send threads of a handler to their targets and clear INHANDLER, others trap OPERAND; RTE.FAIL ends the launch. A record is written at its queue's tail and raises its vector, or is dropped and counted where the queue is full. A fatal record ends every launch of its interface, which runs none until its reset. It rests on the model's readings of log 25, 26, 28. -/
def Obligations.TrapsEnterTheirHandlers : Prop :=
  (∀ (s : State) (w cause : Nat) (pc : DWord) (ts : List TrapIn), cause < 14 → ts ≠ [] → (∀ t ∈ ts, t.cause = cause ∧ t.lane < 32 ∧ t.lane < (getWarp s w).threads.length ∧ t.detail < 256) →
    (ts.map (·.lane)).Nodup →
    let x := getWarp s w
    let vec := (getLaunch s x.launch).record.trapvec.getD cause 0xFFFFFFFF
    let off : Word := (pc - codeBase s x).setWidth 32
    let inside (t : TrapIn) : Prop := (threadOf x t.lane).trapinfo.getLsbD 8 = true
    let t := deliver s w pc ts
    let framed (tr : TrapIn) (h : Nat) : Prop := let th := threadOf (getWarp t w) tr.lane
      th.trapinfo = BitVec.ofNat 32 (tr.detail * 2 ^ 16 + h + cause) ∧ th.frame = [BitVec.ofNat 32 (tr.detail * 2 ^ 16 + 256 + cause), off, BitVec.ofNat 32 tr.addr, BitVec.ofNat 32 (tr.addr / 2 ^ 32), tr.aux1, tr.aux2, tr.f6, tr.f7]
    let gone : Prop := (getLaunch s x.launch).aborted ≠ none
    ((∀ tr ∈ ts, ¬ inside tr) →
      (gone → vec ≠ 0xFFFFFFFF ∨ cause = causeLate ∨ cause = causeOwnerLost → t = s) ∧
      (¬ gone → vec ≠ 0xFFFFFFFF → OnlyThreadsSubs s t w ∧ (getWarp t w).subs = x.subs + 1 ∧
        (∀ tr ∈ ts, framed tr 256 ∧ condAt t w tr.lane = .ready ∧ pcAt t w tr.lane = codeBase s x + vec.setWidth 64 ∧ (threadOf (getWarp t w) tr.lane).sub = x.subs + 1) ∧
        ∀ u, u < x.threads.length → (∀ tr ∈ ts, tr.lane ≠ u) → (∀ m, condAt s w u ≠ .stopped m) → threadOf (getWarp t w) u = threadOf x u) ∧
      (¬ gone → vec = 0xFFFFFFFF → cause = causeLate ∨ cause = causeOwnerLost → OnlyThreads s t w ∧
        (∀ tr ∈ ts, framed tr 0 ∧ condAt t w tr.lane = .ready ∧ pcAt t w tr.lane = pc) ∧
        ∀ u, u < x.threads.length → (∀ tr ∈ ts, tr.lane ≠ u) → threadOf (getWarp t w) u = threadOf x u) ∧
      (vec = 0xFFFFFFFF → cause ≠ causeLate → cause ≠ causeOwnerLost → ∀ tr r, ts = tr :: r → TrapEnds s t w off tr)) ∧
    ((∀ tr ∈ ts, inside tr) → ∀ tr r, ts = tr :: r → tr.detail < 128 → TrapEnds s t w off { tr with detail := tr.detail + 128 })) ∧
  (∀ (s : State) (w c d : Nat) (pc : DWord) (ts us : List TrapIn), c < d → d < 14 → (∀ t ∈ ts, t.cause = c) → (∀ t ∈ us, t.cause = d) →
    deliver s w pc (ts ++ us) = deliver (deliver s w pc ts) w pc us ∧ deliver s w pc (us ++ ts) = deliver (deliver s w pc ts) w pc us ∧ deliver s w pc [] = s) ∧
  (∀ (s : State) (i : Nat) (trapq : Bool) (ws : List Word), ws.length = 8 →
    let q := queueOf (getIface s i) trapq
    let vec := if trapq then 2 else 1
    let t := plainRecord s i trapq ws
    let cap := 2 ^ q.size
    (¬ (4 ≤ q.size ∧ q.size ≤ 16) ∨ q.sump = true ∨ (q.tail + cap - q.head % cap) % cap = cap - 1 →
      t = setIface s i { getIface s i with drops := if (getIface s i).drops = 0xFFFFFFFF then 0xFFFFFFFF else (getIface s i).drops + 1 }) ∧
    (4 ≤ q.size → q.size ≤ 16 → q.sump = false → (q.tail + cap - q.head % cap) % cap < cap - 1 → q.base + 32 * q.tail + 32 ≤ Config.hbmTop →
      (∀ k, k < 8 → devNat t (q.base + 32 * q.tail + 4 * k) 4 = (ws.getD k 0).toNat) ∧
      (∀ a, a < 2 ^ 52 → ¬ (q.base + 32 * q.tail ≤ a ∧ a < q.base + 32 * q.tail + 32) → devByte t a = devByte s a) ∧
      queueOf (getIface t i) trapq = { q with tail := (q.tail + 1) % cap } ∧ t.warps = s.warps ∧
      ((getIface s i).masked.getLsbD vec = false → t.msix = s.msix ++ [msixOf s i vec]) ∧
      ((getIface s i).masked.getLsbD vec = true → t.msix = s.msix ∧ (getIface t i).pending = (getIface s i).pending ||| BitVec.twoPow 64 vec))) ∧
  (∀ (s : State) (c : Ctl) (w : Nat) (set act : Lanes), Issues s c w set act → (∀ v, v < 32 → act.getLsbD v = true → v < (getWarp s w).threads.length) →
    let u := advance s w set
    let i0 := issueAt s w set act
    let x := getWarp s w
    let inside (v : Nat) : Bool := (threadOf x v).trapinfo.getLsbD 8
    let word (v k : Nat) : Word := (threadOf x v).frame.getD k 0
    (∀ a, exec (.trap c a) s = .next (deliver u w i0.pc ((laneList act).map fun v => { lane := v, cause := causeSoftware, detail := reads s w a 1 v % 256 }))) ∧
    (∀ d a, let sel (v : Nat) : Nat := reads s w a 1 v
      exec (.trapRd c d a) s = .next (deliver (writeDst u i0 6 d 1 (act &&& laneSet fun v => sel v ≤ 7) fun v => (word v (sel v)).toNat) w i0.pc
        (((laneList act).filter fun v => 7 < sel v).map fun v => { lane := v, cause := causeOperand }))) ∧
    (∀ a, ∀ i ∈ [Instr.rte c, .rteNext c, .rteAt c a],
      let target (v : Nat) : DWord := match i with
        | .rte _ => codeBase s x + (word v 1).setWidth 64
        | .rteNext _ => codeBase s x + (word v 1).setWidth 64 + 12
        | _ => codeBase s x + BitVec.ofNat 64 (reads s w a 1 v)
      ∃ t, exec i s = .next (deliver t w i0.pc (((laneList act).filter fun v => !inside v).map fun v => { lane := v, cause := causeOperand })) ∧ OnlyThreads u t w ∧
        ∀ v, v < x.threads.length → v < 32 →
          (act.getLsbD v = true → inside v = true → condAt t w v = .ready ∧ pcAt t w v = target v ∧ (threadOf (getWarp t w) v).sub = 0 ∧
            (threadOf (getWarp t w) v).trapinfo = (threadOf x v).trapinfo &&& 0xFFFFFEFF ∧ (threadOf (getWarp t w) v).frame = (threadOf x v).frame) ∧
          (¬ (act.getLsbD v = true ∧ inside v = true) → (∀ m, condAt u w v ≠ .stopped m) → threadOf (getWarp t w) v = threadOf (getWarp u w) v)) ∧
    ((∀ v, v < 32 → act.getLsbD v = true → inside v = false) → exec (.rteFail c) s = .next (trapSet u i0 causeOperand)) ∧
    ((∀ v, v < 32 → act.getLsbD v = true → inside v = true) → ∃ t, exec (.rteFail c) s = .next t ∧
      let f (k : Nat) : Nat := (word (lowLane act) k).toNat
      TrapEnds u t w (word (lowLane act) 1) { lane := lowLane act, cause := f 0 % 16, detail := f 0 / 65536 % 256, addr := f 2 + 2 ^ 32 * f 3, aux1 := word (lowLane act) 4, aux2 := word (lowLane act) 5, f6 := word (lowLane act) 6, f7 := word (lowLane act) 7 })) ∧
  ∀ (s : State) (i kind : Nat), s.msg = some (.fatalRecord i kind) → kind = 16 ∨ kind = 17 ∨ kind = 18 → mapWf s.launches = true → ∃ t, exec .fatalRecord s = .next t ∧
    (getIface t i).stopped = true ∧
    (∀ l la, mapGet s.launches l = some la → la.iface = i → la.aborted = none → (getLaunch t l).aborted = some kind ∧
      ∀ w x, mapGet s.warps w = some x → x.launch = l → ∀ u, u < x.threads.length → u < 32 → condAt t w u = .ended) ∧
    (∀ l la, mapGet s.launches l = some la → la.iface ≠ i → getLaunch t l = la) ∧
    let q := queueOf (getIface s i) true
    (kind = 18 ∨ ¬ (4 ≤ q.size ∧ q.size ≤ 16) ∨ q.sump = true → (getIface t i).fatalx.getLsbD 31 = true ∧
      ((getIface s i).fatalx.getLsbD 31 = false → (getIface t i).fatalx.extractLsb' 0 8 = BitVec.ofNat 8 kind)) ∧
    (kind ≠ 18 → 4 ≤ q.size → q.size ≤ 16 → q.sump = false → q.base + 32 * q.tail + 32 ≤ Config.hbmTop → (∀ e ∈ s.warps, e.2.latched = []) →
      devNat t (q.base + 32 * q.tail) 4 = 2 ^ 29 + kind ∧
      (queueOf (getIface t i) true).sump = decide ((q.tail + 2 ^ q.size - q.head % 2 ^ q.size) % 2 ^ q.size = 2 ^ q.size - 1))

/-! ### Placement, retirement and pre-emption -/

/-- R83, R84, R92 to R96, R101, R115, R258, R380, R388, R406 to R411, R427: how warps, groups and launches begin, leave their cores, come back and end. The next gang of the launch at the head of its interface is placed whole on cores where it fits; each warp starts with the state of R83 under a context number that no live warp of the interface holds. A warp whose threads have ended and that has nothing outstanding retires, and a FUNC node completes with it (R375); at a blocking point a stopped warp ends, a marked frame is popped, and a warp of an interface in reset is discarded. A group whose warps, copies and operations are over retires; the launch's end is a kernel boundary. An evicted warp keeps its state, a group all of whose warps are evicted is saved, and a warp whose wake condition holds resumes. It rests on the model's readings of log 12, 69, 70. -/
def Obligations.WarpsComeAndGo : Prop :=
  (∀ (s : State) (l : Nat) (cores : List Nat), s.msg = some (.groupPlacement l cores) →
    let la := getLaunch s l
    let r := la.record
    let n := groupWarps r
    let homes := homesOf r cores
    let may : Prop := placeHead s la.iface = some l ∧ homes.length = gangSize r ∧ gangOk s la.iface r homes = true
    (¬ may → exec .groupPlacement s = .next s) ∧
    (may → mapWf s.warps = true → mapWf s.groups = true → (∀ e ∈ s.warps, e.1 < s.next) → (∀ e ∈ s.groups, e.1 < s.next) → ∃ t, exec .groupPlacement s = .next t ∧
      (getLaunch t l).placed = la.placed + gangSize r ∧ (∀ w, w < s.next → getWarp t w = getWarp s w) ∧ (∀ g, g < s.next → getGroup t g = getGroup s g) ∧
      ∀ k home, homes[k]? = some home → ∃ gi, s.next ≤ gi ∧
        (let g := getGroup t gi; g.launch = l ∧ g.iface = la.iface ∧ g.index = la.placed + k ∧ g.cores = home ∧ g.k = la.kinit ∧ g.scratch = [] ∧ g.lines = [] ∧ g.tiles = [] ∧ g.hist = [] ∧
          g.bstack = [] ∧ g.desc = [] ∧ g.j = [] ∧ g.saved = false) ∧
        ∀ j, j < n → ∃ w, s.next ≤ w ∧
          let x := getWarp t w
          x.launch = l ∧ x.group = gi ∧ x.iface = la.iface ∧ x.num = j ∧ x.gnum = (la.placed + k) * n + j ∧ x.resident = true ∧ x.retired = false ∧
          x.core = (if home.length = 2 then home.getD (j % 2) 0 else home.getD 0 0) ∧ x.part = (if home.length = 2 then j / 2 % 4 else j % 4) ∧
          x.threads = List.replicate 32 { pc := r.codeBase + BitVec.ofNat 64 la.entry, since := s.tick } ∧ x.v = [] ∧ x.preds = [] ∧ x.cf = [] ∧ x.streams = [] ∧ x.holds = [] ∧
          x.lpart = (domExt r 1).getD 32 ∧ x.evp = 0 ∧ x.evm = 0 ∧ x.evh = 0 ∧ x.events = [] ∧ x.gdepth = 8 ∧ x.frames = [] ∧ x.status = 0 ∧ x.latched = [] ∧
          ∀ v y, mapGet t.warps v = some y → v ≠ w → y.iface = la.iface → y.retired = false → y.context ≠ x.context)) ∧
  (∀ (s : State) (w : Nat), s.msg = some (.warpRetire w) → (∃ x, mapGet s.warps w = some x) →
    let x := getWarp s w
    let ended : Prop := ∀ th ∈ x.threads, th.cond = .ended
    let reset : Prop := (getIface s x.iface).resetting = true
    (ended → x.retired = false → x.frames = [] → (∀ e ∈ s.ops, e.2.warp ≠ w) → ∃ t, exec .warpRetire s = .next t ∧ (getWarp t w).retired = true ∧ (getWarp t w).resident = false ∧
      t.mem = s.mem ∧ t.groups = s.groups ∧ (∀ v, v ≠ w → ∃ ss, getWarp t v = { getWarp s v with streams := ss }) ∧
      t.net = s.net ++ match (getLaunch s x.launch).node with
        | some (g, n) => if (getLaunch s x.launch).func = true then [⟨nodeChan g n, .nodeComplete g n, 0⟩] else []
        | none => []) ∧
    (ended → (∃ e ∈ s.ops, e.2.warp = w) → x.frames = [] → exec .warpRetire s = .next s) ∧
    (¬ ended → atBlock s w x = false → exec .warpRetire s = .next s) ∧
    (¬ ended → atBlock s w x = true → reset → x.threads.length = 32 → ∃ t, exec .warpRetire s = .next t ∧ (∀ u, u < 32 → condAt t w u = .ended) ∧ t.net = s.net ∧ t.mem = s.mem ∧ t.regions = s.regions) ∧
    (¬ ended → atBlock s w x = true → ¬ reset → x.stop = true → (graphFires x = false ∨ ∀ u, u < 32 → condAt s w u ≠ .waiting .anyEvent) → exec .warpRetire s = .next (exitThreads s w allLanes)) ∧
    (¬ ended → ¬ reset → graphFires x = true → x.frames = [] → (∃ u, u < 32 ∧ condAt s w u = .waiting .anyEvent) → exec .warpRetire s = .next s) ∧
    (¬ ended → atBlock s w x = true → ¬ reset → x.stop = false → ∀ f r, x.frames = f :: r → f.marked = true → ∃ t, exec .warpRetire s = .next t ∧ Popped s t w 5)) ∧
  (∀ (s : State) (gi : Nat), s.msg = some (.groupRetire gi) → (∃ g, mapGet s.groups gi = some g) →
    let g := getGroup s gi
    let gone : Prop := (∀ e ∈ s.warps, e.2.group = gi → e.2.retired = true) ∧ (∀ e ∈ s.copies, e.2.group = gi → e.2.node = none → unfinished e.2 = false) ∧
      ∀ e ∈ s.arrays, ∀ a ∈ e.2, a.group ≠ gi
    (¬ gone → exec .groupRetire s = .next s) ∧
    (gone → ∃ t, exec .groupRetire s = .next t ∧ mapGet t.groups gi = none ∧ (∀ k, k ≠ gi → mapGet t.groups k = mapGet s.groups k) ∧ (∀ e, e ∈ t.warps ↔ e ∈ s.warps ∧ e.2.group ≠ gi) ∧
      (∀ la, mapGet s.launches g.launch = some la → (getLaunch t g.launch).retired = la.retired + 1) ∧ t.mem = s.mem ∧ t.l1 = s.l1)) ∧
  (∀ (s : State) (l : Nat), s.msg = some (.kernelBoundary l) → (∃ la, mapGet s.launches l = some la) →
    let la := getLaunch s l
    let gone : Prop := la.retired = la.placed ∧ (la.cancelled = true ∨ la.placed = la.count)
    (¬ gone ∨ (la.ending = true ∧ la.pushes ≠ 0) → exec .kernelBoundary s = .next s) ∧
    (gone → la.ending = false → ∃ t q, exec .kernelBoundary s = .next t ∧ t.net = s.net ++ q ∧
      getLaunch t l = { la with ending := true, pushes := (getLaunch t l).pushes, stamp := (getLaunch t l).stamp } ∧ s.gtime ≤ (getLaunch t l).stamp ∧ t.warps = s.warps ∧
      ((∀ e ∈ s.pushOut, e.1 < s.next) →
        (t.pushOut.map fun e => e.2.waiters.count l).sum = (s.pushOut.map fun e => e.2.waiters.count l).sum + (getLaunch t l).pushes) ∧
      ∀ f ∈ q, ∃ c k a m n, f.msg = .pushArrive c k a m n) ∧
    (gone → la.ending = true → la.pushes = 0 → mapWf s.l1 = true → ∃ t, exec .kernelBoundary s = .next t ∧ mapGet t.launches l = none ∧ t.mem = s.mem ∧ t.cc = s.cc ∧
      (∀ k, mapGet t.l1 k = (mapGet s.l1 k).filter fun y => y.dirty) ∧
      (∀ c, c < Config.clusters → mapGetD t.staleBefore c 0 = max (la.stamp + 2 * s.sys.gband) (mapGetD s.staleBefore c 0)) ∧
      (getIface t la.iface).places = (getIface s la.iface).places.filter (fun p => p.launch != some l) ∧
      t.net = s.net ++ match la.node with
        | some (g, n) => if la.func = true ∧ 0 < la.placed then [] else [⟨nodeChan g n, .nodeComplete g n, 0⟩]
        | none => [])) ∧
  (∀ (s : State) (w : Nat), s.msg = some (.warpUrgent w) →
    let x := getWarp s w
    (∀ c, x.urgent = false → x.eligible = some c → c + 32 ≤ s.clock → exec .warpUrgent s = .next (setWarp s w { x with urgent := true })) ∧
    (x.urgent = true ∨ x.eligible = none ∨ (∃ c, x.eligible = some c ∧ s.clock < c + 32) → exec .warpUrgent s = .next s)) ∧
  (∀ (s : State) (w : Nat), s.msg = some (.eviction w) →
    let x := getWarp s w
    (x.resident = false ∨ atBlock s w x = false ∨ pushLeft s w = true → exec .eviction s = .next s) ∧
    (evictMay s w x = true → ∃ t, exec .eviction s = .next t ∧ t.groups = s.groups ∧ t.regions = s.regions ∧
      getWarp t w = { x with resident := false, pair := none, eligible := none, urgent := false, streams := (getWarp t w).streams } ∧
      (∀ n z, mapGet x.streams n = some z → ∃ y, mapGet (getWarp t w).streams n = some y ∧ y.pos = z.pos ∧ y.walk = z.walk ∧ y.store = z.store ∧ (z.store = false → y.groups = [])) ∧
      (mapWf s.ops = true → ∀ id o, mapGet s.ops id = some o → o.warp = w → (∃ i, o.kind = .word i) → ∃ q, mapGet t.ops id = some q ∧ q.kind = o.kind ∧ q.lanes = o.lanes ∧ q.args = o.args ∧
        (∀ p ∈ q.parts, plainLoad o.kind = true → ∀ n, p.st ≠ .parked n)) ∧
      ((∀ e ∈ t.warps, e.2.iface = x.iface → e.2.resident = false) → (getIface t x.iface).preempt = false))) ∧
  (∀ (s : State) (gi : Nat), s.msg = some (.groupStateSave gi) → (∃ g, mapGet s.groups gi = some g) →
    let g := getGroup s gi
    ((∃ e ∈ s.warps, e.2.group = gi ∧ e.2.retired = false ∧ e.2.resident = true) ∨ g.saved = true → exec .groupStateSave s = .next s) ∧
    (saveMay s gi g = true → ∃ t, exec .groupStateSave s = .next t ∧ getGroup t gi = { g with saved := true } ∧ (∀ k, k ≠ gi → getGroup t k = getGroup s k) ∧
      t.l1 = s.l1 ∧ t.cc = s.cc ∧ t.mem = s.mem ∧ t.warps = s.warps)) ∧
  ∀ (s : State) (w core : Nat), s.msg = some (.warpResume w core) → (∃ x, mapGet s.warps w = some x) →
    let x := getWarp s w
    let kept (y : Warp) : Prop := y.launch = x.launch ∧ y.group = x.group ∧ y.context = x.context ∧ y.num = x.num ∧ y.lpart = x.lpart ∧ y.gdepth = x.gdepth
    (x.resident = true ∨ x.retired = true ∨ readyToResume s w x = false → exec .warpResume s = .next s) ∧
    (resumeMay s w core = true → (getGroup s x.group).saved = false → ∃ t, exec .warpResume s = .next t ∧ kept (getWarp t w) ∧ (getWarp t w).resident = true ∧ (getWarp t w).core = core ∧
      core = x.core ∧ (getWarp t w).age = s.next ∧ (getGroup t x.group).cores = (getGroup s x.group).cores) ∧
    (resumeMay s w core = true → (getGroup s x.group).saved = true → (∃ g, mapGet s.groups x.group = some g) → mapWf s.warps = true → ∃ t home, exec .warpResume s = .next t ∧
      savedHome s (getGroup s x.group) core = some home ∧ (getGroup t x.group).saved = false ∧ (getGroup t x.group).cores = home ∧
      ∀ v y, mapGet s.warps v = some y → y.group = x.group → y.retired = false → (getWarp t v).resident = true ∧
        (getWarp t v).core = (if home.length = 2 then home.getD (y.num % 2) 0 else home.getD 0 0) ∧ (getWarp t v).part = (if home.length = 2 then y.num / 2 % 4 else y.num % 4))

/-! ### The host -/

/-- R274, R419, R420, R185: what the host does to memory. A posted write is performed at the home slices in the order of its interface; registered words become Home, and the L1s keep theirs. A host read returns what DEVICE scope reads; a cacheable one leaves the lines of HBM host-held, and a BISnp that was outstanding for one is sent again. A step that modifies a line that the host holds waits; the slice sends one BISnp, whose response clears the bit, and the host does not read the line again before the access that it was given up for. A write-back of a host-held line is stored before that. A snoop of a host line is answered from the slice, which drops the line. It rests on the model's readings of log 37, 71. -/
def Obligations.HostAccessesAreServedAtTheSlices : Prop :=
  (∀ (s : State) (i a : Nat) (bs : List Byte), s.msg = some (.postedWrite i a bs) →
    (s.sys.stage ≠ 5 ∨ s.sys.vfs < i → exec .postedWrite s = .next s) ∧
    (s.sys.stage = 5 → i ≤ s.sys.vfs → bs ≠ [] → NoBreach s a bs.length true false → a + bs.length ≤ Config.hbmTop ∨ (Config.hostBase ≤ a ∧ a + bs.length ≤ 2 ^ 52) →
      ∃ t, exec .postedWrite s = .next t ∧ BytesLand s t a bs ∧
        (∀ c, a ≤ c → c < a + bs.length → mapGet t.owner (c / 4) = none ∧ (c / 64) ∉ t.hostHeld) ∧
        (getIface t i).posted = (getIface s i).posted + 1 ∧ (∀ k, k ≠ i → getIface t k = getIface s k) ∧
        t.l1 = s.l1 ∧ t.warps = s.warps ∧ t.net = s.net ∧ t.tlb = s.tlb ∧
        ∀ l, l ∈ t.hostLines ↔ l ∈ s.hostLines ∧ ¬ (Config.hostBase ≤ a ∧ a / 64 ≤ l.2 ∧ l.2 ≤ (a + bs.length - 1) / 64))) ∧
  (∀ (s : State) (i a n : Nat) (cached : Bool), s.msg = some (.hostRead i a n cached) →
    (s.sys.stage ≠ 5 ∨ s.sys.vfs < i → exec .hostRead s = .next s) ∧
    (s.sys.stage = 5 → i ≤ s.sys.vfs → 0 < n → a + n ≤ Config.hbmTop ∨ (Config.hostBase ≤ a ∧ a + n ≤ 2 ^ 52) →
      ∃ t, exec .hostRead s = .next t ∧ t = { s with hostData := s.hostData ++ [(i, devBytes s a n)], hostHeld := t.hostHeld, bisnps := t.bisnps, granted := t.granted } ∧
        let named (l : Nat) : Prop := cached = true ∧ a < Config.hostBase ∧ a / 64 ≤ l ∧ l ≤ (a + n - 1) / 64
        (∀ l, l ∈ t.hostHeld ↔ l ∈ s.hostHeld ∨ named l) ∧ (∀ l, l ∈ t.bisnps ↔ l ∈ s.bisnps ∧ ¬ named l) ∧ ∀ l, l ∈ t.granted ↔ l ∈ s.granted ∧ ¬ named l)) ∧
  (∀ (s : State) (l : Nat), s.msg = some (.hostSnoop l) →
    (s.sys.stage = 5 → Config.hostBase ≤ 64 * l → ∃ t, exec .hostSnoop s = .next t ∧
      t = { s with hostData := s.hostData ++ [(0, (List.range 64).map fun k => memByte s (64 * l + k))], hostLines := t.hostLines, hostDirty := t.hostDirty } ∧
      (∀ x, x ∈ t.hostLines ↔ x ∈ s.hostLines ∧ x.2 ≠ l) ∧ ∀ x, x ∈ t.hostDirty ↔ x ∈ s.hostDirty ∧ x.2 ≠ l) ∧
    (64 * l < Config.hostBase → exec .hostSnoop s = .next s)) ∧
  (∀ (s t : State) (k : Move), k ∈ moves s → outcome s k = .next t → (∀ m, inputOf s k = some m → ofHost m = false ∧ endsLink m = false) → ∀ l ∈ s.hostHeld, l ∈ t.hostHeld) ∧
  (∀ (s : State) (k : Move) (l : Nat), k ∈ candidates s → l ∈ waitsLines s k → l ∉ s.bisnps → Move.event (.bisnp l) ∈ moves s) ∧
  (∀ (s : State) (l : Nat), s.msg = some (.bisnp l) →
    (l ∈ s.hostHeld → l ∉ s.bisnps → exec .bisnp s = .next { s with bisnps := s.bisnps ++ [l] }) ∧
    (l ∉ s.hostHeld ∨ l ∈ s.bisnps → exec .bisnp s = .next s)) ∧
  (∀ (s : State) (n i a z l : Nat) (c : Bool) (k : Move), s.inbox[n]? = some (.hostRead i a z c) → l ∈ linesOver a z → l ∈ s.granted →
    k ∈ candidates s → inputOf s k = none → l ∈ modifies s k (·.granted) → Move.input n ∉ moves s) ∧
  (∀ (s : State) (l : Nat), s.msg = some (.bisnpResponse l) →
    (l ∉ s.bisnps → exec .bisnpResponse s = .next s) ∧
    (l ∈ s.bisnps → ∃ t, exec .bisnpResponse s = .next t ∧ t = { s with bisnps := t.bisnps, hostHeld := t.hostHeld, granted := t.granted } ∧ s.bisnps.Perm (l :: t.bisnps) ∧
      (∀ k, k ∈ t.hostHeld ↔ k ∈ s.hostHeld ∧ k ≠ l) ∧ ∀ k, k ∈ t.granted ↔ k ∈ s.granted ∨ k = l)) ∧
  ∀ (s : State) (l : Nat) (bs : List Byte), s.msg = some (.hostWriteback l bs) →
    (l ∉ s.hostHeld → exec .hostWriteback s = .next s) ∧
    (l ∈ s.hostHeld → bs.length = 64 → 64 * l + 64 ≤ Config.hbmTop → NoBreach s (64 * l) 64 true false → ∃ t, exec .hostWriteback s = .next t ∧ BytesLand s t (64 * l) bs ∧
      t.hostHeld = s.hostHeld ∧ t.bisnps = s.bisnps ∧ t.l1 = s.l1 ∧ t.warps = s.warps ∧ t.ifaces = s.ifaces)

/-- R190, R193, R373, R404, R405, R408, R422 to R426: the registers of an interface. Each write has the effect that R422 gives its register, and is ignored where R422 says so: while RESET reads 1, at the own-page place of a field that only the policy table writes, at a read-only one. A LAUNCH is queued, or refused with code 18, 20 or 17. A new PTROOT is where later walks start; an invalidation drops the cached leaves that it names. An advance of a queue head clears SUMP and lets a stalled record in. An entry of the MSI-X table takes what the host programs; an unmasked vector that was pending is sent. The buckets gain RATE up to DEPTH. It rests on the model's readings of log 62, 72, 73, 74. -/
def Obligations.InterfaceRegistersTakeTheirWrites : Prop :=
  (∀ (s : State) (i : Nat) (m : Msg), s.msg = some m →
    let x := getIface s i
    let heard : Prop := if i = 0 then 2 ≤ s.sys.stage ∧ s.sys.stage ≤ 5 else s.sys.stage = 5 ∧ i ≤ s.sys.vfs
    let open' : Prop := heard ∧ x.resetting = false
    let gives (f : Iface) : Prop := ∃ t, exec m.instr s = .next t ∧ IfaceTakes s t i f
    (∀ v : DWord, m = .launch i v ∨ m = .registerWrite i 0x28 true v →
      let refused (code : Nat) : State := plainRecord s i false [0x20000000, BitVec.ofNat 32 code, 0, 0, v.setWidth 32, v.extractLsb' 32 32, 0, 0]
      (¬ heard → exec m.instr s = .next s) ∧
      (heard → s.sys.stage ≠ 5 ∨ x.resetting = true → exec m.instr s = .next (refused 18)) ∧
      (open' → s.sys.stage = 5 → x.stopped = true → exec m.instr s = .next (refused 20)) ∧
      (open' → s.sys.stage = 5 → x.stopped = false → 256 ≤ x.launchq.length → exec m.instr s = .next (refused 17)) ∧
      (open' → s.sys.stage = 5 → x.stopped = false → x.launchq.length < 256 → gives { x with launchq := x.launchq ++ [(v.toNat, none)] })) ∧
    (∀ v : DWord, m = .ptroot i v ∨ m = .registerWrite i 0x10 true v →
      (open' → ∃ t, exec m.instr s = .next t ∧ IfaceTakes s t i { x with ptroot := v &&& 0xFFFFFFFFFFFFF000 } ∧
        ((∀ e ∈ s.tlb, e.iface ≠ i) → ∀ unit va, translate t unit i va = walkFrom t va 3 (v &&& 0xFFFFFFFFFFFFF000).toNat)) ∧
      (¬ open' → exec m.instr s = .next s)) ∧
    (∀ v : DWord, m = .invaddr i v ∨ m = .registerWrite i 0x18 true v →
      (open' → gives { x with invaddr := v, invbusy := true, invs := (if x.invbusy = true then x.invs else []) ++ [v] }) ∧ (¬ open' → exec m.instr s = .next s)) ∧
    (m = .invalidationComplete i →
      (x.invbusy = false ∨ oldAccess s i = true → exec m.instr s = .next s) ∧
      (x.invbusy = true → oldAccess s i = false → ∃ t, exec m.instr s = .next t ∧ (getIface t i).invbusy = false ∧
        ((∀ e ∈ s.ops, (getWarp s e.2.warp).iface = i → ∀ p ∈ e.2.parts, p.walked = false) →
          IfaceTakes { s with tlb := t.tlb } t i { x with invbusy := false, invs := [] } ∧
          ∀ e, e ∈ t.tlb ↔ e ∈ s.tlb ∧ ¬ (e.iface = i ∧ ∃ v ∈ x.invs, let page := (v.extractLsb' 12 36).toNat
            v.getLsbD 0 = true ∨ (e.page ≤ page ∧ page < e.page + e.count))))) ∧
    (∀ v : Word, m = .fqhead i v ∨ m = .registerWrite i 0x3C false (v.setWidth 64) →
      let h := v.toNat % 65536
      let y := { x with fqhead := h, fqsump := x.fqsump && h == x.fqhead }
      let q := queueOf y false
      (¬ heard → exec m.instr s = .next s) ∧ (heard → (∀ r ∈ s.recWaits, r.iface ≠ i) → gives y) ∧
      (∀ ws, heard → s.recWaits = [⟨i, ws⟩] → ws.length = 8 → 4 ≤ q.size → q.size ≤ 16 → q.sump = false →
        (q.tail + 2 ^ q.size - h % 2 ^ q.size) % 2 ^ q.size < 2 ^ q.size - 1 → q.base + 32 * q.tail + 32 ≤ Config.hbmTop → ∃ t, exec m.instr s = .next t ∧
        t.recWaits = [] ∧ (getIface t i).fqtail = (x.fqtail + 1) % 2 ^ q.size ∧ (getIface t i).fqhead = h ∧
        ∀ k, k < 8 → devNat t (q.base + 32 * q.tail + 4 * k) 4 = (ws.getD k 0).toNat)) ∧
    (∀ v : Word, m = .tqhead i v ∨ m = .registerWrite i 0x54 false (v.setWidth 64) →
      (¬ heard → exec m.instr s = .next s) ∧ (heard → gives { x with tqhead := v.toNat % 65536, tqsump := x.tqsump && v.toNat % 65536 == x.tqhead })) ∧
    (m = .fatalxClear i ∨ m = .registerWrite i 0x6C false 0x80000000 →
      (¬ heard → exec m.instr s = .next s) ∧ (heard → gives { x with fatalx := x.fatalx &&& 0x7FFFFFFF })) ∧
    (m = .preempt i ∨ m = .registerWrite i 0x70 false 1 →
      let any : Prop := ∃ e ∈ s.warps, e.2.iface = i ∧ e.2.resident = true
      (open' → any → gives { x with preempt := true }) ∧ (¬ (open' ∧ any) → exec m.instr s = .next s)) ∧
    (∀ v, v < 64 → m = .msixUnmask i v →
      let bit : DWord := ~~~(BitVec.twoPow 64 v)
      (¬ heard → exec m.instr s = .next s) ∧
      (heard → ∃ t, exec m.instr s = .next t ∧ IfaceTakes { s with msix := t.msix } t i { x with masked := x.masked &&& bit, pending := x.pending &&& bit } ∧
        t.msix = s.msix ++ if x.pending.getLsbD v = true then [msixOf s i v] else [])) ∧
    (∀ v, v < 64 →
      (m = .msixMask i v → (¬ heard → exec m.instr s = .next s) ∧ (heard → gives { x with masked := x.masked ||| BitVec.twoPow 64 v })) ∧
      ∀ e, m = .msixEntry i v e → (¬ heard → exec m.instr s = .next s) ∧ (heard → ∃ t, exec m.instr s = .next t ∧
        IfaceTakes s t i { x with vectors := (getIface t i).vectors } ∧ mapGetD (getIface t i).vectors v {} = e ∧ ∀ k, k ≠ v → mapGetD (getIface t i).vectors k {} = mapGetD x.vectors k {})) ∧
    (∀ v : Word, open' →
      (m = .registerWrite i 0x38 false (v.setWidth 64) → (∀ r ∈ s.recWaits, r.iface ≠ i) → gives { x with fqsize := v &&& 31 }) ∧
      (m = .registerWrite i 0x50 false (v.setWidth 64) → gives { x with tqsize := v &&& 31 }) ∧
      (m = .registerWrite i 0x60 false (v.setWidth 64) → exec m.instr s = .next (answerSpan s i (v.extractLsb' 13 2).toNat (v.extractLsb' 0 13).toNat
        (if v.getLsbD 31 = true then denyPark else replayPark))) ∧
      (m = .registerWrite i 0x64 false (v.setWidth 64) → gives { x with olcount := v }) ∧
      (m = .registerWrite i 0x68 false (v.setWidth 64) → gives { x with drops := v }) ∧
      (m = .registerWrite i 0x80 false (v.setWidth 64) → gives { x with qslice := v }) ∧
      (m = .registerWrite i 0x84 false (v.setWidth 64) → gives { x with qhbm := v }) ∧
      (m = .registerWrite i 0x88 false (v.setWidth 64) → gives { x with qcopy := v })) ∧
    (∀ v : DWord, open' →
      (m = .registerWrite i 0x30 true v → gives { x with fqbase := v &&& 0xFFFFFFFFFFFFFFE0 }) ∧
      (m = .registerWrite i 0x48 true v → gives { x with tqbase := v &&& 0xFFFFFFFFFFFFFFE0 }) ∧
      (m = .registerWrite i 0x80 true v → gives { x with qslice := v.setWidth 32, qhbm := v.extractLsb' 32 32 })) ∧
    (∀ (off : Nat) (wide : Bool) (v : DWord), m = .registerWrite i off wide v →
      (¬ heard → exec m.instr s = .next s) ∧ (off % (if wide = true then 8 else 4) ≠ 0 → exec m.instr s = .next s) ∧
      (wide = false → off ∈ [0x000, 0x004, 0x020, 0x040, 0x058, 0x074, 0x08C] → exec m.instr s = .next s) ∧
      (wide = false → off = 0x008 → v.getLsbD 0 = false → exec m.instr s = .next s) ∧
      (x.resetting = true → off < 0x1000 → off ∉ [0x008, 0x03C, 0x054, 0x06C] → wide = false → exec m.instr s = .next s)) ∧
    (∀ (k : Nat) (v : Word), k < 256 → i = 0 → heard →
      let y := getIface s k
      let sets (f : Iface) : Prop := ∃ t, exec m.instr s = .next t ∧ IfaceTakes s t k f
      (m = .registerWrite 0 (0x1000 + 8 * k) false (v.setWidth 64) → (y.resetting = false → sets { y with policy := v &&& 3 }) ∧ (y.resetting = true → exec m.instr s = .next s)) ∧
      (m = .registerWrite 0 (0x1004 + 8 * k) false (v.setWidth 64) → (y.resetting = false → sets { y with qcore := v &&& 0xFFFF }) ∧ (y.resetting = true → exec m.instr s = .next s)))) ∧
  (∀ s : State, s.msg = some .bucketRefill →
    (s.gtime < s.refill + 1024 → exec .bucketRefill s = .next s) ∧
    (s.refill + 1024 ≤ s.gtime → mapWf s.ifaces = true → ∃ t, exec .bucketRefill s = .next t ∧ t = { s with refill := s.refill + 1024, ifaces := t.ifaces } ∧
      ∀ i, let x := getIface s i
        let gain (tok : Nat) (q : Word) : Nat := min (tok + q.toNat % 65536) (q.toNat / 65536)
        getIface t i = { x with tokSlice := gain x.tokSlice x.qslice, tokHbm := gain x.tokHbm x.qhbm, tokCopy := gain x.tokCopy x.qcopy })) ∧
  ∀ (s : State) (i : Nat), i < 256 →
    let x := getIface s i
    pageRead s i 0x000 = i ∧ pageRead s i 0x004 = x.policy.toNat ∧ pageRead s i 0x008 = x.resetting.toNat ∧ pageRead s i 0x010 + 2 ^ 32 * pageRead s i 0x014 = x.ptroot.toNat ∧
    pageRead s i 0x020 = x.invbusy.toNat ∧ pageRead s i 0x028 = 0 ∧ pageRead s i 0x040 = (if x.fqsump = true then 2 ^ 31 else 0) + x.fqtail % 65536 ∧
    pageRead s i 0x060 = 0 ∧ pageRead s i 0x06C = x.fatalx.toNat ∧ (pageRead s i 0x070 = 1 ↔ ∃ e ∈ s.warps, e.2.iface = i ∧ e.2.resident = true) ∧
    pageRead s i 0x074 = min x.launchq.length 256 ∧ pageRead s i 0x08C = x.qcore.toNat ∧ pageRead s i 0x090 = 0

/-- R421, R422, R427, R329, R382, R432: a reset of an interface. RESET and the function-level reset refuse later launches, discard queued ones, cancel running graphs and stop placement; after 1,000,000 ticks the warps that remain are killed where they stand. When no warp is left, the reset clears everything of the tenant that R427 names, keeps PTROOT, POLICY, the queue bases and sizes and the buckets, makes RESET read 0 and raises vector 0. The threads of other tenants do not move. Disabling virtual functions resets their registers. It rests on the model's readings of log 75, 76. -/
def Obligations.ResetsClearTheirTenant : Prop :=
  (∀ (s : State) (i : Nat) (m : Msg), s.msg = some m → m = .reset i ∨ (m = .functionLevelReset ∧ i = 0) ∨ m = .registerWrite i 0x8 false 1 →
    let x := getIface s i
    (s.sys.stage ≠ 5 ∨ s.sys.vfs < i ∨ x.resetting = true → exec m.instr s = .next s) ∧
    (s.sys.stage = 5 → i ≤ s.sys.vfs → x.resetting = false → mapWf s.graphs = true → mapWf s.launches = true → ∃ t, exec m.instr s = .next t ∧
      getIface t i = { x with resetting := true, launchq := [], killAt := some (s.gtime + 1000000), ready := (getIface t i).ready } ∧
      (∀ k, k ≠ i → getIface t k = getIface s k) ∧ t.warps = s.warps ∧ t.mem = s.mem ∧ t.copies = s.copies ∧ t.regions = s.regions ∧
      (∀ l la, mapGet s.launches l = some la → getLaunch t l = if la.iface = i then { la with cancelled := true } else la) ∧
      (∀ g z, mapGet s.graphs g = some z → z.iface ≠ i ∨ z.closed = true → getGraph t g = z) ∧
      ∀ g z, mapGet s.graphs g = some z → z.iface = i → z.closed = false → (getGraph t g).resetting = true ∧ ∀ n y, z.nodes[n]? = some y →
        nodeOf t g n = match y.st with
          | .waiting | .ready => { y with st := .cancelled, cause := 6 }
          | .running | .retry => { y with st := .cancelling, cause := 6 }
          | _ => y)) ∧
  (∀ (s : State) (i : Nat), s.msg = some (.resetKillTimeout i) →
    let live : Prop := ∃ e ∈ s.warps, e.2.iface = i ∧ ∃ th ∈ e.2.threads, th.cond ≠ .ended
    ((getIface s i).killAt = none → exec .resetKillTimeout s = .next s) ∧
    (∀ k, (getIface s i).killAt = some k → (s.gtime < k ∨ ¬ live → exec .resetKillTimeout s = .next s) ∧
      (k ≤ s.gtime → live → mapWf s.warps = true → ∃ t, exec .resetKillTimeout s = .next t ∧ (getIface t i).killAt = none ∧ t.mem = s.mem ∧ t.cc = s.cc ∧ t.regions = s.regions ∧
        (∀ w x, mapGet s.warps w = some x → x.iface = i → ∀ u, u < x.threads.length → u < 32 → condAt t w u = .ended) ∧
        ∀ w x, mapGet s.warps w = some x → x.iface ≠ i → getWarp t w = x))) ∧
  (∀ (s : State) (i : Nat), s.msg = some (.resetComplete i) →
    let x := getIface s i
    let live : Prop := ∃ e ∈ s.warps, e.2.iface = i ∧ ∃ th ∈ e.2.threads, th.cond ≠ .ended
    (x.resetting = false ∨ live → exec .resetComplete s = .next s) ∧
    (x.resetting = true → ¬ live → mapWf s.warps = true → mapWf s.regions = true → mapWf s.colls = true → ∃ t, exec .resetComplete s = .next t ∧
      (let y := getIface t i; y.resetting = false ∧ y.fqhead = 0 ∧ y.fqtail = 0 ∧ y.fqsump = false ∧ y.tqhead = 0 ∧ y.tqtail = 0 ∧ y.tqsump = false ∧ y.olcount = 0 ∧ y.drops = 0 ∧
        y.fatalx = 0 ∧ y.stopped = false ∧ y.invbusy = false ∧ y.invs = [] ∧ y.preempt = false ∧ y.launchq = [] ∧ y.places = [] ∧ y.seq = 0 ∧
        y.ptroot = x.ptroot ∧ y.policy = x.policy ∧ y.fqbase = x.fqbase ∧ y.fqsize = x.fqsize ∧ y.tqbase = x.tqbase ∧ y.tqsize = x.tqsize ∧
        y.qslice = x.qslice ∧ y.qhbm = x.qhbm ∧ y.qcopy = x.qcopy ∧ y.qcore = x.qcore ∧
        (x.masked.getLsbD 0 = true → y.pending = 1) ∧ (x.masked.getLsbD 0 = false → y.pending = 0 ∧ ∃ l, t.msix = l ++ [msixOf s i 0])) ∧
      (∀ e ∈ t.tlb, e.iface ≠ i) ∧ (∀ e ∈ t.warps, e.2.iface ≠ i) ∧ (∀ e ∈ t.groups, e.2.iface ≠ i) ∧ (∀ e ∈ t.launches, e.2.iface ≠ i) ∧
      (∀ e ∈ t.parks, e.2.iface ≠ i) ∧ (∀ e ∈ t.copies, e.2.iface ≠ i) ∧ (∀ e ∈ t.graphs, e.2.iface ≠ i) ∧ (∀ r ∈ t.recWaits, r.iface ≠ i) ∧
      (∀ k r, mapGet t.regions k = some r → r.iface = i → r.live = false) ∧ (∀ k c, mapGet t.colls k = some c → c.iface = i → c.st ≠ 0) ∧
      (∀ k c, mapGet s.colls k = some c → c.iface = i → c.st = 0 → (getColl t k).st = 2 ∧ (getColl t k).cause = 6) ∧
      (∀ e ∈ t.ops, ∀ w z, mapGet s.warps w = some z → z.iface = i → e.2.warp ≠ w) ∧
      (∀ e ∈ t.l1, e.2.dirty = true → e.2.priv = 0 → e.2.tag.iface ≠ i) ∧
      (∀ e ∈ t.cc, e.2.tag.iface = i → ∃ k, e.2.st = .valid k) ∧
      ((∀ e ∈ s.warps, ∀ c ∈ s.copies, c.2.iface = i → e.2.group = c.2.group → e.2.iface = i) →
        ∀ w z, mapGet s.warps w = some z → z.iface ≠ i → (getWarp t w).threads = z.threads))) ∧
  ∀ (s : State) (n : Nat), s.msg = some (.virtualFunctionEnable n) →
    (s.sys.stage < 2 ∨ 5 < s.sys.stage → exec .virtualFunctionEnable s = .next s) ∧
    (2 ≤ s.sys.stage → s.sys.stage ≤ 5 → ∃ t, exec .virtualFunctionEnable s = .next t ∧ t.sys.vfs = min n 255 ∧
      ((∀ e ∈ s.ifaces, e.1 ≤ min n 255) → t = { s with sys := { s.sys with vfs := min n 255 } }) ∧
      ∀ k x, mapGet s.ifaces k = some x → min n 255 < k → (∀ e ∈ s.ifaces, min n 255 < e.1 → e.1 = k) → mapWf s.ifaces = true → getIface t k = {} ∧ ∀ e ∈ t.warps, e.2.iface ≠ k)

/-! ### Errors, links and collectives -/

/-- R428: errors of memory arrays. A corrected error adds one to the count of its unit; a count that reaches its threshold, which is not 0, retires the unit with a KIND 3 record in interface 0's fault queue and vector 0: a slice way and a cluster-cache way lose no word, an HBM row takes a spare or is marked in UNIT, a core keeps its resident groups until the next graph end. An error that cannot be corrected writes its record and fails the bytes of its requester with ACCESS, or stands until an engine or a fetch meets it. The counts of every unit are cleared at the start of each window. ERRWIN takes 20 to 40. It rests on the model's readings of log 70, 77, 78. -/
def Obligations.ErrorsAreCountedAndRetired : Prop :=
  (∀ (s : State) (cls number : Nat), s.msg = some (.eccCorrected cls number) →
    let n := countOf s cls number + 1
    let limit := if 1 ≤ cls ∧ cls ≤ 4 then (s.sys.thresholds.extractLsb' (8 * (cls - 1)) 8).toNat else 0
    let known : Prop := (cls, number) ∈ s.sys.retired ∨ (cls = 3 ∧ number ∈ s.sys.retiring) ∨ ∃ e ∈ s.sys.counts, e.cls = cls ∧ e.number = number ∧ e.lasting = true
    let q := queueOf (getIface s 0) false
    (s.sys.stage ≠ 5 → exec .eccCorrected s = .next s) ∧
    (s.sys.stage = 5 → ∃ t, exec .eccCorrected s = .next t ∧ countOf t cls number = n ∧ (∀ c k, (c, k) ≠ (cls, number) → countOf t c k = countOf s c k) ∧
      t.warps = s.warps ∧ t.groups = s.groups ∧ t.l1 = s.l1 ∧
      (n < limit ∨ limit = 0 ∨ known → t = { s with sys := { s.sys with counts := t.sys.counts } }) ∧
      (limit ≤ n → limit ≠ 0 → ¬ known →
        let extra : Nat := if cls = 2 ∧ Config.spareRows ≤ s.sys.sparesUsed then 2 ^ 23 else 0
        (cls = 1 ∨ cls = 4 → t.sys.retired = s.sys.retired ++ [(cls, number)]) ∧ (cls = 3 → t.sys.retiring = s.sys.retiring ++ [number] ∧ t.sys.retired = s.sys.retired) ∧
        (cls = 2 → t.sys.sparesUsed = if s.sys.sparesUsed < Config.spareRows then s.sys.sparesUsed + 1 else s.sys.sparesUsed) ∧
        (4 ≤ q.size → q.size ≤ 16 → q.sump = false → (q.tail + 2 ^ q.size - q.head % 2 ^ q.size) % 2 ^ q.size < 2 ^ q.size - 1 →
          q.base + 32 * q.tail + 32 ≤ Config.hbmTop →
          devNat t (q.base + 32 * q.tail) 4 = 3 * 2 ^ 28 ∧ devNat t (q.base + 32 * q.tail + 24) 4 = cls * 2 ^ 24 + extra + number % 2 ^ 23 ∧
          (cls ≠ 4 → (∀ e ∈ s.owner, e.1 < 2 ^ 50) → ∀ a, a < 2 ^ 52 → ¬ (q.base + 32 * q.tail ≤ a ∧ a < q.base + 32 * q.tail + 32) → devByte t a = devByte s a) ∧
          (getIface t 0).fqtail = (q.tail + 1) % 2 ^ q.size ∧
          ((getIface s 0).masked.getLsbD 0 = false → (getIface s 0).masked.getLsbD 1 = false → t.msix = s.msix ++ [msixOf s 0 1, msixOf s 0 0]))))) ∧
  (∀ (s : State) (cls number addr : Nat) (op : Option Nat), s.msg = some (.eccUncorrectable cls number addr op) →
    let r := plainRecord s 0 false [0x30000000, 0, 0, 0, BitVec.ofNat 32 addr, BitVec.ofNat 32 (addr / 2 ^ 32), BitVec.ofNat 32 (cls * 2 ^ 24 + number % 2 ^ 23), 0]
    let q := queueOf (getIface s 0) false
    let written : Prop := 4 ≤ q.size ∧ q.size ≤ 16 ∧ q.sump = false ∧ (q.tail + 2 ^ q.size - q.head % 2 ^ q.size) % 2 ^ q.size < 2 ^ q.size - 1 ∧ physOk (q.base + 32 * q.tail) = true
    ∃ u, (written → u = raiseMsix r 0 0) ∧ (¬ written → u = r) ∧
    (s.sys.stage ≠ 5 → exec .eccUncorrectable s = .next s) ∧
    (s.sys.stage = 5 → op = none → exec .eccUncorrectable s = .next { u with errors := if addr ∈ u.errors then u.errors else addr :: u.errors }) ∧
    (s.sys.stage = 5 → (∃ k, op = some k ∧ mapGet s.ops k = none) → exec .eccUncorrectable s = .next u) ∧
    ∀ k o, s.sys.stage = 5 → op = some k → mapGet s.ops k = some o →
      let hit (p : Part) : Bool := p.walked && decide (p.pa ≤ addr ∧ addr < p.pa + p.n)
      exec .eccUncorrectable s = .next (failLanes (updOp u k fun o => { o with parts := o.parts.map fun p => if hit p then { p with st := .failed causeAccess } else p }) k
        ((o.parts.filter hit).map fun p => (p.lane, causeAccess, p.va)))) ∧
  (∀ s : State, s.msg = some .errorWindowExpire →
    (s.gtime < s.sys.windowEnd → exec .errorWindowExpire s = .next s) ∧
    (s.sys.windowEnd ≤ s.gtime → ∃ t, exec .errorWindowExpire s = .next t ∧ (∀ c k, countOf t c k = 0) ∧
      t = { s with sys := { s.sys with counts := t.sys.counts, windowEnd := s.sys.windowEnd + 2 ^ (s.sys.errwin.toNat % 64) } })) ∧
  ∀ (s : State) (v : Word), 2 ≤ s.sys.stage → s.sys.stage ≤ 5 → (getIface s 0).resetting = false →
    (s.msg = some (.registerWrite 0 0xC00 false (v.setWidth 64)) → exec .registerWrite s = .next (if 20 ≤ v.toNat % 64 ∧ v.toNat % 64 ≤ 40 then { s with sys := { s.sys with errwin := v &&& 63 } } else s)) ∧
    (s.msg = some (.registerWrite 0 0xC04 false (v.setWidth 64)) → exec .registerWrite s = .next { s with sys := { s.sys with thresholds := v } })

/-- R429 to R432, R298: peer links and collectives. A link trains once asked; a flit that fails is resent, and with the seventeenth failure in a row the link goes down, with DOWNEV, vector 0 of interface 0 and the abort of the collectives that name it. COLLOPEN checks its descriptor, refuses with code 16, or opens a collective under a handle of its lowest link, failed at once where a link is down. Contributions are folded from 0 in ascending index, then across devices in ascending rank, whatever their order of arrival; DST is written only after the whole fold. An abort leaves DST unwritten, STATE 2 and its CAUSE. It rests on the model's readings of log 79, 80, 81. -/
def Obligations.CollectivesFoldInOrder : Prop :=
  (∀ (s : State) (n : Nat) (m : Msg), s.msg = some m → n < 16 →
    let l := getLink s n
    let open' : Prop := 2 ≤ s.sys.stage ∧ s.sys.stage ≤ 5 ∧ (getIface s 0).resetting = false
    let named : Prop := ∃ e ∈ s.colls, e.2.st = 0 ∧ e.2.links.getLsbD n = true
    let takes (t : State) (x : Link) : Prop := t = { s with sys := { s.sys with links := t.sys.links } } ∧ getLink t n = x ∧ ∀ k, k ≠ n → getLink t k = getLink s k
    let gives (x : Link) : Prop := ∃ t, exec m.instr s = .next t ∧ takes t x
    (m = .retrain n ∨ (m = .registerWrite 0 (0xD00 + 4 * n) false (0x40000000 ||| BitVec.ofNat 64 l.rank) ∧ l.rank < 2 ^ 16) →
      (open' → l.up = false ∨ ¬ named → gives { l with up := false, training := true, retries := 0 }) ∧ (¬ open' → exec m.instr s = .next s)) ∧
    (∀ ok, m = .trainingEnd n ok → (l.training = true → gives { l with up := ok, training := false, retries := 0 }) ∧ (l.training = false → exec m.instr s = .next s)) ∧
    (∀ ok, m = .flitReceive n ok → (l.up = false → exec m.instr s = .next s) ∧
      (l.up = true → ok = true → gives { l with retries := 0, flits := l.flits + 1 }) ∧
      (l.up = true → ok = false → l.retries < 16 → gives { l with retries := l.retries + 1 }) ∧
      (l.up = true → ok = false → 16 ≤ l.retries → ∃ t, exec m.instr s = .next t ∧ t.net = s.net ++ [⟨none, .linkDown n, 0⟩] ∧ getLink t n = { l with retries := l.retries + 1 })) ∧
    (m = .linkDown n → (l.up = false → exec m.instr s = .next s) ∧
      (l.up = true → ¬ named → (getIface s 0).masked.getLsbD 0 = false → ∃ t, exec m.instr s = .next t ∧ t.msix = s.msix ++ [msixOf s 0 0] ∧ t.colls = s.colls ∧ t.mem = s.mem ∧
        getLink t n = { l with up := false, downev := true, retries := 0 } ∧ ∀ k, k ≠ n → getLink t k = getLink s k)) ∧
    (m = .linkDown n ∨ m = .retrain n → l.up = true → m = .linkDown n ∨ open' → ∀ h c, s.colls = [(h, c)] → c.st = 0 → c.links.getLsbD n = true →
      (∃ pa e k, checkPage s engineUnit c.iface (c.desc + 0x2C) { w := true } = .ok pa e k) → s.engineWaits = [] → c.desc % 64 = 0 →
      ∃ t, exec m.instr s = .next t ∧ getColl t h = { c with st := 2, cause := 5, acc := [] } ∧ t.mem = (collPut s c.iface (c.desc + 0x2C) [2, 5, 0, 0]).mem ∧ (getLink t n).up = false) ∧
    (m = .downevClear n → (open' → gives { l with downev := false }) ∧ (¬ open' → exec m.instr s = .next s)) ∧
    (∀ v : Word, m = .registerWrite 0 (0xD00 + 4 * n) false (v.setWidth 64) → open' → v.getLsbD 30 = false →
      gives { l with rank := v.toNat % 65536, downev := l.downev && !v.getLsbD 29 })) ∧
  (∀ (s : State) (i va : Nat) (bs : List Byte),
    (∀ pa e k, checkPage s engineUnit i va { w := true } = .ok pa e k → bs.length ≤ 4096 → pa % 4096 + bs.length ≤ 4096 → pa + 4096 - pa % 4096 ≤ Config.hbmTop → BytesLand s (collPut s i va bs) pa bs) ∧
    ((∀ pa e k, checkPage s engineUnit i va { w := true } ≠ .ok pa e k) → collPut s i va bs = s)) ∧
  (∀ (s : State) (i : Nat) (v : DWord) (m : Msg), s.msg = some m → m = .collOpen i v ∨ m = .registerWrite i 0x90 true v → i ≤ s.sys.vfs → s.engineWaits = [] →
    let va := v.toNat
    let f (off n : Nat) : Nat := vNat s i (va + off) n
    let w4 := f 4 4
    let links : BitVec 16 := BitVec.ofNat 16 (f 0x28 4)
    let named := (List.range 16).filter fun n => links.getLsbD n
    let link := named.headD 0
    let kind := w4 % 16
    let ndev := f 8 4 % 65536
    let bad : Prop := w4 / 2 ^ 24 ≠ 0 ∨ f 0x28 4 / 65536 ≠ 0 ∨ f 0x38 8 ≠ 0 ∨ 1 < kind ∨ (kind = 0 ∧ (w4 / 65536 % 256 = 0 ∨ 63 < w4 / 65536 % 256)) ∨ (kind = 1 ∧ w4 / 65536 % 256 ≠ 1) ∨
      w4 / 256 % 256 ∉ [1, 8, 9, 10] ∨ 2 < w4 / 16 % 16 ∨ ndev = 0 ∨ 16 < ndev ∨ ndev ≤ f 8 4 / 65536 ∨ f 0x10 8 % 8 ≠ 0 ∨ (1 < ndev ∧ links = 0)
    let whole : Prop := ∃ pa e k, checkPage s engineUnit i va { r := true, w := true } = .ok pa e k ∧ hasError s pa 64 = false
    let refused : State := plainRecord s i false [0x20000000, 16, 0, 0, v.setWidth 32, v.extractLsb' 32 32, 0, 0]
    (s.sys.stage ≠ 5 ∨ (getIface s i).resetting = true → exec m.instr s = .next s) ∧
    (s.sys.stage = 5 → (getIface s i).resetting = false →
      (va % 64 ≠ 0 → exec m.instr s = .next refused) ∧
      ((∃ c, checkPage s engineUnit i va { r := true, w := true } = .trap c) → exec m.instr s = .next refused) ∧
      (whole → va % 64 = 0 → bad → exec m.instr s = .next refused) ∧
      (∀ pb, whole → va % 64 = 0 → ¬ bad → (∃ e k, checkPage s engineUnit i (f 0x10 8) { r := true } = .ok pb e k) → hasError s pb 8 = false → (∀ c ∈ s.colls, c.2.st ≠ 0) →
        let h := link * 65536 + (getLink s link).seq % 65536
        let up : Prop := ∀ n ∈ named, (getLink s n).up = true
        ∃ t c, exec m.instr s = .next t ∧ getColl t h = c ∧ (∀ k, k ≠ h → getColl t k = getColl s k) ∧ c.iface = i ∧ c.desc = va ∧ c.ncont = w4 / 65536 % 256 ∧ c.ty = w4 / 256 % 16 ∧ c.op = w4 / 16 % 16 ∧
          c.embx = decide (kind = 1) ∧ c.rank = f 8 4 / 65536 ∧ c.ndev = ndev ∧ c.count = f 0xC 4 ∧ c.src = f 0x18 8 ∧ c.dst = f 0x20 8 ∧ c.table = f 0x30 8 ∧
          (f 0x10 8 < 2 ^ 48 → c.arrive = pb) ∧ c.links = links ∧ c.bits = 0 ∧ c.merged = 0 ∧ c.sent = false ∧ (up → c.st = 0 ∧ c.cause = 0) ∧ (¬ up → c.st = 2 ∧ c.cause = 5) ∧
          t.mem = (collPut (collPut s i va (leBytes h 4)) i (va + 0x2C) [BitVec.ofNat 8 c.st, BitVec.ofNat 8 c.cause, 0, 0]).mem ∧ (getLink t link).seq = (h % 65536 + 1) % 65536))) ∧
  (∀ (s : State) (h bit : Nat), s.msg = some (.collContribute h bit) → s.engineWaits = [] →
    let c := getColl s h
    let z := (tyOf (BitVec.ofNat 4 c.ty)).size
    let ty := tyOf (BitVec.ofNat 4 c.ty)
    let op : RedOp := if c.op = 0 then .add else if c.op = 1 then .min else .max
    let changed (f : Coll) : Prop := ∃ t, exec .collContribute s = .next t ∧ getColl t h = f ∧ t = { s with colls := t.colls, engineWaits := t.engineWaits } ∧ ∀ k, k ≠ h → getColl t k = getColl s k
    let buf := vNat s c.iface (c.src + 8 * c.merged) 8
    let ready : Prop := c.embx = false ∧ c.merged < c.ncont ∧ c.bits.getLsbD c.merged = true
    (mapGet s.colls h = none ∨ c.st ≠ 0 → exec .collContribute s = .next s) ∧
    (mapGet s.colls h = some c → c.st = 0 →
      (bit < 63 → changed { c with bits := c.bits ||| BitVec.twoPow 64 bit }) ∧
      (bit = 63 → (∃ pa e k, checkPage s engineUnit c.iface (c.desc + 0x2C) { w := true } = .ok pa e k) → c.desc % 64 = 0 →
        ∃ t, exec .collContribute s = .next t ∧ getColl t h = { c with st := 2, cause := 2, acc := [] } ∧ t.mem = (collPut s c.iface (c.desc + 0x2C) [2, 2, 0, 0]).mem) ∧
      (bit = 64 → ready → engineRuns s (.collContribute h 64) c.iface [(c.src + 8 * c.merged, 8, { r := true })] = .ok →
        engineRuns s (.collContribute h 64) c.iface [(buf, z * c.count, { r := true })] = .ok →
        ∃ acc, changed { c with merged := c.merged + 1, acc := acc } ∧ (c.merged = 0 ∨ c.acc.length = c.count → acc.length = c.count) ∧
          ∀ j, j < c.count → let x := leVal (((vBytes s c.iface buf (z * c.count)).drop (z * j)).take z)
            (c.merged = 0 → acc[j]? = some x) ∧ (c.merged ≠ 0 → ∀ a, c.acc[j]? = some a → acc[j]? = some (accOp op ty a x))) ∧
      (bit = 64 → ready → (∃ k a, engineRuns s (.collContribute h 64) c.iface [(c.src + 8 * c.merged, 8, { r := true })] = .fail k a) →
        (∃ pa e k, checkPage s engineUnit c.iface (c.desc + 0x2C) { w := true } = .ok pa e k) → c.desc % 64 = 0 →
        ∃ t, exec .collContribute s = .next t ∧ getColl t h = { c with st := 2, cause := 3, acc := [] } ∧ t.mem = (collPut s c.iface (c.desc + 0x2C) [2, 3, 0, 0]).mem) ∧
      (bit = 64 → ¬ ready → c.embx = false → c.sent = false → c.merged ≠ c.ncont → exec .collContribute s = .next s) ∧
      (bit = 64 → c.embx = false → c.sent = false → c.merged = c.ncont → ∃ t bs, exec .collContribute s = .next t ∧ getColl t h = { c with sent := true } ∧ t.mem = s.mem ∧
        t.peerData = s.peerData ++ c.routes.map (fun r => (h, r.1, bs)) ∧ bs.length = z * c.acc.length ∧ (c.spoiled = false → bs = c.acc.flatMap fun x => leBytes x z)) ∧
      (bit = 64 → c.embx = true → c.sent = false → c.bits.getLsbD 0 = true → engineRuns s (.collContribute h 64) c.iface [(c.src, 16 * c.ndev, { r := true })] = .ok →
        engineRuns s (.collContribute h 64) c.iface ((List.range c.ndev).map fun p => (vNat s c.iface (c.src + 16 * p) 8, 4 * vNat s c.iface (c.src + 16 * p + 8) 8, { r := true })) = .ok →
        ∃ t, exec .collContribute s = .next t ∧ getColl t h = { c with sent := true } ∧ t.mem = s.mem ∧ ∃ q, t.peerData = s.peerData ++ q ∧
          ∀ p link, p < c.ndev → p ≠ c.rank → c.routes.find? (fun r => r.2 == p) = some (link, p) →
            (h, link, vBytes s c.iface (vNat s c.iface (c.src + 16 * p) 8) (4 * vNat s c.iface (c.src + 16 * p + 8) 8)) ∈ q))) ∧
  (∀ (s : State) (h rank : Nat) (rows : List Nat), s.msg = some (.embxRequest h rank rows) → s.engineWaits = [] →
    let c := getColl s h
    let d := vWords s c.iface c.table 16
    let xs := rows.flatMap fun r => (List.range c.count).map fun k => elemSrc d [(k : Int), (r : Int), 0, 0, 0]
    let m := Msg.embxRequest h rank rows
    (mapGet s.colls h = none ∨ c.st ≠ 0 ∨ c.embx = false → exec .embxRequest s = .next s) ∧
    (mapGet s.colls h = some c → c.st = 0 → c.embx = true → engineRuns s m c.iface [(c.table, 64, { r := true })] = .ok →
      engineRuns s m c.iface ((xs.flatMap Src.needs).dedup.map fun va => (va, 1, { r := true })) = .ok → ∀ link, c.routes.find? (fun r => r.2 == rank) = some (link, rank) →
      ∃ t bs, exec .embxRequest s = .next t ∧ t.mem = s.mem ∧ t.colls = s.colls ∧ t.peerData = s.peerData ++ [(h, link, bs)] ∧
        (descBits d % 8 = 0 → bs = xs.flatMap fun x => leBytes (x.val (vByte s c.iface) % 2 ^ descBits d) (descBits d / 8)))) ∧
  (∀ (s : State) (h : Nat) (parts : List (List Byte)), s.msg = some (.collEnd h parts) → s.engineWaits = [] →
    let c := getColl s h
    let ty := tyOf (BitVec.ofNat 4 c.ty)
    let op : RedOp := if c.op = 0 then .add else if c.op = 1 then .min else .max
    let m := Msg.collEnd h parts
    (mapGet s.colls h = none ∨ c.st ≠ 0 ∨ c.sent = false ∨ parts.length + 1 ≠ c.ndev → exec .collEnd s = .next s) ∧
    (mapGet s.colls h = some c → c.st = 0 → c.sent = true → parts.length + 1 = c.ndev → c.embx = false → c.spoiled = false → c.rank < c.ndev → c.acc.length = c.count → 0 < c.count → (∀ p ∈ parts, p.length = ty.size * c.count) →
      engineRuns s m c.iface [(c.dst, ty.size * c.count, { w := true })] = .ok → c.dst % 4096 + ty.size * c.count ≤ 4096 → c.dst + 4096 < 2 ^ 64 → c.desc % 64 = 0 →
      ∃ vals : List Nat, vals.length = c.count ∧
        (let bs := vals.flatMap fun x => leBytes x ty.size
        (∃ pa e k, checkPage (collPut s c.iface c.dst bs) engineUnit c.iface (c.desc + 0x2C) { w := true } = .ok pa e k) → ∃ t, exec .collEnd s = .next t ∧
          getColl t h = { c with st := 1, cause := 0, acc := [] } ∧ t.mem = (collPut (collPut s c.iface c.dst bs) c.iface (c.desc + 0x2C) [1, 0, 0, 0]).mem) ∧
        ∀ j, j < c.count → ∃ zs : Nat → Nat, vals[j]? = some (zs (c.ndev - 1)) ∧
          let part (r : Nat) : Nat := if r = c.rank then c.acc.getD j 0 else leVal (((parts.getD (if r < c.rank then r else r - 1) []).drop (ty.size * j)).take ty.size)
          zs 0 = part 0 ∧ ∀ r, r + 1 < c.ndev → zs (r + 1) = accOp op ty (zs r) (part (r + 1)))) ∧
  ∀ (s : State) (h cause : Nat), s.msg = some (.collAbort h cause) → cause < 256 → s.engineWaits = [] →
    let c := getColl s h
    (mapGet s.colls h = none ∨ c.st ≠ 0 → exec .collAbort s = .next s) ∧
    (mapGet s.colls h = some c → c.st = 0 → c.desc % 64 = 0 → (∀ need, checkPage s engineUnit c.iface (c.desc + 0x2C) need ≠ .park) → ∃ t, exec .collAbort s = .next t ∧
      getColl t h = { c with st := 2, cause := cause, acc := [] } ∧ (∀ k, k ≠ h → getColl t k = getColl s k) ∧ t.mem = (collPut s c.iface (c.desc + 0x2C) [2, BitVec.ofNat 8 cause, 0, 0]).mem ∧
      ∀ w x k e, mapWf s.warps = true → mapGet s.warps w = some x → x.iface = c.iface → mapGet x.events k = some e → k < 8 → e.typ = 9 → e.object = h → (∀ u, u < 32 → condAt s w u ≠ .waiting .anyEvent) →
        (getWarp t w).evp.getLsbD k = true)

/-! ### Bring-up and limits -/

/-- R433 to R437: bring-up. Each stage follows the one before, or stops the sequence with its ERROR. A firmware image is accepted only where key digest, signature and body digest, and security version all pass, and ERROR names the first that does not; one from the flash may raise the fused minimum, a recovery image, taken from the staging window only while ERROR is 2 to 4, never. MEMORY clears HBM, slices and cluster caches to zero. READY starts GTIME from 0 and trains every peer link. An attestation report holds what R437 gives its bytes and leaves the nonce. It rests on the model's readings of log 11, 84, 85. -/
def Obligations.BringUpPassesItsStages : Prop :=
  (∀ (s : State) (m : Msg), s.msg = some m →
    let sys (x : Sys) : State := { s with sys := x }
    let at' (n : Nat) : Prop := s.sys.stage = n ∧ s.sys.error = 0
    (m = .supplyStable → (at' 1 → exec m.instr s = .next (sys { s.sys with stage := 2 })) ∧ (¬ at' 1 → exec m.instr s = .next s)) ∧
    (∀ ok, m = .romStage ok → (at' 2 → exec m.instr s = .next (sys (if ok = true then { s.sys with stage := 3, kept := none } else { s.sys with error := 1 }))) ∧
      (¬ at' 2 → exec m.instr s = .next s)) ∧
    (∀ (img cut : List Byte) (n : Word), (m = .verify img ∧ cut = img) ∨
        ((m = .bootimg n ∨ (m = .registerWrite 0 0xE04 false (n.setWidth 64) ∧ (getIface s 0).resetting = false)) ∧ cut = (List.range n.toNat).map fun k => mapGetD s.sys.staging k 0) →
      let flash : Prop := m = .verify img
      let now : Prop := if flash then at' 3 else s.sys.stage = 3 ∧ 2 ≤ s.sys.error ∧ s.sys.error ≤ 4
      let x : Sys := if flash then s.sys else { s.sys with bootimg := n }
      let field (off len : Nat) : Nat := leVal ((cut.drop off).take len)
      let key := (cut.drop 0x100).take 384
      let signed : Prop := Config.rsaVerifies key (cut.take 0x280) ((cut.drop 0x280).take 384) = true ∧ 1024 + field 0x28 8 ≤ cut.length ∧ sha256 ((cut.drop 1024).take (field 0x28 8)) = cut.take 32
      (¬ now → exec m.instr s = .next s) ∧
      (now → sha256 key ≠ Config.fusedKeyDigest → exec m.instr s = .next (sys { x with error := 2 })) ∧
      (now → sha256 key = Config.fusedKeyDigest → ¬ signed → exec m.instr s = .next (sys { x with error := 3 })) ∧
      (now → sha256 key = Config.fusedKeyDigest → signed → field 0x20 4 < s.sys.fusedMin → exec m.instr s = .next (sys { x with error := 4 })) ∧
      (now → sha256 key = Config.fusedKeyDigest → signed → s.sys.fusedMin ≤ field 0x20 4 →
        exec m.instr s = .next (sys { x with stage := 4, error := 0, firmware := cut.take 1024, fusedMin := if flash then field 0x20 4 else s.sys.fusedMin }))) ∧
    (∀ failed, m = .memoryStage failed → (¬ at' 4 → exec m.instr s = .next s) ∧
      (∀ k, failed = some k → at' 4 → exec m.instr s = .next (sys { s.sys with error := 5, detail := k })) ∧
      (failed = none → at' 4 → ∃ t, exec m.instr s = .next t ∧ t = { s with mem := t.mem, errors := [], l1 := [], cc := [], wbuf := [], owner := [], sys := { s.sys with trained := true } } ∧
        (∀ a, a < Config.hostBase → devByte t a = 0) ∧ ∀ a, Config.hostBase ≤ a → memByte t a = memByte s a)) ∧
    (m = .ready → (at' 4 → s.sys.trained = true → ∃ t, exec m.instr s = .next t ∧ t.gtime = 0 ∧ t.sys = { s.sys with stage := 5, windowEnd := 2 ^ (s.sys.errwin.toNat % 64), links := t.sys.links } ∧
        t = { s with gtime := 0, refill := 0, sys := t.sys } ∧ (∀ n, n < 16 → getLink t n = { getLink s n with training := true }) ∧ ∀ n, 16 ≤ n → getLink t n = getLink s n) ∧
      (¬ at' 4 ∨ s.sys.trained = false → exec m.instr s = .next s)) ∧
    (∀ v : DWord, m = .attreq v ∨ m = .registerWrite 0 0xE08 true v →
      let ok : Prop := 2 ≤ s.sys.stage ∧ s.sys.stage ≤ 5 ∧ (getIface s 0).resetting = false ∧ s.sys.attbusy = false ∧ v.toNat % 64 = 0 ∧ Config.hostBase ≤ v.toNat ∧ v.toNat + 512 ≤ 2 ^ 52
      (ok → exec m.instr s = .next (sys { s.sys with attreq := v, attbusy := true })) ∧ (¬ ok → exec m.instr s = .next s)) ∧
    (∀ (v : DWord) (wide : Bool) (off : Nat), m = .registerWrite 0 (0x10000 + off) wide v →
      let n := if wide = true then 8 else 4
      let open' : Prop := 2 ≤ s.sys.stage ∧ s.sys.stage ≤ 5 ∧ 2 ≤ s.sys.error ∧ s.sys.error ≤ 4
      off % n = 0 → (¬ open' → exec m.instr s = .next s) ∧ (open' → ∃ t, exec m.instr s = .next t ∧ t = sys { s.sys with staging := t.sys.staging } ∧
        ∀ k, mapGetD t.sys.staging k 0 = if off ≤ k ∧ k < off + n then BitVec.ofNat 8 (v.toNat / 256 ^ (k - off)) else mapGetD s.sys.staging k 0)) ∧
    (∀ (n : Word) (wide : Bool) (off : Nat), m = .registerWrite 0 off wide (n.setWidth 64) → wide = false → off ∈ [0xE00, 0xE10, 0xE14] → exec m.instr s = .next s)) ∧
  ∀ s : State, s.msg = some .attestationDone →
    let a := s.sys.attreq.toNat
    let fw := s.sys.firmware
    (s.sys.attbusy = false → exec .attestationDone s = .next s) ∧
    (s.sys.attbusy = true → Config.hostBase ≤ a → a + 512 ≤ 2 ^ 52 → fw ≠ [] → ∃ t, exec .attestationDone s = .next t ∧ t.sys = { s.sys with attbusy := false } ∧ t.warps = s.warps ∧ t.ifaces = s.ifaces ∧
      (∀ c, c < 2 ^ 52 → ¬ (a + 32 ≤ c ∧ c < a + 512) → devByte t c = devByte s c) ∧ devBytes t (a + 0x20) 32 = sha256 (fw.take 0x280) ∧
      devNat t (a + 0x40) 4 = leVal ((fw.drop 0x24).take 4) ∧ devNat t (a + 0x44) 4 = s.sys.fusedMin % 2 ^ 32 ∧ devNat t (a + 0x48) 8 = Config.serialNumber.toNat ∧
      devNat t (a + 0x50) 48 = 0 ∧ ((Config.identitySign (devBytes t a 128)).length = 384 → devBytes t (a + 0x80) 384 = Config.identitySign (devBytes t a 128)))

/-- R438 to R441, R433: operating limits. A 1 ms window of samples calls for a shutdown, a clock step down, or a step up, by the averages of R438; a 10 ms window of the module power for a step down. A step sets CLKSTEP and GBAND. A shutdown raises vector 0, stops in stage 6 with its ERROR and DETAIL, and loses all but host memory; it is left only at a host link reset or a power-on after its cause has gone, at stage 1, with BOOTSTAT kept. Below 36 V all state is lost. It rests on the model's readings of log 82, 83. -/
def Obligations.LimitsThrottleAndShutDown : Prop :=
  (∀ s : State, s.msg = some .powerOn →
    (s.sys.stage = 6 → s.sys.above = true → exec .powerOn s = .next s) ∧
    (s.sys.stage = 6 → s.sys.above = false → ∃ t, exec .powerOn s = .next t ∧ Cold s t { kept := some (6, s.sys.error, s.sys.detail) } ∧
      pageRead t 0 0xE00 = 6 + 256 * s.sys.error + 65536 * s.sys.detail) ∧
    (s.sys.stage ≠ 6 → ∃ t, exec .powerOn s = .next t ∧ Cold s t {} ∧ pageRead t 0 0xE00 = 1)) ∧
  (∀ s : State, s.msg = some .hostLinkReset →
    (s.sys.stage = 6 → s.sys.above = true → exec .hostLinkReset s = .next s) ∧
    (s.sys.stage = 6 → s.sys.above = false → ∃ t, exec .hostLinkReset s = .next t ∧ Cold s t { kept := some (6, s.sys.error, s.sys.detail) }) ∧
    (s.sys.stage < 5 → s.sys.error ≠ 0 → ∃ t, exec .hostLinkReset s = .next t ∧ Cold s t {})) ∧
  (∀ s : State, s.msg = some .supplyLoss → ∃ t, exec .supplyLoss s = .next t ∧ Cold s t { stage := 0 }) ∧
  (∀ (s : State) (e d : Nat), s.msg = some (.shutdown e d) →
    (s.sys.stage = 0 ∨ s.sys.stage = 6 → exec .shutdown s = .next s) ∧
    (s.sys.stage ≠ 0 → s.sys.stage ≠ 6 → e < 256 → d < 256 → ∃ t, exec .shutdown s = .next t ∧ Cold { s with msix := t.msix } t { stage := 6, error := e, detail := d, above := true } ∧
      t.msix = s.msix ++ (if (getIface s 0).masked.getLsbD 0 = true then [] else [msixOf s 0 0]) ∧ pageRead t 0 0xE00 = 6 + 256 * e + 65536 * d ∧
      ∀ off, off ≠ 0xE00 → pageRead t 0 off = pageRead State.reset 0 off)) ∧
  (∀ (s : State) (n : Nat), s.msg = some (.clockStepChange n) →
    (s.sys.stage = 5 → n ≤ 3 → exec .clockStepChange s = .next { s with sys := { s.sys with clkstep := n, gband := if n = 3 then 10 else if n = 2 then 9 else 8 } }) ∧
    (s.sys.stage ≠ 5 ∨ 3 < n → exec .clockStepChange s = .next s)) ∧
  ∀ (s : State) (x : LimitSample), s.msg = some (.limitSample x) →
    let l := s.sys.window ++ [x]
    let sum (f : LimitSample → Nat) : Nat := (l.map f).sum
    let asks (m : Msg) (y : Sys) : Prop := exec .limitSample s = .next { s with net := s.net ++ [⟨none, m, 0⟩], sys := y }
    let y : Sys := { s.sys with window := [], powers := s.sys.powers ++ [x.powerW] }
    let full : Prop := 36000 ≤ x.supplyMv ∧ 2 ≤ s.sys.stage ∧ s.sys.stage ≠ 6 ∧ s.sys.window.length = 999 ∧ s.sys.powers.length < 9999
    let stop : Prop := sum (·.supplyMv) < 40000000 ∨ 105000 ≤ sum (·.dieC) ∨ 95000 ≤ sum (·.hbmC)
    let slow : Prop := sum (·.supplyMv) < 42000000 ∨ 95000 ≤ sum (·.dieC) ∨ 85000 ≤ sum (·.hbmC)
    let fine : Prop := 43000000 ≤ sum (·.supplyMv) ∧ sum (·.dieC) < 90000 ∧ sum (·.hbmC) < 80000 ∧ s.sys.lastPower < 23000000
    (x.supplyMv < 36000 → asks .supplyLoss s.sys) ∧
    (36000 ≤ x.supplyMv → s.sys.stage = 6 → exec .limitSample s = .next { s with sys := { s.sys with
      above := if s.sys.error = 16 then decide (x.supplyMv < 43000) else if s.sys.error = 17 then decide (90 ≤ x.dieC) else decide (80 ≤ x.hbmC) } }) ∧
    (36000 ≤ x.supplyMv → s.sys.stage < 2 → exec .limitSample s = .next s) ∧
    (36000 ≤ x.supplyMv → 2 ≤ s.sys.stage → s.sys.stage ≠ 6 → s.sys.window.length < 999 → s.sys.powers.length < 9999 → exec .limitSample s = .next { s with sys := { y with window := l } }) ∧
    (full → sum (·.supplyMv) < 40000000 → asks (.shutdown 16 0) y) ∧
    (full → 40000000 ≤ sum (·.supplyMv) → 105000 ≤ sum (·.dieC) → asks (.shutdown 17 x.die) y) ∧
    (full → 40000000 ≤ sum (·.supplyMv) → sum (·.dieC) < 105000 → 95000 ≤ sum (·.hbmC) → asks (.shutdown 18 x.stack) y) ∧
    (full → ¬ stop → slow → s.sys.clkstep < 3 → asks (.clockStepChange (s.sys.clkstep + 1)) y) ∧
    (full → ¬ stop → ¬ slow → fine → 0 < s.sys.clkstep → asks (.clockStepChange (s.sys.clkstep - 1)) y) ∧
    (full → ¬ stop → (slow ∧ 3 ≤ s.sys.clkstep) ∨ (¬ slow ∧ (¬ fine ∨ s.sys.clkstep = 0)) → exec .limitSample s = .next { s with sys := y }) ∧
    (36000 ≤ x.supplyMv → 2 ≤ s.sys.stage → s.sys.stage ≠ 6 → s.sys.window.length < 999 → s.sys.powers.length = 9999 →
      let p := s.sys.powers.sum + x.powerW
      let z : Sys := { s.sys with window := l, powers := [], lastPower := p }
      (24000000 ≤ p → s.sys.clkstep < 3 → asks (.clockStepChange (s.sys.clkstep + 1)) z) ∧ (p < 24000000 ∨ 3 ≤ s.sys.clkstep → exec .limitSample s = .next { s with sys := z }))

/-! ### The whole machine -/

/-- R58 to R61, R69 to R71, R80, R86, R114, R393, R395: one step. A set that issues fetches the twelve bytes at its address; where they are a legal word, and no latched asynchronous trap is taken first, the step is what that word does, for that set, in the state in which only the step's counters, the marks of issue and the choice of the next issue have changed. A first or second issue meets the three items of R71 for its word; the partner of a pair issues with it. A word outside the code, misaligned or not executable traps; an illegal one raises ILLEGAL with its detail for every thread of the set. A word is fetched whole, as memory has it or as it stood when the kernel began. An event, a message in flight and an input of the outside are delivered as they are; else the main clock moves on, and with it GTIME at 1 GHz, but not while a partition can make its first choice. Every thread that issues is ready at the address. It rests on the model's readings of log 2, 7, 24, 100. -/
def Obligations.StepRunsTheDecodedWord : Prop :=
  (∀ (s : State) (w : Nat) (m : Lanes) (pc : DWord) (first joint : Bool), chooseMove s = .word w m pc first joint →
    let u : State := { beginStep s with pairing := none, second := none }
    let x := getWarp u w
    let u1 := fetchFill u x pc
    let all (r : State) (c d a : Nat) : State := deliver (markIssue r w 0 false first) w pc ((laneList m).map fun v => { lane := v, cause := c, detail := d, addr := a })
    (mapWf s.warps = true → ∀ v, v < 32 → m.getLsbD v = true → condAt s w v = .ready ∧ pcAt s w v = pc) ∧
    (mapWf s.warps = true → joint = false → ∀ iw, fetchAt s (getWarp s w) pc = .word iw →
      (∀ c, (getWarp s w).issued = some c → c + max 1 (iw.extractLsb' 20 4).toNat ≤ s.clock) ∧
      (∀ k, k < 12 → iw.getLsbD (4 + k) = true → seenCount (getWarp s w) k = 0) ∧
      ((iw.extractLsb' 16 4).toNat ≤ 11 → seenCount (getWarp s w) (iw.extractLsb' 16 4).toNat < 63)) ∧
    (u.mem = s.mem ∧ u.ifaces = s.ifaces ∧ u.launches = s.launches ∧ u.cc = s.cc ∧ u.l1 = s.l1 ∧ u.clock = s.clock ∧ u1 = { u with tlb := u1.tlb } ∧
      x = { getWarp s w with eligible := x.eligible, urgent := x.urgent }) ∧
    (∀ c, fetchAt u x pc = .trap c → step s = .next (all u c 0 pc.toNat)) ∧
    (fetchAt u x pc = .park → step s = .next (parkFetch u w m pc)) ∧
    ∀ iw, fetchAt u x pc = .word iw →
      let act := guardLanes u1 w x m (iw.extractLsb' 80 4)
      let taken : Prop := x.latched ≠ [] ∧ act ≠ 0 ∧ ∀ v, v < 32 → act.getLsbD v = true → (threadOf x v).trapinfo.getLsbD 8 = false
      (∀ a r, taken → x.latched = a :: r → x.threads.length = 32 → ∃ s1, step s = .next (deliver s1 w pc
          ((laneList act).map fun v => ⟨v, a.cause, a.detail, a.addr, a.aux1, a.aux2, a.f6, a.f7⟩)) ∧ getWarp s1 w = { x with latched := r, issued := some s.clock, eligible := none, urgent := false } ∧
        s1 = { u1 with chosen := s1.chosen, warps := s1.warps } ∧ ∀ v, v ≠ w → getWarp s1 v = getWarp u v) ∧
      (∀ d, ¬ taken → x.threads.length = 32 → decodeWord (limitsOf u1 x) iw = .error d → step s = .next (all u1 causeIllegal d 0)) ∧
      ∀ i, ¬ taken → x.threads.length = 32 → decodeWord (limitsOf u1 x) iw = .ok i → ∃ s1, step s = exec i s1 ∧ s1.cur = some (w, m) ∧ s1.msg = none ∧
        s1 = { u1 with chosen := s1.chosen, next := s1.next, warps := s1.warps, cur := s1.cur, pairing := s1.pairing, second := s1.second } ∧
        (∀ v, v ≠ w → getWarp s1 v = getWarp u v) ∧
        (∃ c, s.clock ≤ c ∧ getWarp s1 w = { x with issued := some c, eligible := none, urgent := false, age := (getWarp s1 w).age, pair := (getWarp s1 w).pair }) ∧
        (first = false → s1.pairing = none ∧ s1.second = none ∧ (getWarp s1 w).pair = x.pair)) ∧
  (∀ (s : State) (x : Warp) (pc : DWord),
    let r := (getLaunch s x.launch).record
    let base := r.codeBase.toNat
    let inside : Prop := base ≤ pc.toNat ∧ pc.toNat < base + 12 * r.codeLen
    let check := checkPage s x.core x.iface pc.toNat { x := true }
    let behind : Bool := spanParked s x.core x.iface (pc.toNat / 4096)
    (¬ inside → fetchAt s x pc = .trap causeAccess) ∧ (inside → (pc.toNat - base) % 12 ≠ 0 → fetchAt s x pc = .trap causeAlign) ∧
    (inside → (pc.toNat - base) % 12 = 0 → (behind = true ∨ check = .park → fetchAt s x pc = .park) ∧ (behind = false →
      (∀ c, check = .trap c → fetchAt s x pc = .trap c) ∧
      ∀ pa e k, check = .ok pa e k → pc.toNat % 4096 + 12 ≤ 4096 → (hasError s pa 12 = true → fetchAt s x pc = .trap causeAccess) ∧
        (hasError s pa 12 = false → ∃ iw, fetchAt s x pc = .word iw ∧
          ((∀ j, j < 12 → iw.extractLsb' (8 * j) 8 = devByte s (pa + j)) ∨ oldWord (getLaunch s x.launch) (pc.toNat - base) = some iw))))) ∧
  (∀ (s : State) (m : Msg),
    let begins (s1 : State) : Prop := s1 = { s with net := s1.net, inbox := s1.inbox, tick := s.tick + 1, free := s1.free, warps := s1.warps, cur := none, msg := some m, pairing := s1.pairing, second := s1.second } ∧
      ∀ w, getWarp s1 w = { getWarp s w with eligible := (getWarp s1 w).eligible, urgent := (getWarp s1 w).urgent }
    (chooseMove s = .event m → ∃ s1, step s = exec m.instr s1 ∧ begins s1 ∧ s1.net = s.net ∧ s1.inbox = s.inbox) ∧
    (∀ n c d, chooseMove s = .flight n → s.net[n]? = some ⟨c, m, d⟩ → ∃ s1, step s = exec m.instr s1 ∧ begins s1 ∧ s1.net = s.net.eraseIdx n ∧ s1.inbox = s.inbox) ∧
    (∀ n, chooseMove s = .input n → s.inbox[n]? = some m → ∃ s1, step s = exec m.instr s1 ∧ begins s1 ∧ s1.net = s.net ∧ s1.inbox = s.inbox.eraseIdx n)) ∧
  ∀ s : State, (chooseMove s = .tick ∨ chooseMove s ∈ moves s) ∧
    (s.sys.stage ≠ 5 → ∀ k ∈ candidates s, k = .tick ∨ (∃ n, k = .input n) ∨ ∃ n, k = .flight n) ∧
    (s.sys.stage = 5 → Move.tick ∈ candidates s → firstChoices s (offers s) = []) ∧
    (chooseMove s = .tick → ∃ t, step s = .next t ∧ t.clock = s.clock + 1 ∧
      let n := s.frac + [12, 15, 20, 30].getD s.sys.clkstep 30
      (s.sys.stage = 5 → t.frac = n % 30 ∧ t.gtime = s.gtime + n / 30) ∧ (s.sys.stage ≠ 5 → t.gtime = s.gtime) ∧
      t = { s with clock := t.clock, tick := s.tick + 1, free := t.free, frac := t.frac, gtime := t.gtime, chosen := [], warps := t.warps, cur := none, msg := none, pairing := none, second := none })

/-- R58 to R67, R79, R81: words written out from the encoding rows of their entries decode to what they stand for; others are refused with the detail of the first check that fails. It rests on the model's readings of log 13, 14, 16. -/
def Obligations.WordsDecodeAsWritten : Prop :=
  let c : Ctl := ⟨7, 0x0F0000⟩
  (∀ e ∈ [(0x0007_C018_0300_0000_000F_0000, Instr.nop c),
      (0x500A_00E0_1502_4100_002F_0038, .fadd ⟨0xA, 0x2F0038⟩ .f32 .rz (.v 7) (.v 5) (.k 4)),
      (0x0100_C018_0300_0000_020F_0000, .bra ⟨0, 0x0F0000⟩ 2),
      (0x1607_8048_5300_0007_F90F_0000, .sbindLd c 0x7F9 (.s 2) (.k 20)),
      (0x3517_00C0_0B00_080C_040F_0000, .bfx c .s32 (.lit 4 12) (.v 6) (.v 2)),
      (0x8127_0120_2302_0000_0B0F_0000, .shflDown c .u32 (some 3) (.v 9) (.v 8) (.imm 4)),
      (0x9107_00C8_1001_1460_1001_0000, .st ⟨7, 0x010000⟩ .plain .u64 .device (.v 6) ⟨.k 4, some (.v 2), 3, 16⟩),
      (0xA307_0108_8301_8400_0802_0000, .cpyLoad ⟨7, 0x020000⟩ .device true 0 (.v 8) (.k 32) (.imm 3)),
      (0xB017_C018_0300_0400_0004_0000, .fenceRel ⟨7, 0x040000⟩ .device),
      (0xB107_0088_1801_0400_0801_0000, .atom ⟨7, 0x010000⟩ .add ⟨.u32, .device, .none, false, false, 8, .k 6⟩ (some (.v 4)) (.v 2)),
      (0xC407_C008_4300_0000_030F_0000, .evarm c 3 (.k 16)),
      (0xD217_8A48_222C_8000_010F_0000, .rdemandWait c .write (.p 2) (.k 8) (.h 1)),
      (0xE107_8248_2105_7000_0103_0000, .mma ⟨7, 0x030000⟩ .t8 false false 1 0 0 (.z 2) (.k 8) (.k 10)),
      (0xF017_C018_0300_0000_000F_0000, .gfireEnd c),
      (0xF107_00C8_1300_8000_0002_0000, .gtoken ⟨7, 0x020000⟩ (some (.v 6)) (.k 4) (.imm 1)),
      (0xF607_C018_1700_0000_000F_0000, .trap c (.imm 5)),
      (0xF617_0098_0B00_0000_000F_0000, .trapRd c (.v 4) (.imm 2)),
      (0xF717_C018_0300_0000_000F_0000, .rteNext c)], decodeWord maxLimits (BitVec.ofNat 96 e.1) = .ok e.2) ∧
  ∀ e ∈ [(0xFF07_C018_0300_0000_000F_0000, 1), (0x0C07_C018_0300_0000_000F_0000, 2), (0xF807_C018_0300_0000_000F_0000, 2), (0x0017_C018_0300_0000_000F_0000, 3), (0x0007_C018_0300_0100_000F_0000, 4), (0x0007_C018_0300_0000_010F_0000, 5), (0x0000_0000_0000_0000_0000_0000, 6), (0x0000_0000_0000_0000_000F_0000, 6), (0x500A_2800_1502_4100_002F_0038, 7), (0x0007_C018_0300_0000_000C_0000, 8), (0x0007_C018_0300_0000_0003_0000, 8)], decodeWord maxLimits (BitVec.ofNat 96 e.1) = .error e.2

/-- R58, R62 to R69: decoding the encoding of a well-formed instruction gives it back: no bit of an encoding is dropped, for every word of the opcode table. It rests on the model's readings of log 17. -/
def Obligations.DecodeInvertsEncode : Prop :=
  (∀ i : Instr, i.wf = true → decodeWord maxLimits i.encode = .ok i) ∧
  ∀ i : Instr, i.wf = true → decodeTableWord 96 i.encode.toNat = some i

/-- R69, R80, R98: every word whose guard holds in no thread of its set only moves the set to the next word; every word that issues, every event with its message, and every step answers a next state: the machine has no stop. It rests on the model's readings of log 10. -/
def Obligations.EveryStepAnswers : Prop :=
  (∀ (i : Instr) (s : State) (w : Nat) (set : Lanes), ¬ isEvent i → s.cur = some (w, set) →
    (guardLanes s w (getWarp s w) set i.fields.guard = 0 → exec i s = .next (advance s w set)) ∧ ∃ t, exec i s = .next t) ∧
  (∀ (m : Msg) (s : State), s.msg = some m → ∃ t, exec m.instr s = .next t) ∧
  ∀ s : State, ∃ t, step s = .next t

/-- R185, R433: the memory list keeps its canonical form through every step: addresses strictly rising, and no entry equal to the zero that an unlisted address reads as (the form is the model's; what unlisted bytes read as: log 4). -/
def Obligations.MemoryStaysCanonical : Prop :=
  ∀ s t : State, Memory.wf s.mem = true → step s = .next t → Memory.wf t.mem = true

/-- R422, R428, R429, R433, R436, R439, R440, R443: the machine after power-on: stage 1, nothing running; the registers of every interface and of the physical function at their reset columns; GTIME 0; GBAND of clock step 0; memory canonical, and zero as the model lists it (log 4); the values of log 5 and log 6 are the model's choice. -/
def Obligations.ResetLeavesTheRegisters : Prop :=
  let s := State.reset
  (∀ i, getIface s i = {} ∧ (∀ off ∈ [0x004, 0x008, 0x010, 0x014, 0x018, 0x01C, 0x020, 0x028, 0x030, 0x034, 0x038, 0x03C, 0x040, 0x048, 0x04C, 0x050, 0x054, 0x058, 0x060, 0x064, 0x068, 0x06C, 0x070, 0x074, 0x080, 0x084, 0x088, 0x08C, 0x090],
    pageRead s i off = 0) ∧ (getIface s i).seq = 0 ∧ (getIface s i).launchq = []) ∧
  pageRead s 0 0xC00 = 30 ∧ pageRead s 0 0xC04 = 16 + 256 * 8 + 65536 * 32 + 16777216 * 16 ∧ (∀ n, n < 16 → pageRead s 0 (0xD00 + 4 * n) = 0) ∧
  pageRead s 0 0xE00 = 1 ∧ pageRead s 0 0xE04 = 0 ∧ pageRead s 0 0xE08 = 0 ∧ pageRead s 0 0xE10 = 0 ∧ pageRead s 0 0xE14 = 0 ∧
  s.sys.gband = 8 ∧ s.gtime = 0 ∧ s.warps = [] ∧ s.graphs = [] ∧ s.inbox = [] ∧ Memory.wf s.mem = true ∧ (∀ a, memByte s a = 0 ∧ devByte s a = 0) ∧ moves s = [.tick] ∧ step s = .next (nextClock (beginStep s))
end

