-- ==== Sys2Proof/Laws/Lanes.lean ====
section
/-! SUPPORT. Laws of lane sets. -/

namespace Sys2Proof.Machine

theorem foldl_laneSet (p : Nat → Bool) (n : Nat) (hn : n ≤ 32) (t : Nat) :
    ((List.range n).foldl (fun m t => if p t then m ||| BitVec.twoPow 32 t else m) (0 : Lanes)).getLsbD t
      = (decide (t < n) && p t) := by
  induction n with
  | zero => simp
  | succ n ih =>
    have ih := ih (by omega)
    rw [List.range_succ, List.foldl_append]
    simp only [List.foldl_cons, List.foldl_nil]
    by_cases hp : p n = true
    · rw [if_pos hp, BitVec.getLsbD_or, ih, BitVec.getLsbD_twoPow]
      by_cases h : t = n
      · subst h; simp [hp]; omega
      · have h2 : ¬ n = t := fun h' => h h'.symm
        by_cases h3 : t < n
        · have : t < n + 1 := by omega
          simp [h2, h3, this]
        · have : ¬ t < n + 1 := by omega
          simp [h2, h3, this]
    · rw [if_neg hp, ih]
      by_cases h : t = n
      · subst h; simp [hp]
      · by_cases h3 : t < n
        · have : t < n + 1 := by omega
          simp [h3, this]
        · have : ¬ t < n + 1 := by omega
          simp [h3, this]

/-- A lane is in the set of the lanes that satisfy `p` if it is below 32 and satisfies it. -/
@[simp] theorem getLsbD_laneSet (p : Nat → Bool) (t : Nat) : (laneSet p).getLsbD t = (decide (t < 32) && p t) :=
  foldl_laneSet p 32 (Nat.le_refl 32) t

theorem mem_laneList (m : Lanes) (t : Nat) : t ∈ laneList m ↔ t < 32 ∧ m.getLsbD t = true := by
  simp [laneList]

@[simp] theorem laneSet_getLsbD (m : Lanes) : laneSet (fun t => m.getLsbD t) = m := by
  apply BitVec.eq_of_getLsbD_eq; intro i hi; rw [getLsbD_laneSet]; simp [hi]

theorem laneList_nodup (m : Lanes) : (laneList m).Nodup := List.Nodup.filter _ List.nodup_range

@[simp] theorem laneList_zero : laneList 0 = [] := by decide

@[simp] theorem laneSet_false : laneSet (fun _ => false) = 0 := by decide

theorem laneSet_congr {p q : Nat → Bool} (h : ∀ t, t < 32 → p t = q t) : laneSet p = laneSet q := by
  apply BitVec.eq_of_getLsbD_eq; intro i hi; rw [getLsbD_laneSet, getLsbD_laneSet, h i hi]

/-- A set that is not empty has a lowest lane, which belongs to it. -/
theorem lowLane_mem {m : Lanes} (h : m ≠ 0) : lowLane m < 32 ∧ m.getLsbD (lowLane m) = true := by
  have : laneList m ≠ [] := by
    intro hn; apply h; apply BitVec.eq_of_getLsbD_eq
    intro i hi
    have := mem_laneList m i
    rw [hn] at this
    simp only [List.not_mem_nil, false_iff, not_and, Bool.not_eq_true] at this
    simp [this hi]
  unfold lowLane
  obtain ⟨a, l, hl⟩ := List.exists_cons_of_ne_nil this
  rw [hl]
  exact (mem_laneList m a).1 (by rw [hl]; exact List.mem_cons_self)

end Sys2Proof.Machine
end

