-- ==== Sys2Proof/Laws/Map.lean ====
section
/-! SUPPORT. Laws of finite maps: reads after writes, and the canonical form. -/

namespace Sys2Proof.Machine

variable {α : Type}

@[simp] theorem mapGet_nil (i : Nat) : mapGet ([] : Map α) i = none := rfl

theorem mapGet_mapSet (m : Map α) (i j : Nat) (x : α) :
    mapGet (mapSet m i x) j = if j = i then some x else mapGet m j := by
  induction m with
  | nil => simp [mapSet, mapGet]
  | cons e m ih =>
    obtain ⟨k, v⟩ := e
    unfold mapSet
    split
    · simp [mapGet]
    · split
      · subst_vars; simp only [mapGet]; split <;> simp_all
      · simp only [mapGet, ih]; split <;> split <;> simp_all

@[simp] theorem mapGet_mapSet_self (m : Map α) (i : Nat) (x : α) : mapGet (mapSet m i x) i = some x := by
  simp [mapGet_mapSet]

theorem mapGet_mapErase (m : Map α) (i j : Nat) :
    mapGet (mapErase m i) j = if j = i then none else mapGet m j := by
  induction m with
  | nil => simp [mapErase]
  | cons e m ih =>
    obtain ⟨k, v⟩ := e
    unfold mapErase
    split
    · subst_vars; rw [ih]; simp only [mapGet]; split <;> simp_all
    · simp only [mapGet, ih]; split <;> split <;> simp_all

@[simp] theorem mapGetD_mapSet_self (m : Map α) (i : Nat) (x d : α) : mapGetD (mapSet m i x) i d = x := by
  simp [mapGetD]

theorem mapGetD_mapSet (m : Map α) (i j : Nat) (x d : α) :
    mapGetD (mapSet m i x) j d = if j = i then x else mapGetD m j d := by
  unfold mapGetD; rw [mapGet_mapSet]; split <;> rfl

theorem mapGetD_mapPut [DecidableEq α] (d : α) (m : Map α) (i j : Nat) (x : α) :
    mapGetD (mapPut d m i x) j d = if j = i then x else mapGetD m j d := by
  unfold mapPut
  split
  · subst_vars; unfold mapGetD; rw [mapGet_mapErase]; split <;> rfl
  · exact mapGetD_mapSet m i j x d

theorem mapGet_mapAll (m : Map α) (f : Nat → α → α) (i : Nat) :
    mapGet (mapAll m f) i = (mapGet m i).map (f i) := by
  induction m with
  | nil => rfl
  | cons e m ih =>
    obtain ⟨k, v⟩ := e
    simp only [mapAll, List.map, mapGet] at ih ⊢
    split
    · subst_vars; rfl
    · exact ih

theorem mapGet_mapUpd (m : Map α) (i j : Nat) (f : α → α) :
    mapGet (mapUpd m i f) j = if j = i then (mapGet m i).map f else mapGet m j := by
  unfold mapUpd
  split
  · split
    · subst_vars; simp_all
    · rfl
  · rw [mapGet_mapSet]; split <;> simp_all

/-! ### The canonical form -/

theorem mapAbove_mapSet {m : Map α} {b i : Nat} {x : α} (h : mapAbove b m = true) (hi : b < i) :
    mapAbove b (mapSet m i x) = true := by
  induction m with
  | nil => simp [mapSet, mapAbove, hi]
  | cons e m ih =>
    obtain ⟨k, v⟩ := e
    simp only [mapAbove, Bool.and_eq_true, decide_eq_true_eq] at h
    unfold mapSet
    split
    · simp [mapAbove, hi, h]
    · split
      · simp [mapAbove, hi, h]
      · simp [mapAbove, h.1, ih h.2]

theorem mapAbove_mapErase {m : Map α} {b i : Nat} (h : mapAbove b m = true) : mapAbove b (mapErase m i) = true := by
  induction m with
  | nil => rfl
  | cons e m ih =>
    obtain ⟨k, v⟩ := e
    simp only [mapAbove, Bool.and_eq_true, decide_eq_true_eq] at h
    unfold mapErase
    split
    · exact ih h.2
    · simp [mapAbove, h.1, ih h.2]

theorem mapAbove_mono {m : Map α} {a b : Nat} (hab : a ≤ b) (h : mapAbove b m = true) : mapAbove a m = true := by
  induction m with
  | nil => rfl
  | cons e m ih =>
    obtain ⟨k, v⟩ := e
    simp only [mapAbove, Bool.and_eq_true, decide_eq_true_eq] at h ⊢
    exact ⟨by omega, ih h.2⟩

theorem mapWf_mapSet {m : Map α} {i : Nat} {x : α} (h : mapWf m = true) : mapWf (mapSet m i x) = true := by
  induction m with
  | nil => rfl
  | cons e m ih =>
    obtain ⟨k, v⟩ := e
    simp only [mapWf, Bool.and_eq_true] at h
    unfold mapSet
    split
    · simp only [mapWf, mapAbove, Bool.and_eq_true, decide_eq_true_eq]
      exact ⟨⟨by assumption, mapAbove_mono (by omega) h.1⟩, h⟩
    · split
      · subst_vars; simpa [mapWf] using h
      · simp only [mapWf, Bool.and_eq_true]
        exact ⟨mapAbove_mapSet h.1 (by omega), ih h.2⟩

theorem mapWf_mapErase {m : Map α} {i : Nat} (h : mapWf m = true) : mapWf (mapErase m i) = true := by
  induction m with
  | nil => rfl
  | cons e m ih =>
    obtain ⟨k, v⟩ := e
    simp only [mapWf, Bool.and_eq_true] at h
    unfold mapErase
    split
    · exact ih h.2
    · simp only [mapWf, Bool.and_eq_true]
      exact ⟨mapAbove_mapErase h.1, ih h.2⟩

theorem mapAbove_filter {m : Map α} {b : Nat} {p : Nat × α → Bool} (h : mapAbove b m = true) :
    mapAbove b (m.filter p) = true := by
  induction m with
  | nil => rfl
  | cons e m ih =>
    obtain ⟨k, v⟩ := e
    simp only [mapAbove, Bool.and_eq_true, decide_eq_true_eq] at h
    rw [List.filter_cons]
    split
    · simp [mapAbove, h.1, ih h.2]
    · exact ih h.2

theorem mapWf_mapFilter {m : Map α} {p : Nat → α → Bool} (h : mapWf m = true) : mapWf (mapFilter m p) = true := by
  unfold mapFilter
  induction m with
  | nil => rfl
  | cons e m ih =>
    obtain ⟨k, v⟩ := e
    simp only [mapWf, Bool.and_eq_true] at h
    rw [List.filter_cons]
    split
    · simp only [mapWf, Bool.and_eq_true]
      exact ⟨mapAbove_filter h.1, ih h.2⟩
    · exact ih h.2

/-- A read does not see the order of two writes to different keys. -/
theorem mapPut_other [DecidableEq α] (d : α) (m : Map α) (i j : Nat) (x : α) (h : j ≠ i) :
    mapGetD (mapPut d m i x) j d = mapGetD m j d := by
  rw [mapGetD_mapPut, if_neg h]

end Sys2Proof.Machine
end

