-- ==== Sys2Proof/Laws/State.lean ====
section
/-! SUPPORT. One lemma per field of the state and per single update: what the update leaves as it was, and what it writes. -/

namespace Sys2Proof.Machine

variable (s : State)


@[simp] theorem setWarp_clock (w : Nat) (x : Warp) : (setWarp s w x).clock = s.clock := rfl
@[simp] theorem setWarp_gtime (w : Nat) (x : Warp) : (setWarp s w x).gtime = s.gtime := rfl
@[simp] theorem setWarp_tick (w : Nat) (x : Warp) : (setWarp s w x).tick = s.tick := rfl
@[simp] theorem setWarp_frac (w : Nat) (x : Warp) : (setWarp s w x).frac = s.frac := rfl
@[simp] theorem setWarp_chosen (w : Nat) (x : Warp) : (setWarp s w x).chosen = s.chosen := rfl
@[simp] theorem setWarp_free (w : Nat) (x : Warp) : (setWarp s w x).free = s.free := rfl
@[simp] theorem setWarp_next (w : Nat) (x : Warp) : (setWarp s w x).next = s.next := rfl
@[simp] theorem setWarp_cur (w : Nat) (x : Warp) : (setWarp s w x).cur = s.cur := rfl
@[simp] theorem setWarp_pairing (w : Nat) (x : Warp) : (setWarp s w x).pairing = s.pairing := rfl
@[simp] theorem setWarp_second (w : Nat) (x : Warp) : (setWarp s w x).second = s.second := rfl
@[simp] theorem setWarp_msg (w : Nat) (x : Warp) : (setWarp s w x).msg = s.msg := rfl
@[simp] theorem setWarp_net (w : Nat) (x : Warp) : (setWarp s w x).net = s.net := rfl
@[simp] theorem setWarp_inbox (w : Nat) (x : Warp) : (setWarp s w x).inbox = s.inbox := rfl
@[simp] theorem setWarp_msix (w : Nat) (x : Warp) : (setWarp s w x).msix = s.msix := rfl
@[simp] theorem setWarp_hostData (w : Nat) (x : Warp) : (setWarp s w x).hostData = s.hostData := rfl
@[simp] theorem setWarp_peerData (w : Nat) (x : Warp) : (setWarp s w x).peerData = s.peerData := rfl
@[simp] theorem setWarp_warps (w : Nat) (x : Warp) : (setWarp s w x).warps = mapSet s.warps w x := rfl
@[simp] theorem setWarp_groups (w : Nat) (x : Warp) : (setWarp s w x).groups = s.groups := rfl
@[simp] theorem setWarp_launches (w : Nat) (x : Warp) : (setWarp s w x).launches = s.launches := rfl
@[simp] theorem setWarp_ops (w : Nat) (x : Warp) : (setWarp s w x).ops = s.ops := rfl
@[simp] theorem setWarp_mem (w : Nat) (x : Warp) : (setWarp s w x).mem = s.mem := rfl
@[simp] theorem setWarp_errors (w : Nat) (x : Warp) : (setWarp s w x).errors = s.errors := rfl
@[simp] theorem setWarp_l1 (w : Nat) (x : Warp) : (setWarp s w x).l1 = s.l1 := rfl
@[simp] theorem setWarp_cc (w : Nat) (x : Warp) : (setWarp s w x).cc = s.cc := rfl
@[simp] theorem setWarp_wbuf (w : Nat) (x : Warp) : (setWarp s w x).wbuf = s.wbuf := rfl
@[simp] theorem setWarp_owner (w : Nat) (x : Warp) : (setWarp s w x).owner = s.owner := rfl
@[simp] theorem setWarp_pushOut (w : Nat) (x : Warp) : (setWarp s w x).pushOut = s.pushOut := rfl
@[simp] theorem setWarp_sectorMod (w : Nat) (x : Warp) : (setWarp s w x).sectorMod = s.sectorMod := rfl
@[simp] theorem setWarp_pushWaits (w : Nat) (x : Warp) : (setWarp s w x).pushWaits = s.pushWaits := rfl
@[simp] theorem setWarp_acquired (w : Nat) (x : Warp) : (setWarp s w x).acquired = s.acquired := rfl
@[simp] theorem setWarp_staleBefore (w : Nat) (x : Warp) : (setWarp s w x).staleBefore = s.staleBefore := rfl
@[simp] theorem setWarp_hostHeld (w : Nat) (x : Warp) : (setWarp s w x).hostHeld = s.hostHeld := rfl
@[simp] theorem setWarp_hostLines (w : Nat) (x : Warp) : (setWarp s w x).hostLines = s.hostLines := rfl
@[simp] theorem setWarp_hostDirty (w : Nat) (x : Warp) : (setWarp s w x).hostDirty = s.hostDirty := rfl
@[simp] theorem setWarp_bisnps (w : Nat) (x : Warp) : (setWarp s w x).bisnps = s.bisnps := rfl
@[simp] theorem setWarp_granted (w : Nat) (x : Warp) : (setWarp s w x).granted = s.granted := rfl
@[simp] theorem setWarp_tlb (w : Nat) (x : Warp) : (setWarp s w x).tlb = s.tlb := rfl
@[simp] theorem setWarp_parks (w : Nat) (x : Warp) : (setWarp s w x).parks = s.parks := rfl
@[simp] theorem setWarp_stalls (w : Nat) (x : Warp) : (setWarp s w x).stalls = s.stalls := rfl
@[simp] theorem setWarp_recWaits (w : Nat) (x : Warp) : (setWarp s w x).recWaits = s.recWaits := rfl
@[simp] theorem setWarp_engineWaits (w : Nat) (x : Warp) : (setWarp s w x).engineWaits = s.engineWaits := rfl
@[simp] theorem setWarp_copies (w : Nat) (x : Warp) : (setWarp s w x).copies = s.copies := rfl
@[simp] theorem setWarp_copySlots (w : Nat) (x : Warp) : (setWarp s w x).copySlots = s.copySlots := rfl
@[simp] theorem setWarp_freed (w : Nat) (x : Warp) : (setWarp s w x).freed = s.freed := rfl
@[simp] theorem setWarp_tags (w : Nat) (x : Warp) : (setWarp s w x).tags = s.tags := rfl
@[simp] theorem setWarp_carve (w : Nat) (x : Warp) : (setWarp s w x).carve = s.carve := rfl
@[simp] theorem setWarp_arrays (w : Nat) (x : Warp) : (setWarp s w x).arrays = s.arrays := rfl
@[simp] theorem setWarp_regions (w : Nat) (x : Warp) : (setWarp s w x).regions = s.regions := rfl
@[simp] theorem setWarp_tickets (w : Nat) (x : Warp) : (setWarp s w x).tickets = s.tickets := rfl
@[simp] theorem setWarp_graphs (w : Nat) (x : Warp) : (setWarp s w x).graphs = s.graphs := rfl
@[simp] theorem setWarp_ifaces (w : Nat) (x : Warp) : (setWarp s w x).ifaces = s.ifaces := rfl
@[simp] theorem setWarp_colls (w : Nat) (x : Warp) : (setWarp s w x).colls = s.colls := rfl
@[simp] theorem setWarp_refill (w : Nat) (x : Warp) : (setWarp s w x).refill = s.refill := rfl
@[simp] theorem setWarp_sys (w : Nat) (x : Warp) : (setWarp s w x).sys = s.sys := rfl

@[simp] theorem setGroup_clock (g : Nat) (x : Group) : (setGroup s g x).clock = s.clock := rfl
@[simp] theorem setGroup_gtime (g : Nat) (x : Group) : (setGroup s g x).gtime = s.gtime := rfl
@[simp] theorem setGroup_tick (g : Nat) (x : Group) : (setGroup s g x).tick = s.tick := rfl
@[simp] theorem setGroup_frac (g : Nat) (x : Group) : (setGroup s g x).frac = s.frac := rfl
@[simp] theorem setGroup_chosen (g : Nat) (x : Group) : (setGroup s g x).chosen = s.chosen := rfl
@[simp] theorem setGroup_free (g : Nat) (x : Group) : (setGroup s g x).free = s.free := rfl
@[simp] theorem setGroup_next (g : Nat) (x : Group) : (setGroup s g x).next = s.next := rfl
@[simp] theorem setGroup_cur (g : Nat) (x : Group) : (setGroup s g x).cur = s.cur := rfl
@[simp] theorem setGroup_pairing (g : Nat) (x : Group) : (setGroup s g x).pairing = s.pairing := rfl
@[simp] theorem setGroup_second (g : Nat) (x : Group) : (setGroup s g x).second = s.second := rfl
@[simp] theorem setGroup_msg (g : Nat) (x : Group) : (setGroup s g x).msg = s.msg := rfl
@[simp] theorem setGroup_net (g : Nat) (x : Group) : (setGroup s g x).net = s.net := rfl
@[simp] theorem setGroup_inbox (g : Nat) (x : Group) : (setGroup s g x).inbox = s.inbox := rfl
@[simp] theorem setGroup_msix (g : Nat) (x : Group) : (setGroup s g x).msix = s.msix := rfl
@[simp] theorem setGroup_hostData (g : Nat) (x : Group) : (setGroup s g x).hostData = s.hostData := rfl
@[simp] theorem setGroup_peerData (g : Nat) (x : Group) : (setGroup s g x).peerData = s.peerData := rfl
@[simp] theorem setGroup_warps (g : Nat) (x : Group) : (setGroup s g x).warps = s.warps := rfl
@[simp] theorem setGroup_groups (g : Nat) (x : Group) : (setGroup s g x).groups = mapSet s.groups g x := rfl
@[simp] theorem setGroup_launches (g : Nat) (x : Group) : (setGroup s g x).launches = s.launches := rfl
@[simp] theorem setGroup_ops (g : Nat) (x : Group) : (setGroup s g x).ops = s.ops := rfl
@[simp] theorem setGroup_mem (g : Nat) (x : Group) : (setGroup s g x).mem = s.mem := rfl
@[simp] theorem setGroup_errors (g : Nat) (x : Group) : (setGroup s g x).errors = s.errors := rfl
@[simp] theorem setGroup_l1 (g : Nat) (x : Group) : (setGroup s g x).l1 = s.l1 := rfl
@[simp] theorem setGroup_cc (g : Nat) (x : Group) : (setGroup s g x).cc = s.cc := rfl
@[simp] theorem setGroup_wbuf (g : Nat) (x : Group) : (setGroup s g x).wbuf = s.wbuf := rfl
@[simp] theorem setGroup_owner (g : Nat) (x : Group) : (setGroup s g x).owner = s.owner := rfl
@[simp] theorem setGroup_pushOut (g : Nat) (x : Group) : (setGroup s g x).pushOut = s.pushOut := rfl
@[simp] theorem setGroup_sectorMod (g : Nat) (x : Group) : (setGroup s g x).sectorMod = s.sectorMod := rfl
@[simp] theorem setGroup_pushWaits (g : Nat) (x : Group) : (setGroup s g x).pushWaits = s.pushWaits := rfl
@[simp] theorem setGroup_acquired (g : Nat) (x : Group) : (setGroup s g x).acquired = s.acquired := rfl
@[simp] theorem setGroup_staleBefore (g : Nat) (x : Group) : (setGroup s g x).staleBefore = s.staleBefore := rfl
@[simp] theorem setGroup_hostHeld (g : Nat) (x : Group) : (setGroup s g x).hostHeld = s.hostHeld := rfl
@[simp] theorem setGroup_hostLines (g : Nat) (x : Group) : (setGroup s g x).hostLines = s.hostLines := rfl
@[simp] theorem setGroup_hostDirty (g : Nat) (x : Group) : (setGroup s g x).hostDirty = s.hostDirty := rfl
@[simp] theorem setGroup_bisnps (g : Nat) (x : Group) : (setGroup s g x).bisnps = s.bisnps := rfl
@[simp] theorem setGroup_granted (g : Nat) (x : Group) : (setGroup s g x).granted = s.granted := rfl
@[simp] theorem setGroup_tlb (g : Nat) (x : Group) : (setGroup s g x).tlb = s.tlb := rfl
@[simp] theorem setGroup_parks (g : Nat) (x : Group) : (setGroup s g x).parks = s.parks := rfl
@[simp] theorem setGroup_stalls (g : Nat) (x : Group) : (setGroup s g x).stalls = s.stalls := rfl
@[simp] theorem setGroup_recWaits (g : Nat) (x : Group) : (setGroup s g x).recWaits = s.recWaits := rfl
@[simp] theorem setGroup_engineWaits (g : Nat) (x : Group) : (setGroup s g x).engineWaits = s.engineWaits := rfl
@[simp] theorem setGroup_copies (g : Nat) (x : Group) : (setGroup s g x).copies = s.copies := rfl
@[simp] theorem setGroup_copySlots (g : Nat) (x : Group) : (setGroup s g x).copySlots = s.copySlots := rfl
@[simp] theorem setGroup_freed (g : Nat) (x : Group) : (setGroup s g x).freed = s.freed := rfl
@[simp] theorem setGroup_tags (g : Nat) (x : Group) : (setGroup s g x).tags = s.tags := rfl
@[simp] theorem setGroup_carve (g : Nat) (x : Group) : (setGroup s g x).carve = s.carve := rfl
@[simp] theorem setGroup_arrays (g : Nat) (x : Group) : (setGroup s g x).arrays = s.arrays := rfl
@[simp] theorem setGroup_regions (g : Nat) (x : Group) : (setGroup s g x).regions = s.regions := rfl
@[simp] theorem setGroup_tickets (g : Nat) (x : Group) : (setGroup s g x).tickets = s.tickets := rfl
@[simp] theorem setGroup_graphs (g : Nat) (x : Group) : (setGroup s g x).graphs = s.graphs := rfl
@[simp] theorem setGroup_ifaces (g : Nat) (x : Group) : (setGroup s g x).ifaces = s.ifaces := rfl
@[simp] theorem setGroup_colls (g : Nat) (x : Group) : (setGroup s g x).colls = s.colls := rfl
@[simp] theorem setGroup_refill (g : Nat) (x : Group) : (setGroup s g x).refill = s.refill := rfl
@[simp] theorem setGroup_sys (g : Nat) (x : Group) : (setGroup s g x).sys = s.sys := rfl

@[simp] theorem setLaunch_clock (l : Nat) (x : Launch) : (setLaunch s l x).clock = s.clock := rfl
@[simp] theorem setLaunch_gtime (l : Nat) (x : Launch) : (setLaunch s l x).gtime = s.gtime := rfl
@[simp] theorem setLaunch_tick (l : Nat) (x : Launch) : (setLaunch s l x).tick = s.tick := rfl
@[simp] theorem setLaunch_frac (l : Nat) (x : Launch) : (setLaunch s l x).frac = s.frac := rfl
@[simp] theorem setLaunch_chosen (l : Nat) (x : Launch) : (setLaunch s l x).chosen = s.chosen := rfl
@[simp] theorem setLaunch_free (l : Nat) (x : Launch) : (setLaunch s l x).free = s.free := rfl
@[simp] theorem setLaunch_next (l : Nat) (x : Launch) : (setLaunch s l x).next = s.next := rfl
@[simp] theorem setLaunch_cur (l : Nat) (x : Launch) : (setLaunch s l x).cur = s.cur := rfl
@[simp] theorem setLaunch_pairing (l : Nat) (x : Launch) : (setLaunch s l x).pairing = s.pairing := rfl
@[simp] theorem setLaunch_second (l : Nat) (x : Launch) : (setLaunch s l x).second = s.second := rfl
@[simp] theorem setLaunch_msg (l : Nat) (x : Launch) : (setLaunch s l x).msg = s.msg := rfl
@[simp] theorem setLaunch_net (l : Nat) (x : Launch) : (setLaunch s l x).net = s.net := rfl
@[simp] theorem setLaunch_inbox (l : Nat) (x : Launch) : (setLaunch s l x).inbox = s.inbox := rfl
@[simp] theorem setLaunch_msix (l : Nat) (x : Launch) : (setLaunch s l x).msix = s.msix := rfl
@[simp] theorem setLaunch_hostData (l : Nat) (x : Launch) : (setLaunch s l x).hostData = s.hostData := rfl
@[simp] theorem setLaunch_peerData (l : Nat) (x : Launch) : (setLaunch s l x).peerData = s.peerData := rfl
@[simp] theorem setLaunch_warps (l : Nat) (x : Launch) : (setLaunch s l x).warps = s.warps := rfl
@[simp] theorem setLaunch_groups (l : Nat) (x : Launch) : (setLaunch s l x).groups = s.groups := rfl
@[simp] theorem setLaunch_launches (l : Nat) (x : Launch) : (setLaunch s l x).launches = mapSet s.launches l x := rfl
@[simp] theorem setLaunch_ops (l : Nat) (x : Launch) : (setLaunch s l x).ops = s.ops := rfl
@[simp] theorem setLaunch_mem (l : Nat) (x : Launch) : (setLaunch s l x).mem = s.mem := rfl
@[simp] theorem setLaunch_errors (l : Nat) (x : Launch) : (setLaunch s l x).errors = s.errors := rfl
@[simp] theorem setLaunch_l1 (l : Nat) (x : Launch) : (setLaunch s l x).l1 = s.l1 := rfl
@[simp] theorem setLaunch_cc (l : Nat) (x : Launch) : (setLaunch s l x).cc = s.cc := rfl
@[simp] theorem setLaunch_wbuf (l : Nat) (x : Launch) : (setLaunch s l x).wbuf = s.wbuf := rfl
@[simp] theorem setLaunch_owner (l : Nat) (x : Launch) : (setLaunch s l x).owner = s.owner := rfl
@[simp] theorem setLaunch_pushOut (l : Nat) (x : Launch) : (setLaunch s l x).pushOut = s.pushOut := rfl
@[simp] theorem setLaunch_sectorMod (l : Nat) (x : Launch) : (setLaunch s l x).sectorMod = s.sectorMod := rfl
@[simp] theorem setLaunch_pushWaits (l : Nat) (x : Launch) : (setLaunch s l x).pushWaits = s.pushWaits := rfl
@[simp] theorem setLaunch_acquired (l : Nat) (x : Launch) : (setLaunch s l x).acquired = s.acquired := rfl
@[simp] theorem setLaunch_staleBefore (l : Nat) (x : Launch) : (setLaunch s l x).staleBefore = s.staleBefore := rfl
@[simp] theorem setLaunch_hostHeld (l : Nat) (x : Launch) : (setLaunch s l x).hostHeld = s.hostHeld := rfl
@[simp] theorem setLaunch_hostLines (l : Nat) (x : Launch) : (setLaunch s l x).hostLines = s.hostLines := rfl
@[simp] theorem setLaunch_hostDirty (l : Nat) (x : Launch) : (setLaunch s l x).hostDirty = s.hostDirty := rfl
@[simp] theorem setLaunch_bisnps (l : Nat) (x : Launch) : (setLaunch s l x).bisnps = s.bisnps := rfl
@[simp] theorem setLaunch_granted (l : Nat) (x : Launch) : (setLaunch s l x).granted = s.granted := rfl
@[simp] theorem setLaunch_tlb (l : Nat) (x : Launch) : (setLaunch s l x).tlb = s.tlb := rfl
@[simp] theorem setLaunch_parks (l : Nat) (x : Launch) : (setLaunch s l x).parks = s.parks := rfl
@[simp] theorem setLaunch_stalls (l : Nat) (x : Launch) : (setLaunch s l x).stalls = s.stalls := rfl
@[simp] theorem setLaunch_recWaits (l : Nat) (x : Launch) : (setLaunch s l x).recWaits = s.recWaits := rfl
@[simp] theorem setLaunch_engineWaits (l : Nat) (x : Launch) : (setLaunch s l x).engineWaits = s.engineWaits := rfl
@[simp] theorem setLaunch_copies (l : Nat) (x : Launch) : (setLaunch s l x).copies = s.copies := rfl
@[simp] theorem setLaunch_copySlots (l : Nat) (x : Launch) : (setLaunch s l x).copySlots = s.copySlots := rfl
@[simp] theorem setLaunch_freed (l : Nat) (x : Launch) : (setLaunch s l x).freed = s.freed := rfl
@[simp] theorem setLaunch_tags (l : Nat) (x : Launch) : (setLaunch s l x).tags = s.tags := rfl
@[simp] theorem setLaunch_carve (l : Nat) (x : Launch) : (setLaunch s l x).carve = s.carve := rfl
@[simp] theorem setLaunch_arrays (l : Nat) (x : Launch) : (setLaunch s l x).arrays = s.arrays := rfl
@[simp] theorem setLaunch_regions (l : Nat) (x : Launch) : (setLaunch s l x).regions = s.regions := rfl
@[simp] theorem setLaunch_tickets (l : Nat) (x : Launch) : (setLaunch s l x).tickets = s.tickets := rfl
@[simp] theorem setLaunch_graphs (l : Nat) (x : Launch) : (setLaunch s l x).graphs = s.graphs := rfl
@[simp] theorem setLaunch_ifaces (l : Nat) (x : Launch) : (setLaunch s l x).ifaces = s.ifaces := rfl
@[simp] theorem setLaunch_colls (l : Nat) (x : Launch) : (setLaunch s l x).colls = s.colls := rfl
@[simp] theorem setLaunch_refill (l : Nat) (x : Launch) : (setLaunch s l x).refill = s.refill := rfl
@[simp] theorem setLaunch_sys (l : Nat) (x : Launch) : (setLaunch s l x).sys = s.sys := rfl

@[simp] theorem setIface_clock (i : Nat) (x : Iface) : (setIface s i x).clock = s.clock := rfl
@[simp] theorem setIface_gtime (i : Nat) (x : Iface) : (setIface s i x).gtime = s.gtime := rfl
@[simp] theorem setIface_tick (i : Nat) (x : Iface) : (setIface s i x).tick = s.tick := rfl
@[simp] theorem setIface_frac (i : Nat) (x : Iface) : (setIface s i x).frac = s.frac := rfl
@[simp] theorem setIface_chosen (i : Nat) (x : Iface) : (setIface s i x).chosen = s.chosen := rfl
@[simp] theorem setIface_free (i : Nat) (x : Iface) : (setIface s i x).free = s.free := rfl
@[simp] theorem setIface_next (i : Nat) (x : Iface) : (setIface s i x).next = s.next := rfl
@[simp] theorem setIface_cur (i : Nat) (x : Iface) : (setIface s i x).cur = s.cur := rfl
@[simp] theorem setIface_pairing (i : Nat) (x : Iface) : (setIface s i x).pairing = s.pairing := rfl
@[simp] theorem setIface_second (i : Nat) (x : Iface) : (setIface s i x).second = s.second := rfl
@[simp] theorem setIface_msg (i : Nat) (x : Iface) : (setIface s i x).msg = s.msg := rfl
@[simp] theorem setIface_net (i : Nat) (x : Iface) : (setIface s i x).net = s.net := rfl
@[simp] theorem setIface_inbox (i : Nat) (x : Iface) : (setIface s i x).inbox = s.inbox := rfl
@[simp] theorem setIface_msix (i : Nat) (x : Iface) : (setIface s i x).msix = s.msix := rfl
@[simp] theorem setIface_hostData (i : Nat) (x : Iface) : (setIface s i x).hostData = s.hostData := rfl
@[simp] theorem setIface_peerData (i : Nat) (x : Iface) : (setIface s i x).peerData = s.peerData := rfl
@[simp] theorem setIface_warps (i : Nat) (x : Iface) : (setIface s i x).warps = s.warps := rfl
@[simp] theorem setIface_groups (i : Nat) (x : Iface) : (setIface s i x).groups = s.groups := rfl
@[simp] theorem setIface_launches (i : Nat) (x : Iface) : (setIface s i x).launches = s.launches := rfl
@[simp] theorem setIface_ops (i : Nat) (x : Iface) : (setIface s i x).ops = s.ops := rfl
@[simp] theorem setIface_mem (i : Nat) (x : Iface) : (setIface s i x).mem = s.mem := rfl
@[simp] theorem setIface_errors (i : Nat) (x : Iface) : (setIface s i x).errors = s.errors := rfl
@[simp] theorem setIface_l1 (i : Nat) (x : Iface) : (setIface s i x).l1 = s.l1 := rfl
@[simp] theorem setIface_cc (i : Nat) (x : Iface) : (setIface s i x).cc = s.cc := rfl
@[simp] theorem setIface_wbuf (i : Nat) (x : Iface) : (setIface s i x).wbuf = s.wbuf := rfl
@[simp] theorem setIface_owner (i : Nat) (x : Iface) : (setIface s i x).owner = s.owner := rfl
@[simp] theorem setIface_pushOut (i : Nat) (x : Iface) : (setIface s i x).pushOut = s.pushOut := rfl
@[simp] theorem setIface_sectorMod (i : Nat) (x : Iface) : (setIface s i x).sectorMod = s.sectorMod := rfl
@[simp] theorem setIface_pushWaits (i : Nat) (x : Iface) : (setIface s i x).pushWaits = s.pushWaits := rfl
@[simp] theorem setIface_acquired (i : Nat) (x : Iface) : (setIface s i x).acquired = s.acquired := rfl
@[simp] theorem setIface_staleBefore (i : Nat) (x : Iface) : (setIface s i x).staleBefore = s.staleBefore := rfl
@[simp] theorem setIface_hostHeld (i : Nat) (x : Iface) : (setIface s i x).hostHeld = s.hostHeld := rfl
@[simp] theorem setIface_hostLines (i : Nat) (x : Iface) : (setIface s i x).hostLines = s.hostLines := rfl
@[simp] theorem setIface_hostDirty (i : Nat) (x : Iface) : (setIface s i x).hostDirty = s.hostDirty := rfl
@[simp] theorem setIface_bisnps (i : Nat) (x : Iface) : (setIface s i x).bisnps = s.bisnps := rfl
@[simp] theorem setIface_granted (i : Nat) (x : Iface) : (setIface s i x).granted = s.granted := rfl
@[simp] theorem setIface_tlb (i : Nat) (x : Iface) : (setIface s i x).tlb = s.tlb := rfl
@[simp] theorem setIface_parks (i : Nat) (x : Iface) : (setIface s i x).parks = s.parks := rfl
@[simp] theorem setIface_stalls (i : Nat) (x : Iface) : (setIface s i x).stalls = s.stalls := rfl
@[simp] theorem setIface_recWaits (i : Nat) (x : Iface) : (setIface s i x).recWaits = s.recWaits := rfl
@[simp] theorem setIface_engineWaits (i : Nat) (x : Iface) : (setIface s i x).engineWaits = s.engineWaits := rfl
@[simp] theorem setIface_copies (i : Nat) (x : Iface) : (setIface s i x).copies = s.copies := rfl
@[simp] theorem setIface_copySlots (i : Nat) (x : Iface) : (setIface s i x).copySlots = s.copySlots := rfl
@[simp] theorem setIface_freed (i : Nat) (x : Iface) : (setIface s i x).freed = s.freed := rfl
@[simp] theorem setIface_tags (i : Nat) (x : Iface) : (setIface s i x).tags = s.tags := rfl
@[simp] theorem setIface_carve (i : Nat) (x : Iface) : (setIface s i x).carve = s.carve := rfl
@[simp] theorem setIface_arrays (i : Nat) (x : Iface) : (setIface s i x).arrays = s.arrays := rfl
@[simp] theorem setIface_regions (i : Nat) (x : Iface) : (setIface s i x).regions = s.regions := rfl
@[simp] theorem setIface_tickets (i : Nat) (x : Iface) : (setIface s i x).tickets = s.tickets := rfl
@[simp] theorem setIface_graphs (i : Nat) (x : Iface) : (setIface s i x).graphs = s.graphs := rfl
@[simp] theorem setIface_ifaces (i : Nat) (x : Iface) : (setIface s i x).ifaces = mapPut {} s.ifaces i x := rfl
@[simp] theorem setIface_colls (i : Nat) (x : Iface) : (setIface s i x).colls = s.colls := rfl
@[simp] theorem setIface_refill (i : Nat) (x : Iface) : (setIface s i x).refill = s.refill := rfl
@[simp] theorem setIface_sys (i : Nat) (x : Iface) : (setIface s i x).sys = s.sys := rfl

@[simp] theorem updOp_clock (i : Nat) (f : Op → Op) : (updOp s i f).clock = s.clock := rfl
@[simp] theorem updOp_gtime (i : Nat) (f : Op → Op) : (updOp s i f).gtime = s.gtime := rfl
@[simp] theorem updOp_tick (i : Nat) (f : Op → Op) : (updOp s i f).tick = s.tick := rfl
@[simp] theorem updOp_frac (i : Nat) (f : Op → Op) : (updOp s i f).frac = s.frac := rfl
@[simp] theorem updOp_chosen (i : Nat) (f : Op → Op) : (updOp s i f).chosen = s.chosen := rfl
@[simp] theorem updOp_free (i : Nat) (f : Op → Op) : (updOp s i f).free = s.free := rfl
@[simp] theorem updOp_next (i : Nat) (f : Op → Op) : (updOp s i f).next = s.next := rfl
@[simp] theorem updOp_cur (i : Nat) (f : Op → Op) : (updOp s i f).cur = s.cur := rfl
@[simp] theorem updOp_pairing (i : Nat) (f : Op → Op) : (updOp s i f).pairing = s.pairing := rfl
@[simp] theorem updOp_second (i : Nat) (f : Op → Op) : (updOp s i f).second = s.second := rfl
@[simp] theorem updOp_msg (i : Nat) (f : Op → Op) : (updOp s i f).msg = s.msg := rfl
@[simp] theorem updOp_net (i : Nat) (f : Op → Op) : (updOp s i f).net = s.net := rfl
@[simp] theorem updOp_inbox (i : Nat) (f : Op → Op) : (updOp s i f).inbox = s.inbox := rfl
@[simp] theorem updOp_msix (i : Nat) (f : Op → Op) : (updOp s i f).msix = s.msix := rfl
@[simp] theorem updOp_hostData (i : Nat) (f : Op → Op) : (updOp s i f).hostData = s.hostData := rfl
@[simp] theorem updOp_peerData (i : Nat) (f : Op → Op) : (updOp s i f).peerData = s.peerData := rfl
@[simp] theorem updOp_warps (i : Nat) (f : Op → Op) : (updOp s i f).warps = s.warps := rfl
@[simp] theorem updOp_groups (i : Nat) (f : Op → Op) : (updOp s i f).groups = s.groups := rfl
@[simp] theorem updOp_launches (i : Nat) (f : Op → Op) : (updOp s i f).launches = s.launches := rfl
@[simp] theorem updOp_ops (i : Nat) (f : Op → Op) : (updOp s i f).ops = mapUpd s.ops i f := rfl
@[simp] theorem updOp_mem (i : Nat) (f : Op → Op) : (updOp s i f).mem = s.mem := rfl
@[simp] theorem updOp_errors (i : Nat) (f : Op → Op) : (updOp s i f).errors = s.errors := rfl
@[simp] theorem updOp_l1 (i : Nat) (f : Op → Op) : (updOp s i f).l1 = s.l1 := rfl
@[simp] theorem updOp_cc (i : Nat) (f : Op → Op) : (updOp s i f).cc = s.cc := rfl
@[simp] theorem updOp_wbuf (i : Nat) (f : Op → Op) : (updOp s i f).wbuf = s.wbuf := rfl
@[simp] theorem updOp_owner (i : Nat) (f : Op → Op) : (updOp s i f).owner = s.owner := rfl
@[simp] theorem updOp_pushOut (i : Nat) (f : Op → Op) : (updOp s i f).pushOut = s.pushOut := rfl
@[simp] theorem updOp_sectorMod (i : Nat) (f : Op → Op) : (updOp s i f).sectorMod = s.sectorMod := rfl
@[simp] theorem updOp_pushWaits (i : Nat) (f : Op → Op) : (updOp s i f).pushWaits = s.pushWaits := rfl
@[simp] theorem updOp_acquired (i : Nat) (f : Op → Op) : (updOp s i f).acquired = s.acquired := rfl
@[simp] theorem updOp_staleBefore (i : Nat) (f : Op → Op) : (updOp s i f).staleBefore = s.staleBefore := rfl
@[simp] theorem updOp_hostHeld (i : Nat) (f : Op → Op) : (updOp s i f).hostHeld = s.hostHeld := rfl
@[simp] theorem updOp_hostLines (i : Nat) (f : Op → Op) : (updOp s i f).hostLines = s.hostLines := rfl
@[simp] theorem updOp_hostDirty (i : Nat) (f : Op → Op) : (updOp s i f).hostDirty = s.hostDirty := rfl
@[simp] theorem updOp_bisnps (i : Nat) (f : Op → Op) : (updOp s i f).bisnps = s.bisnps := rfl
@[simp] theorem updOp_granted (i : Nat) (f : Op → Op) : (updOp s i f).granted = s.granted := rfl
@[simp] theorem updOp_tlb (i : Nat) (f : Op → Op) : (updOp s i f).tlb = s.tlb := rfl
@[simp] theorem updOp_parks (i : Nat) (f : Op → Op) : (updOp s i f).parks = s.parks := rfl
@[simp] theorem updOp_stalls (i : Nat) (f : Op → Op) : (updOp s i f).stalls = s.stalls := rfl
@[simp] theorem updOp_recWaits (i : Nat) (f : Op → Op) : (updOp s i f).recWaits = s.recWaits := rfl
@[simp] theorem updOp_engineWaits (i : Nat) (f : Op → Op) : (updOp s i f).engineWaits = s.engineWaits := rfl
@[simp] theorem updOp_copies (i : Nat) (f : Op → Op) : (updOp s i f).copies = s.copies := rfl
@[simp] theorem updOp_copySlots (i : Nat) (f : Op → Op) : (updOp s i f).copySlots = s.copySlots := rfl
@[simp] theorem updOp_freed (i : Nat) (f : Op → Op) : (updOp s i f).freed = s.freed := rfl
@[simp] theorem updOp_tags (i : Nat) (f : Op → Op) : (updOp s i f).tags = s.tags := rfl
@[simp] theorem updOp_carve (i : Nat) (f : Op → Op) : (updOp s i f).carve = s.carve := rfl
@[simp] theorem updOp_arrays (i : Nat) (f : Op → Op) : (updOp s i f).arrays = s.arrays := rfl
@[simp] theorem updOp_regions (i : Nat) (f : Op → Op) : (updOp s i f).regions = s.regions := rfl
@[simp] theorem updOp_tickets (i : Nat) (f : Op → Op) : (updOp s i f).tickets = s.tickets := rfl
@[simp] theorem updOp_graphs (i : Nat) (f : Op → Op) : (updOp s i f).graphs = s.graphs := rfl
@[simp] theorem updOp_ifaces (i : Nat) (f : Op → Op) : (updOp s i f).ifaces = s.ifaces := rfl
@[simp] theorem updOp_colls (i : Nat) (f : Op → Op) : (updOp s i f).colls = s.colls := rfl
@[simp] theorem updOp_refill (i : Nat) (f : Op → Op) : (updOp s i f).refill = s.refill := rfl
@[simp] theorem updOp_sys (i : Nat) (f : Op → Op) : (updOp s i f).sys = s.sys := rfl

@[simp] theorem send_clock (c : Option Nat) (m : Msg) : (send s c m).clock = s.clock := rfl
@[simp] theorem send_gtime (c : Option Nat) (m : Msg) : (send s c m).gtime = s.gtime := rfl
@[simp] theorem send_tick (c : Option Nat) (m : Msg) : (send s c m).tick = s.tick := rfl
@[simp] theorem send_frac (c : Option Nat) (m : Msg) : (send s c m).frac = s.frac := rfl
@[simp] theorem send_chosen (c : Option Nat) (m : Msg) : (send s c m).chosen = s.chosen := rfl
@[simp] theorem send_free (c : Option Nat) (m : Msg) : (send s c m).free = s.free := rfl
@[simp] theorem send_next (c : Option Nat) (m : Msg) : (send s c m).next = s.next := rfl
@[simp] theorem send_cur (c : Option Nat) (m : Msg) : (send s c m).cur = s.cur := rfl
@[simp] theorem send_pairing (c : Option Nat) (m : Msg) : (send s c m).pairing = s.pairing := rfl
@[simp] theorem send_second (c : Option Nat) (m : Msg) : (send s c m).second = s.second := rfl
@[simp] theorem send_msg (c : Option Nat) (m : Msg) : (send s c m).msg = s.msg := rfl
@[simp] theorem send_net (c : Option Nat) (m : Msg) : (send s c m).net = s.net ++ [⟨c, m, 0⟩] := rfl
@[simp] theorem send_inbox (c : Option Nat) (m : Msg) : (send s c m).inbox = s.inbox := rfl
@[simp] theorem send_msix (c : Option Nat) (m : Msg) : (send s c m).msix = s.msix := rfl
@[simp] theorem send_hostData (c : Option Nat) (m : Msg) : (send s c m).hostData = s.hostData := rfl
@[simp] theorem send_peerData (c : Option Nat) (m : Msg) : (send s c m).peerData = s.peerData := rfl
@[simp] theorem send_warps (c : Option Nat) (m : Msg) : (send s c m).warps = s.warps := rfl
@[simp] theorem send_groups (c : Option Nat) (m : Msg) : (send s c m).groups = s.groups := rfl
@[simp] theorem send_launches (c : Option Nat) (m : Msg) : (send s c m).launches = s.launches := rfl
@[simp] theorem send_ops (c : Option Nat) (m : Msg) : (send s c m).ops = s.ops := rfl
@[simp] theorem send_mem (c : Option Nat) (m : Msg) : (send s c m).mem = s.mem := rfl
@[simp] theorem send_errors (c : Option Nat) (m : Msg) : (send s c m).errors = s.errors := rfl
@[simp] theorem send_l1 (c : Option Nat) (m : Msg) : (send s c m).l1 = s.l1 := rfl
@[simp] theorem send_cc (c : Option Nat) (m : Msg) : (send s c m).cc = s.cc := rfl
@[simp] theorem send_wbuf (c : Option Nat) (m : Msg) : (send s c m).wbuf = s.wbuf := rfl
@[simp] theorem send_owner (c : Option Nat) (m : Msg) : (send s c m).owner = s.owner := rfl
@[simp] theorem send_pushOut (c : Option Nat) (m : Msg) : (send s c m).pushOut = s.pushOut := rfl
@[simp] theorem send_sectorMod (c : Option Nat) (m : Msg) : (send s c m).sectorMod = s.sectorMod := rfl
@[simp] theorem send_pushWaits (c : Option Nat) (m : Msg) : (send s c m).pushWaits = s.pushWaits := rfl
@[simp] theorem send_acquired (c : Option Nat) (m : Msg) : (send s c m).acquired = s.acquired := rfl
@[simp] theorem send_staleBefore (c : Option Nat) (m : Msg) : (send s c m).staleBefore = s.staleBefore := rfl
@[simp] theorem send_hostHeld (c : Option Nat) (m : Msg) : (send s c m).hostHeld = s.hostHeld := rfl
@[simp] theorem send_hostLines (c : Option Nat) (m : Msg) : (send s c m).hostLines = s.hostLines := rfl
@[simp] theorem send_hostDirty (c : Option Nat) (m : Msg) : (send s c m).hostDirty = s.hostDirty := rfl
@[simp] theorem send_bisnps (c : Option Nat) (m : Msg) : (send s c m).bisnps = s.bisnps := rfl
@[simp] theorem send_granted (c : Option Nat) (m : Msg) : (send s c m).granted = s.granted := rfl
@[simp] theorem send_tlb (c : Option Nat) (m : Msg) : (send s c m).tlb = s.tlb := rfl
@[simp] theorem send_parks (c : Option Nat) (m : Msg) : (send s c m).parks = s.parks := rfl
@[simp] theorem send_stalls (c : Option Nat) (m : Msg) : (send s c m).stalls = s.stalls := rfl
@[simp] theorem send_recWaits (c : Option Nat) (m : Msg) : (send s c m).recWaits = s.recWaits := rfl
@[simp] theorem send_engineWaits (c : Option Nat) (m : Msg) : (send s c m).engineWaits = s.engineWaits := rfl
@[simp] theorem send_copies (c : Option Nat) (m : Msg) : (send s c m).copies = s.copies := rfl
@[simp] theorem send_copySlots (c : Option Nat) (m : Msg) : (send s c m).copySlots = s.copySlots := rfl
@[simp] theorem send_freed (c : Option Nat) (m : Msg) : (send s c m).freed = s.freed := rfl
@[simp] theorem send_tags (c : Option Nat) (m : Msg) : (send s c m).tags = s.tags := rfl
@[simp] theorem send_carve (c : Option Nat) (m : Msg) : (send s c m).carve = s.carve := rfl
@[simp] theorem send_arrays (c : Option Nat) (m : Msg) : (send s c m).arrays = s.arrays := rfl
@[simp] theorem send_regions (c : Option Nat) (m : Msg) : (send s c m).regions = s.regions := rfl
@[simp] theorem send_tickets (c : Option Nat) (m : Msg) : (send s c m).tickets = s.tickets := rfl
@[simp] theorem send_graphs (c : Option Nat) (m : Msg) : (send s c m).graphs = s.graphs := rfl
@[simp] theorem send_ifaces (c : Option Nat) (m : Msg) : (send s c m).ifaces = s.ifaces := rfl
@[simp] theorem send_colls (c : Option Nat) (m : Msg) : (send s c m).colls = s.colls := rfl
@[simp] theorem send_refill (c : Option Nat) (m : Msg) : (send s c m).refill = s.refill := rfl
@[simp] theorem send_sys (c : Option Nat) (m : Msg) : (send s c m).sys = s.sys := rfl

@[simp] theorem setMemByte_clock (a : Nat) (b : Byte) : (setMemByte s a b).clock = s.clock := rfl
@[simp] theorem setMemByte_gtime (a : Nat) (b : Byte) : (setMemByte s a b).gtime = s.gtime := rfl
@[simp] theorem setMemByte_tick (a : Nat) (b : Byte) : (setMemByte s a b).tick = s.tick := rfl
@[simp] theorem setMemByte_frac (a : Nat) (b : Byte) : (setMemByte s a b).frac = s.frac := rfl
@[simp] theorem setMemByte_chosen (a : Nat) (b : Byte) : (setMemByte s a b).chosen = s.chosen := rfl
@[simp] theorem setMemByte_free (a : Nat) (b : Byte) : (setMemByte s a b).free = s.free := rfl
@[simp] theorem setMemByte_next (a : Nat) (b : Byte) : (setMemByte s a b).next = s.next := rfl
@[simp] theorem setMemByte_cur (a : Nat) (b : Byte) : (setMemByte s a b).cur = s.cur := rfl
@[simp] theorem setMemByte_pairing (a : Nat) (b : Byte) : (setMemByte s a b).pairing = s.pairing := rfl
@[simp] theorem setMemByte_second (a : Nat) (b : Byte) : (setMemByte s a b).second = s.second := rfl
@[simp] theorem setMemByte_msg (a : Nat) (b : Byte) : (setMemByte s a b).msg = s.msg := rfl
@[simp] theorem setMemByte_net (a : Nat) (b : Byte) : (setMemByte s a b).net = s.net := rfl
@[simp] theorem setMemByte_inbox (a : Nat) (b : Byte) : (setMemByte s a b).inbox = s.inbox := rfl
@[simp] theorem setMemByte_msix (a : Nat) (b : Byte) : (setMemByte s a b).msix = s.msix := rfl
@[simp] theorem setMemByte_hostData (a : Nat) (b : Byte) : (setMemByte s a b).hostData = s.hostData := rfl
@[simp] theorem setMemByte_peerData (a : Nat) (b : Byte) : (setMemByte s a b).peerData = s.peerData := rfl
@[simp] theorem setMemByte_warps (a : Nat) (b : Byte) : (setMemByte s a b).warps = s.warps := rfl
@[simp] theorem setMemByte_groups (a : Nat) (b : Byte) : (setMemByte s a b).groups = s.groups := rfl
@[simp] theorem setMemByte_launches (a : Nat) (b : Byte) : (setMemByte s a b).launches = s.launches := rfl
@[simp] theorem setMemByte_ops (a : Nat) (b : Byte) : (setMemByte s a b).ops = s.ops := rfl
@[simp] theorem setMemByte_mem (a : Nat) (b : Byte) : (setMemByte s a b).mem = mapPut 0 s.mem a b := rfl
@[simp] theorem setMemByte_errors (a : Nat) (b : Byte) : (setMemByte s a b).errors = s.errors.filter (· != a) := rfl
@[simp] theorem setMemByte_l1 (a : Nat) (b : Byte) : (setMemByte s a b).l1 = s.l1 := rfl
@[simp] theorem setMemByte_cc (a : Nat) (b : Byte) : (setMemByte s a b).cc = s.cc := rfl
@[simp] theorem setMemByte_wbuf (a : Nat) (b : Byte) : (setMemByte s a b).wbuf = s.wbuf := rfl
@[simp] theorem setMemByte_owner (a : Nat) (b : Byte) : (setMemByte s a b).owner = s.owner := rfl
@[simp] theorem setMemByte_pushOut (a : Nat) (b : Byte) : (setMemByte s a b).pushOut = s.pushOut := rfl
@[simp] theorem setMemByte_sectorMod (a : Nat) (b : Byte) : (setMemByte s a b).sectorMod = s.sectorMod := rfl
@[simp] theorem setMemByte_pushWaits (a : Nat) (b : Byte) : (setMemByte s a b).pushWaits = s.pushWaits := rfl
@[simp] theorem setMemByte_acquired (a : Nat) (b : Byte) : (setMemByte s a b).acquired = s.acquired := rfl
@[simp] theorem setMemByte_staleBefore (a : Nat) (b : Byte) : (setMemByte s a b).staleBefore = s.staleBefore := rfl
@[simp] theorem setMemByte_hostHeld (a : Nat) (b : Byte) : (setMemByte s a b).hostHeld = s.hostHeld := rfl
@[simp] theorem setMemByte_hostLines (a : Nat) (b : Byte) : (setMemByte s a b).hostLines = s.hostLines := rfl
@[simp] theorem setMemByte_hostDirty (a : Nat) (b : Byte) : (setMemByte s a b).hostDirty = s.hostDirty := rfl
@[simp] theorem setMemByte_bisnps (a : Nat) (b : Byte) : (setMemByte s a b).bisnps = s.bisnps := rfl
@[simp] theorem setMemByte_granted (a : Nat) (b : Byte) : (setMemByte s a b).granted = s.granted := rfl
@[simp] theorem setMemByte_tlb (a : Nat) (b : Byte) : (setMemByte s a b).tlb = s.tlb := rfl
@[simp] theorem setMemByte_parks (a : Nat) (b : Byte) : (setMemByte s a b).parks = s.parks := rfl
@[simp] theorem setMemByte_stalls (a : Nat) (b : Byte) : (setMemByte s a b).stalls = s.stalls := rfl
@[simp] theorem setMemByte_recWaits (a : Nat) (b : Byte) : (setMemByte s a b).recWaits = s.recWaits := rfl
@[simp] theorem setMemByte_engineWaits (a : Nat) (b : Byte) : (setMemByte s a b).engineWaits = s.engineWaits := rfl
@[simp] theorem setMemByte_copies (a : Nat) (b : Byte) : (setMemByte s a b).copies = s.copies := rfl
@[simp] theorem setMemByte_copySlots (a : Nat) (b : Byte) : (setMemByte s a b).copySlots = s.copySlots := rfl
@[simp] theorem setMemByte_freed (a : Nat) (b : Byte) : (setMemByte s a b).freed = s.freed := rfl
@[simp] theorem setMemByte_tags (a : Nat) (b : Byte) : (setMemByte s a b).tags = s.tags := rfl
@[simp] theorem setMemByte_carve (a : Nat) (b : Byte) : (setMemByte s a b).carve = s.carve := rfl
@[simp] theorem setMemByte_arrays (a : Nat) (b : Byte) : (setMemByte s a b).arrays = s.arrays := rfl
@[simp] theorem setMemByte_regions (a : Nat) (b : Byte) : (setMemByte s a b).regions = s.regions := rfl
@[simp] theorem setMemByte_tickets (a : Nat) (b : Byte) : (setMemByte s a b).tickets = s.tickets := rfl
@[simp] theorem setMemByte_graphs (a : Nat) (b : Byte) : (setMemByte s a b).graphs = s.graphs := rfl
@[simp] theorem setMemByte_ifaces (a : Nat) (b : Byte) : (setMemByte s a b).ifaces = s.ifaces := rfl
@[simp] theorem setMemByte_colls (a : Nat) (b : Byte) : (setMemByte s a b).colls = s.colls := rfl
@[simp] theorem setMemByte_refill (a : Nat) (b : Byte) : (setMemByte s a b).refill = s.refill := rfl
@[simp] theorem setMemByte_sys (a : Nat) (b : Byte) : (setMemByte s a b).sys = s.sys := rfl

@[simp] theorem takeLine_clock (a : Nat) : (takeLine s a).clock = s.clock := rfl
@[simp] theorem takeLine_gtime (a : Nat) : (takeLine s a).gtime = s.gtime := rfl
@[simp] theorem takeLine_tick (a : Nat) : (takeLine s a).tick = s.tick := rfl
@[simp] theorem takeLine_frac (a : Nat) : (takeLine s a).frac = s.frac := rfl
@[simp] theorem takeLine_chosen (a : Nat) : (takeLine s a).chosen = s.chosen := rfl
@[simp] theorem takeLine_free (a : Nat) : (takeLine s a).free = s.free := rfl
@[simp] theorem takeLine_next (a : Nat) : (takeLine s a).next = s.next := rfl
@[simp] theorem takeLine_cur (a : Nat) : (takeLine s a).cur = s.cur := rfl
@[simp] theorem takeLine_pairing (a : Nat) : (takeLine s a).pairing = s.pairing := rfl
@[simp] theorem takeLine_second (a : Nat) : (takeLine s a).second = s.second := rfl
@[simp] theorem takeLine_msg (a : Nat) : (takeLine s a).msg = s.msg := rfl
@[simp] theorem takeLine_net (a : Nat) : (takeLine s a).net = s.net := rfl
@[simp] theorem takeLine_inbox (a : Nat) : (takeLine s a).inbox = s.inbox := rfl
@[simp] theorem takeLine_msix (a : Nat) : (takeLine s a).msix = s.msix := rfl
@[simp] theorem takeLine_hostData (a : Nat) : (takeLine s a).hostData = s.hostData := rfl
@[simp] theorem takeLine_peerData (a : Nat) : (takeLine s a).peerData = s.peerData := rfl
@[simp] theorem takeLine_warps (a : Nat) : (takeLine s a).warps = s.warps := rfl
@[simp] theorem takeLine_groups (a : Nat) : (takeLine s a).groups = s.groups := rfl
@[simp] theorem takeLine_launches (a : Nat) : (takeLine s a).launches = s.launches := rfl
@[simp] theorem takeLine_ops (a : Nat) : (takeLine s a).ops = s.ops := rfl
@[simp] theorem takeLine_mem (a : Nat) : (takeLine s a).mem = s.mem := rfl
@[simp] theorem takeLine_errors (a : Nat) : (takeLine s a).errors = s.errors := rfl
@[simp] theorem takeLine_l1 (a : Nat) : (takeLine s a).l1 = s.l1 := rfl
@[simp] theorem takeLine_cc (a : Nat) : (takeLine s a).cc = s.cc := rfl
@[simp] theorem takeLine_wbuf (a : Nat) : (takeLine s a).wbuf = s.wbuf := rfl
@[simp] theorem takeLine_owner (a : Nat) : (takeLine s a).owner = s.owner := rfl
@[simp] theorem takeLine_pushOut (a : Nat) : (takeLine s a).pushOut = s.pushOut := rfl
@[simp] theorem takeLine_sectorMod (a : Nat) : (takeLine s a).sectorMod = s.sectorMod := rfl
@[simp] theorem takeLine_pushWaits (a : Nat) : (takeLine s a).pushWaits = s.pushWaits := rfl
@[simp] theorem takeLine_acquired (a : Nat) : (takeLine s a).acquired = s.acquired := rfl
@[simp] theorem takeLine_staleBefore (a : Nat) : (takeLine s a).staleBefore = s.staleBefore := rfl
@[simp] theorem takeLine_hostHeld (a : Nat) : (takeLine s a).hostHeld = s.hostHeld.filter (· != a / 64) := rfl
@[simp] theorem takeLine_hostLines (a : Nat) : (takeLine s a).hostLines = s.hostLines := rfl
@[simp] theorem takeLine_hostDirty (a : Nat) : (takeLine s a).hostDirty = s.hostDirty := rfl
@[simp] theorem takeLine_bisnps (a : Nat) : (takeLine s a).bisnps = s.bisnps := rfl
@[simp] theorem takeLine_granted (a : Nat) : (takeLine s a).granted = s.granted.filter (· != a / 64) := rfl
@[simp] theorem takeLine_tlb (a : Nat) : (takeLine s a).tlb = s.tlb := rfl
@[simp] theorem takeLine_parks (a : Nat) : (takeLine s a).parks = s.parks := rfl
@[simp] theorem takeLine_stalls (a : Nat) : (takeLine s a).stalls = s.stalls := rfl
@[simp] theorem takeLine_recWaits (a : Nat) : (takeLine s a).recWaits = s.recWaits := rfl
@[simp] theorem takeLine_engineWaits (a : Nat) : (takeLine s a).engineWaits = s.engineWaits := rfl
@[simp] theorem takeLine_copies (a : Nat) : (takeLine s a).copies = s.copies := rfl
@[simp] theorem takeLine_copySlots (a : Nat) : (takeLine s a).copySlots = s.copySlots := rfl
@[simp] theorem takeLine_freed (a : Nat) : (takeLine s a).freed = s.freed := rfl
@[simp] theorem takeLine_tags (a : Nat) : (takeLine s a).tags = s.tags := rfl
@[simp] theorem takeLine_carve (a : Nat) : (takeLine s a).carve = s.carve := rfl
@[simp] theorem takeLine_arrays (a : Nat) : (takeLine s a).arrays = s.arrays := rfl
@[simp] theorem takeLine_regions (a : Nat) : (takeLine s a).regions = s.regions := rfl
@[simp] theorem takeLine_tickets (a : Nat) : (takeLine s a).tickets = s.tickets := rfl
@[simp] theorem takeLine_graphs (a : Nat) : (takeLine s a).graphs = s.graphs := rfl
@[simp] theorem takeLine_ifaces (a : Nat) : (takeLine s a).ifaces = s.ifaces := rfl
@[simp] theorem takeLine_colls (a : Nat) : (takeLine s a).colls = s.colls := rfl
@[simp] theorem takeLine_refill (a : Nat) : (takeLine s a).refill = s.refill := rfl
@[simp] theorem takeLine_sys (a : Nat) : (takeLine s a).sys = s.sys := rfl

@[simp] theorem updSys_clock (f : Sys → Sys) : (updSys s f).clock = s.clock := rfl
@[simp] theorem updSys_gtime (f : Sys → Sys) : (updSys s f).gtime = s.gtime := rfl
@[simp] theorem updSys_tick (f : Sys → Sys) : (updSys s f).tick = s.tick := rfl
@[simp] theorem updSys_frac (f : Sys → Sys) : (updSys s f).frac = s.frac := rfl
@[simp] theorem updSys_chosen (f : Sys → Sys) : (updSys s f).chosen = s.chosen := rfl
@[simp] theorem updSys_free (f : Sys → Sys) : (updSys s f).free = s.free := rfl
@[simp] theorem updSys_next (f : Sys → Sys) : (updSys s f).next = s.next := rfl
@[simp] theorem updSys_cur (f : Sys → Sys) : (updSys s f).cur = s.cur := rfl
@[simp] theorem updSys_pairing (f : Sys → Sys) : (updSys s f).pairing = s.pairing := rfl
@[simp] theorem updSys_second (f : Sys → Sys) : (updSys s f).second = s.second := rfl
@[simp] theorem updSys_msg (f : Sys → Sys) : (updSys s f).msg = s.msg := rfl
@[simp] theorem updSys_net (f : Sys → Sys) : (updSys s f).net = s.net := rfl
@[simp] theorem updSys_inbox (f : Sys → Sys) : (updSys s f).inbox = s.inbox := rfl
@[simp] theorem updSys_msix (f : Sys → Sys) : (updSys s f).msix = s.msix := rfl
@[simp] theorem updSys_hostData (f : Sys → Sys) : (updSys s f).hostData = s.hostData := rfl
@[simp] theorem updSys_peerData (f : Sys → Sys) : (updSys s f).peerData = s.peerData := rfl
@[simp] theorem updSys_warps (f : Sys → Sys) : (updSys s f).warps = s.warps := rfl
@[simp] theorem updSys_groups (f : Sys → Sys) : (updSys s f).groups = s.groups := rfl
@[simp] theorem updSys_launches (f : Sys → Sys) : (updSys s f).launches = s.launches := rfl
@[simp] theorem updSys_ops (f : Sys → Sys) : (updSys s f).ops = s.ops := rfl
@[simp] theorem updSys_mem (f : Sys → Sys) : (updSys s f).mem = s.mem := rfl
@[simp] theorem updSys_errors (f : Sys → Sys) : (updSys s f).errors = s.errors := rfl
@[simp] theorem updSys_l1 (f : Sys → Sys) : (updSys s f).l1 = s.l1 := rfl
@[simp] theorem updSys_cc (f : Sys → Sys) : (updSys s f).cc = s.cc := rfl
@[simp] theorem updSys_wbuf (f : Sys → Sys) : (updSys s f).wbuf = s.wbuf := rfl
@[simp] theorem updSys_owner (f : Sys → Sys) : (updSys s f).owner = s.owner := rfl
@[simp] theorem updSys_pushOut (f : Sys → Sys) : (updSys s f).pushOut = s.pushOut := rfl
@[simp] theorem updSys_sectorMod (f : Sys → Sys) : (updSys s f).sectorMod = s.sectorMod := rfl
@[simp] theorem updSys_pushWaits (f : Sys → Sys) : (updSys s f).pushWaits = s.pushWaits := rfl
@[simp] theorem updSys_acquired (f : Sys → Sys) : (updSys s f).acquired = s.acquired := rfl
@[simp] theorem updSys_staleBefore (f : Sys → Sys) : (updSys s f).staleBefore = s.staleBefore := rfl
@[simp] theorem updSys_hostHeld (f : Sys → Sys) : (updSys s f).hostHeld = s.hostHeld := rfl
@[simp] theorem updSys_hostLines (f : Sys → Sys) : (updSys s f).hostLines = s.hostLines := rfl
@[simp] theorem updSys_hostDirty (f : Sys → Sys) : (updSys s f).hostDirty = s.hostDirty := rfl
@[simp] theorem updSys_bisnps (f : Sys → Sys) : (updSys s f).bisnps = s.bisnps := rfl
@[simp] theorem updSys_granted (f : Sys → Sys) : (updSys s f).granted = s.granted := rfl
@[simp] theorem updSys_tlb (f : Sys → Sys) : (updSys s f).tlb = s.tlb := rfl
@[simp] theorem updSys_parks (f : Sys → Sys) : (updSys s f).parks = s.parks := rfl
@[simp] theorem updSys_stalls (f : Sys → Sys) : (updSys s f).stalls = s.stalls := rfl
@[simp] theorem updSys_recWaits (f : Sys → Sys) : (updSys s f).recWaits = s.recWaits := rfl
@[simp] theorem updSys_engineWaits (f : Sys → Sys) : (updSys s f).engineWaits = s.engineWaits := rfl
@[simp] theorem updSys_copies (f : Sys → Sys) : (updSys s f).copies = s.copies := rfl
@[simp] theorem updSys_copySlots (f : Sys → Sys) : (updSys s f).copySlots = s.copySlots := rfl
@[simp] theorem updSys_freed (f : Sys → Sys) : (updSys s f).freed = s.freed := rfl
@[simp] theorem updSys_tags (f : Sys → Sys) : (updSys s f).tags = s.tags := rfl
@[simp] theorem updSys_carve (f : Sys → Sys) : (updSys s f).carve = s.carve := rfl
@[simp] theorem updSys_arrays (f : Sys → Sys) : (updSys s f).arrays = s.arrays := rfl
@[simp] theorem updSys_regions (f : Sys → Sys) : (updSys s f).regions = s.regions := rfl
@[simp] theorem updSys_tickets (f : Sys → Sys) : (updSys s f).tickets = s.tickets := rfl
@[simp] theorem updSys_graphs (f : Sys → Sys) : (updSys s f).graphs = s.graphs := rfl
@[simp] theorem updSys_ifaces (f : Sys → Sys) : (updSys s f).ifaces = s.ifaces := rfl
@[simp] theorem updSys_colls (f : Sys → Sys) : (updSys s f).colls = s.colls := rfl
@[simp] theorem updSys_refill (f : Sys → Sys) : (updSys s f).refill = s.refill := rfl
@[simp] theorem updSys_sys (f : Sys → Sys) : (updSys s f).sys = f s.sys := rfl

end Sys2Proof.Machine
end

