-- ==== Sys2Proof/Laws/Memory.lean ====
section
/-! SUPPORT. Laws of memory: its canonical form is kept by every operation that writes it; a read after a write; equal reads are equal memories. -/

namespace Sys2Proof.Machine

/-- The memory of a state has the canonical form. -/
abbrev MemoryOk (s : State) : Prop := Memory.wf s.mem = true

theorem reset_memory : MemoryOk State.reset := rfl

/-! ### The list -/

theorem all_mapSet {α : Type} {m : Map α} {i : Nat} {x : α} {p : Nat × α → Bool} (h : m.all p = true) (hx : p (i, x) = true) :
    (mapSet m i x).all p = true := by
  induction m with
  | nil => simp [mapSet, hx]
  | cons e m ih =>
    obtain ⟨k, v⟩ := e
    simp only [List.all_cons, Bool.and_eq_true] at h
    unfold mapSet
    split
    · simp [hx, h.1, h.2]
    · split
      · simp [hx, h.2]
      · simp [h.1, ih h.2]

theorem all_mapErase {α : Type} {m : Map α} {i : Nat} {p : Nat × α → Bool} (h : m.all p = true) : (mapErase m i).all p = true := by
  induction m with
  | nil => rfl
  | cons e m ih =>
    obtain ⟨k, v⟩ := e
    simp only [List.all_cons, Bool.and_eq_true] at h
    unfold mapErase
    split
    · exact ih h.2
    · simp [h.1, ih h.2]

theorem memory_put {m : List Host.Cell} (h : Memory.wf m = true) (a : Nat) (b : Byte) : Memory.wf (mapPut 0 m a b) = true := by
  simp only [Memory.wf, Bool.and_eq_true] at h ⊢
  unfold mapPut
  split
  · exact ⟨mapWf_mapErase h.1, all_mapErase h.2⟩
  · exact ⟨mapWf_mapSet h.1, all_mapSet h.2 (by simpa using ‹¬ b = 0›)⟩

theorem memory_filter {m : List Host.Cell} (h : Memory.wf m = true) (p : Nat → Byte → Bool) : Memory.wf (mapFilter m p) = true := by
  simp only [Memory.wf, Bool.and_eq_true, List.all_eq_true] at h ⊢
  exact ⟨mapWf_mapFilter h.1, fun c hc => h.2 c (List.mem_of_mem_filter hc)⟩

theorem memory_puts {α : Type} (l : List α) (key : α → Nat) (val : α → Byte) {m : List Host.Cell} (h : Memory.wf m = true) :
    Memory.wf (l.foldl (fun m e => mapPut 0 m (key e) (val e)) m) = true := by
  induction l generalizing m with
  | nil => exact h
  | cons e l ih => exact ih (memory_put h _ _)

/-- Two memories in the canonical form that read alike everywhere are the same list. -/
theorem memory_ext {m n : List Host.Cell} (hm : Memory.wf m = true) (hn : Memory.wf n = true)
    (h : ∀ a, mapGetD m a 0 = mapGetD n a 0) : m = n := by
  have above {m : List Host.Cell} {b a : Nat} (hb : mapAbove b m = true) (ha : a ≤ b) : mapGetD m a 0 = 0 := by
    induction m with
    | nil => rfl
    | cons e m ih =>
      obtain ⟨k, v⟩ := e
      simp only [mapAbove, Bool.and_eq_true, decide_eq_true_eq] at hb
      have := ih hb.2
      simp only [mapGetD, mapGet] at this ⊢
      rw [if_neg (by omega)]; exact this
  have head {m : List Host.Cell} {k : Nat} {v : Byte} : mapGetD ((k, v) :: m : List Host.Cell) k 0 = v := by simp [mapGetD, mapGet]
  have tail {m : List Host.Cell} {k a : Nat} {v : Byte} (ha : a ≠ k) : mapGetD ((k, v) :: m : List Host.Cell) a 0 = mapGetD m a 0 := by
    simp [mapGetD, mapGet, ha]
  induction m generalizing n with
  | nil =>
    cases n with
    | nil => rfl
    | cons e n =>
      obtain ⟨k, v⟩ := e
      have := h k
      rw [head] at this
      simp [Memory.wf, mapGetD, mapGet] at hn this
      exact absurd this.symm hn.2.1
  | cons e m ih =>
    obtain ⟨k, v⟩ := e
    simp only [Memory.wf, mapWf, List.all_cons, Bool.and_eq_true, bne_iff_ne, ne_eq] at hm
    cases n with
    | nil =>
      have := h k
      rw [head] at this
      exact absurd (by simpa [mapGetD, mapGet] using this) hm.2.1
    | cons f n =>
      obtain ⟨j, w⟩ := f
      simp only [Memory.wf, mapWf, List.all_cons, Bool.and_eq_true, bne_iff_ne, ne_eq] at hn
      have hk : k = j := by
        rcases Nat.lt_trichotomy k j with hlt | heq | hgt
        · have := h k
          rw [head, tail (by omega), above hn.1.1 (by omega)] at this
          exact absurd this hm.2.1
        · exact heq
        · have := h j
          rw [head, tail (by omega), above hm.1.1 (by omega)] at this
          exact absurd this.symm hn.2.1
      subst hk
      have hv : v = w := by have := h k; rwa [head, head] at this
      subst hv
      congr 1
      refine ih (Bool.and_eq_true _ _ ▸ ⟨hm.1.2, hm.2.2⟩) (Bool.and_eq_true _ _ ▸ ⟨hn.1.2, hn.2.2⟩) fun a => ?_
      by_cases ha : a = k
      · subst ha; rw [above hm.1.1 (Nat.le_refl _), above hn.1.1 (Nat.le_refl _)]
      · have := h a; rwa [tail ha, tail ha] at this

/-! ### Reads and writes of bytes -/

theorem memByte_setMemByte (s : State) (a : Nat) (b : Byte) (x : Nat) : memByte (setMemByte s a b) x = if x = a then b else memByte s x :=
  mapGetD_mapPut 0 s.mem a x b

/-- The four bytes of a word are written, and no other. -/
theorem memByte_setMemWord (s : State) (w : Nat) (v : Word) (x : Nat) :
    memByte (setMemWord s w v) x = if x / 4 = w then v.extractLsb' (8 * (x % 4)) 8 else memByte s x := by
  simp only [setMemWord, memByte_setMemByte]
  have hx : x = 4 * (x / 4) + x % 4 := by omega
  by_cases h : x / 4 = w
  · subst h
    have : x % 4 = 0 ∨ x % 4 = 1 ∨ x % 4 = 2 ∨ x % 4 = 3 := by omega
    rcases this with e | e | e | e <;> rw [if_pos rfl, e] <;> (repeat (first | rw [if_pos (by omega)] | rw [if_neg (by omega)]))
  · rw [if_neg h, if_neg (by omega), if_neg (by omega), if_neg (by omega), if_neg (by omega)]

theorem setMemByte_memory {s : State} (h : MemoryOk s) (a : Nat) (b : Byte) : MemoryOk (setMemByte s a b) := memory_put h a b

theorem setMemWord_memory {s : State} (h : MemoryOk s) (w : Nat) (x : Word) : MemoryOk (setMemWord s w x) := by
  unfold setMemWord
  exact setMemByte_memory (setMemByte_memory (setMemByte_memory (setMemByte_memory h _ _) _ _) _ _) _ _

/-- A recall writes the owner's value to its word, or nothing. -/
theorem recallWord_mem (s : State) (w : Nat) :
    (recallWord s w).mem = s.mem ∨ ∃ c x, mapGet s.owner w = some c ∧ clusterHolds s c w = some x ∧ (recallWord s w).mem = (setMemWord s w x.data).mem := by
  cases hc : mapGet s.owner w with
  | none => left; simp only [recallWord, hc]
  | some c =>
    cases hx : clusterHolds s c w with
    | none =>
      left; simp only [recallWord, hc, hx]
      split
      · split <;> rfl
      · rfl
    | some x =>
      refine .inr ⟨c, x, rfl, hx, ?_⟩
      simp only [recallWord, hc, hx]
      split
      · split <;> rfl
      · rfl

theorem recallWord_memory {s : State} (h : MemoryOk s) (w : Nat) : MemoryOk (recallWord s w) := by
  unfold MemoryOk
  obtain e | ⟨_, x, _, _, e⟩ := recallWord_mem s w
  · rw [e]; exact h
  · rw [e]; exact setMemWord_memory h w x.data

theorem devWrite_memory {s : State} (h : MemoryOk s) (a : Nat) (l : List Byte) : MemoryOk (devWrite s a l) := by
  induction l generalizing s a with
  | nil => exact h
  | cons b l ih => exact ih (setMemByte_memory (recallWord_memory (s := takeLine s a) h _) _ _) _

theorem devWriteNat_memory {s : State} (h : MemoryOk s) (a n x : Nat) : MemoryOk (devWriteNat s a n x) := devWrite_memory h _ _

/-- A fold of operations that keep the form keeps it. -/
theorem foldl_memory {α : Type} (g : State → α → State) (hg : ∀ s x, MemoryOk s → MemoryOk (g s x)) (l : List α) {s : State} (h : MemoryOk s) :
    MemoryOk (l.foldl g s) := by
  induction l generalizing s with
  | nil => exact h
  | cons x l ih => exact ih (hg s x h)

theorem cleared_memory {s : State} (h : MemoryOk s) (p : Nat → Byte → Bool) : MemoryOk { s with mem := mapFilter s.mem p } := memory_filter h p

theorem bootTables_memory {s : State} (h : MemoryOk s) : MemoryOk (bootTables s) := by
  have put {s : State} (h : MemoryOk s) (a v : Nat) :
      MemoryOk { s with mem := (leBytes v 8).zipIdx.foldl (fun m (b, i) => mapPut 0 m (a + i) b) s.mem } :=
    memory_puts (m := s.mem) (leBytes v 8).zipIdx (fun e => a + e.2) (fun e => e.1) h
  exact put (put (put (put h _ _) _ _) _ _) _ _

theorem bootWord_memory {s : State} (h : MemoryOk s) (bs : List Byte) : MemoryOk (bootWord s bs) :=
  memory_puts bs.zipIdx (fun e => 0x5000 + e.2) (fun e => e.1) (bootTables_memory h)

theorem withFetchWord_memory {s : State} (h : MemoryOk s) (nbits w : Nat) : MemoryOk (s.withFetchWord nbits w) := bootWord_memory h _

end Sys2Proof.Machine
end

