-- ==== Sys2Proof/Laws/Words.lean ====
section
/-! SUPPORT. What the shared parts of every word do: its issue, the advance of its threads, its reads, and the plain form of the fixed-latency words. -/

namespace Sys2Proof.Machine

/-! ### Issue and events -/

section
variable (s : State) (w : Nat) (set act : Lanes)
@[simp] theorem issueAt_w : (issueAt s w set act).w = w := rfl
@[simp] theorem issueAt_act : (issueAt s w set act).act = act := rfl
@[simp] theorem issueAt_set : (issueAt s w set act).set = set := rfl
end

/-- A word whose guard holds somewhere acts on the state in which its threads have moved on. -/
theorem issue_next {s : State} {c : Ctl} {w : Nat} {set act : Lanes} (h : Issues s c w set act) (f : Issue → State → State) :
    issue s c f = .next (f (issueAt s w set act) (advance s w set)) := by
  unfold issue
  rw [h.cur]
  simp only [h.guard, h.live, if_false]
  rfl

/-- A word whose guard holds nowhere only moves on. -/
theorem issue_idle {s : State} {c : Ctl} {w : Nat} {set : Lanes} (h : s.cur = some (w, set))
    (hg : guardLanes s w (getWarp s w) set c.guard = 0) (f : Issue → State → State) : issue s c f = .next (advance s w set) := by
  unfold issue
  rw [h]
  simp only [hg, if_true]

/-- A word that has an issuing set always answers a next state. -/
theorem issue_some {s : State} {c : Ctl} {p : Nat × Lanes} (h : s.cur = some p) (f : Issue → State → State) :
    ∃ t, issue s c f = .next t := by
  obtain ⟨w, set⟩ := p
  unfold issue
  rw [h]
  dsimp only
  split
  · exact ⟨_, rfl⟩
  · exact ⟨_, rfl⟩

theorem event_next {s : State} {m : Msg} {f : Msg → State → Option State} {t : State} (h : s.msg = some m) (hf : f m s = some t) :
    event s f = .next t := by
  unfold event
  rw [h]
  simp only [hf]

/-! ### Warps -/

@[simp] theorem getWarp_setWarp (s : State) (w : Nat) (x : Warp) : getWarp (setWarp s w x) w = x := by
  simp [getWarp, setWarp]

theorem getWarp_setWarp_other (s : State) (w u : Nat) (x : Warp) (h : u ≠ w) : getWarp (setWarp s w x) u = getWarp s u := by
  simp [getWarp, setWarp, mapGetD_mapSet, h]

@[simp] theorem getWarp_updWarp (s : State) (w : Nat) (f : Warp → Warp) : getWarp (updWarp s w f) w = f (getWarp s w) := by
  simp [updWarp]

@[simp] theorem setWarp_setWarp (s : State) (w : Nat) (x y : Warp) : setWarp (setWarp s w x) w y = setWarp s w y := by
  unfold setWarp
  congr 1
  induction s.warps with
  | nil => simp [mapSet]
  | cons e m ih =>
    obtain ⟨k, v⟩ := e
    simp only [mapSet]
    split
    · simp [mapSet]
    · split
      · simp [mapSet]
      · rename_i h1 h2
        simp only [mapSet, h1, h2, if_false] at ih ⊢
        rw [ih]

/-! ### The advance -/

/-- The advance changes threads of its warp and nothing else. -/
theorem advance_eq (s : State) (w : Nat) (set : Lanes) :
    advance s w set = setWarp s w { getWarp s w with threads := (getWarp (advance s w set) w).threads } := by
  simp [advance, updWarp, makeReady, updThreads]

theorem getWarp_advance (s : State) (w : Nat) (set : Lanes) :
    getWarp (advance s w set) w = { getWarp s w with threads := (getWarp (advance s w set) w).threads } := by
  rw [advance_eq]; simp

@[simp] theorem getWarp_advance_v (s : State) (w : Nat) (set : Lanes) : (getWarp (advance s w set) w).v = (getWarp s w).v := by
  rw [getWarp_advance]
@[simp] theorem getWarp_advance_preds (s : State) (w : Nat) (set : Lanes) : (getWarp (advance s w set) w).preds = (getWarp s w).preds := by
  rw [getWarp_advance]
@[simp] theorem getWarp_advance_haz (s : State) (w : Nat) (set : Lanes) : (getWarp (advance s w set) w).haz = (getWarp s w).haz := by
  rw [getWarp_advance]
@[simp] theorem getWarp_advance_streams (s : State) (w : Nat) (set : Lanes) :
    (getWarp (advance s w set) w).streams = (getWarp s w).streams := by
  rw [getWarp_advance]
@[simp] theorem getWarp_advance_group (s : State) (w : Nat) (set : Lanes) : (getWarp (advance s w set) w).group = (getWarp s w).group := by
  rw [getWarp_advance]
@[simp] theorem getWarp_advance_launch (s : State) (w : Nat) (set : Lanes) :
    (getWarp (advance s w set) w).launch = (getWarp s w).launch := by
  rw [getWarp_advance]
@[simp] theorem getWarp_advance_status (s : State) (w : Nat) (set : Lanes) :
    (getWarp (advance s w set) w).status = (getWarp s w).status := by
  rw [getWarp_advance]
@[simp] theorem getWarp_advance_lpart (s : State) (w : Nat) (set : Lanes) : (getWarp (advance s w set) w).lpart = (getWarp s w).lpart := by
  rw [getWarp_advance]
@[simp] theorem getWarp_advance_lpartNext (s : State) (w : Nat) (set : Lanes) :
    (getWarp (advance s w set) w).lpartNext = (getWarp s w).lpartNext := by
  rw [getWarp_advance]
@[simp] theorem getWarp_advance_iface (s : State) (w : Nat) (set : Lanes) : (getWarp (advance s w set) w).iface = (getWarp s w).iface := by
  rw [getWarp_advance]
@[simp] theorem getWarp_advance_core (s : State) (w : Nat) (set : Lanes) : (getWarp (advance s w set) w).core = (getWarp s w).core := by
  rw [getWarp_advance]
@[simp] theorem getWarp_advance_frames (s : State) (w : Nat) (set : Lanes) :
    (getWarp (advance s w set) w).frames = (getWarp s w).frames := by
  rw [getWarp_advance]
@[simp] theorem getWarp_advance_events (s : State) (w : Nat) (set : Lanes) :
    (getWarp (advance s w set) w).events = (getWarp s w).events := by
  rw [getWarp_advance]
@[simp] theorem getWarp_advance_holds (s : State) (w : Nat) (set : Lanes) :
    (getWarp (advance s w set) w).holds = (getWarp s w).holds := by
  rw [getWarp_advance]
@[simp] theorem getWarp_advance_num (s : State) (w : Nat) (set : Lanes) : (getWarp (advance s w set) w).num = (getWarp s w).num := by
  rw [getWarp_advance]

theorem threads_makeReady (s : State) (x : Warp) (m : Lanes) (pc : Nat → Thread → DWord) (u : Nat) (h : u < x.threads.length) :
    threadOf (makeReady s x m pc) u =
      if m.getLsbD u then { threadOf x u with pc := pc u (threadOf x u), cond := .ready, since := s.tick } else threadOf x u := by
  simp only [makeReady, updThreads, threadOf]
  rw [List.getD_eq_getElem?_getD, List.getD_eq_getElem?_getD, List.getElem?_mapIdx, List.getElem?_eq_getElem h]
  simp only [Option.map_some, Option.getD_some]

@[simp] theorem length_updThreads (x : Warp) (m : Lanes) (f : Nat → Thread → Thread) :
    (updThreads x m f).threads.length = x.threads.length := by
  simp [updThreads]

theorem threadOf_updThreads (x : Warp) (m : Lanes) (f : Nat → Thread → Thread) (u : Nat) (h : u < x.threads.length) :
    threadOf (updThreads x m f) u = if m.getLsbD u then f u (threadOf x u) else threadOf x u := by
  simp only [updThreads, threadOf]
  rw [List.getD_eq_getElem?_getD, List.getD_eq_getElem?_getD, List.getElem?_mapIdx, List.getElem?_eq_getElem h]
  simp only [Option.map_some, Option.getD_some]

theorem threads_length_advance (s : State) (w : Nat) (set : Lanes) :
    (getWarp (advance s w set) w).threads.length = (getWarp s w).threads.length := by
  simp [advance, makeReady]

/-- R59: after the advance the threads of the set stand at the next word. -/
theorem pcAt_advance (s : State) (w : Nat) (set : Lanes) (u : Nat) (h : u < (getWarp s w).threads.length) :
    pcAt (advance s w set) w u = if set.getLsbD u then pcAt s w u + 12 else pcAt s w u := by
  unfold pcAt advance
  rw [getWarp_updWarp, threads_makeReady _ _ _ _ _ h]
  split <;> rfl

/-- A jump moves its threads and no other. -/
theorem pcAt_jump (s : State) (w : Nat) (m : Lanes) (f : Nat → DWord) (u : Nat) (h : u < (getWarp s w).threads.length) :
    pcAt (jump s w m f) w u = if m.getLsbD u then f u else pcAt s w u := by
  unfold pcAt jump
  rw [getWarp_updWarp, threads_makeReady _ _ _ _ _ h]
  split <;> rfl

/-! ### Reads do not see the advance -/

section
variable (s : State) (w : Nat) (set : Lanes)

@[simp] theorem advance_ops : (advance s w set).ops = s.ops := rfl
@[simp] theorem advance_clock : (advance s w set).clock = s.clock := rfl
@[simp] theorem advance_free : (advance s w set).free = s.free := rfl
@[simp] theorem advance_groups : (advance s w set).groups = s.groups := rfl
@[simp] theorem advance_launches : (advance s w set).launches = s.launches := rfl
@[simp] theorem advance_ifaces : (advance s w set).ifaces = s.ifaces := rfl
@[simp] theorem advance_next : (advance s w set).next = s.next := rfl

@[simp] theorem fresh_advance (k : Nat) : fresh (advance s w set) k = fresh s k := rfl

@[simp] theorem regBusy_advance (r : Reg) (t : Nat) :
    regBusy (advance s w set) w (getWarp (advance s w set) w) r t = regBusy s w (getWarp s w) r t := by
  unfold regBusy
  rw [getWarp_advance_haz]
  rfl

@[simp] theorem vWord_advance (n t : Nat) :
    vWord (advance s w set) w (getWarp (advance s w set) w) n t = vWord s w (getWarp s w) n t := by
  simp [vWord]

@[simp] theorem seenBy_advance {α : Type} (key : Nat) (cur : α) (l : List (Unordered α)) :
    seenBy (advance s w set) w key cur l = seenBy s w key cur l := rfl

@[simp] theorem kWord_advance (n : Nat) :
    kWord (advance s w set) w (getWarp (advance s w set) w) n = kWord s w (getWarp s w) n := by
  simp [kWord, kValue, getGroup]

@[simp] theorem pBit_advance (n t : Nat) :
    pBit (advance s w set) w (getWarp (advance s w set) w) n t = pBit s w (getWarp s w) n t := by
  simp [pBit]

@[simp] theorem lpartOf_advance : lpartOf (advance s w set) (getWarp (advance s w set) w) = lpartOf s (getWarp s w) := by
  unfold lpartOf
  rw [getWarp_advance_lpartNext, getWarp_advance_lpart]
  rfl

@[simp] theorem lpartEarly_advance : lpartEarly (advance s w set) (getWarp (advance s w set) w) = lpartEarly s (getWarp s w) := by
  unfold lpartEarly
  rw [getWarp_advance_lpartNext]
  rfl

@[simp] theorem srcVal_advance (o : Opd) (k t : Nat) :
    srcVal (advance s w set) w (getWarp (advance s w set) w) o k t = srcVal s w (getWarp s w) o k t := by
  cases o <;> simp [srcVal, streamElem]

@[simp] theorem srcPred_advance (o : Opd) (t : Nat) :
    srcPred (advance s w set) w (getWarp (advance s w set) w) o t = srcPred s w (getWarp s w) o t := by
  cases o <;> simp [srcPred]

@[simp] theorem effAddr_advance (m : Mem) (b t : Nat) :
    effAddr (advance s w set) w (getWarp (advance s w set) w) m b t = effAddr s w (getWarp s w) m b t := by
  simp [effAddr]

@[simp] theorem roomAddr_advance (m : RoomMem) (t : Nat) :
    roomAddr (advance s w set) w (getWarp (advance s w set) w) m t = roomAddr s w (getWarp s w) m t := by
  simp [roomAddr]

@[simp] theorem lowVal_advance (act : Lanes) (o : Opd) (k : Nat) :
    lowVal (advance s w set) (issueAt s w set act) o k = readsOnce s w act o k := by
  simp [lowVal, readsOnce, reads, issueAt]

end

/-! ### Words without traps -/

@[simp] theorem deliver_nil (s : State) (w : Nat) (pc : DWord) : deliver s w pc [] = s := by
  unfold deliver
  simp

@[simp] theorem trapLanes_nil : trapLanes [] = 0 := by decide

@[simp] theorem condsBits_none : condsBits {} = 0 := by decide

@[simp] theorem setFlags_none (s : State) (w lat : Nat) (m : Lanes) : setFlags s w lat m (fun _ => {}) = s := by
  unfold setFlags
  simp

@[simp] theorem arithTraps_none (x : Warp) (m : Lanes) : arithTraps x m (fun _ => {}) = [] := by
  unfold arithTraps
  have : arithDetail {} = 0 := by decide
  simp [this]

@[simp] theorem and_not_zero (m : Lanes) : m &&& ~~~(0 : Lanes) = m := by
  have : ~~~(0 : Lanes) = BitVec.allOnes 32 := by decide
  rw [this, BitVec.and_allOnes]

theorem streamBad_advance (s : State) (w : Nat) (set : Lanes) (srcs : List Opd) (d : Option Opd) :
    streamBad (getWarp (advance s w set) w) srcs d = streamBad (getWarp s w) srcs d := by
  unfold streamBad getStream
  rw [getWarp_advance_streams]

theorem popFaults_advance (s : State) (w : Nat) (set : Lanes) (i : Issue) (ns : List Nat) :
    popFaults (getWarp (advance s w set) w) i ns = popFaults (getWarp s w) i ns := by
  unfold popFaults streamElem
  rw [getWarp_advance_streams]

/-- A fixed-latency word whose streams fit and that signals nothing under ARITHEN: its pops, its writes, its flags. -/
theorem fixedGen_next {s : State} {w : Nat} {set act : Lanes} {srcs : List Opd} {d : Option Opd} (lat : Nat)
    (cond : Nat → Conds) (write : Lanes → State → State) (hf : StreamsFit s w set act srcs d)
    (ha : arithTraps (getWarp s w) act cond = []) :
    fixedGen (advance s w set) (issueAt s w set act) srcs d lat cond write
      = setFlags (write act (afterReads s w set act srcs lat)) w lat act cond := by
  have h1 : streamBad (getWarp (advance s w set) w) srcs d = false := by
    rw [streamBad_advance]; exact hf.1
  have h2 : popFaults (getWarp (advance s w set) w) (issueAt s w set act) (streamsOf srcs) = [] := by
    rw [popFaults_advance]; exact hf.2
  have h3 : arithTraps (getWarp (advance s w set) w) act cond = [] := by
    unfold arithTraps at ha ⊢
    rw [getWarp_advance_status]; exact ha
  unfold fixedGen
  simp only [issueAt_w, issueAt_act, h1, h2, h3, trapLanes_nil, and_not_zero, Bool.false_eq_true, if_false, List.append_nil, deliver_nil]
  rfl

/-- A fixed-latency word of one destination and no conditions. -/
theorem fixedWord_next {s : State} {c : Ctl} {w : Nat} {set act : Lanes} {srcs : List Opd} {d : Opd} (k lat : Nat)
    (f : State → Warp → Issue → Nat → Nat) (h : Issues s c w set act) (hf : StreamsFit s w set act srcs (some d)) :
    fixedWord s c srcs d k lat f = .next (written s w set act srcs lat d k
      (f (advance s w set) (getWarp (advance s w set) w) (issueAt s w set act))) := by
  unfold fixedWord
  rw [issue_next h]
  unfold fixedBody
  rw [fixedGen_next lat _ _ hf (arithTraps_none _ _)]
  rw [setFlags_none]
  rfl

/-- A word of one destination that signals conditions, none of which traps. -/
theorem floatWord_next {s : State} {c : Ctl} {w : Nat} {set act : Lanes} {srcs : List Opd} {d : Opd} (k lat : Nat)
    (f : State → Warp → Issue → Nat → Nat × Conds) (h : Issues s c w set act) (hf : StreamsFit s w set act srcs (some d))
    (ha : arithTraps (getWarp s w) act (fun t => (f (advance s w set) (getWarp (advance s w set) w) (issueAt s w set act) t).2) = []) :
    floatWord s c srcs d k lat f = .next (setFlags (written s w set act srcs lat d k
      (fun t => (f (advance s w set) (getWarp (advance s w set) w) (issueAt s w set act) t).1)) w lat act
      (fun t => (f (advance s w set) (getWarp (advance s w set) w) (issueAt s w set act) t).2)) := by
  unfold floatWord
  rw [issue_next h]
  exact congrArg Host.Outcome.next (fixedGen_next lat _ _ hf ha)

end Sys2Proof.Machine
end

