-- ==== Sys2Proof/Laws/Writes.lean ====
section
/-! SUPPORT. What a word's writes of registers and predicates do, and what they leave. -/

namespace Sys2Proof.Machine

/-! ### The frame of register words -/

theorem RegisterFrame.advance (s : State) (w : Nat) (set : Lanes) : RegisterFrame s (advance s w set) w :=
  ⟨⟨_, rfl⟩, by rw [getWarp_advance], rfl⟩

/-- A change of threads, registers, predicates, streams or hazards of the warp. -/
theorem RegisterFrame.setWarp {s t : State} {w : Nat} (h : RegisterFrame s t w) (y : Warp)
    (hy : y = { getWarp t w with threads := y.threads, v := y.v, preds := y.preds, streams := y.streams, haz := y.haz }) :
    RegisterFrame s (setWarp t w y) w := by
  obtain ⟨⟨x, hx⟩, hw, ho⟩ := h
  refine ⟨⟨y, ?_⟩, ?_, ho⟩
  · have : Machine.setWarp t w y = { t with warps := mapSet t.warps w y } := rfl
    rw [this, hx]
    have h2 : mapSet (mapSet s.warps w x) w y = mapSet s.warps w y := by
      have := congrArg State.warps (setWarp_setWarp s w x y)
      exact this
    simp only [h2]
  · rw [getWarp_setWarp, hy, hw]

/-- A change of the marks of operations. -/
theorem RegisterFrame.setOps {s t : State} {w : Nat} (h : RegisterFrame s t w) (f : Nat → Op → Op)
    (hf : ∀ k o, (f k o).unmarked = o.unmarked) : RegisterFrame s { t with ops := mapAll t.ops f } w := by
  obtain ⟨⟨x, hx⟩, hw, ho⟩ := h
  refine ⟨⟨x, ?_⟩, hw, ?_⟩
  · rw [hx]
  · rw [← ho]
    simp only [mapAll, List.map_map]
    apply List.map_congr_left
    intro e _
    simp [hf]

theorem jump_frame {s t : State} {w : Nat} (h : RegisterFrame s t w) (m : Lanes) (f : Nat → DWord) :
    RegisterFrame s (jump t w m f) w := h.setWarp _ rfl

/-- A register that changes moves only what an incomplete word has still to access. -/
theorem scatter_unmarked (s : State) (m : Lanes) (o : Op) : (scatter s m o).unmarked = o.unmarked := by
  unfold scatter Op.unmarked
  simp only [List.map_map, Op.mk.injEq, true_and, and_true]
  apply List.map_congr_left
  intro p _
  have hq (a : Nat) : Part.movable { p with va := a, st := .retry 0 } = true := rfl
  by_cases hp : p.movable = true
  · by_cases hm : m.getLsbD p.lane = true
    · simp only [Function.comp, hp, hm, hq, Bool.and_self, if_true]
    · simp [Function.comp, hp, hm]
  · simp [Function.comp, hp]

theorem markOp_unmarked (s : State) (m : Lanes) (r : Reg) (o : Op) : (markOp s m r o).unmarked = o.unmarked := by
  unfold markOp
  dsimp only
  split
  · rfl
  · split
    · rw [scatter_unmarked]
      split <;> split <;> rfl
    · split <;> split <;> rfl

theorem markOps_frame {s t : State} {w : Nat} (h : RegisterFrame s t w) (v : Nat) (m : Lanes) (r : Reg) :
    RegisterFrame s (markOps t v m r) w := by
  apply h.setOps
  intro k o
  split
  · exact markOp_unmarked t m r o
  · rfl

@[simp] theorem getWarp_markOps (s : State) (v : Nat) (m : Lanes) (r : Reg) (w : Nat) : getWarp (markOps s v m r) w = getWarp s w := rfl

theorem putV_frame {s t : State} {w : Nat} (h : RegisterFrame s t w) (lat n : Nat) (m : Lanes) (f : Nat → Word) :
    RegisterFrame s (putV t w lat n m f) w := markOps_frame (h.setWarp _ rfl) _ _ _

theorem putP_frame {s t : State} {w : Nat} (h : RegisterFrame s t w) (lat n : Nat) (m : Lanes) (f : Nat → Bool) :
    RegisterFrame s (putP t w lat n m f) w := by
  unfold putP
  split
  · exact h
  · exact markOps_frame (h.setWarp _ rfl) _ _ _

theorem foldl_frame {α : Type} {s t : State} {w : Nat} (g : State → α → State) (l : List α)
    (hg : ∀ t a, RegisterFrame s t w → RegisterFrame s (g t a) w) (h : RegisterFrame s t w) : RegisterFrame s (l.foldl g t) w := by
  induction l generalizing t with
  | nil => exact h
  | cons a l ih => exact ih (hg t a h)

theorem putVs_frame {s t : State} {w : Nat} (h : RegisterFrame s t w) (lat n k : Nat) (m : Lanes) (f : Nat → Nat) :
    RegisterFrame s (putVs t w lat n k m f) w :=
  foldl_frame _ _ (fun _ _ h => putV_frame h _ _ _ _) h

theorem setStream_frame {s t : State} {w : Nat} (h : RegisterFrame s t w) (n : Nat) (st : Stream) :
    RegisterFrame s (setStream t w n st) w := h.setWarp _ rfl

theorem popStream_frame {s t : State} {i : Issue} (h : RegisterFrame s t i.w) (lat n : Nat) :
    RegisterFrame s (popStream t i lat n) i.w := by
  unfold popStream
  split
  · exact h
  · exact setStream_frame (foldl_frame _ _ (fun _ _ h => putP_frame h _ _ _ _) h) _ _

theorem afterReads_frame (s : State) (w : Nat) (set act : Lanes) (srcs : List Opd) (lat : Nat) :
    RegisterFrame s (afterReads s w set act srcs lat) w :=
  foldl_frame _ _ (fun _ n h => popStream_frame (i := issueAt s w set act) h lat n) (RegisterFrame.advance s w set)

/-- A word whose destination is no stream changes only registers, predicates and streams of its warp. -/
theorem written_frame (s : State) (w : Nat) (set act : Lanes) (srcs : List Opd) (lat : Nat) (d : Opd) (k : Nat) (f : Nat → Nat)
    (hd : ∀ n, d ≠ .s n) : RegisterFrame s (written s w set act srcs lat d k f) w := by
  have h := afterReads_frame s w set act srcs lat
  unfold written
  cases d with
  | v n => exact putVs_frame h _ _ _ _ _
  | p n => exact putP_frame h _ _ _ _
  | s n => exact absurd rfl (hd n)
  | _ => exact h

/-! ### Values -/

theorem vMap_foldl (l : List Nat) (v : Map Word) (n r u : Nat) (y : Nat → Word) (hl : ∀ t ∈ l, t < 32) (hu : u < 32) :
    mapGetD (l.foldl (fun v t => mapPut 0 v (32 * n + t) (y t)) v) (32 * r + u) 0
      = if r = n ∧ u ∈ l then y u else mapGetD v (32 * r + u) 0 := by
  induction l generalizing v with
  | nil => simp
  | cons a l ih =>
    rw [List.foldl_cons, ih _ (fun t ht => hl t (List.mem_cons_of_mem _ ht)), mapGetD_mapPut]
    have ha := hl a List.mem_cons_self
    by_cases h1 : r = n ∧ u ∈ l
    · rw [if_pos h1, if_pos ⟨h1.1, List.mem_cons_of_mem _ h1.2⟩]
    · rw [if_neg h1]
      by_cases h2 : r = n ∧ u = a
      · obtain ⟨rfl, rfl⟩ := h2
        simp
      · have h3 : ¬ (32 * r + u = 32 * n + a) := by
          intro h; apply h2; omega
        have h4 : ¬ (r = n ∧ u ∈ a :: l) := by
          simp only [List.mem_cons, not_and, not_or] at h1 h2 ⊢
          intro hr; exact ⟨h2 hr, h1 hr⟩
        rw [if_neg h3, if_neg h4]

/-- The V registers after a write of one register. -/
theorem vReg_putV (s : State) (w lat n : Nat) (m : Lanes) (f : Nat → Word) (r u : Nat) (hu : u < 32) :
    vReg (putV s w lat n m f) w r u =
      if r = n ∧ m.getLsbD u then
        if lateHaz s (getWarp s w) (.v n) lat u then (fresh s (freeBase + 1024 + regKey (.v n) u)).setWidth 32 else f u
      else vReg s w r u := by
  unfold vReg putV
  simp only [getWarp_markOps, getWarp_setWarp]
  rw [vMap_foldl _ _ _ _ _ _ (fun t ht => ((mem_laneList m t).1 ht).1) hu]
  simp only [mem_laneList, hu, true_and]

@[simp] theorem putV_clock (s : State) (w lat n : Nat) (m : Lanes) (f : Nat → Word) : (putV s w lat n m f).clock = s.clock := rfl
@[simp] theorem putV_preds (s : State) (w lat n : Nat) (m : Lanes) (f : Nat → Word) :
    (getWarp (putV s w lat n m f) w).preds = (getWarp s w).preds := by simp [putV]
theorem putV_threads (s : State) (w lat n : Nat) (m : Lanes) (f : Nat → Word) :
    (getWarp (putV s w lat n m f) w).threads = (getWarp s w).threads := by simp [putV]

/-- Dropping results that are readable by now drops none that is still to land. -/
theorem any_addHaz {hz : List Haz} {clock l : Nat} (r : Reg) (u : Nat) (hl : 0 < l) :
    (hz.filter fun h => clock < h.ready).any (fun h => h.reg == r && h.lanes.getLsbD u && clock + l ≤ h.ready)
      = hz.any fun h => h.reg == r && h.lanes.getLsbD u && clock + l ≤ h.ready := by
  rw [List.any_filter]
  congr 1
  funext h
  by_cases h1 : clock + l ≤ h.ready
  · have : clock < h.ready := by omega
    simp [this]
  · simp [h1]

/-- A write of another register does not touch what is still to land in this one. -/
theorem lateHaz_putV (s : State) (w lat n : Nat) (m : Lanes) (f : Nat → Word) (r : Reg) (l u : Nat) (h : r ≠ .v n) (hl : 0 < l) :
    lateHaz (putV s w lat n m f) (getWarp (putV s w lat n m f) w) r l u = lateHaz s (getWarp s w) r l u := by
  unfold lateHaz putV
  simp only [getWarp_markOps, getWarp_setWarp, addHaz]
  have h1 : ((Reg.v n) == r) = false := by
    simp only [beq_eq_false_iff_ne, ne_eq]; exact fun hh => h hh.symm
  simp only [List.any_cons, h1, Bool.false_and, Bool.false_or]
  exact any_addHaz r u hl

theorem lateHaz_putP (s : State) (w lat n : Nat) (m : Lanes) (f : Nat → Bool) (r : Reg) (l u : Nat) (h : r ≠ .p n) (hl : 0 < l) :
    lateHaz (putP s w lat n m f) (getWarp (putP s w lat n m f) w) r l u = lateHaz s (getWarp s w) r l u := by
  unfold putP
  split
  · rfl
  · unfold lateHaz
    simp only [getWarp_markOps, getWarp_setWarp, addHaz]
    have h1 : ((Reg.p n) == r) = false := by
      simp only [beq_eq_false_iff_ne, ne_eq]; exact fun hh => h hh.symm
    simp only [List.any_cons, h1, Bool.false_and, Bool.false_or]
    exact any_addHaz r u hl

/-- What a write of `k` registers leaves in each V register. -/
theorem vReg_putVs (s : State) (w lat n k : Nat) (m : Lanes) (f : Nat → Nat) (r u : Nat) (hu : u < 32)
    (hlat : 0 < lat ∨ k ≤ 1) :
    (¬ (n ≤ r ∧ r < n + k ∧ m.getLsbD u) → vReg (putVs s w lat n k m f) w r u = vReg s w r u) ∧
    (n ≤ r ∧ r < n + k ∧ m.getLsbD u → lateHaz s (getWarp s w) (.v r) lat u = false →
      vReg (putVs s w lat n k m f) w r u = BitVec.ofNat 32 (f u / 2 ^ (32 * (r - n)))) ∧
    (0 < lat → (r < n ∨ n + k ≤ r) → lateHaz (putVs s w lat n k m f) (getWarp (putVs s w lat n k m f) w) (.v r) lat u
      = lateHaz s (getWarp s w) (.v r) lat u) := by
  induction k with
  | zero =>
    refine ⟨fun _ => rfl, fun h => ?_, fun _ _ => rfl⟩
    omega
  | succ k ih =>
    have hstep : putVs s w lat n (k + 1) m f
        = putV (putVs s w lat n k m f) w lat (n + k) m fun t => BitVec.ofNat 32 (f t / 2 ^ (32 * k)) := by
      unfold putVs
      rw [List.range_succ, List.foldl_append]
      rfl
    obtain ⟨i1, i2, i3⟩ := ih (by omega)
    rw [hstep]
    refine ⟨fun h => ?_, fun h hl => ?_, fun hl h => ?_⟩
    · rw [vReg_putV _ _ _ _ _ _ _ _ hu]
      have h1 : ¬ (r = n + k ∧ m.getLsbD u = true) := by
        rintro ⟨h1, h2⟩
        exact h ⟨by omega, by omega, h2⟩
      rw [if_neg h1]
      apply i1
      rintro ⟨a, b, c⟩
      exact h ⟨a, by omega, c⟩
    · rw [vReg_putV _ _ _ _ _ _ _ _ hu]
      by_cases h1 : r = n + k
      · have h4 : lateHaz (putVs s w lat n k m f) (getWarp (putVs s w lat n k m f) w) (.v (n + k)) lat u = false := by
          rcases hlat with h5 | h5
          · subst h1
            rw [i3 h5 (Or.inr (Nat.le_refl _))]; exact hl
          · have : k = 0 := by omega
            subst this; subst h1
            exact hl
        rw [if_pos ⟨h1, h.2.2⟩, h4]
        subst h1
        simp
      · rw [if_neg (fun hh => h1 hh.1)]
        exact i2 ⟨h.1, by omega, h.2.2⟩ hl
    · rw [lateHaz_putV _ _ _ _ _ _ _ _ _ (by intro hh; cases hh; omega) hl]
      exact i3 hl (by omega)

/-- A write of V registers takes its value in its lanes and leaves every other register. -/
theorem VTakes_putVs (s : State) (w lat n k : Nat) (m : Lanes) (f : Nat → Nat) (h : 0 < lat ∨ k ≤ 1) :
    VTakes s (putVs s w lat n k m f) w lat n k m f := by
  intro r u hu
  obtain ⟨h1, h2, _⟩ := vReg_putVs s w lat n k m f r u hu h
  split
  · rename_i hc
    exact h2 hc
  · rename_i hc
    exact h1 hc

end Sys2Proof.Machine
end

