-- ==== Sys2Proof/Tests/Slice0.lean ====
section
/-! SUPPORT. Tests of the model: for every word of the opcode table, a word written out from the spec's encoding decodes to the instruction it stands for; ill-formed terms that each check refuses; the worked examples of the spec; and, for every statement with hypotheses, a state and operands that meet them. -/

open Sys2Proof Sys2Proof.Machine

namespace Sys2Proof.Tests

/- One theorem at a time: evaluated side by side, they would need more memory than one check has. -/
set_option Elab.async false

/-! ### Words written out from the encodings -/

def c : Ctl := ⟨7, 0x0F0000⟩
def decodesAs (l : List (Nat × Instr)) : Bool := l.all fun e => decodeWord maxLimits (BitVec.ofNat 96 e.1) == .ok e.2 && e.2.wf


theorem test_decode_control : decodesAs [
    (0x0007_C018_0300_0000_000F_0000, .nop c),
    (0x0107_C018_0300_0000_FE0F_0000, .bra c 0xFE),
    (0x0207_C008_2700_0000_000F_0000, .brak c (.k 9)),
    (0x0307_C000_2700_0000_000F_0000, .brx c (.v 9)),
    (0x0407_03D8_0300_0000_7F0F_0000, .call c (.v 30) 0x7F),
    (0x0507_03CF_FF00_0000_000F_0000, .callk c (.v 30) (.k 511)),
    (0x0607_C000_7B00_0000_000F_0000, .ret c (.v 30)),
    (0x0707_C018_0300_0000_000F_0000, .exit c),
    (0x0807_C01F_FF00_0000_000F_0000, .reconv c (.imm 0x1FF)),
    (0x0907_C018_5300_0000_000F_0000, .yield c (.imm 20)),
    (0x0A07_0092_2300_0000_000F_0000, .sread c (.v 4) (.sys .gtime)),
    (0x0A17_00B8_0300_0000_030F_0000, .sreadId c (.v 5) 3),
    (0x0A27_00B8_0300_0000_070F_0000, .sreadExt c (.v 5) 7),
    (0x0A37_00B8_0300_0000_010F_0000, .sreadNum c (.v 5) 1),
    (0x0A47_00B8_0300_0000_020F_0000, .sreadBind c (.v 5) 2),
    (0x0B07_91C0_1B00_0000_000F_0000, .swrite c (.sys .status) (.v 6))] = true := by decide +kernel

theorem test_decode_register : decodesAs [
    (0x1007_8030_0F00_0000_000F_0000, .mov c (.s 1) (.s 3)),
    (0x1017_009F_F700_0000_000F_0000, .mov64 c (.v 4) (.imm 0x1FD)),
    (0x1107_40E0_0F00_0000_000F_0000, .movk c (.k 7) (.v 3)),
    (0x1117_4108_2B00_0000_000F_0000, .movk64 c (.k 8) (.k 10)),
    (0x1207_0020_0901_8000_000F_0000, .bcast c (.v 1) (.v 2) (.k 3)),
    (0x1307_003A_AF01_0000_000F_0000, .limm c (.v 1) (.imm 0xAB) (.imm 2)),
    (0x1317_003A_AF01_8000_000F_0000, .limmIns c (.v 1) (.imm 0xAB) (.imm 3)),
    (0x1407_0028_0A02_0000_0D0F_0000, .sel c true 5 (.v 1) (.k 2) (.s 4)),
    (0x1417_0040_1303_8000_020F_0000, .sel64 c false 2 (.v 2) (.v 4) (.imm 7)),
    (0x1507_8A31_4A29_8004_E80F_0000, .plog c 4 0xE8 (.p 1) (.p 2) (.p 3)),
    (0x1517_0038_0300_0000_000F_0000, .plogTov c (.v 1)),
    (0x1527_C008_0700_0000_000F_0000, .plogFromv c (.k 1)),
    (0x1607_8048_5300_0007_F90F_0000, .sbindLd c 0x7F9 (.s 2) (.k 20)),
    (0x1617_81EF_D300_000F_FF0F_0000, .sbindSt c 0xFFF (.s 15) (.k 500)),
    (0x1707_C010_0B00_0000_000F_0000, .sstop c (.s 2)),
    (0x1807_0070_0B00_0000_000F_0000, .sflags c (.v 3) (.s 2))] = true := by decide +kernel

theorem test_decode_integer : decodesAs [
    (0x2017_0040_1103_0800_000F_0000, .iadd c true .s32 (.v 2) (.v 4) (.k 6)),
    (0x2107_0040_1103_1000_060F_0000, .iaddc c .u64 6 (.v 2) (.v 4) (.k 6)),
    (0x2207_0040_1103_1800_000F_0000, .isub c false .s64 (.v 2) (.v 4) (.k 6)),
    (0x2317_0040_1103_0800_000F_0000, .imul c true .s32 (.v 2) (.v 4) (.k 6)),
    (0x2407_0040_1103_0000_000F_0000, .imulh c .u32 (.v 2) (.v 4) (.k 6)),
    (0x2507_0040_1103_1000_000F_0000, .imad c false .u64 (.v 2) (.v 4) (.k 6)),
    (0x2607_0040_1103_0800_000F_0000, .imin c .s32 (.v 2) (.v 4) (.k 6)),
    (0x2707_0040_1103_0000_000F_0000, .imax c .u32 (.v 2) (.v 4) (.k 6)),
    (0x2817_0040_1300_1800_000F_0000, .iabs c true .s64 (.v 2) (.v 4)),
    (0x2907_0040_1103_0000_000F_0000, .and c .u32 (.v 2) (.v 4) (.k 6)),
    (0x2A07_0040_1103_0800_000F_0000, .or c .s32 (.v 2) (.v 4) (.k 6)),
    (0x2B07_0040_1103_1000_000F_0000, .xor c .u64 (.v 2) (.v 4) (.k 6)),
    (0x2C07_0040_1103_1800_000F_0000, .andn c .s64 (.v 2) (.v 4) (.k 6)),
    (0x2D07_0040_1103_0000_000F_0000, .shl c .u32 (.v 2) (.v 4) (.k 6)),
    (0x2E07_0040_1103_0800_000F_0000, .shr c .s32 (.v 2) (.v 4) (.k 6)),
    (0x2F07_0040_1103_1000_000F_0000, .sar c .u64 (.v 2) (.v 4) (.k 6)),
    (0x3007_0040_1103_1800_000F_0000, .rotl c .s64 (.v 2) (.v 4) (.k 6)),
    (0x3107_0040_1300_0000_000F_0000, .popc c .u32 (.v 2) (.v 4)),
    (0x3207_0040_1300_0800_000F_0000, .clz c .s32 (.v 2) (.v 4)),
    (0x3307_0040_1300_1000_000F_0000, .ctz c .u64 (.v 2) (.v 4)),
    (0x3407_0040_1300_1800_000F_0000, .brev c .s64 (.v 2) (.v 4)),
    (0x3517_00C0_0B00_080C_040F_0000, .bfx c .s32 (.lit 4 12) (.v 6) (.v 2)),
    (0x3607_00C0_0902_8000_000F_0000, .bfi c .u32 (.reg (.k 5)) (.v 6) (.v 2)),
    (0x3737_8A40_1302_8800_2D0F_0000, .isetp c .le .s32 ⟨2, true, 5⟩ (.p 2) (.v 4) (.imm 5)),
    (0x3817_0048_1003_107F_FC0F_0000, .agen c true .u64 (.v 2) ⟨.k 4, some (.v 6), 3, 0x1FFC⟩)] = true := by decide +kernel

theorem test_decode_float : decodesAs [
    (0x5007_00E0_1502_4100_000F_0000, .fadd c .f32 .rz (.v 7) (.v 5) (.k 4)),
    (0x5107_0040_1103_4A00_000F_0000, .fsub c .f64 .rp (.v 2) (.v 4) (.k 6)),
    (0x5207_0040_1103_5300_000F_0000, .fmul c .bf16 .rm (.v 2) (.v 4) (.k 6)),
    (0x5307_0040_1103_5C00_000F_0000, .fma c .f16 .ra (.v 2) (.v 4) (.k 6)),
    (0x5407_0040_1103_6000_000F_0000, .fms c .bf16x2 .rn (.v 2) (.v 4) (.k 6)),
    (0x5517_0040_1103_4000_000F_0000, .fmin c true .f32 (.v 2) (.v 4) (.k 6)),
    (0x5607_0040_1103_4800_000F_0000, .fmax c false .f64 (.v 2) (.v 4) (.k 6)),
    (0x57D7_8A20_1103_4000_000F_0000, .fsetp c .geu .f32 ⟨0, false, 0⟩ (.p 1) (.v 4) (.k 6)),
    (0x5807_8A20_1300_4003_FF0F_0000, .fclass c .f32 0x3FF (.p 1) (.v 4)),
    (0x5907_0040_1300_4400_000F_0000, .frcp c .f32 .ra (.v 2) (.v 4)),
    (0x5A07_0040_1300_4800_000F_0000, .frsq c .f64 (.v 2) (.v 4)),
    (0x5B07_0040_1300_4100_000F_0000, .fsqrt c .f32 .rz (.v 2) (.v 4)),
    (0x5C07_0040_1103_4A00_000F_0000, .fdiv c .f64 .rp (.v 2) (.v 4) (.k 6)),
    (0x5D07_0040_1300_4000_000F_0000, .fex2 c (.v 2) (.v 4)),
    (0x5E07_0040_1300_4000_000F_0000, .flg2 c (.v 2) (.v 4)),
    (0x5F07_0040_1300_4000_000F_0000, .fsin c (.v 2) (.v 4)),
    (0x6007_0040_1300_4000_000F_0000, .fcos c (.v 2) (.v 4)),
    (0x6107_0040_1300_4000_000F_0000, .ftanh c (.v 2) (.v 4)),
    (0x6207_0040_1300_5B00_000F_0000, .frnd c .f16 .rm (.v 2) (.v 4)),
    (0x6307_0040_1300_7000_080F_0000, .cvt c .t8 .f32 .rn (.v 2) (.v 4)),
    (0x6317_0040_1002_E000_080F_0000, .cvtPack c .rn (.v 2) (.v 4) (.v 5)),
    (0x6327_0040_1300_4000_0C0F_0000, .cvtHi c .f32 .rn (.v 2) (.v 4)),
    (0x6337_0040_1300_3800_000F_0000, .cvtSat c .s8 .u32 .rn (.v 2) (.v 4))] = true := by decide +kernel

theorem test_decode_lane : decodesAs [
    (0x8007_C018_4300_0000_000F_0000, .lpartset c (.imm 16)),
    (0x8107_0120_2302_0000_000F_0000, .shflIdx c .u32 none (.v 9) (.v 8) (.imm 4)),
    (0x8117_0120_2302_0000_0B0F_0000, .shflUp c .u32 (some 3) (.v 9) (.v 8) (.imm 4)),
    (0x8127_0120_2302_0000_0B0F_0000, .shflDown c .u32 (some 3) (.v 9) (.v 8) (.imm 4)),
    (0x8137_0120_2302_0000_080F_0000, .shflXor c .u32 (some 0) (.v 9) (.v 8) (.imm 4)),
    (0x8207_8A31_4B00_0000_000F_0000, .voteAll c false (.p 1) (.p 2)),
    (0x8217_8A31_4B00_0000_080F_0000, .voteAny c true (.p 1) (.p 2)),
    (0x8227_8A31_4B00_0000_000F_0000, .voteEq c false (.p 1) (.p 2)),
    (0x8237_0031_4B00_0000_080F_0000, .voteBallot c true (.v 1) (.p 2)),
    (0x8307_0040_1300_4300_000F_0000, .redux c .add .f32 .rm (.v 2) (.v 4)),
    (0x8447_0040_1300_1000_010F_0000, .scan c true .or .u64 .rn (.v 2) (.v 4)),
    (0x8507_0040_1300_1000_000F_0000, .matchLanes c .u64 (.v 2) (.v 4)),
    (0x8607_0051_5300_0000_080F_0000, .lanepfx c true (.v 2) (.p 4)),
    (0x8707_0040_122B_0000_080F_0000, .compress c true .u32 (.v 2) (.v 4) (.p 6)),
    (0x8807_0040_122B_1000_000F_0000, .expand c false .u64 (.v 2) (.v 4) (.p 6)),
    (0x8907_0040_1103_0000_000F_0000, .slideup c .u32 (.v 2) (.v 4) (.k 6)),
    (0x8A07_0040_1103_1000_000F_0000, .slidedn c .u64 (.v 2) (.v 4) (.k 6)),
    (0x8B07_0028_1001_B4DF_FF0F_0000, .cstore c .u8 .device true 5 0xFFF (.v 1) (.k 4) (.v 3))] = true := by decide +kernel

theorem test_decode_memory : decodesAs [
    (0x9067_0100_0B00_0400_080F_0000, .ld c .qualB128 .u32 .device (.v 8) ⟨.v 2, none, 0, 8⟩),
    (0x9107_00C8_1001_1460_100F_0000, .st c .plain .u64 .device (.v 6) ⟨.k 4, some (.v 2), 3, 16⟩),
    (0x9207_00C0_1300_1300_000F_0000, .ldx c false .u64 .cluster (.v 6) ⟨.v 4, none, 0, 0⟩),
    (0x9327_0100_1300_0000_000F_0000, .stx c true .u32 .thread (.v 8) ⟨.v 4, none, 0, 0⟩),
    (0x9407_C008_1001_0020_400F_0000, .prefL1 c ⟨.k 4, some (.v 2), 1, 64⟩),
    (0x9417_C008_1001_0020_400F_0000, .prefCc c ⟨.k 4, some (.v 2), 1, 64⟩),
    (0x9427_C008_1001_0020_400F_0000, .prefSl c ⟨.k 4, some (.v 2), 1, 64⟩),
    (0x9507_C008_1001_0200_000F_0000, .invr c .group (.k 4) (.v 2)),
    (0x9607_C008_1001_0600_000F_0000, .invd c .system (.k 4) (.v 2)),
    (0x9707_C008_1001_0500_000F_0000, .wbr c .tenant (.k 4) (.v 2))] = true := by decide +kernel

theorem test_decode_order : decodesAs [
    (0xB007_C018_0300_0000_000F_0000, .fenceAr c .thread),
    (0xB017_C018_0300_0400_000F_0000, .fenceRel c .device),
    (0xB027_C018_0300_0600_000F_0000, .fenceAcq c .system),
    (0xB037_C018_0300_0100_000F_0000, .fenceAll c .warp),
    (0xB197_0088_1801_1C40_080F_0000, .atom c .dec ⟨.s64, .device, .acq, false, false, 8, .k 6⟩ (some (.v 4)) (.v 2)),
    (0xB227_C008_1C01_6230_000F_0000, .atomf c .max ⟨.bf16x2, .group, .none, true, true, 0, .k 7⟩ none (.v 2)),
    (0xB317_0088_1804_06C0_000F_0000, .cas c true ⟨.u32, .system, .ar, false, false, 0, .k 6⟩ (.v 4) (.v 8))] = true := by decide +kernel

theorem test_decode_scratch : decodesAs [
    (0xA027_0088_0C01_0080_100F_0000, .lds c true .u32 (.v 4) ⟨.k 3, some (.v 2), 4, 16⟩),
    (0xA117_4080_0F00_5000_020F_0000, .sts c false true .bf16 (.k 4) ⟨.v 3, none, 0, 2⟩),
    (0xA207_C008_0F02_0000_000F_0000, .lmarkEmpty c (.k 3) (.imm 4)),
    (0xA217_C000_0C02_0000_000F_0000, .lmarkFull c (.v 3) (.v 4)),
    (0xA227_0020_0F00_0000_000F_0000, .lmarkQ c (.v 1) (.v 3)),
    (0xA707_C3EF_C300_0000_000F_0000, .tdesc c (.imm 31) (.k 496)),
    (0xA307_0108_8301_8400_080F_0000, .cpyLoad c .device true 0 (.v 8) (.k 32) (.imm 3)),
    (0xA317_0108_8101_8200_050F_0000, .cpyBstack c .group false 5 (.v 8) (.k 32) (.k 3)),
    (0xA327_010F_D301_8600_080F_0000, .cpyStore c .system true (.v 8) (.k 500) (.imm 3)),
    (0xA407_0108_8301_8400_090F_0000, .cpyg c .device 1 2 (.v 8) (.k 32) (.imm 3)),
    (0xA507_0108_8301_8500_000F_0000, .cpys c .tenant (.v 8) (.k 32) (.imm 3)),
    (0xA607_0108_8300_0000_000F_0000, .cpyqStat c (.v 8) (.k 32)),
    (0xA617_C000_8300_0000_000F_0000, .cpyqCancel c (.v 32)),
    (0xA807_C008_8300_0000_000F_0000, .sleept c (.k 32)),
    (0xA817_8A28_8301_8000_000F_0000, .sleeptP c (.p 1) (.k 32) (.imm 3)),
    (0xA827_C008_8001_8000_000F_0000, .sleeptT c (.k 32) (.v 3))] = true := by decide +kernel

theorem test_decode_event : decodesAs [
    (0xC007_C008_0B04_0000_000F_0000, .barinit c (.k 2) (.imm 8)),
    (0xC017_C000_0B00_0000_000F_0000, .barinitInval c (.v 2)),
    (0xC117_0068_0B00_0300_000F_0000, .bararr c true .cluster (some (.v 3)) (.k 2)),
    (0xC207_C008_0802_8200_000F_0000, .barexp c false .group none (.k 2) (.v 5)),
    (0xC307_8A28_0802_8200_000F_0000, .barwait c .group (.p 1) (.k 2) (.v 5)),
    (0xC407_C008_4300_0000_030F_0000, .evarm c 3 (.k 16)),
    (0xC417_C00F_F300_0000_070F_0000, .evarmOne c 7 (.k 508)),
    (0xC507_C000_0700_0000_000F_0000, .evmask c (.v 1)),
    (0xC517_C008_0700_0000_000F_0000, .evmaskOr c (.k 1)),
    (0xC527_C018_0700_0000_000F_0000, .evmaskAndn c (.imm 1)),
    (0xC607_C01B_FF00_0000_000F_0000, .evclr c (.imm 255)),
    (0xC617_C01B_FF00_0000_000F_0000, .evclrDisarm c (.imm 255)),
    (0xC707_C018_0300_0000_000F_0000, .waitany c),
    (0xC807_0028_0B04_0000_000F_0000, .mbxinit c (.v 1) (.k 2) (.imm 8)),
    (0xC817_C008_0B00_0000_000F_0000, .mbxinitFree c (.k 2)),
    (0xC907_8A28_0804_0400_000F_0000, .mbxsend c .device (.p 1) (.k 2) (.v 8)),
    (0xC917_0020_0904_0500_000F_0000, .mbxsendSt c .tenant (.v 1) (.v 2) (.k 8)),
    (0xCA07_0080_0B00_0200_060F_0000, .mbxpop c .group 6 (.v 4) (.v 2))] = true := by decide +kernel

theorem test_decode_room : decodesAs [
    (0xD007_0028_1300_0000_000F_0000, .rdesc c (.v 1) (.k 4)),
    (0xD107_C008_1700_0000_000F_0000, .rfree c (.k 5)),
    (0xD207_C000_162D_8000_040F_0000, .rdemand c .pop (.v 5) (.h 3)),
    (0xD217_8A48_222C_8000_010F_0000, .rdemandWait c .write (.p 2) (.k 8) (.h 1)),
    (0xD307_C011_6B00_0000_000F_0000, .rleave c (.h 2)),
    (0xD407_0048_1003_189F_FF0F_0000, .rld c .s64 (.v 2) ⟨2, .k 4, some (.v 6), 3, 0x7FF⟩),
    (0xD507_4040_1300_3040_050F_0000, .rst c .u8 (.k 2) ⟨1, .v 4, none, 0, 5⟩),
    (0xD627_0048_1300_40C0_000F_0000, .racc c .max .f32 (.v 2) ⟨3, .k 4, none, 0, 0⟩),
    (0xD707_8A20_122C_1000_000F_0000, .rpush c .u64 (.p 1) (.v 4) (.h 0)),
    (0xD807_0091_6300_0000_050F_0000, .rpop c .u32 5 (.v 4) (.h 0)),
    (0xD907_0091_6300_0000_000F_0000, .rquery c (.v 4) (.h 0)),
    (0xD917_0088_0700_0000_000F_0000, .rqueryR c (.v 4) (.k 1))] = true := by decide +kernel

theorem test_decode_matrix : decodesAs [
    (0xE007_87F8_2300_0000_000F_0000, .jset c (.j 15) (.imm 8)),
    (0xE017_0030_CF00_0000_000F_0000, .jsetQ c (.v 1) (.j 3)),
    (0xE137_8248_2106_783D_190F_0000, .mma c .t6 true true 9 17 30 (.z 2) (.k 8) (.k 12)),
    (0xE207_C018_0300_0000_000F_0000, .mfenceOp c),
    (0xE307_84E0_0700_0000_000F_0000, .zclr c (.z 23) (.v 1)),
    (0xE407_0090_4B04_C800_010F_0000, .zld c (some true) (.v 4) (.z 2) (.imm 9)),
    (0xE507_0090_4804_C000_000F_0000, .zst c none (.v 4) (.z 2) (.v 9)),
    (0xE607_4080_0904_8000_000F_0000, .bload c (.k 4) (.v 2) (.k 9)),
    (0xE707_8220_0B00_5000_000F_0000, .qhist c .bf16 (.z 1) (.v 2)),
    (0xE717_8238_0901_8000_000F_0000, .qhistRows c (.z 1) (.imm 2) (.k 3)),
    (0xE727_8238_0300_0000_000F_0000, .qhistClr c (.z 1)),
    (0xE807_0070_477D_7000_000F_0000, .qscale c false (.v 3) (.z 1) (.imm 250)),
    (0xE907_4070_4700_7800_FF0F_0000, .qpack c true 0xFF (.k 3) (.z 1)),
    (0xE917_0070_4401_7000_000F_0000, .qpackE c false (.v 3) (.z 1) (.v 2))] = true := by decide +kernel

theorem test_decode_graph : decodesAs [
    (0xF007_0060_1300_0000_000F_0000, .gfire c (some (.v 3)) (.v 4)),
    (0xF017_C018_0300_0000_000F_0000, .gfireEnd c),
    (0xF107_C008_1001_0000_000F_0000, .gtoken c none (.k 4) (.v 2)),
    (0xF207_C018_1F00_0000_000F_0000, .gfail c (.imm 7)),
    (0xF307_0038_2300_0000_000F_0000, .garg c (.v 1) (.imm 8)),
    (0xF317_0058_0300_0000_000F_0000, .gargAddr c (.v 2)),
    (0xF327_0038_0300_0000_000F_0000, .gargIndex c (.v 1)),
    (0xF407_0028_0B00_0000_000F_0000, .gstat c (.v 1) (.k 2)),
    (0xF417_0020_0B00_0000_000F_0000, .gstatG c (.v 1) (.v 2)),
    (0xF427_0038_0300_0000_000F_0000, .gstatD c (.v 1))] = true := by decide +kernel

theorem test_decode_trap : decodesAs [
    (0xF607_C018_1700_0000_000F_0000, .trap c (.imm 5)),
    (0xF617_0098_0B00_0000_000F_0000, .trapRd c (.v 4) (.imm 2)),
    (0xF707_C018_0300_0000_000F_0000, .rte c),
    (0xF717_C018_0300_0000_000F_0000, .rteNext c),
    (0xF727_C000_1300_0000_000F_0000, .rteAt c (.v 4)),
    (0xF737_C018_0300_0000_000F_0000, .rteFail c)] = true := by decide +kernel
/-! ### Ill-formed terms

One term that each check of `Instr.wf` refuses; each list closes with a legal neighbour. -/

def r15 : Ctl := ⟨7, 0x0F0000⟩
def r0 : Ctl := ⟨7, 0⟩
def r13 : Ctl := ⟨7, 0x0D0000⟩
def badWords (l : List Instr) : Bool := l.all fun i => i.wf == false

/-- R66: a pair of V registers starts at an even index; V indices end at 319 and K indices at 511, a pair's at 318 and 510; R62 to R65: each kind at a position that takes another. -/
theorem test_wf_registers : badWords [
    .mov64 r15 (.v 5) (.v 4), .mov64 r15 (.v 4) (.v 7), .mov r15 (.v 320) (.v 0), .movk64 r15 (.k 511) (.v 4),
    .mov64 r15 (.v 319) (.v 4), .mov r15 (.k 3) (.v 0), .mov r15 (.imm 3) (.v 0), .mov r15 (.v 1) (.h 0),
    .yield r15 (.k 1), .sstop r15 (.v 2), .plog r15 0 0 (.p 1) (.v 2) (.p 3), .rleave r15 (.s 0), .jset r15 (.k 0) (.v 1),
    .zclr r15 (.v 0) (.imm 0), .zld r15 (some true) (.v 4) (.z 3) (.imm 0), .bararr r15 false .group (some (.k 1)) (.k 1),
    .sread r15 (.v 5) (.sys .gtime), .sread r15 (.v 4) (.v 3), .swrite r15 (.sys .laneid) (.v 0),
    .iadd r15 false .u32 (.v 1) (.p 0) (.v 2), .fadd r15 .f32 .rn (.v 1) (.v 2) (.imm 3), .mov64 r15 (.v 4) (.s 3)] = true
    ∧ Instr.wf (.mov64 r15 (.v 318) (.k 510)) = true ∧ Instr.wf (.mov r15 (.v 319) (.s 15)) = true := by decide +kernel

/-- R70, R72: SET of a fixed-latency word is 15; SET of a word with a counter is 0 to 11 or 15. -/
theorem test_wf_set : badWords [
    .nop r0, .iadd r0 false .u32 (.v 1) (.v 2) (.v 3), .sstop r13 (.s 2), .rpush ⟨0, 0x0C0000⟩ .u32 (.p 1) (.v 2) (.h 0),
    .atom r15 .add ⟨.u32, .device, .none, false, false, 0, .v 4⟩ none (.v 1),
    .atom r0 .add ⟨.u32, .device, .none, true, false, 0, .v 4⟩ none (.v 1)] = true
    ∧ Instr.wf (.sstop ⟨7, 0x0B0000⟩ (.s 2)) = true ∧ Instr.wf (.sstop r15 (.s 2)) = true := by decide +kernel

/-- The types of the integer, floating-point, exchange, reduction, conversion and accumulation words. -/
theorem test_wf_types : badWords [
    .iadd r15 false .u16 (.v 1) (.v 2) (.v 3), .iaddc r15 .s32 0 (.v 1) (.v 2) (.v 3), .iabs r15 false .u32 (.v 1) (.v 2),
    .imul r15 true .u64 (.v 2) (.v 4) (.v 6), .fadd r15 .t8 .rn (.v 1) (.v 2) (.v 3), .fsetp r15 .eq .bf16x2 ⟨0, false, 0⟩ (.p 1) (.v 2) (.v 3),
    .frcp r0 .bf16 .rn (.v 1) (.v 2), .cvt r15 .bf16x2 .f32 .rn (.v 1) (.v 2), .cvt r15 .t8 .f32 .rz (.v 1) (.v 2),
    .cvt r15 .s32 .f32 .rn (.v 1) (.imm 2), .cvtSat r15 .u8 .f32 .rn (.v 1) (.v 2), .cvtHi r15 .u32 .rn (.v 1) (.v 2),
    .shflIdx r15 .s32 none (.v 1) (.v 2) (.v 3), .redux r15 .add .u32 .rz (.v 1) (.v 2), .redux r15 .and .f32 .rn (.v 1) (.v 2),
    .scan r15 false .min .f32 .rz (.v 1) (.v 2), .compress r15 false .s64 (.v 2) (.v 4) (.p 1), .racc r15 .add .f16 (.v 1) ⟨0, .v 2, none, 0, 0⟩,
    .qhist r0 .f64 (.z 1) (.v 2), .isetp r15 .eq .u32 ⟨0, true, 0⟩ (.p 1) (.v 2) (.v 3), .isetp r15 .eq .u32 ⟨0, false, 2⟩ (.p 1) (.v 2) (.v 3)] = true
    ∧ Instr.wf (.redux r15 .add .f32 .rz (.v 1) (.v 2)) = true ∧ Instr.wf (.isetp r15 .eq .u32 ⟨1, true, 2⟩ (.p 1) (.v 2) (.v 3)) = true := by
  decide +kernel

/-- The words of the memory system, the scratchpad, the atomics and the copies. -/
theorem test_wf_memory : badWords [
    .ld r0 .plain .t6 .device (.v 1) ⟨.v 4, none, 0, 0⟩, .ld r0 .plain .u32 .device (.v 1) ⟨.v 5, none, 0, 0⟩,
    .ld r0 .b128 .u64 .device (.v 4) ⟨.v 4, none, 0, 0⟩, .ld r0 .b128 .u32 .device (.v 6) ⟨.v 8, none, 0, 0⟩,
    .ld r0 .priv .u32 .warp (.v 1) ⟨.v 5, none, 0, 0⟩, .ld r0 .plain .u32 .device (.v 1) ⟨.v 4, some (.k 1), 0, 0⟩,
    .ldx r0 false .u16 .device (.v 1) ⟨.v 4, none, 0, 0⟩, .invr r0 .warp (.v 4) (.v 1), .invd r0 .cluster (.v 4) (.v 1),
    .atom r0 .add ⟨.u32, .cluster, .none, false, true, 0, .v 5⟩ (some (.v 1)) (.v 1),
    .atom r0 .add ⟨.u32, .group, .none, false, false, 0, .v 5⟩ (some (.v 1)) (.v 1),
    .atom r0 .add ⟨.u32, .group, .none, false, true, 0, .v 5⟩ none (.v 1),
    .atom r15 .add ⟨.u32, .group, .none, true, true, 0, .v 5⟩ (some (.v 1)) (.v 1),
    .cas r0 true ⟨.u64, .group, .none, false, true, 0, .v 5⟩ (.v 4) (.v 8),
    .lds r0 true .u32 (.v 2) ⟨.v 4, none, 0, 0⟩, .tdesc r15 (.v 1) (.k 0), .tdesc r15 (.k 1) (.k 500),
    .cpyLoad r0 .group false 6 (.v 4) (.k 8) (.k 1), .cpyLoad r0 .warp false 5 (.v 4) (.k 8) (.k 1),
    .cpyg r0 .group 3 0 (.v 4) (.k 8) (.k 1), .cpyg r0 .group 0 3 (.v 4) (.k 8) (.k 1), .cpys r0 .group (.v 4) (.k 9) (.k 1),
    .cpys r0 .group (.v 4) (.k 504) (.k 1), .rld r0 .u32 (.v 1) ⟨0, .v 3, none, 0, 0⟩, .evarm r15 0 (.k 0), .evarm r15 9 (.k 0),
    .evarm r15 8 (.k 484)] = true
    ∧ Instr.wf (.evarm r15 8 (.k 480)) = true ∧ Instr.wf (.ld r0 .b128 .u32 .device (.v 8) ⟨.k 4, some (.v 1), 0, 0⟩) = true := by decide +kernel

/-- R99, R126, and the rows of the table that are no words. -/
theorem test_wf_rest : badWords [.bra r15 0x80, .call r15 (.v 3) 0x80, .limm r15 (.v 1) (.imm 5) (.imm 4),
    .mma r0 .t8 false false 0 1 0 (.z 1) (.v 2) (.v 3), .mma r0 .t8 true false 0 1 0 (.z 1) (.k 9) (.k 3),
    .launch, .memoryReply, .reset, .registerWrite, .shutdown] = true
    ∧ Instr.wf (.bra r15 0x81) = true ∧ Instr.wf (.limm r15 (.v 1) (.imm 5) (.imm 3)) = true := by decide +kernel

/-- R79: the detail of each check, in its order: no form, a MOD code, a reserved bit, an operand kind, SET, an index, the Z type. -/
def detailOf (w : Nat) : Option Nat :=
  match decodeWord maxLimits (BitVec.ofNat 96 w) with
  | .error n => some n
  | .ok _ => none

/-- Each word breaks one rule of a word that decodes; the reason it is refused for is R79's. -/
theorem test_decode_refuses : [
    (0xFF07_C018_0300_0000_000F_0000, 1), (0x0C07_C018_0300_0000_000F_0000, 2), (0x0017_C018_0300_0000_000F_0000, 3),
    (0x0007_C018_0300_0100_000F_0000, 4), (0x0007_C018_0300_0000_010F_0000, 5), (0x0007_C018_0200_0000_000F_0000, 6),
    (0x0007_0018_0300_0000_000F_0000, 6), (0x2007_4020_1003_0000_000F_0000, 6), (0x1007_2800_0F00_0000_000F_0000, 7),
    (0x1017_00A0_1300_0000_000F_0000, 7),
    (0x0007_C018_0300_0000_0000_0000, 8), (0x0007_C018_0300_0000_000D_0000, 8), (0, 6)].all
      (fun e => detailOf e.1 == some e.2) = true := by decide +kernel

/-! ### The worked examples of the spec -/

/-- "A word worked to the byte": `!P2? FADD.F32.RZ V7, V5, K4 :: d2 wait cf0 cf1 pair`, and the atomic of "Encoding worked", with and without .NR. -/
theorem test_decode_worked : decodeWord maxLimits 0x500A00E015024100002F0038 = .ok (.fadd ⟨10, 0x2F0038⟩ .f32 .rz (.v 7) (.v 5) (.k 4)) ∧
    decodeWord maxLimits 0xB10700881801040008010000 = .ok (.atom ⟨7, 0x010000⟩ .add ⟨.u32, .device, .none, false, false, 8, .k 6⟩ (some (.v 4)) (.v 2)) ∧
    decodeWord maxLimits 0xB107C00818010400080F0000 = .error 6 ∧
    decodeWord maxLimits 0xB107C00818010420080F0000 = .ok (.atom ⟨7, 0x0F0000⟩ .add ⟨.u32, .device, .none, true, false, 8, .k 6⟩ none (.v 2)) := by
  decide +kernel

/-- −6.5 in FP32, BF16 and FP16; 1 + 2^−8 and its negative rounded to BF16 in the five modes. -/
theorem test_round_worked :
    roundFp fmtF32 .rn false (.fin true 13 (-1)) = (0xC0D00000, {}) ∧ (roundFp fmtBF16 .rn false (.fin true 13 (-1))).1 = 0xC0D0 ∧
    (roundFp fmtF16 .rn false (.fin true 13 (-1))).1 = 0xC680 ∧
    ([Rm.rn, .rz, .rp, .rm, .ra].map fun r => (roundFp fmtBF16 r false (.fin false 257 (-8))).1) = [0x3F80, 0x3F80, 0x3F81, 0x3F80, 0x3F81] ∧
    ([Rm.rn, .rz, .rp, .rm, .ra].map fun r => (roundFp fmtBF16 r false (.fin true 257 (-8))).1) = [0xBF80, 0xBF80, 0xBF80, 0xBF81, 0xBF81] := by
  decide +kernel

/-- R139: the ends of both formats and ±1; the worked encodings into T8 and T6. -/
theorem test_tapered_worked :
    tapMag 8 0x7F = (1, 12) ∧ tapMag 8 1 = (1, -12) ∧ tapMag 6 0x1F = (1, 8) ∧ tapMag 6 1 = (1, -8) ∧
    tapOf 8 0x40 = .fin false 16 (-4) ∧ tapOf 8 0xC0 = .fin true 16 (-4) ∧ tapOf 6 0x30 = .fin true 4 (-2) ∧ tapOf 8 0x80 = .nan false ∧
    ([Fp.fin false 33 (-5), .fin false 35 (-5), .fin true 10066330 (-25), .fin false 3000 0, .fin false 5000 0, .fin false 11 (-20)].map (tapEncode 8))
      = [0x40, 0x42, 0xDD, 0x7F, 0x7F, 0x01] ∧
    ([Fp.fin false 1 0, .fin false 3 (-1), .fin false 2 0, .fin false 4 0, .fin true 1 0].map (tapEncode 6)) = [0x10, 0x12, 0x14, 0x18, 0x30] := by
  decide +kernel

/-- R144's T8 element: from 2^24, 32 products 0.0625 × 1.0 and then 32 products 0.0625 × 0.5. -/
theorem test_blocks_worked : mmaElem .t8 0x4B800000 (fun _ => 0x10) (fun k => if k < 32 then 0x40 else 0x30) (fun _ => 0x7F) (fun _ => 0x7F) = 0x4B800002 := by
  decide +kernel

/-- R146, R147: the block of 30 values in bin 126 and 2 in bin 132. -/
theorem test_percentile_worked :
    let h := fun b : Nat => if b = 126 then 30 else if b = 132 then 2 else 0
    scaleAt h 240 12 = 115 ∧ scaleAt h 256 12 = 121 ∧ scaleAt (fun _ => 0) 240 12 = 127 ∧
    packCode false 115 0x3F400000 = 0x7F ∧ packCode false 115 0x42200000 = 0x7F ∧ packCode false 121 0x3F400000 = 0x76 ∧
    packCode false 121 0x42200000 = 0x7E ∧ histBin 0x3F400000 = 126 ∧ histBin 0xC2200000 = 132 := by decide +kernel

/-- R346: the A element (5, 40) at byte 64 × 5 + 40 of its block and its scale at 8,192 + 2 × 5 + 1. -/
theorem test_layout_worked : aPlace .t8 5 40 = 0x168 ∧ aPlace .t8 5 65 = 0x200B := by decide +kernel

/-! ### The hypotheses of the statements can be met

For each statement that has hypotheses, states and operands that meet them, at the ends of their ranges where a clause has a range. -/

/-- One warp of 32 threads stands at a NOP; it issues for all of them. -/
def wNop : Nat := 0x0007C01803000000000F0000
def wSt : State := { State.reset.withFetchWord 96 wNop with cur := some (1, allLanes) }
def wC : Ctl := ⟨7, 0⟩
/-- The same state with another warp record. -/
def wWith (f : Warp → Warp) : State := setWarp wSt 1 (f (getWarp wSt 1))
/-- The state with a message to deliver. -/
def wMsg (s : State) (m : Msg) : State := { s with cur := none, msg := some m }
/-- The state with one operation, number 7, of that warp. -/
def wOp (s : State) (o : Op) : State := { s with ops := [(7, o)], next := 8 }

theorem wIssues : Issues wSt wC 1 allLanes allLanes := by constructor <;> decide +kernel

theorem wFresh (s : State) (i : Nat) (h : s.tlb = []) : NoStale s i := by intro unit va; unfold Machine.translate cachedWalks; rw [h]; rfl

theorem wNotPrivate (s : State) (iface va n : Nat) (h : ((List.range (n + 1)).all fun j => (privateOf s iface (4 * (va / 4 + j))).isNone) = true) :
    NotPrivate s iface va n := by
  intro k h1 h2
  have := List.all_eq_true.mp h (k - va / 4) (by simp; omega)
  rw [show va / 4 + (k - va / 4) = k by omega] at this
  exact Option.isNone_iff_eq_none.mp this

theorem wNoBreach (s : State) (pa n : Nat) (ring atom : Bool) (h : s.graphs = [] ∧ (ring = true → s.regions = []) ∧ s.colls = [] := by decide +kernel) : NoBreach s pa n ring atom := by
  intro a _ _
  refine ⟨?_, fun r e he => ?_, fun e he => ?_⟩
  · unfold graphByte; rw [h.1]; rfl
  · rw [h.2.1 r] at he; cases he
  · rw [h.2.2] at he; cases he

theorem witness_TransfersReachTheirTargets : Issues wSt wC 1 allLanes allLanes ∧
    Issues (wWith fun x => { x with preds := [(0, 1)] }) ⟨0, 0⟩ 1 allLanes 1 ∧
    Issues { wSt with cur := some (1, 0x80000000) } wC 1 0x80000000 0x80000000 :=
  ⟨wIssues, by constructor <;> decide +kernel, by constructor <;> decide +kernel⟩

/-- All threads end; one ends and 31 stay; a stopped thread whose mask names threads that have not arrived. -/
theorem witness_ThreadsEndStopAndYield : Issues wSt wC 1 allLanes allLanes ∧
    (let s := wWith fun x => { x with preds := [(0, 1)] }
     Issues s ⟨0, 0⟩ 1 allLanes 1 ∧ condAt s 1 1 ≠ .ended) ∧
    readsOnce wSt 1 allLanes (.imm 0) 1 % 256 = 0 ∧ readsOnce wSt 1 allLanes (.imm 255) 1 % 256 = 255 := by
  refine ⟨wIssues, ⟨by constructor <;> decide +kernel, by decide +kernel⟩, by decide +kernel, by decide +kernel⟩

theorem witness_RegisterWordsWriteOnlyTheirDestination :
    (0 < 4) ∧ (∃ n : BitVec 9, Opd.v 0 = .v n) ∧ (∃ n : Fin 8, Opd.p 7 = .p n) ∧ (∃ n : Fin 16, Opd.s 15 = .s n) ∧
    ([Opd.v 5, .imm 3].all fun o => match o with | .s _ => false | _ => true) = true :=
  ⟨by decide, ⟨0, rfl⟩, ⟨7, rfl⟩, ⟨15, rfl⟩, by decide⟩

theorem witness_SpecialRegistersAreReadAndWritten : Issues wSt wC 1 allLanes allLanes ∧ StreamsFit wSt 1 allLanes allLanes [] (some (.v 5)) ∧
    (getLaunch wSt (getWarp wSt 1).launch).record.levelN = 3 ∧ (2 : BitVec 3).toNat < 3 ∧ 3 ≤ (3 : BitVec 3).toNat ∧
    (BitVec.ofNat 32 (readsOnce wSt 1 allLanes (.imm 8) 1)).toNat = 8 ∧ (BitVec.ofNat 32 (readsOnce wSt 1 allLanes (.imm 9) 1)).toNat = 9 :=
  ⟨wIssues, by constructor <;> decide +kernel, by decide +kernel, by decide, by decide, by decide +kernel, by decide +kernel⟩

/-- A bound load stream with one group in its queue. -/
def wStream : Stream := { walk := [0x1000, 0, 2, 0, 64, 4, 1, 0, 1, 0, 1, 0], queue := true, groups := [List.replicate 32 { val := 9 }] }
def wStreams : State := wWith fun x => { x with streams := [(3, wStream)] }

theorem witness_RegisterWordsMoveAndSelect : Issues wStreams wC 1 allLanes allLanes ∧
    StreamsFit wStreams 1 allLanes allLanes [.s 3] (some (.v 5)) ∧ StreamsFit wStreams 1 allLanes allLanes [.v 4, .imm 1] (some (.p 7)) ∧
    StreamsFit wStreams 1 allLanes allLanes [.s 3] none ∧
    getStream (getWarp wStreams 1) 3 = some wStream ∧ getStream (getWarp wStreams 1) 2 = none ∧
    (∀ u, u < 32 → reads wStreams 1 (.imm 3) 1 u ≤ 3 ∧ reads wStreams 1 (.v 5) 1 u < 2 ^ 32) ∧
    (let u := afterReads wStreams 1 allLanes allLanes [.s 3] 4
     (getGroup u (getWarp u 1).group).kPend = [] ∧ lateHaz u (getWarp u 1) (.k 511) 4 0 = false) ∧
    lateHaz wStreams (getWarp wStreams 1) (.p 6) 4 31 = false := by
  refine ⟨?_, ?_, ?_, ?_, ?_, ?_, ?_, ⟨?_, ?_⟩, ?_⟩
  · constructor <;> decide +kernel
  · constructor <;> decide +kernel
  · constructor <;> decide +kernel
  · constructor <;> decide +kernel
  all_goals decide +kernel

/-- K registers 16 to 27 hold a walk of 64 words at 0x1000. -/
def wWalk : State := { wStreams with groups := [(1, { getGroup wStreams 1 with k := [(16, 0x1000), (18, 2), (20, 64), (21, 4), (22, 1), (24, 1), (26, 1)] })] }
/-- The stream without its group. -/
def wFetch : State := wMsg (wWith fun x => { x with streams := [(3, { wStream with groups := [] }), (4, { wStream with store := true })] }) (.streamFetchDone 1 3)

theorem witness_StreamsAreBoundAndFetched :
    (let size := (BitVec.ofNat 32 (kWord wWalk 1 (getWarp wWalk 1) 18).toNat)
     Issues wWalk wC 1 allLanes allLanes ∧ getStream (getWarp (advance wWalk 1 allLanes) 1) 2 = none ∧
     (∀ j, 3 ≤ j → j < 32 → size.getLsbD j = false) ∧ size.extractLsb' 0 2 ≠ 3 ∧ kWord wWalk 1 (getWarp wWalk 1) 19 = 0 ∧
     getStream (getWarp (advance wWalk 1 allLanes) 1) 3 = some wStream ∧ wStream.store = false) ∧
    (let s := wWith fun x => { x with streams := [(3, { wStream with store := true })] }
     Issues s wC 1 allLanes allLanes ∧ getStream (getWarp (advance s 1 allLanes) 1) 3 = some { wStream with store := true } ∧
     let v := assignQueues (setWarp (advance s 1 allLanes) 1 { getWarp (advance s 1 allLanes) 1 with streams := [] }) 0 0 64
     pushesOf v 1 0 = false ∧ (getWarp v 1).pushFails = [] ∧ pushesOf (newOp v { warp := 1, kind := .push 0 4, lanes := 1 }) 1 0 = true) ∧
    wFetch.msg = some (.streamFetchDone 1 3) ∧ getStream (getWarp wFetch 1) 3 = some { wStream with groups := [] } ∧
    fetchMay { wStream with groups := [] } = true ∧ fetchMay { wStream with store := true } = false ∧ NoStale wFetch 0 ∧
    ∀ u, u < 32 → (0x1000 + 4 * u) % 4 = 0 ∧ (0x5017 : DWord).extractLsb' 5 2 ≠ 1 ∧
      Allows wFetch 1 { r := true } (0x1000 + 4 * u) (0x5000 + 4 * u) 0x5017 ∧ NotPrivate wFetch (getWarp wFetch 1).iface (0x1000 + 4 * u) 4 := by
  refine ⟨⟨?_, ?_, ?_, ?_, ?_, ?_, ?_⟩, ⟨?_, ?_, ?_, ?_, ?_⟩, ?_, ?_, ?_, ?_, wFresh _ _ (by decide +kernel), fun u h => ⟨?_, ?_, ⟨⟨0x1000 / 4096, 1, ?_⟩, ?_, ?_⟩, wNotPrivate _ _ _ _ ?_⟩⟩
  · constructor <;> decide +kernel
  all_goals first | decide +kernel | (revert u h; decide +kernel) | (constructor <;> decide +kernel)
/-! ### "A tile worked through": LPART = 8, lanes 0 to 4, 6 and 7 in the set -/

def tileV3 : List Word := [7, 0xFFFFFFFE, 4, 0, 9, 6, 0xFFFFFFFF, 3]
def tileSt : State :=
  { wWith (fun x => { x with lpart := 8, preds := [(1, 0x95)], v := (((List.range 8).zip tileV3).map fun e => (96 + e.1, e.2)).filter fun e => e.2 != 0 })
    with cur := some (1, 0xDF) }
/-- Register `d` of lanes 0 to 7 after the word. -/
def tileAfter (i : Instr) (d : Nat) : List Word :=
  match exec i tileSt with
  | .next t => (List.range 8).map fun l => vReg t 1 d l
  | _ => []

theorem test_tile_lanepfx : tileAfter (.lanepfx r15 false (.v 6) (.p 1)) 6 = [0, 1, 1, 2, 2, 0, 3, 3] := by decide +kernel
theorem test_tile_scan : tileAfter (.scan r15 true .add .s32 .rn (.v 10) (.v 3)) 10 = [0, 7, 5, 9, 9, 0, 18, 17] := by decide +kernel
theorem test_tile_redux : tileAfter (.redux r15 .add .s32 .rn (.v 11) (.v 3)) 11 = [20, 20, 20, 20, 20, 0, 20, 20] := by decide +kernel
theorem test_tile_compress : tileAfter (.compress r15 false .u32 (.v 7) (.v 3) (.p 1)) 7 = [7, 4, 9, 3, 0, 0, 0, 0] := by decide +kernel
/-- IADD wraps and IADD.SAT clamps; the source is also the destination. -/
theorem test_iadd_wraps :
    (tileAfter (.iadd r15 false .s32 (.v 3) (.v 3) (.imm 0x1FE)) 3).take 2 = [5, 0xFFFFFFFC] ∧
    (tileAfter (.iadd r15 true .u32 (.v 3) (.v 3) (.v 3)) 3).take 2 = [14, 0xFFFFFFFF] := by decide +kernel



theorem witness_IntegerFormsAreExact : Issues wSt wC 1 allLanes allLanes ∧ Ty.u32.isInt = true ∧ Ty.s64.isInt = true ∧ Ty.u32.regs = 1 ∧
    StreamsFit wSt 1 allLanes allLanes [.v 4, .k 6] (some (.v 8)) ∧ StreamsFit wSt 1 allLanes allLanes [.v 4] (some (.v 8)) ∧
    StreamsFit wSt 1 allLanes allLanes (bfSrcs (.v 4) (.lit 0 32)) (some (.v 8)) ∧ StreamsFit wSt 1 allLanes allLanes (bfSrcs (.v 4) (.reg (.v 5))) (some (.v 8)) ∧
    (∀ u, u < 32 → reads wSt 1 (.v 8) 2 u < 2 ^ 64) := by
  refine ⟨wIssues, rfl, rfl, rfl, ?_, ?_, ?_, ?_, by decide +kernel⟩ <;> constructor <;> decide +kernel

theorem witness_IsetpComparesAndAgenAddresses : Issues wSt wC 1 allLanes allLanes ∧ Ty.s32.isInt = true ∧
    StreamsFit wSt 1 allLanes allLanes [.v 4, .imm 1] (some (.p 0)) ∧
    (let m : Mem := ⟨.v 4, some (.v 6), 7, 0x1000⟩
     StreamsFit wSt 1 allLanes allLanes (m.base :: m.index.toList) (some (.v 8))) ∧
    (let m : Mem := ⟨.v 4, none, 0, 0⟩
     StreamsFit wSt 1 allLanes allLanes (m.base :: m.index.toList) (some (.v 8))) := by
  refine ⟨wIssues, rfl, ?_, ?_, ?_⟩ <;> constructor <;> decide +kernel

theorem wNoArith : NoArith wSt 1 := by unfold NoArith; decide +kernel

theorem witness_FloatArithmeticRoundsOnce : Issues wSt wC 1 allLanes allLanes ∧ StreamsFit wSt 1 allLanes allLanes [.v 4, .imm 1] (some (.v 8)) ∧
    NoArith wSt 1 ∧ Ty.f64.isFloatOrPair = true ∧ Ty.bf16x2.isFloatOrPair = true :=
  ⟨wIssues, by constructor <;> decide +kernel, wNoArith, rfl, rfl⟩

theorem witness_FloatComparisonsAndRounding : Issues wSt wC 1 allLanes allLanes ∧ StreamsFit wSt 1 allLanes allLanes [.v 4, .imm 1] (some (.p 6)) ∧
    StreamsFit wSt 1 allLanes allLanes [.v 4] (some (.p 6)) ∧ NoArith wSt 1 ∧ Ty.f32.isFloat = true ∧ Ty.bf16x2.isFloatOrPair = true :=
  ⟨wIssues, by constructor <;> decide +kernel, by constructor <;> decide +kernel, wNoArith, rfl, rfl⟩

theorem witness_ConversionsFollowTheirTable : Issues wSt wC 1 allLanes allLanes ∧ NoArith wSt 1 ∧ Ty.t6 ≠ Ty.bf16x2 ∧ Ty.t6 ≠ Ty.f32x2 ∧
    StreamsFit wSt 1 allLanes allLanes [.v 4] (some (.v 8)) ∧ StreamsFit wSt 1 allLanes allLanes [.v 4, .v 5] (some (.v 8)) ∧
    Ty.f64.isFloat = true ∧ Ty.s8.isAnyInt = true :=
  ⟨wIssues, wNoArith, by decide, by decide, by constructor <;> decide +kernel, by constructor <;> decide +kernel, rfl, rfl⟩

/-- STATUS.ARITHEN set. -/
def wArith : State := wWith fun x => { x with status := 2 }
theorem witness_ArithmeticTrapsAndFlags : Issues wArith wC 1 allLanes allLanes ∧ StreamsFit wArith 1 allLanes allLanes [.v 4, .v 5] (some (.v 8)) ∧
    (getWarp wArith 1).status.getLsbD 1 = true :=
  ⟨by constructor <;> decide +kernel, by constructor <;> decide +kernel, by decide +kernel⟩

/-- A square root of F32 that waits for its result. -/
def wRootI : Instr := .fsqrt wC .f32 .rn (.v 8) (.v 4)
def wRoot : Op := { warp := 1, kind := .word wRootI, lanes := 3, args := [1], parts := [{ lane := 0, va := 0, n := 4, val := 0x40800000 }, { lane := 1, va := 0, n := 4, val := 0xFFFFFFFF }] }
theorem witness_SpecialFunctionsComplete : Issues wSt wC 1 allLanes allLanes ∧ StreamsFit wSt 1 allLanes allLanes [.v 4] (some (.v 8)) ∧
    StreamsFit wSt 1 allLanes allLanes [.v 4, .v 5] (some (.v 8)) ∧
    (let s := wMsg (wOp wSt wRoot) (.specialFunctionDone 7)
     s.msg = some (.specialFunctionDone 7) ∧ mapGet s.ops 7 = some wRoot ∧ wRoot.kind = .word wRootI ∧ specialDst wRootI = some (.v 8, 1) ∧ wRoot.poison = 0 ∧
     (wRoot.args.getD 0 0).testBit 1 = false ∧ (partOf wRoot 1).val.toNat < 2 ^ fmtWidth (fmtOf .f32) ∧ (partOf wRoot 31).cmp.toNat < 2 ^ fmtWidth (fmtOf .f32)) :=
  ⟨wIssues, by constructor <;> decide +kernel, by constructor <;> decide +kernel, by decide +kernel⟩

theorem witness_LaneExchangeAndVotes : Issues wSt wC 1 allLanes allLanes ∧ readsOnce wSt 1 allLanes (.imm 2) 1 ∈ [2, 4, 8, 16, 32] ∧
    readsOnce wSt 1 allLanes (.imm 33) 1 ∉ [2, 4, 8, 16, 32] ∧ lpartEarly wSt (getWarp wSt 1) = false ∧ lpartOf wSt (getWarp wSt 1) ∈ [2, 4, 8, 16, 32] ∧
    (let s := wWith fun x => { x with lpart := 2, preds := [(0, 0x80000001)] }
     Issues s ⟨0, 0⟩ 1 allLanes 0x80000001 ∧ lpartEarly s (getWarp s 1) = false ∧ lpartOf s (getWarp s 1) = 2) :=
  ⟨wIssues, by decide +kernel, by decide +kernel, by decide +kernel, by decide +kernel, by constructor <;> decide +kernel, by decide +kernel, by decide +kernel⟩

theorem witness_ReductionsAreExact : Issues wSt wC 1 allLanes allLanes ∧ NoArith wSt 1 ∧ lpartEarly wSt (getWarp wSt 1) = false ∧
    lpartOf wSt (getWarp wSt 1) ∈ [2, 4, 8, 16, 32] ∧ Ty.s32.isInt = true ∧ RedOp.add ∈ [RedOp.add, .min, .max] :=
  ⟨wIssues, wNoArith, by decide +kernel, by decide +kernel, rfl, by decide⟩

/-- K16 points to the page at 0x1000, which is readable and writable here. -/
def wPage (e : Nat) : State := { wSt with
  groups := [(1, { getGroup wSt 1 with k := [(16, 0x1000), (18, 0xFFFF), (20, 0x2000), (22, 0x1001), (25, 0x10000), (26, 0x1FFC)] })]
  launches := [(1, { getLaunch wSt 1 with ps := 128, pb := 0x1000 })]
  mem := mapPut 0 (mapPut 0 wSt.mem 0x4008 (BitVec.ofNat 8 e)) 0x4010 5 }
def wMem : Mem := ⟨.k 16, none, 0, 0⟩
def wAtom : AtomCtl := ⟨.u32, .device, .none, false, false, 4, .k 16⟩

theorem wAllows (s : State) (need : Need) (a pa : Nat) (e : DWord) (h : walkFrom s a 3 (getIface s (getWarp s 1).iface).ptroot.toNat = .ok pa e 1 1)
    (n : needOk need e = true) (p : spanParked s (getWarp s 1).core (getWarp s 1).iface (a / 4096) = false)
    (q : s.parks = [] ∧ s.stalls = [] ∧ (getWarp s 1).resident = true := by decide +kernel) : Allows s 1 need a pa e :=
  ⟨⟨1, 1, h⟩, n, p, by rw [q.1]; simp, by unfold coreStalled; rw [q.2.1]; rfl, q.2.2⟩

theorem witness_MemoryWordsMakeTheirRequests : Issues (wPage 0x1F) wC 1 allLanes allLanes ∧ NoStale (wPage 0x1F) 0 ∧ Grants (wPage 0x1F) 1 .device ∧
    (∀ u, u < 32 → effAddr (wPage 0x1F) 1 (getWarp (wPage 0x1F) 1) wMem 64 u = 0x1000) ∧
    (∀ u, u < 32 → effAddr (wPage 0x1F) 1 (getWarp (wPage 0x1F) 1) ⟨.v 4, none, 0, 124⟩ 32 u + 4 = (getLaunch (wPage 0x1F) 1).ps) ∧
    (∀ r ∈ privPieces (wPage 0x1F) 1 0 4 31, r.2.1 + r.2.2 ≤ 2 ^ 48 ∧ Allows (wPage 0x1F) 1 { r := true, w := true } r.2.1 (r.2.1 + 0x4000) 0x501F) ∧
    Allows (wPage 0x1F) 1 { r := true, w := true } 0x1000 0x5000 0x501F ∧ Allows (wPage 0x1F) 1 { r := true } 0x1FFF 0x5FFF 0x501F ∧
    (∀ u, u < 32 → (((reads (wPage 0x1F) 1 wAtom.base 2 u : Int) + wAtom.off.toInt) % 2 ^ 64).toNat = 0x1004) ∧ Allows (wPage 0x1F) 1 { r := true, w := true } 0x1004 0x5004 0x501F := by
  refine ⟨by constructor <;> decide +kernel, wFresh _ _ (by decide +kernel), .inl (by decide), by decide +kernel, by decide +kernel, ?_, ?_, ?_, by decide +kernel, ?_⟩
  · intro r h
    simp only [privPieces, List.mem_map] at h
    obtain ⟨j, hj, rfl⟩ := h
    obtain rfl : j = 0 := by simpa using hj
    exact ⟨by decide +kernel, wAllows _ _ _ _ _ (by decide +kernel) (by decide +kernel) (by decide +kernel)⟩
  all_goals exact wAllows _ _ _ _ _ (by decide +kernel) (by decide +kernel) (by decide +kernel)

/-- A misaligned address, one above 2^48, one that is not mapped, one without the permission. -/
theorem witness_RefusedAccessesTrapBeforeAnyEffect : Issues (wPage 0x17) wC 1 allLanes allLanes ∧ NoStale (wPage 0x17) 0 ∧ Grants (wPage 0x17) 1 .device ∧
    (let A (k : BitVec 9) (u : Nat) := effAddr (wPage 0x17) 1 (getWarp (wPage 0x17) 1) ⟨.k k, none, 0, 0⟩ 64 u
     let walk (a : Nat) := walkFrom (wPage 0x17) a 3 (getIface (wPage 0x17) 0).ptroot.toNat
     ∀ u, u < 32 → A 22 u % 4 ≠ 0 ∧ (A 24 u % 4 = 0 ∧ 2 ^ 48 < A 24 u + 4) ∧
       (A 20 u % 4 = 0 ∧ A 20 u + 4 ≤ 2 ^ 48 ∧ spanParked (wPage 0x17) 0 0 (A 20 u / 4096) = false ∧ walk (A 20 u) = .invalid) ∧
       (A 16 u % 4 = 0 ∧ A 16 u + 4 ≤ 2 ^ 48 ∧ spanParked (wPage 0x17) 0 0 (A 16 u / 4096) = false ∧ walk (A 16 u) = .ok 0x5000 0x5017 1 1 ∧
         needOk { w := true } 0x5017 = false)) :=
  ⟨by constructor <;> decide +kernel, wFresh _ _ (by decide +kernel), .inl (by decide), by decide +kernel⟩

theorem witness_SystemScopeIsDemotedOrTraps : Issues wSt wC 1 allLanes allLanes ∧ (getIface wSt 0).policy.getLsbD 0 = false ∧
    (getIface wSt 0).policy.getLsbD 1 = false ∧
    (let s := { wSt with ifaces := [(0, { getIface wSt 0 with policy := 2 })] }
     Issues s wC 1 allLanes allLanes ∧ (getIface s 0).policy.getLsbD 0 = false ∧ (getIface s 0).policy.getLsbD 1 = true) :=
  ⟨wIssues, by decide +kernel, by decide +kernel, by constructor <;> decide +kernel, by decide +kernel, by decide +kernel⟩


def wRel : Op := { warp := 1, kind := .word (.fenceRel wC .device), lanes := 1, scope := .device }
def wAcq : Op := { warp := 1, kind := .word (.fenceAcq wC .device), lanes := 1, scope := .device, phase := .acquiring }
/-- A range of no bytes, and one of a word; a page that all may read and write, with UO set. -/
theorem witness_FencesPushAndSelfInvalidate :
    (let s := { wPage 0x1F with mem := mapPut 0 (wPage 0x1F).mem 0x4009 0x51 }
     Issues s wC 1 allLanes allLanes ∧ Grants s 1 .device ∧ NoStale s 0 ∧ readsOnce s 1 allLanes (.imm 0) 1 = 0 ∧ readsOnce s 1 allLanes (.imm 1) 1 = 1 ∧
     readsOnce s 1 allLanes (.k 16) 2 = 0x1000 ∧
     (∀ va, 0x1000 / 4 * 4 ≤ va → va < (0x1000 + 1 + 3) / 4 * 4 → va < 2 ^ 48 ∧ ∃ pa e, Allows s 1 { r := true, w := true } va pa e ∧ e.getLsbD 8 = true) ∧
     checkPage s (getWarp s 1).core 0 0x1000 { r := true } = .ok 0x5000 0x511F (.ok 0x5000 0x511F 1 1) ∧ spanParked s (getWarp s 1).core 0 1 = false ∧ (0x511F : DWord).extractLsb' 5 2 ≠ 1) ∧
    (let s := wMsg (wOp wSt wRel) (.memoryReply 7)
     s.msg = some (.memoryReply 7) ∧ mapGet s.ops 7 = some wRel ∧ wRel.phase = .ready ∧ wRel.released = false ∧ wRel.parts = [] ∧ releaseMay s 7 wRel = true ∧ opLevel s wRel = 2 ∧ mapWf s.l1 = true ∧ mapWf s.cc = true ∧
     (s.pushOut.filter fun e => e.2.cluster == clusterOf wRel.core) = [] ∧ l1Dirty s wRel.core false ++ ccDirty s (clusterOf wRel.core) false = []) ∧
    (let s := wMsg (wOp wSt { wRel with phase := .releasing }) (.releaseComplete 7)
     mapGet s.ops 7 = some { wRel with phase := .releasing } ∧ publishedMay s { wRel with phase := .releasing } = true) ∧
    (let s := wMsg (wOp wSt wAcq) (.acquireComplete 7)
     mapGet s.ops 7 = some wAcq ∧ wAcq.phase = .acquiring ∧ opLevel s wAcq = 2 ∧ acquireMay s 7 wAcq = true ∧ acquireTime s wAcq = true ∧ mapWf s.l1 = true) := by
  refine ⟨⟨by constructor <;> decide +kernel, .inl (by decide), wFresh _ _ (by decide +kernel), by decide +kernel, by decide +kernel, by decide +kernel, ?_,
    by decide +kernel, by decide⟩, by decide +kernel, by decide +kernel, by decide +kernel⟩
  intro va h1 h2
  obtain rfl | rfl | rfl | rfl : va = 0x1000 ∨ va = 0x1001 ∨ va = 0x1002 ∨ va = 0x1003 := by omega
  · exact ⟨by decide, 0x5000, 0x511F, wAllows _ _ _ _ _ (by decide +kernel) (by decide +kernel) (by decide +kernel), by decide⟩
  · exact ⟨by decide, 0x5001, 0x511F, wAllows _ _ _ _ _ (by decide +kernel) (by decide +kernel) (by decide +kernel), by decide⟩
  · exact ⟨by decide, 0x5002, 0x511F, wAllows _ _ _ _ _ (by decide +kernel) (by decide +kernel) (by decide +kernel), by decide⟩
  · exact ⟨by decide, 0x5003, 0x511F, wAllows _ _ _ _ _ (by decide +kernel) (by decide +kernel) (by decide +kernel), by decide⟩

def wCstoreI : Instr := .cstore wC .u32 .device false 7 0 (.v 8) (.k 16) (.v 4)
def wCstore : Op := { warp := 1, kind := .word wCstoreI, lanes := 3, scope := .device, args := [32, 0], parts := [{ lane := 1, va := 0x1000, pa := 0x5000, n := 4, st := .done }] }
theorem witness_CstorePacksItsTiles :
    (Issues (wPage 0x1F) wC 1 allLanes allLanes ∧ NoStale (wPage 0x1F) 0 ∧ Grants (wPage 0x1F) 1 .device ∧ lpartEarly (wPage 0x1F) (getWarp (wPage 0x1F) 1) = false ∧
     (((readsOnce (wPage 0x1F) 1 allLanes (.k 16) 2 : Int) + (1 : BitVec 12).toInt) % 2 ^ 64).toNat % 4 ≠ 0 ∧
     (((readsOnce (wPage 0x1F) 1 allLanes (.k 16) 2 : Int) + (0 : BitVec 12).toInt) % 2 ^ 64).toNat = 0x1000 ∧
     ∀ u, u < 32 → Allows (wPage 0x1F) 1 { w := true } (0x1000 + 4 * u) (0x5000 + 4 * u) 0x501F) ∧
    (let s := wMsg (wOp wSt wCstore) (.cstoreComplete 7)
     s.msg = some (.cstoreComplete 7) ∧ mapGet s.ops 7 = some wCstore ∧ wCstore.kind = .word wCstoreI ∧ wCstore.clobber = [] ∧
     (∀ p ∈ wCstore.parts, p.st = .done) ∧ wCstore.args.getD 1 0 = 0 ∧ publishedMay s wCstore = true) :=
  ⟨⟨by constructor <;> decide +kernel, wFresh _ _ (by decide +kernel), .inl (by decide), by decide +kernel, by decide +kernel, by decide +kernel,
    fun u h => wAllows _ _ _ _ _ (by revert u h; decide +kernel) (by decide +kernel) (by revert u h; decide +kernel)⟩, by decide +kernel⟩

/-- Two lanes of an access at 0x5000. -/
def wPart (l : Nat) : Part := { lane := l, va := 0x1000 + 4 * l, pa := 0x5000 + 4 * l, n := 4, val := 5 }
def wAcc (i : Instr) (sc : Scope) : Op := { warp := 1, kind := .word i, lanes := 0x80000001, scope := sc, parts := [wPart 0, wPart 31] }
def wLd : Instr := .ld wC .plain .u32 .device (.v 8) wMem
def wSt1 : Instr := .st wC .plain .u32 .device (.v 8) wMem

theorem wApart (i : Instr) (sc : Scope) : PartsApart (wAcc i sc).parts := by
  constructor
  · simp [wAcc, wPart]
  · intro p h
    simp only [wAcc, List.mem_cons, List.mem_nil_iff, or_false] at h
    obtain rfl | rfl := h <;> decide

theorem wAligned (i : Instr) (sc : Scope) : PartsAligned (wAcc i sc).parts := by
  show PartsAligned [wPart 0, wPart 31]
  unfold PartsAligned; decide +kernel

theorem wOpenTo (s : State) (h : s.warps = wSt.warps) (k : s.launches = wSt.launches) : ∀ p ∈ (wAcc wLd .device).parts, NotPrivate s (getWarp s 1).iface p.va p.n := by
  intro p hp
  have e : ∀ va, privateOf s (getWarp s 1).iface va = privateOf wSt (getWarp wSt 1).iface va := by
    intro va; cases s; dsimp only at h k; subst h k; rfl
  refine wNotPrivate _ _ _ _ ?_
  rw [show (fun j => (privateOf s (getWarp s 1).iface (4 * (p.va / 4 + j))).isNone) = fun j => (privateOf wSt (getWarp wSt 1).iface (4 * (p.va / 4 + j))).isNone from funext fun _ => by rw [e]]
  revert p; decide +kernel

theorem witness_LoadsReturnWhatTheirLevelShows :
    (let o := wAcc wLd .device
     let s := wMsg (wOp wSt o) (.memoryReply 7)
     mapGet s.ops 7 = some o ∧ o.kind = .word wLd ∧ s.msg = some (.memoryReply 7) ∧ o.phase = .ready ∧ forwardedTo s o (opLevel s o) (readyLanes s 7 o) = [] ∧
     o.poison = 0 ∧ o.clobber = [] ∧ o.parts ≠ [] ∧ o.acks = 0 ∧ (relAcq o).2.1 = false ∧
     ∀ p ∈ o.parts, p.st = .ok ∧ p.ord ≠ 1 ∧ (readyLanes s 7 o).getLsbD p.lane = true) ∧
    (let o := wAcc wLd .device
     let s := { wMsg (wOp wSt o) (.memoryReply 7) with owner := [(0x1400, 5)], cc := [(cacheKey 5 0x1400, { data := 9, st := .core 20 })] }
     forwardedTo s o (opLevel s o) (readyLanes s 7 o) = [(0x1400, 5)] ∧ o.acks = 0 ∧
     ∀ p ∈ o.parts, p.st = .ok ∧ p.ord ≠ 1 ∧ (readyLanes s 7 o).getLsbD p.lane = true) ∧
    (∀ n, n < 2 → let o := { wAcc (.ld wC .qual .u32 .device (.v 8) wMem) .device with phase := .redirected, acks := n + 1 }
     let s := wMsg (wOp wSt o) (.redirectionArrive 0 0x1400 7)
     mapGet s.ops 7 = some o ∧ s.msg = some (.redirectionArrive 0 0x1400 7) ∧ o.phase = .redirected ∧ 0 < o.acks ∧ (relAcq o).2.1 = true) ∧
    PartsApart (wAcc wLd .device).parts ∧ PartsAligned (wAcc wLd .device).parts ∧ ∀ s, s.warps = wSt.warps → s.launches = wSt.launches →
      ∀ p ∈ (wAcc wLd .device).parts, NotPrivate s (getWarp s 1).iface p.va p.n :=
  ⟨by decide +kernel, by decide +kernel, by decide +kernel, wApart _ _, wAligned _ _, wOpenTo⟩

theorem witness_StoresReachTheirLevel :
    (∀ sc ∈ [Scope.thread, .device], let o := wAcc wSt1 sc
     let s := wMsg (wOp wSt o) (.memoryReply 7)
     s.msg = some (.memoryReply 7) ∧ mapGet s.ops 7 = some o ∧ o.kind = .word wSt1 ∧ o.phase = .ready ∧ o.poison = 0 ∧ (relAcq o).1 = false ∧ o.acks = 0 ∧ o.stamp = none ∧
     (∀ p ∈ o.parts, p.st = .ok ∧ p.ord ≠ 1 ∧ p.imm = false ∧ (readyLanes s 7 o).getLsbD p.lane = true ∧ p.pa + p.n ≤ 2 ^ 52 ∧ p.priv = false ∧ p.pa + p.n ≤ Config.hbmTop) ∧
     o.parts ≠ [] ∧ opLevel s o = if sc = .thread then 0 else 2) ∧ PartsApart (wAcc wSt1 .device).parts ∧
    (∀ o m, ∀ p ∈ (wAcc wLd .device).parts, let s := wMsg (wOp wSt o) m
      NoBreach s p.pa p.n true false ∧ NotPrivate s (getWarp s 1).iface p.va p.n) :=
  ⟨by decide +kernel, wApart _ _, fun o m p hp => ⟨wNoBreach _ _ _ _ _ ⟨rfl, fun _ => rfl, rfl⟩, wOpenTo _ rfl rfl p hp⟩⟩

theorem witness_AtomicsApplyLaneByLane :
    (∀ sc ∈ [Scope.thread, .cluster, .device], let i := Instr.atom wC .add { wAtom with scope := sc } (some (.v 8)) (.v 4)
     let o := wAcc i sc
     let s := wMsg (wOp wSt o) (if sc = .thread then .memoryReply 7 else .atomicApply 7)
     s.msg = some (if sc = .thread then .memoryReply 7 else .atomicApply 7) ∧ mapGet s.ops 7 = some o ∧ o.kind = .word i ∧ atomCtlOf i = some { wAtom with scope := sc } ∧
     wAtom.scratch = false ∧ o.phase = .ready ∧ (relAcq o).1 = false ∧ o.poison = 0 ∧ o.clobber = [] ∧ o.parts ≠ [] ∧ s.owner = [] ∧
     (∀ p ∈ o.parts, p.st = .ok ∧ p.ord ≠ 1 ∧ p.imm = false ∧ p.priv = false ∧ p.off = 0 ∧ (readyLanes s 7 o).getLsbD p.lane = true ∧ p.pa + p.n ≤ 2 ^ 52) ∧
     opLevel s o = if sc = .thread then 0 else if sc = .cluster then 1 else 2) ∧
    PartsApart (wAcc wSt1 .device).parts ∧ PartsAligned (wAcc wSt1 .device).parts ∧
    (∀ o m, ∀ p ∈ (wAcc wLd .device).parts, let s := wMsg (wOp wSt o) m
      NoBreach s p.pa p.n true (opLevel s o == 2) ∧ NotPrivate s (getWarp s 1).iface p.va p.n) ∧ Ty.u32.isInt = true ∧ (2 ^ 32 - 1 < 2 ^ tyBits .u32) ∧ Ty.bf16x2.isFloatOrPair = true :=
  ⟨by decide +kernel, wApart _ _, wAligned _ _, fun o m p hp => ⟨wNoBreach _ _ _ _ _ ⟨rfl, fun _ => rfl, rfl⟩, wOpenTo _ rfl rfl p hp⟩, rfl, by decide, rfl⟩

def wPark (e : PartSt) : Op := { wAcc wLd .device with parts := [{ lane := 0, va := 0x1000, n := 4, st := e }], lanes := 1 }
def wEntry : Park := { iface := 0, page := 1, va := 0x1000, line := 0x1000, access := 0, order := 3, op := some 7 }
theorem witness_ParkedAccessesComeBack :
    (let s := { wMsg (wOp wSt (wPark (.parked 8191))) (.loadParkTimeout 7) with gtime := 4097 }
     plainLoad (wPark (.parked 8191)).kind = true ∧ longParked s (wPark (.parked 8191)) = true) ∧
    (let s := wMsg (wOp wSt (wPark (.retry 0))) (.parkTableRetry 7)
     mapGet s.ops 7 = some (wPark (.retry 0)) ∧ NoStale s 0 ∧ (wPark (.retry 0)).core = (getWarp s 1).core ∧ 0 ≤ s.gtime ∧
     Allows s 1 { r := true } 0x1000 0x5000 0x5017) ∧
    (let o := wPark (.parked 8191)
     let s := { wMsg (wOp wSt o) (.frespResolve 0 0 8191) with parks := [(8191, wEntry)] }
     (getWarp s 1).iface = 0 ∧ quadOf o.core = 0 ∧ mapGet s.parks (0 * 8192 + 8191) = some wEntry ∧ wEntry.op = some 7 ∧
     (∀ f ∈ s.parks, f.1 / 8192 = 0 → f.2.iface = 0 → f.2.page = wEntry.page → f = (0 * 8192 + 8191, wEntry)) ∧
     (∀ p ∈ o.parts, p.st = .parked 8191 ∧ p.va / 4096 = wEntry.page ∧ p.priv = false ∧ p.va < 2 ^ 48 ∧ p.lane < 32) ∧ mapWf s.parks = true ∧
     (getWarp s 1).resident = true ∧ (∀ u, u < 32 → o.lanes.getLsbD u = true → ∃ p ∈ o.parts, p.lane = u) ∧ o.phase ≠ .longPark ∧
     needOk { r := true } 0x5017 = true ∧ walkFrom s 0x1000 3 (getIface s 0).ptroot.toNat = .ok 0x5000 0x5017 1 1) :=
  ⟨by decide +kernel, ⟨by decide +kernel, wFresh _ _ (by decide +kernel), by decide +kernel, by decide +kernel, wAllows _ _ _ _ _ (by decide +kernel) (by decide +kernel) (by decide +kernel)⟩,
    by decide +kernel⟩

/-- A sector of which cluster 5 owns word 0 and cluster 6 word 15. -/
def wOwned : State := { wSt with owner := [(16, 5), (31, 6)] }
theorem witness_PushesRegisterAndRevoke :
    (∀ cc ∈ [[], [(cacheKey 5 31, ({ data := 9, st := .dirty } : CcWord))]], let s := { wMsg wOwned (.pushArrive 5 20 1 0x8001 7) with cc := cc }
     s.msg = some (.pushArrive 5 20 1 0x8001 7) ∧ 1 < 2 ^ 46 ∧ 15 < 16 ∧ (0x8001 : BitVec 16).getLsbD 15 = true ∧ mapGet s.owner (16 * 1 + 15) = some 6 ∧
     ((clusterHolds s 5 31).isSome = !cc.isEmpty)) ∧
    (∀ n ∈ [1, 2], let s := { wMsg wSt (.revokeAck 1 1 7) with pushWaits := [⟨7, 1, n⟩] }
     s.pushWaits.find? (fun p => p.push == 7) = some ⟨7, 1, n⟩) ∧
    (let s := { wMsg (wOp wSt wRel) (.pushAck 3 9) with pushOut := [(3, { cluster := 0, waiters := [7] })] }
     mapGet s.pushOut 3 = some { cluster := 0, waiters := [7] } ∧ mapGet s.ops 7 = some wRel) ∧
    (let w : CcWord := { data := 5, st := .dirty, tag := { olact := 1 } }
     let s := { wMsg wSt (.revokeArrive 5 6 1 1 7) with cc := [(cacheKey 5 16, w)] }
     s.msg = some (.revokeArrive 5 6 1 1 7) ∧ 1 < 2 ^ 46 ∧ pushPending s 5 16 = false ∧ mapGet s.owner 16 = none ∧ mapGet s.cc (cacheKey 5 16) = some w ∧ (mapGetD s.sectorMod (cacheKey 5 1) w.tag).olact = 1) := by
  decide +kernel

theorem witness_EvictionsAndRecallsLoseNothing :
    (let w : CcWord := { data := 5, st := .dirty }
     let s := { wMsg wSt (.clusterEvict 5 1 0x8001) with cc := [(cacheKey 5 16, w)] }
     1 < 2 ^ 46 ∧ s.wbuf = [] ∧ mapGet s.cc (cacheKey 5 16) = some w ∧ 16 / 16 = 1 ∧ (0x8001 : BitVec 16).getLsbD (16 % 16) = true) ∧
    (let w : WbWord := ⟨9, { data := 5, st := .dirty }⟩
     let s := { wMsg wOwned (.writebackArrive 5 1 0x8001 9) with wbuf := [(cacheKey 5 16, w), (cacheKey 5 31, w)] }
     mapGet s.wbuf (cacheKey 5 16) = some w ∧ w.id = 9 ∧ mapGet s.owner 16 = some 5 ∧ mapGet s.owner 31 = some 6) ∧
    (let w : L1Word := { data := 5, dirty := true }
     let s := { wMsg wSt (.l1Evict 3 1 1) with l1 := [(cacheKey 3 16, w)] }
     mapGet s.l1 (cacheKey 3 16) = some w ∧ w.dirty = true) := by
  decide +kernel


/-- A scratchpad of 2,048 lines: line 1 a barrier for one arrival, line 2 empty, line 3 the header of a mailbox of eight slots. K registers hold addresses: 30 line 1, 31 line 2, 32 line 3, 33 the last line, 34 the byte after it, 35 a misaligned one; 40 and 41 the end of time. -/
def wScr : State := { wSt with groups := [(1, { getGroup wSt 1 with
  k := [(30, 128), (31, 256), (32, 384), (33, 0x3FF80), (34, 0x40000), (35, 129), (40, 0xFFFFFFFF), (41, 0xFFFFFFFF), (50, 0x60), (53, 0x10000000), (54, 2048), (57, 0xA0000000), (58, 256)]
  lines := [(1, { full := true, bar := true }), (2, { full := false, bar := false }), (3, { full := true, bar := true })]
  scratch := [(132, 1), (252, 1), (392, 1), (400, 3), (508, 2)] })] }

theorem witness_ScratchWordsCheckEachLane : Issues wScr wC 1 allLanes allLanes ∧ Grants wScr 1 .group ∧ ({ wAtom with scratch := true } : AtomCtl).scratch = true ∧
    readsOnce wScr 1 allLanes (.k 35) 1 % 128 ≠ 0 ∧ readsOnce wScr 1 allLanes (.imm 1) 1 ≠ 0 ∧
    (readsOnce wScr 1 allLanes (.k 34) 1 % 128 = 0 ∧ homeSize wScr 1 < readsOnce wScr 1 allLanes (.k 34) 1 + 128 * 1) ∧
    (readsOnce wScr 1 allLanes (.k 33) 1 + 128 * 1 = homeSize wScr 1) ∧ (lineOf (homeGroup wScr 1) (homeHalf wScr 1) (0x3FF80 / 128)).bar = false ∧
    readsOnce wScr 1 allLanes (.k 33) 1 % 128 = 0 ∧ readsOnce wScr 1 allLanes (.imm 0) 1 = 0 ∧ (lineOf (homeGroup wScr 1) (homeHalf wScr 1) 1).bar = true ∧
    scratchTrap wScr 1 4 true 128 = some causeBarclobber ∧ scratchTrap wScr 1 4 false 128 = none ∧ scratchTrap wScr 1 4 true 0x40000 = some causeAccess := by
  refine ⟨by constructor <;> decide +kernel, .inl (by decide), ?_⟩; decide +kernel

/-- Two lanes of an access to the scratchpad. -/
def wScrPart (a : Nat) (l : Nat) : Part := { lane := l, va := a + 4 * l, n := 4, val := 5 }
def wScrOp (i : Instr) (a : Nat) : Op := { warp := 1, kind := .word i, lanes := 0x80000001, scope := .group, parts := [wScrPart a 0, wScrPart a 31] }
theorem witness_ScratchWordsActOnTheirLines :
    (∀ e ∈ [(Instr.lds wC false .u32 (.v 8) wMem, 0x3FF80, true), (.lds wC false .u32 (.v 8) wMem, 256, false), (.sts wC false true .u32 (.v 8) wMem, 0x3FF80, true)],
      let o := wScrOp e.1 e.2.1
      let s := wMsg (wOp wScr o) (.memoryReply 7)
      mapGet s.ops 7 = some o ∧ o.kind = .word e.1 ∧ o.poison = 0 ∧ o.clobber = [] ∧ s.msg = some (.memoryReply 7) ∧ o.phase = .ready ∧ portHeld s 7 o = false ∧
      o.parts ≠ [] ∧ (∀ e ∈ s.ops, e.2.phase ≠ .lines) ∧ (o.parts.map (·.lane)).Nodup ∧ s.copies = [] ∧
      ∀ p ∈ o.parts, (scrOpen s 7 o).getLsbD p.lane = true ∧ p.st = .ok ∧ p.off = 0 ∧ 0 < p.n ∧ p.n ≤ 16 ∧ p.lane < 32 ∧ p.va + p.n ≤ 2 ^ 20 ∧ p.va % 128 + p.n ≤ 128 ∧
        (p.va + p.n - 1) / 128 = p.va / 128 ∧ lineHeld s 7 o (p.va / 128) = false ∧
        (lineOf (getGroup s 1) 0 (p.va / 128)).full = e.2.2) ∧
    (let i := Instr.atom wC .add { wAtom with scratch := true, scope := .group } (some (.v 8)) (.v 4)
     let o := { wScrOp i 0x3FF80 with parts := [{ wScrPart 0x3FF80 31 with pa := 2 ^ 60 + 0x3FF80 + 124 }] }
     let s := wMsg (wOp wSt o) (.memoryReply 7)
     atomCtlOf i = some { wAtom with scratch := true, scope := .group } ∧ (relAcq o).1 = false ∧ portHeld s 7 o = false ∧ (getGroup s 1).lines = [] ∧
     ∀ p ∈ o.parts, p.n ≤ 16 ∧ p.pa = 2 ^ 60 + p.va ∧ (lineOf (getGroup s 1) 0 (p.va / 128)).full = true) ∧
    (let i := Instr.lmarkQ wC (.v 8) (.v 4)
     let o := { wScrOp i 0 with parts := [{ wScrPart 128 0 with n := 1 }] }
     let s := wMsg (wOp wScr o) (.memoryReply 7)
     portHeld s 7 o = false ∧ (∀ p ∈ o.parts, p.n = 1 ∧ lineHeld s 7 o 1 = false)) ∧
    (let i := Instr.lds wC false .u32 (.v 8) wMem
     let o := { wScrOp i 256 with phase := .lines, parts := [{ wScrPart 256 0 with st := .done }, { wScrPart 256 31 with st := .done }] }
     let s := wMsg (wOp wScr o) (.lineFillWake 1 0 2)
     s.msg = some (.lineFillWake 1 0 2) ∧ lineWaiters s 1 0 = [7] ∧ (∀ p ∈ o.parts, p.st = .done ∧ p.off = 0) ∧ (o.parts.map (·.lane)).Nodup) := by
  decide +kernel

theorem wNow (s : State) (c : Nat) (h : s.gtime = 3) : coreTime s c ≤ 6 := by
  unfold coreTime skewed; rw [h]; omega

theorem witness_SleepersWakeAtTheirTime :
    (let s := { wScr with gtime := 3 }
     Issues s wC 1 allLanes allLanes ∧ coreTime s (getWarp s 1).core + 2 ^ 34 < readsOnce s 1 allLanes (.k 40) 2 ∧
     readsOnce s 1 allLanes (.k 38) 2 ≤ coreTime s (getWarp s 1).core + 2 ^ 34 ∧ homeSize s 1 ≤ readsOnce s 1 allLanes (.k 34) 1 ∧
     readsOnce s 1 allLanes (.k 33) 1 < homeSize s 1) ∧
    (let k := Wait.sleep 0 (some 256) none true
     let s := wMsg { wScr with warps := [(1, { getWarp wScr 1 with threads := List.replicate 32 { cond := .waiting k, pc := 0x100C } })] } (.sleepWake 1 1)
     s.msg = some (.sleepWake 1 1) ∧ waiting (getWarp s 1) (· == k) &&& 1 ≠ 0 ∧ (∀ th ∈ (getWarp s 1).threads, th.cond = .waiting k) ∧
     (lineOf (homeGroup s 1) (homeHalf s 1) (256 / 128)).full = false) ∧
    (let k := Wait.sleep 0 (some 128) (some 6) false
     let s := wMsg { wScr with warps := [(1, { getWarp wScr 1 with threads := List.replicate 32 { cond := .waiting k, pc := 0x100C } })] } (.sleepWake 1 1)
     waiting (getWarp s 1) (· == k) &&& 1 ≠ 0 ∧ (∀ th ∈ (getWarp s 1).threads, th.cond = .waiting k)) ∧
    ∀ s c, 0 ≤ coreTime s c := by
  refine ⟨⟨by constructor <;> decide +kernel, ?_, Nat.le_trans ?_ (Nat.zero_le _), by decide +kernel, by decide +kernel⟩, by decide +kernel, by decide +kernel, fun _ _ => Nat.zero_le _⟩
  · have h : readsOnce { wScr with gtime := 3 } 1 allLanes (.k 40) 2 = 2 ^ 64 - 1 := by decide +kernel
    have := wNow { wScr with gtime := 3 } (getWarp { wScr with gtime := 3 } 1).core rfl
    omega
  · decide +kernel

theorem wFreeLines : ∀ n, n < 2048 → NotHeld wScr 1 allLanes [n] := by
  intro n _; exact ⟨by decide +kernel, fun l hl => ⟨rfl, fun e he => by rw [show wScr.ops = [] from rfl] at he; cases he⟩⟩

theorem witness_BarriersCheckAndPassPhases :
    (∀ n, n < 2048 → NotHeld wScr 1 allLanes [n]) ∧
    (let s := wOp wScr { wAcq with scope := .group }
     Issues s wC 1 allLanes allLanes ∧ ¬ NotHeld s 1 allLanes [0x7FF] ∧ readsOnce s 1 allLanes (.imm 1) 1 = 1) ∧
    (Issues wScr wC 1 allLanes allLanes ∧ Grants wScr 1 .group ∧ readsOnce wScr 1 allLanes (.k 35) 1 % 128 ≠ 0 ∧
     (readsOnce wScr 1 allLanes (.k 34) 1 % 128 = 0 ∧ homeSize wScr 1 < readsOnce wScr 1 allLanes (.k 34) 1 + 128) ∧
     (readsOnce wScr 1 allLanes (.k 33) 1 + 128 = homeSize wScr 1 ∧ lineKind (homeGroup wScr 1) (homeHalf wScr 1) 0x7FF = 0) ∧
     (lineOf (homeGroup wScr 1) (homeHalf wScr 1) 1).bar = true ∧ (lineOf (homeGroup wScr 1) (homeHalf wScr 1) 2).full = false ∧
     (lineOf (homeGroup wScr 1) (homeHalf wScr 1) 0x7FF).bar = false ∧ (lineOf (homeGroup wScr 1) (homeHalf wScr 1) 0x7FF).full = true ∧
     readsOnce wScr 1 allLanes (.imm 0) 1 = 0 ∧ readsOnce wScr 1 allLanes (.imm 1) 1 = 1 ∧ 2 ^ 24 ≤ readsOnce wScr 1 allLanes (.k 40) 1 ∧
     lineKind (homeGroup wScr 1) (homeHalf wScr 1) 1 = 1 ∧ phasePassed (barPhase (homeGroup wScr 1) (homeHalf wScr 1) 1) (readsOnce wScr 1 allLanes (.k 40) 1) = true ∧
     phasePassed (barPhase (homeGroup wScr 1) (homeHalf wScr 1) 1) 0 = false ∧ wScr.copies = [] ∧
     let k : Copy := { kind := .load false 0, group := 1, bar := some 1 }
     k.group = 1 ∧ k.half = homeHalf wScr 1 ∧ k.node = none ∧ unfinished k = true ∧ k.bar = some 1) ∧
    (phasePassed 0 (2 ^ 32 - 1) = true ∧ phasePassed (2 ^ 31 - 1) 0 = true ∧ phasePassed (2 ^ 31) 0 = false) ∧
    (∀ e ∈ [(Instr.bararr wC true .group (some (.v 8)) (.k 30), true), (.barexp wC false .group none (.k 30) (.imm 1), false)],
      let o : Op := { warp := 1, kind := .word e.1, lanes := 3, scope := .group, args := [1, if e.2 then 2 else 0, if e.2 then 0 else 1] }
      let s := wMsg (wOp wScr o) (.memoryReply 7)
      s.msg = some (.memoryReply 7) ∧ mapGet s.ops 7 = some o ∧ o.kind = .word e.1 ∧ o.clobber = [] ∧ o.phase = .ready ∧ portHeld s 7 o = false ∧ lineHeld s 7 o 1 = false ∧
      7 < s.next ∧ lineKind (getGroup s 1) 0 1 = 1 ∧
      (decide (scrNat (getGroup s 1) 0 (128 * 1 + 4) 3 ≤ min (scrNat (getGroup s 1) 0 (128 * 1 + 8) 3 + o.args.getD 1 0) 0xFFFFFF ∧ o.args.getD 2 0 = 0) = e.2)) ∧
    (relAcq { warp := 1, kind := .word (.barexp wC false .thread none (.k 30) (.imm 1)), lanes := 3 }).1 = false ∧
    (let i := Instr.barwait wC .group (.p 6) (.k 30) (.imm 0)
     let o : Op := { warp := 1, kind := .word i, lanes := 3, scope := .group, args := [6], phase := .acquiring }
     let s := wMsg (wOp wScr o) (.memoryReply 7)
     o.phase = .acquiring ∧ opLevel s o ≠ 2 ∧ acquireMay s 7 o = true ∧ 6 < 7) ∧
    allDone { warp := 1, kind := .word (.barinit wC (.k 30) (.imm 1)), lanes := 3, parts := [{ lane := 0, va := 128, n := 128, st := .done }] } = true := by
  refine ⟨wFreeLines, ⟨by constructor <;> decide +kernel, by unfold NotHeld; decide +kernel, by decide +kernel⟩, ⟨by constructor <;> decide +kernel, .inl (by decide), ?_⟩, ?_⟩ <;> decide +kernel

/-- One warp with a list of events: entry 0 a barrier that repeats, entry 7 a timer. -/
def wEv (e : Map EvEntry) (evp : BitVec 16) : State := { wScr with warps := [(1, { getWarp wScr 1 with events := e, evp := evp })] }
theorem witness_EventsLatchAndFire :
    (let s := wEv [] 0
     Issues s wC 1 allLanes allLanes ∧ (getWarp (advance s 1 allLanes) 1).events = [] ∧ (∀ v, v < 32 → condAt (advance s 1 allLanes) 1 v ≠ .waiting .anyEvent)) ∧
    (let word (a : BitVec 9) (j : Nat) : Nat := reads wScr 1 (.k (a + BitVec.ofNat 9 j)) 1 0
     -- K53 on: a barrier entry on line 2,048 of 2^13; K50 on: a word of TYPE 0 alone; K57 on: TYPE 10
     (1 ≤ (1 : BitVec 4).toNat ∧ (8 : BitVec 4).toNat ≤ 8 ∧ (480 : BitVec 9).toNat + 4 * 8 = 512) ∧
     word 53 0 / 2 ^ 28 = 1 ∧ word 53 0 / 2 ^ 24 % 8 = 0 ∧ word 53 1 + 2 ^ 32 * word 53 2 < 2 ^ 13 ∧
     word 480 0 / 2 ^ 28 = 0 ∧ word 480 3 = 0 ∧ word 480 1 + 2 ^ 32 * word 480 2 < 1 ∧ ¬ word 57 0 / 2 ^ 28 ≤ 9) ∧
    (let ev : Map EvEntry := [(0, { typ := 1, repeats := true, hoff := 0x60, object := 1, arg := 0xFFFFFFFF }), (7, { typ := 7, repeats := false, hoff := 0xC, object := 0, arg := 0 })]
     let s := wEv ev 0
     let x := getWarp (advance s 1 allLanes) 1
     Issues s wC 1 allLanes allLanes ∧ x.events ≠ [] ∧ mapWf x.events = true ∧ 0 < x.threads.length ∧
     (∀ e ∈ x.events, e.1 < 8 ∧ e.2.typ ≠ 0 ∧ e.2.typ ≤ 9 ∧ (e.2.repeats = true → e.2.typ = 1 ∨ e.2.typ = 4)) ∧ x.resident = true ∧ x.stop = false ∧ x.graphSeen = false ∧
     evHolds (advance s 1 allLanes) x { typ := 1, repeats := true, hoff := 0x60, object := 1, arg := 0xFFFFFFFF } = true ∧ x.evm.getLsbD 0 = false) ∧
    (let s := wEv [(7, { typ := 7, repeats := false, hoff := 0xC, object := 0, arg := 0 })] 0x80
     let x := getWarp (advance s 1 allLanes) 1
     mapWf x.events = true ∧ x.evp.getLsbD 7 = true ∧ x.evm.getLsbD 7 = false ∧ x.evp.getLsbD 0 = false) ∧
    (let e : EvEntry := { typ := 7, repeats := false, hoff := 0xC, object := 0, arg := 0 }
     let s := wMsg (wEv [(7, e)] 0) (.timerExpire 1 7)
     s.msg = some (.timerExpire 1 7) ∧ mapGet (getWarp s 1).events 7 = some e ∧ e.typ = 7 ∧ e.rung = false ∧ e.object = 0) ∧
    (let s := { wMsg (wEv [] 0) (.timerExpire 1 7) with gtime := 3 }; coreTime s (getWarp s 1).core < 7) := by
  refine ⟨⟨by constructor <;> decide +kernel, by decide +kernel, by decide +kernel⟩, by decide +kernel, ⟨by constructor <;> decide +kernel, by decide +kernel⟩, by decide +kernel,
    by decide +kernel, Nat.lt_of_le_of_lt (wNow _ _ rfl) (by decide)⟩

def wMail (i : Instr) (parts : List Part) (lanes : Lanes) : Op := { warp := 1, kind := .word i, lanes := lanes, scope := .group, parts := parts }
theorem witness_MailboxesKeepTheirMessages :
    (Issues wScr wC 1 allLanes allLanes ∧ Grants wScr 1 .group ∧ readsOnce wScr 1 allLanes (.k 35) 1 % 128 ≠ 0 ∧
     homeSize wScr 1 < readsOnce wScr 1 allLanes (.k 33) 1 + 128 * (1 + 1) ∧ readsOnce wScr 1 allLanes (.k 33) 1 % 128 = 0 ∧
     readsOnce wScr 1 allLanes (.k 54) 1 / 128 = 16 ∧ readsOnce wScr 1 allLanes (.k 54) 1 % 128 = 0 ∧ 2048 + 128 * (512 + 1) ≤ homeSize wScr 1 ∧
     (∀ l, l < 1024 → 16 ≤ l → l ≤ 16 + 511 → (lineOf (homeGroup wScr 1) (homeHalf wScr 1) l).bar = false ∧ (lineOf (homeGroup wScr 1) (homeHalf wScr 1) l).full = true) ∧
     readsOnce wScr 1 allLanes (.imm 1) 1 = 1 ∧ readsOnce wScr 1 allLanes (.imm 0) 1 = 0 ∧ lineKind (homeGroup wScr 1) (homeHalf wScr 1) 3 = 2) ∧ NotHeld wScr 1 allLanes (linesOf 2048 (128 * (512 + 1))) ∧
    ¬ NotHeld (wOp wScr wAcq) 1 allLanes (linesOf 2048 (128 * (512 + 1))) ∧
    (let i := Instr.mbxsendSt wC .thread (.v 8) (.v 4) (.v 12)
     let p : Part := { lane := 31, va := 3, n := 16, val := 9 }
     let o := { wMail i [p] 0x80000000 with scope := .thread }
     let s := wMsg (wOp wScr o) (.memoryReply 7)
     mapGet s.ops 7 = some o ∧ o.kind = .word i ∧ o.poison = 0 ∧ o.clobber = [] ∧ o.phase = .ready ∧ (relAcq o).1 = false ∧ portHeld s 7 o = false ∧ opsBefore s 1 7 = [] ∧
     o.parts.find? (fun p => p.lane == 31) = some p ∧ p.va < 2 ^ 32 ∧ ringOf s (getWarp s 1).iface 3 = some (1, 0) ∧ ringOf s (getWarp s 1).iface 4 = none ∧
     (∀ p ∈ o.parts, p.off = 0 ∧ p.lane = 31 ∧ p.got.toNat < 2 ^ 32) ∧ (o.parts.map (·.lane)).Nodup ∧ (∀ u, u < 32 → o.lanes.getLsbD u = true → ∃ p ∈ o.parts, p.lane = u) ∧
     2 < 3) ∧
    (let i := Instr.mbxpop wC .group 6 (.v 8) (.k 32)
     let o := { wMail i [] 3 with args := [3] }
     let s := wMsg (wOp wScr o) (.memoryReply 7)
     s.msg = some (.memoryReply 7) ∧ o.args = [3] ∧ o.phase = .ready ∧ portHeld s 7 o = false ∧ lineHeld s 7 o 3 = false ∧ lineKind (getGroup s 1) 0 3 = 2 ∧
     let q := { o with phase := .acquiring, parts := [{ lane := 0, va := 0, n := 16, st := .done }] }
     let t := wMsg (wOp wScr q) (.memoryReply 7)
     (∀ p ∈ q.parts, p.st = .done ∧ p.off = 0) ∧ (q.parts.map (·.lane)).Nodup ∧ opLevel t q ≠ 2 ∧ acquireMay t 7 q = true ∧ (6 : BitVec 3).toNat ≠ 7) := by
  refine ⟨⟨by constructor <;> decide +kernel, .inl (by decide), ?_⟩, ⟨by decide +kernel, fun l hl => ⟨rfl, fun e he => by rw [show wScr.ops = [] from rfl] at he; cases he⟩⟩, ?_, ?_⟩
  · decide +kernel
  · intro h; have := h.1 (7, wAcq) (by simp [wOp]) rfl (by decide) (by decide); revert this; decide
  · decide +kernel

/-- K registers 496 on hold a descriptor of 16 bytes at 0x1000, 480 on a box of all of it that goes to the last line of the scratchpad, with no barrier; 460 on a gather of one row by the index at 0x3FF00. Descriptor 30 is that descriptor. -/
def wDesc : List Word := [0x1000, 0, 2146, 16, 1, 1, 1, 1, 0, 0, 0, 0, 0, 0, 0, 0]
def wDesc2 : List Word := [0x1000, 0, 4194, 16, 4, 1, 1, 1, 16, 0, 0, 0, 0, 0, 0, 0]
def wBox : List Word := [0, 0, 0, 0, 0, 16, 1, 1, 1, 1, 0x3FF80, 0x80000000]
def wGather : List Word := [0x3FF00, 1, 1, 0, 16, 0, 0, 0, 0, 0, 0x3FF80, 0x80000000]
def wK (n : Nat) (l : List Word) : Map Word := l.zipIdx.filterMap fun e => if e.1 = 0 then none else some (n + e.2, e.1)
def wCopies : State := { wSt with groups := [(1, { getGroup wSt 1 with
  k := wK 460 wGather ++ wK 480 wBox ++ wK 496 wDesc, desc := [(29, wDesc2), (30, wDesc), (31, wDesc2)] })] }

theorem witness_CopyWordsCheckTheirBlocks : Issues wCopies wC 1 allLanes allLanes ∧ Grants wCopies 1 .device ∧ (homeGroup wCopies 1).descPend = [] ∧
    (496 : BitVec 9).toNat + 16 = 512 ∧ (500 : BitVec 9).toNat + 12 = 512 ∧ readsOnce wCopies 1 allLanes (.imm 31) 1 = 31 ∧ readsOnce wCopies 1 allLanes (.imm 32) 1 = 32 ∧
    (let K (j : Nat) : Nat := reads wCopies 1 (.k (496 + BitVec.ofNat 9 j)) 1 0
     K 2 / 2 ^ 14 = 0 ∧ K 2 / 8 % 2 = 0 ∧ K 2 / 2 ^ 11 % 8 = 1 ∧ K 2 / 2 ^ 8 % 8 = 0 ∧ (K 2 % 8, K 2 / 16 % 16) = (2, 6) ∧
     (∀ k, k < 5 → 1 ≤ K (3 + k) ∧ (1 ≤ k → K (3 + k) = 1)) ∧ (∀ k, 1 ≤ k → k < 5 → K (7 + k) = 0) ∧ (K 0 + 2 ^ 32 * K 1) % 1 = 0 ∧
     K 12 = 0 ∧ K 13 = 0 ∧ K 14 = 0 ∧ K 15 < 2 ^ 8) ∧
    (let K (j : Nat) : Nat := reads wCopies 1 (.k (480 + BitVec.ofNat 9 j)) 1 0
     mapGet (homeGroup wCopies 1).desc 30 = some wDesc ∧ mapGet (homeGroup wCopies 1).desc 28 = none ∧ 0 < descBits wDesc ∧ descWidth wDesc ≤ 4 ∧
     K 11 / 2 ^ 13 % 2 ^ 18 = 0 ∧ ¬ K 11 < 2 ^ 31 ∧ (∀ j, j < 5 → K (5 + j) ≤ 2 ^ 24 ∧ K (5 + j) ≠ 0 ∧ (descDims wDesc ≤ j → K j = 0 ∧ K (5 + j) = 1)) ∧
     16 = (K 5 * K 6 * K 7 * K 8 * K 9 * descBits wDesc + 7) / 8 ∧ K 10 + 16 ≤ homeSize wCopies 1) ∧
    (let K (j : Nat) : Nat := reads wCopies 1 (.k (460 + BitVec.ofNat 9 j)) 1 0
     mapGet (homeGroup wCopies 1).desc 29 = some wDesc2 ∧ descDims wDesc2 = 2 ∧ 0 < descBits wDesc2 ∧ K 0 % 4 = 0 ∧ K 2 = 1 ∧ K 5 = 0 ∧ (∀ j, j < 4 → K (6 + j) = 0) ∧
     K 10 + ((K 1 + K 2 - 1) / K 2 * K 4 * descBits wDesc2 + 7) / 8 ≤ homeSize wCopies 1 ∧ K 0 + 4 * K 1 ≤ homeSize wCopies 1) := by
  refine ⟨by constructor <;> decide +kernel, .inl (by decide), ?_⟩; decide +kernel

def wCopy : Copy := { kind := .load false 0, id := 64, group := 1, warp := 1, desc := wDesc, box := wBox, bytes := 16 }
def wCpyI : Instr := .cpyLoad wC .device false 0 (.v 8) (.k 480) (.imm 30)
theorem witness_CopiesAreAcceptedAndAnswered :
    (nextSlot wCopies 0 = some 0) ∧
    (let o : Op := { warp := 1, kind := .word wCpyI, lanes := 3, scope := .device, copy := some wCopy }
     let s := wMsg (wOp wCopies o) (.copyAccept 7)
     s.msg = some (.copyAccept 7) ∧ mapGet s.ops 7 = some o ∧ o.clobber = [] ∧ wCopy.core = o.core ∧ nextSlot s 0 = some 0 ∧ raisers s = [] ∧ portHeld s 7 o = false ∧ (∀ l ∈ sourceLines wCopy, markPending s 1 7 l = false) ∧
     o.parts = [] ∧ wCopy.group = (getWarp s 1).group ∧ wCopy.half < 2 ∧ wCopy.node = none ∧ wCopy.raised = false ∧ 7 < s.next ∧ s.copies = [] ∧ wCopy.scope = .device) ∧
    (∀ e ∈ [(Instr.cpyqStat wC (.v 8) (.v 4), CopySt.suspended), (.cpyqCancel wC (.v 4), .done), (.cpyqCancel wC (.v 4), .running)],
      let o : Op := { warp := 1, kind := .word e.1, lanes := 3, args := [64] }
      let q := { wCopy with st := e.2 }
      let s := { wMsg (wOp wCopies o) (.memoryReply 7) with copies := [(5, q)] }
      s.msg = some (.memoryReply 7) ∧ o.phase = .ready ∧ o.parts = [] ∧ portHeld s 7 o = false ∧ o.args = [64] ∧ (5, q) ∈ s.copies ∧ q.core = (getWarp s 1).core ∧
      q.group = (getWarp s 1).group ∧ q.id = 64 ∧ q.node = none ∧ q.cause < 32 ∧ mapGet s.copies 5 = some q ∧ 7 < s.next ∧ ∀ e ∈ s.ops, e.2.phase ≠ .lines) := by
  decide +kernel

/-- A load, a store, and a load of which a barrier stands in its line; a load whose page faults. -/
theorem witness_ChunksLandTheirBytes :
    (∀ st : Bool, let q := { wCopy with kind := if st then .store false else .load false 0, st := .running }
     let s := { wMsg wCopies (.copyChunkLand 5) with copies := [(5, q)], mem := (wPage 0x1F).mem }
     s.msg = some (.copyChunkLand 5) ∧ mapGet s.copies 5 = some q ∧ chunkMay s 5 q = true ∧ q.node = none ∧
     q.bytes = 16 * 1 * 1 * 1 * 1 * 1 ∧ (getGroup s 1).lines = [] ∧ 0x3FF80 + q.bytes = 0x3FF90 ∧ q.spoiled = [] ∧ s.ops = [] ∧ q.begun = false ∧ s.tlb = [] ∧ s.parks = [] ∧
     (∀ k, k < 16 → walkFrom s (0x1000 + k) 3 (getIface s q.iface).ptroot.toNat = .ok (0x5000 + k) 0x501F 1 1) ∧ needOk { r := true, w := true } 0x501F = true ∧
     (0x501F : DWord).extractLsb' 5 2 = 0 ∧ (0x501F : DWord).getLsbD 7 = false ∧ 0x5010 < Config.hbmTop ∧ s.graphs = [] ∧ s.regions = [] ∧ s.colls = []) ∧
    (let q := { wCopy with st := .running }
     let s := { wMsg wCopies (.copyChunkLand 5) with copies := [(5, q)], groups := [(1, { getGroup wCopies 1 with lines := [(0x7FF, { full := false, bar := true })] })] }
     chunkMay s 5 q = true ∧ intoScratch q = true ∧ (0x3FF80 + 0) / 128 ≤ 0x7FF ∧ 0x7FF ≤ (0x3FF80 + 16 - 1) / 128 ∧ (lineOf (getGroup s 1) 0 0x7FF).bar = true) ∧
    (let q := { wCopy with st := .running, desc := wDesc.set 0 0x3000 }
     let s := { wMsg wCopies (.copyChunkLand 5) with copies := [(5, q)] }
     chunkMay s 5 q = true ∧ walkFrom s 0x3000 3 (getIface s q.iface).ptroot.toNat = .fault ∧ s.parks = []) := by
  decide +kernel

theorem witness_CopiesEndStopAndRunLate :
    (∀ n ∈ [none, some (3, 0)], let q := { wCopy with st := .running, cursor := 1, node := n, bar := some 1, credit := 16 }
     let s := { wMsg wScr (.copyDone 5) with copies := [(5, q)] }
     s.msg = some (.copyDone 5) ∧ mapGet s.copies 5 = some q ∧ copyDoneMay s q = true ∧ lineKind (getGroup s 1) 0 1 = 1) ∧
    (let q := { wCopy with st := .running }
     let s := { wMsg wScr (.copyStop 5 causeOverlap 128) with copies := [(5, q)] }
     mapGet s.copies 5 = some q ∧ causeOverlap ∈ [causeAccess, causeProtect, causeOverlap] ∧ unfinished q = true ∧ unfinished { q with st := .done } = false ∧ q.raised = false ∧
     mapGet s.warps 1 = some (getWarp s 1) ∧ allEnded (getWarp s 1) = false ∧ ∀ e ∈ s.warps, e.2.events = []) ∧
    (let q := { wCopy with st := .running, promise := 0 }
     let ev : Map EvEntry := [(0, { typ := 3, repeats := false, hoff := 0, object := 64, arg := 0 })]
     let s := { wMsg (wEv ev 0) (.copyLate 5) with copies := [(5, q)], gtime := 4 }
     s.msg = some (.copyLate 5) ∧ mapGet s.copies 5 = some q ∧ q.lateSent = false ∧ unfinished q = true ∧ q.node = none ∧ q.promise ≤ coreTime s q.core ∧
     (∀ v, v < 32 → condAt s 1 v ≠ .waiting .anyEvent) ∧ mapWf (getWarp s 1).events = true ∧ mapWf s.copies = true ∧ (∀ e ∈ (getWarp s 1).events, e.1 < 8) ∧
     q.core = (getWarp s 1).core ∧ q.group = (getWarp s 1).group) := by
  refine ⟨by decide +kernel, by decide +kernel, by decide +kernel, by decide +kernel, by decide +kernel, by decide +kernel, by decide +kernel, ?_, by decide +kernel⟩
  exact Nat.zero_le _


/-- Region 1 of slice 0 covers the page at 0x1000; slot 0 of the warp holds it, or waits for it, in a mode. Its ring has 16 elements of 4 bytes, one of them full. -/
def wRegion (m : Room) (st : RoomSt) : Region := { live := true, gen := 1, base := 0x1000, size := 0x1000, spans := [(0x5000, 0x1000)], perm := 0x1F, caps := [0, 0, 0, 0, 0], elsize := 4, count := 16, head := 0xFFFFFFFF, tail := 0, st := st, mode := m, occupants := [⟨1, 0, 1, 0⟩], accTy := .u32, accOp := .add }
def wRoom (m : Room) (st : RoomSt) (h : HoldSt) : State := { wPage 0x1F with
  warps := [(1, { getWarp wSt 1 with holds := [(0, { st := h, mode := m, handle := 64, visit := 1 })], visits := 1 })], regions := [(0, wRegion m st)] }

theorem witness_RoomWordsKeepTheirModes :
    (∀ e ∈ [(Room.write, 1), (.accum, 2), (.push, 3), (.pop, 4)], let s := wRoom e.1 .opened .held
     s.tlb = [] ∧ (getHold (getWarp (advance s 1 allLanes) 1) 0).st = .held ∧ (getHold (getWarp (advance s 1 allLanes) 1) 0).mode = e.1 ∧
     (getHold (getWarp (advance s 1 allLanes) 1) 3).st = .free) ∧
    Issues (wRoom .write .opened .held) wC 1 allLanes allLanes ∧
    (let s := wRoom .write .opened .held
     readsOnce s 1 allLanes (.k 16) 2 = 0x1000 ∧ readsOnce s 1 allLanes (.k 22) 2 % 64 ≠ 0 ∧
     (∀ u, u < 32 → roomAddr s 1 (getWarp s 1) ⟨0, .k 26, none, 0, 0⟩ u = 0x1FFC) ∧ 0x1FFC + 4 = (wRegion .write .opened).base + (wRegion .write .opened).size ∧
     (∀ u, u < 32 → roomAddr s 1 (getWarp s 1) ⟨0, .k 20, none, 0, 0⟩ u + 4 > (wRegion .write .opened).base + (wRegion .write .opened).size) ∧
     (∀ u, u < 32 → roomAddr s 1 (getWarp s 1) ⟨0, .k 16, none, 0, 0x3C⟩ u = 0x103C) ∧ (wRegion .write .opened).perm.getLsbD 3 = true) ∧
    Allows (wRoom .write .opened .held) 1 { r := true, w := true } 0x1FFC 0x5FFC 0x501F ∧ Allows (wRoom .write .opened .held) 1 { r := true } 0x1000 0x5000 0x501F ∧
    (∀ h ∈ [HoldSt.free, .refused], let s := wRoom .push .idle h
     let x := getWarp (advance s 1 allLanes) 1
     64 ≠ 0 ∧ (getRegion s (handleKey 64)).live = true ∧ (getRegion s (handleKey 64)).gen = 64 / 64 % 2 ^ 20 ∧ (getRegion s (handleKey 64)).iface = x.iface ∧
     (getRegion s (handleKey 64)).perm.getLsbD (roomNum .pop) = true ∧ (getHold x 0).st = h ∧ ∀ j, j < 4 → j ≠ 0 → (getHold x j).st = .free) ∧
    (let s := wRoom .accum .opened .held
     s.ops = [] ∧ NotHeld s 1 allLanes [] ∧ ¬ NotHeld (wOp s wAcq) 1 allLanes [] ∧ ((getWarp s 1).partials.filter fun p => p.slot == 0 && p.visit == 1).length + 32 ≤ 4096) ∧
    Ty.u32 ∈ [Ty.u32, .s32, .u64, .s64] ∧ (2 ^ 64 - 1 < 2 ^ tyBits .s64) ∧ Ty.bf16 ∈ [Ty.f32, .f64, .bf16] := by
  refine ⟨by decide +kernel, by constructor <;> decide +kernel, by decide +kernel, wAllows _ _ _ _ _ (by decide +kernel) (by decide +kernel) (by decide +kernel),
    wAllows _ _ _ _ _ (by decide +kernel) (by decide +kernel) (by decide +kernel), by decide +kernel, by unfold NotHeld; decide +kernel, by decide, by decide, by decide⟩

def wRoomOp (i : Instr) (args : List Nat) (parts : List Part) : Op := { warp := 1, kind := .word i, lanes := 0x80000001, scope := .device, args := args, parts := parts }
/-- The sixteen words of a descriptor of the page at 0x1000. -/
def wRdesc : List Nat := [0x1000, 0, 0x1000, 0, 1, 0, 0, 0, 0, 0, 0, 0, 0, 0, 0, 0]
theorem witness_RoomRepliesComeFromTheWellhead :
    (∀ e ∈ [(Instr.rdesc wC (.v 8) (.k 16), ([] : List Nat), [({ lane := 0, va := 0x1000, pa := 0x5000, n := 64 } : Part)]),
        (.rdesc wC (.v 8) (.k 16), wRdesc, [{ lane := 0, va := 0x1000, pa := 0x5000, n := 0x1000 }]), (.rfree wC (.k 16), [64], []),
        (.rleave wC (.h 0), [0, 64, 1, 1, 0], []), (.rleave wC (.h 0), [0, 64, 1, 1, 1], []), (.rleave wC (.h 0), [0, 64, 1, 1, 2], []), (.rdemand wC .write (.k 16) (.h 0), [0, 1, 64], []), (.rpush wC .u32 (.p 6) (.v 8) (.h 0), [0, 1, 64, 0], [{ lane := 0, va := 0, n := 4 }, { lane := 31, va := 0, n := 4 }]),
        (.rpop wC .u32 6 (.v 8) (.h 0), [0, 1, 64, 1], [wPart 0, wPart 31]), (.rquery wC (.v 8) (.h 0), [0x20000040], []), (.rqueryR wC (.v 8) (.k 16), [64], [])],
      let o := wRoomOp e.1 e.2.1 e.2.2
      let s := wMsg (wOp (wRoom .write .idle .held) o) (.memoryReply 7)
      s.msg = some (.memoryReply 7) ∧ mapGet s.ops 7 = some o ∧ o.kind = .word e.1 ∧ o.phase = .ready ∧ o.poison = 0 ∧ o.clobber = [] ∧ portHeld s 7 o = false ∧ (o.parts ≠ [] → readyLanes s 7 o ≠ 0) ∧
      s.tlb = [] ∧ o.core = (getWarp s 1).core ∧ wellQuiet s 1 (handleSlice 64) = true ∧ leaveMay s 7 o = true ∧ ringHeld s 7 o = false ∧
      (∀ v, v < 32 → condAt s 1 v ≠ .ended) ∧ validHandle s 0 64 = true ∧ (∀ p ∈ o.parts, p.st = .ok ∧ p.priv = false ∧ p.off = 0 ∧ p.ord = 0 ∧ p.imm = false) ∧
      (getRegion s (handleKey 64)).queue = [] ∧ ((getRegion s 0).tail - (getRegion s 0).head).toNat = 1 ∧ 1 ≤ (getRegion s 0).count ∧ (getRegion s 0).count < 2 ^ 32 ∧
      (getRegion s 0).base % 256 = 0) ∧
    Allows (wOp (wRoom .write .idle .held) (wRoomOp (.rfree wC (.k 16)) [64] [])) 1 { r := true, w := true } 0x1000 0x5000 0x501F ∧
    (∀ l : Fin 2, Allows (wOp (wRoom .write .idle .held) (wRoomOp (.rfree wC (.k 16)) [64] [])) 1 { w := true } (0x1040 + 4 * l.val) (0x5040 + 4 * l.val) 0x501F) ∧
    (parseRegion ((wRdesc.take 16).map (BitVec.ofNat 32))).map (fun r => (r.base, r.size)) = some (0x1000, 0x1000) ∧
    (let s := wMsg (wOp (wRoom .write .idle .held) (wRoomOp (.rpop wC .u32 6 (.v 8) (.h 0)) [0, 1, 64, 1] [wPart 0, wPart 31])) (.memoryReply 7)
     ∀ p ∈ [wPart 0, wPart 31], p.pa + p.n ≤ Config.hbmTop ∧ (readyLanes s 7 (wRoomOp (.rpop wC .u32 6 (.v 8) (.h 0)) [0, 1, 64, 1] [wPart 0, wPart 31])).getLsbD p.lane = true) ∧
    (∀ p ∈ (wAcc wLd .device).parts, let s := wMsg { wOp (wRoom .write .idle .held) (wRoomOp (.rpop wC .u32 6 (.v 8) (.h 0)) [0, 1, 64, 1] (wAcc wLd .device).parts) with launches := wSt.launches } (.memoryReply 7)
      NoBreach s p.pa p.n false false ∧ NotPrivate s 0 p.va p.n) := by
  refine ⟨by decide +kernel, wAllows _ _ _ _ _ (by decide +kernel) (by decide +kernel) (by decide +kernel), fun l => wAllows _ _ _ _ _ ?_ (by decide +kernel) ?_, by decide +kernel, by decide +kernel,
    fun p hp => ⟨wNoBreach _ _ _ _ _, wNotPrivate _ _ _ _ ?_⟩⟩
  · revert l; decide +kernel
  · revert l; decide +kernel
  · revert p; decide +kernel

theorem witness_RoomsOpenDrainAndClose :
    (∀ st ∈ [RoomSt.idle, .opened, .close], let s := wMsg (wRoom .write st .pending) (.demandArrive 1 0 1 64 .write)
     s.msg = some (.demandArrive 1 0 1 64 .write) ∧ validHandle s (getWarp s 1).iface 64 = true ∧ (getRegion s (handleKey 64)).st = st ∧ (getRegion s (handleKey 64)).queue = [] ∧
     (getRegion s (handleKey 64)).caps.getD 1 0 = 0 ∧ demandsOf s 0 < 1024 ∧ slotStands s 1 0 1 = true) ∧
    (∀ n ∈ [1, 2], let s := wMsg (wRoom .write .opened .pending) (.demandArrive 1 0 n 128 .write)
     validHandle s (getWarp s 1).iface 128 = false ∧ slotStands s 1 0 n = (n == 1) ∧ ∀ v, v < 32 → condAt s 1 v ≠ .ended) ∧
    (let s := wMsg { wRoom .write .opened .pending with
        warps := [(1, { getWarp wSt 1 with holds := [(0, { st := .pending, mode := .write, handle := 64, visit := 1, retry := some 0 })] })] } (.demandRetry 1 0)
     (getHold (getWarp s 1) 0).st = .pending ∧ (getHold (getWarp s 1) 0).retry = some 0 ∧ 0 ≤ s.gtime) ∧
    (let s := wMsg { wRoom .write .opened .pending with
        warps := [(1, { getWarp wSt 1 with threads := List.replicate 32 { cond := .waiting (.room 0 6) }, holds := [(0, { st := .pending, mode := .write, handle := 64, visit := 1 })] })] }
       (.grantArrive 1 0 1)
     (getHold (getWarp s 1) 0).st = .pending ∧ (getHold (getWarp s 1) 0).visit = 1 ∧ (getWarp s 1).resident = true ∧ mapWf s.l1 = true ∧
     (∀ v, v < 32 → condAt s 1 v = .waiting (.room 0 6)) ∧ (∀ r, r < 32 → lateHaz s (getWarp s 1) (.p 6) 0 r = false)) ∧
    (let s := wMsg (wOp (wRoom .write .opened .held) { wRoomOp (.rleave wC (.h 0)) [0, 64, 1, 1, 0] [] with phase := .asked }) (.leaveArrive 1 0 1 64)
     validHandle s (getWarp s 1).iface 64 = true ∧ (⟨1, 0, 1, (getWarp s 1).context⟩ : Occupant) ∈ (getRegion s (handleKey 64)).occupants ∧
     (∀ p ∈ (getRegion s (handleKey 64)).occupants, p.warp = 1 ∧ p.slot = 0 ∧ p.visit = 1) ∧ mapWf s.ops = true) ∧
    (∀ m ∈ [Room.read, .write, .accum, .push, .pop], let s := wMsg { wRoom m .close .free with
        regions := [(0, { wRegion m .close with occupants := [], queue := [⟨⟨0, 0, 0⟩, 1, 0, 1, .read, 0⟩], partials := [⟨0, 0, 0, 0x5040, 3⟩] })] } (.publicationComplete 0 0)
     let r := getRegion s 0
     r.st = .close ∧ r.live = true ∧ r.mode = m ∧ basePa r + 8 ≤ Config.hbmTop ∧ ∀ p ∈ r.partials, p.addr % r.accTy.size = 0 ∧ p.addr + r.accTy.size ≤ Config.hbmTop) := by
  decide +kernel

/-- A draining region with two demands in its queue, the older one of warp 1. -/
def wTicket : Ticket := ⟨5, 0, 0⟩
def wDemand : Demand := ⟨wTicket, 1, 0, 1, .push, 5⟩
def wCross : State := { wRoom .write .drain .pending with
  regions := [(0, { wRegion .write .drain with drain := 1, timer := some 0, queue := [wDemand, ⟨⟨6, 0, 1⟩, 2, 0, 1, .pop, 6⟩], occupants := [⟨2, 1, 1, 0⟩] })], gtime := 2056 }

theorem witness_CrossedWaitsAreFound :
    (let s := wMsg wCross (.probeSend 0 0 wTicket)
     wDemand ∈ (getRegion s 0).queue ∧ wDemand.ticket = wTicket ∧ (∀ f ∈ (getRegion s 0).queue, f.ticket = wTicket → f = wDemand) ∧ (getRegion s 0).live = true ∧
     wDemand.probed + 2048 ≤ sliceTime s 0 ∧ sliceTime { s with gtime := 0 } 0 < wDemand.probed + 2048) ∧
    (let s := wMsg wCross (.probeAtWarp 1 ⟨0, 0, 1, 1, none, none⟩)
     (getHold (getWarp s 1) 0).st = .pending ∧ (getRegion s (handleKey (getHold (getWarp s 1) 0).handle.toNat)).queue.find?
       (fun d => d.warp == 1 && d.slot == 0 && d.visit == (getHold (getWarp s 1) 0).visit) = some wDemand) ∧
    (let p : Probe := ⟨0, 0, 1, 16, some wTicket, some wTicket⟩
     let s := wMsg wCross (.probeAtWellhead 0 0 p)
     p.hops ≤ 16 ∧ (getRegion s 0).st = .drain ∧ (∃ d ∈ (getRegion s 0).queue, some d.ticket = p.via) ∧ p.round ∉ (getRegion s 0).refusedRounds ∧ p.originEntry < 64) ∧
    (let s := wMsg wCross (.refusalArrive 0 0 wTicket)
     wTicket.slice = 0 ∧ (getRegion s 0).queue = wDemand :: [⟨⟨6, 0, 1⟩, 2, 0, 1, .pop, 6⟩] ∧ (getRegion s 0).st = .drain ∧ (getRegion s 0).live = true ∧ Room.pop ≠ (getRegion s 0).mode ∧
     slotStands s 1 0 1 = true ∧ (∀ v, v < 32 → condAt s 1 v ≠ .waiting (.room 0 6)) ∧ (getWarp s 1).events = [] ∧ mapGet s.warps 1 = some (getWarp s 1) ∧ allEnded (getWarp s 1) = false ∧
     ∀ j, j < 64 → j ≠ 0 → (getRegion s (0 * 64 + j)).queue = []) ∧
    (let s := wMsg wCross (.drainOverdue 0 0)
     (getRegion s 0).overdue = false ∧ (getRegion s 0).drain ≠ 0 ∧ (getRegion s 0).timer = some 0 ∧ 0 + (getRegion s 0).drain < sliceTime s 0) := by
  refine ⟨⟨by decide +kernel, by decide +kernel, by decide +kernel, by decide +kernel, ?_, ?_⟩, by decide +kernel, by decide +kernel, by decide +kernel, by decide +kernel, by decide +kernel, by decide +kernel, ?_⟩
  · show 5 + 2048 ≤ 2056 + Config.sliceSkew 0 % 7 - 3
    omega
  · show 0 + Config.sliceSkew 0 % 7 - 3 < 5 + 2048
    omega
  · show 0 + 1 < 2056 + Config.sliceSkew 0 % 7 - 3
    omega

/-- J 1 is for two signatures, one given by warp 2; warp 2 is of another core, or the state has one operation in its array. -/
def wMmaI : Instr := .mma wC .t8 false false 1 0 0 (.z 0) (.imm 0) (.imm 0)
def wMmaOp : MmaOp := signedOp (advance wScr 1 allLanes) (issueAt wScr 1 allLanes allLanes) .t8 false false 1 0 0 (.z 0) (.imm 0) (.imm 0)
def wJ (r : JReg) : State := { wScr with groups := [(1, { getGroup wScr 1 with j := [(1, r)] })], launches := [(1, { getLaunch wScr 1 with record := { (getLaunch wScr 1).record with bstack := 128 } })] }
theorem witness_MatrixWordsIssue : Issues wScr wC 1 allLanes allLanes ∧
    readsOnce wScr 1 allLanes (.imm 0) 1 = 0 ∧ readsOnce wScr 1 allLanes (.imm 96) 1 = 96 ∧ readsOnce wScr 1 allLanes (.imm 97) 1 = 97 ∧ (jOf (homeGroup wScr 1) 15).signed = 0 ∧
    readsOnce wScr 1 allLanes (.imm 127) 1 = 127 ∧ readsOnce wScr 1 allLanes (.imm 128) 1 = 128 ∧ readsOnce wScr 1 allLanes (.k 58) 1 = 256 ∧
    (∀ e ∈ [({ size := 1 } : JReg), { size := 2 }, { size := 2, signed := 1, op := some wMmaOp, signers := [(2, 3)] }], let s := wJ e
     Issues s wC 1 allLanes allLanes ∧ (jSeen s 1 1).size = e.size ∧ e.size ≠ 0 ∧ (e.signed ≠ 0 → e.op = some wMmaOp ∧ e.core = (getWarp s 1).core ∧ ∀ q ∈ e.signers, q.1 ≠ 1)) ∧
    (let s := wJ { size := 1 }
     readsOnce s 1 allLanes (.imm 0) 1 + (layoutOf (mmaLayout .t8)).block ≤ homeSize s 1 ∧ readsOnce s 1 allLanes (.imm 0) 1 + (layoutOf (mmaLayout .t8)).block ≤ bstackSize s (getWarp s 1) ∧
     0 + 128 * 1 ≤ bstackSize s (getWarp s 1) ∧ readsOnce s 1 allLanes (.k 33) 1 + 128 * 1 = homeSize s 1) ∧
    (let g := { getGroup wSt 1 with lines := [] }
     ∀ t6 : Bool, 0 + (if t6 then 12800 else 16896) ≤ homeSize wSt 1 ∧ ((List.range ((if t6 then 12800 else 16896) / 128)).map (0 / 128 + ·)).filter (fun k => (lineOf g 0 k).bar) = []) := by
  refine ⟨by constructor <;> decide +kernel, by decide +kernel, by decide +kernel, by decide +kernel, by decide +kernel, by decide +kernel, by decide +kernel, by decide +kernel, ?_,
    by decide +kernel, by decide +kernel⟩
  intro e h
  simp only [List.mem_cons, List.mem_nil_iff, or_false] at h
  obtain rfl | rfl | rfl := h <;> exact ⟨by constructor <;> decide +kernel, by decide +kernel⟩

def wArr : ArrayOp := { group := 1, half := 0, core := 0, op := wMmaOp, id := 9, signers := [(1, 7)], warp := 1, issued := true }
theorem witness_MatrixWordsComplete :
    (let s := wMsg { wSt with arrays := [(0, [wArr])] } (.mmaComplete 0)
     s.msg = some (.mmaComplete 0) ∧ mapGetD s.arrays 0 [] = wArr :: [] ∧ wArr.issued = true ∧ wArr.wantA = false ∧ wArr.wantB = false ∧ wArr.copyB = none ∧ (getGroup s 1).lines = [] ∧
     wArr.half < 2 ∧ wArr.op.z < 24 ∧ wArr.mixed = [] ∧ wArr.bad = [] ∧ mmaReady s 1 = false ∧
     ∀ n, n < 132 → ∀ q ∈ wArr.signers, markPending s q.1 q.2 n = false ∧ (getOp s q.2).poison = 0) ∧
    (∀ e ∈ [(Instr.mfenceOp wC, ([] : List Nat)), (.zclr wC (.z 23) (.imm 0), [0]), (.zld wC (some true) (.v 8) (.z 22) (.imm 127), [127]), (.zst wC none (.v 8) (.z 23) (.imm 0), [0]),
        (.bload wC (.imm 1) (.imm 0) (.imm 0), [1, 0, 0, 0]), (.qhist wC .f32 (.z 23) (.v 4), []), (.qscale wC true (.v 8) (.z 23) (.imm 256), [256]),
        (.qpack wC false 255 (.imm 0) (.z 23), [0, 132, 256]), (.qpackE wC true (.imm 0) (.z 23) (.imm 254), [0, 100, 254])],
      let o : Op := { warp := 1, kind := .word e.1, lanes := 0x80000001, args := e.2 }
      let s := wMsg (wOp wSt o) (.tileWordComplete 7)
      s.msg = some (.tileWordComplete 7) ∧ mapGet s.ops 7 = some o ∧ o.kind = .word e.1 ∧ o.poison = 0 ∧ o.clobber = [] ∧ (∀ k, k < 132 → markPending s 1 7 k = false) ∧ (∀ v, v < 32 → condAt s 1 v ≠ .ended) ∧ storesBefore s 7 1 = false ∧ o.phase = .ready ∧
      (∀ e ∈ s.ops, ¬ e.1 < 7 ∧ e.2.phase ≠ .lines) ∧ (getGroup s 1).lines = [] ∧ o.parts = [] ∧ histBinOf (homeGroup s 1) 0 23 255 ≤ 0xFFFFFFFF ∧
      lineSettled s 1 0 0 none (some 7) = true) ∧
    (∀ ph ∈ [Phase.ready, .asked], let o : Op := { warp := 1, kind := .word (.qpack wC false 255 (.imm 0) (.z 23)), lanes := 0x80000001, args := [0, 132, 256], phase := ph }
      let s := wMsg (wOp { wSt with groups := [(1, { getGroup wSt 1 with lines := [(131, { full := true, bar := true })] })] } o) (.tileWordComplete 7)
      (lineOf (getGroup s 1) 0 131).bar = true ∧ ∀ k, k < 131 → (lineOf (getGroup s 1) 0 k).bar = false) := by
  decide +kernel


/-- Graph 3 of interface 0 at 0x1000: node 0 runs as launch 1, whose warp this is; node 1 waits for one token. -/
def wNode0 : Node := { kind := 0, st := .running, args := 0x1F00, succ := [1], launch := some 1 }
def wNode1 : Node := { kind := 1, need := 1, target := 0x30 }
def wGraphOf (g : Graph) : State := { wPage 0x1F with graphs := [(3, g)], launches := [(1, { getLaunch wSt 1 with node := some (3, 0) })] }
def wGraph : Graph := { hdr := 0x1000, nodes := [wNode0, wNode1] }
def wFrames (marked : Bool) : State := { wGraphOf { wGraph with nodes := [wNode0, { wNode1 with st := if marked then .cancelling else .running }] } with
  warps := [(1, { getWarp wSt 1 with frames := [⟨3, 1, 0x100C, 7, marked⟩] })] }

theorem witness_GraphWordsActOnNodes :
    (Issues (wGraphOf wGraph) wC 1 allLanes allLanes ∧ (wGraphOf wGraph).tlb = [] ∧ readsOnce (wGraphOf wGraph) 1 allLanes (.k 22) 2 % 64 ≠ 0 ∧
     readsOnce (wGraphOf wGraph) 1 allLanes (.k 16) 2 = 0x1000 ∧ mapWf (wGraphOf wGraph).graphs = true ∧ (∀ t, t < 32 → condAt (wGraphOf wGraph) 1 t = .ready) ∧
     (getWarp (wGraphOf wGraph) 1).frames = [] ∧ runningNode (wGraphOf wGraph) (getWarp (wGraphOf wGraph) 1) = some (3, 0) ∧ runningNode wSt (getWarp wSt 1) = none ∧
     (nodeOf (wGraphOf wGraph) 3 0).st = .running ∧ (nodeOf (wGraphOf wGraph) 3 0).launch = some 1 ∧ runningStale (wGraphOf wGraph) (getWarp (wGraphOf wGraph) 1) = false ∧
     nodeAt (wGraphOf wGraph) 0 0x1080 = some (3, 1) ∧ nodeAt (wGraphOf wGraph) 0 0x10C0 = none ∧
     (∀ t, t < 32 → reads (wGraphOf wGraph) 1 (.imm 1) 1 t = 1 ∧ reads (wGraphOf wGraph) 1 (.imm 0) 1 t = 0) ∧ (nodeOf (wGraphOf wGraph) 3 0).args % 4 = 0) ∧
    Allows (wGraphOf wGraph) 1 { r := true } 0x1000 0x5000 0x501F ∧
    (∀ m : Bool, Issues (wFrames m) wC 1 allLanes allLanes ∧ (getWarp (wFrames m) 1).frames = ⟨3, 1, 0x100C, 7, m⟩ :: [] ∧
      (∀ t, t < 32 → (threadOf (getWarp (wFrames m) 1) t).sub = 0 ∧ condAt (wFrames m) 1 t ≠ .ended)) ∧
    (let o : Op := { warp := 1, kind := .word (.gfire wC (some (.v 8)) (.k 16)), lanes := allLanes, args := [0x1080] }
     let s := { wMsg (wOp (wGraphOf wGraph) o) (.inlineFireRetest 1) with warps := [(1, { getWarp wSt 1 with threads := List.replicate 32 { cond := .waiting (.fire 7), pc := 0x1000 } })] }
     (getWarp s 1).resident = true ∧ mapGet s.ops 7 = some o ∧ mapWf s.ops = true ∧ mapWf s.graphs = true ∧ (∀ u, u < 32 → condAt s 1 u = .waiting (.fire 7))) ∧
    (∀ e ∈ [(Instr.gfire wC (some (.v 8)) (.k 16), [0x1080, 1]), (.gfire wC none (.k 16), [0x1080]), (.gstat wC (.v 8) (.k 16), [0x10C0]), (.gstatG wC (.v 8) (.k 16), [0x1000]),
        (.gargIndex wC (.v 8), [0]), (.gargAddr wC (.v 8), [0x1040]), (.gstatD wC (.v 8), [128])],
      let o : Op := { warp := 1, kind := .word e.1, lanes := allLanes, args := e.2 }
      let s := { wMsg (wOp (wGraphOf wGraph) o) (.memoryReply 7) with warps := [(1, { getWarp wSt 1 with threads := List.replicate 32 { cond := .waiting (.held 7), pc := 0x1000 } })] }
      s.msg = some (.memoryReply 7) ∧ mapGet s.ops 7 = some o ∧ o.phase = .ready ∧ o.poison = 0 ∧ o.clobber = [] ∧ o.parts = [] ∧
      (∀ u, u < 32 → condAt s 1 u = .waiting (.held 7)) ∧ graphAt s 0 0x1000 = some 3) ∧
    (let o := { wAcc (.garg wC (.v 8) (.v 4)) .device with args := [] }
     let s := wMsg (wOp (wGraphOf wGraph) o) (.memoryReply 7)
     forwardedTo s o 2 (readyLanes s 7 o) = [] ∧ opLevel s o = 2 ∧ o.acks = 0 ∧ (∀ p ∈ o.parts, p.st = .ok ∧ p.ord ≠ 1 ∧ p.priv = false ∧ (readyLanes s 7 o).getLsbD p.lane = true) ∧
     ∀ p ∈ (wAcc wLd .device).parts, NotPrivate s (getWarp s 1).iface p.va p.n) ∧ PartsApart (wAcc wLd .device).parts ∧ PartsAligned (wAcc wLd .device).parts ∧
    (let o : Op := { warp := 1, kind := .word (.gtoken wC (some (.v 8)) (.k 16) (.imm 1)), lanes := 1, parts := [{ lane := 0, va := 0x1080, n := 64, val := 1 }] }
     let s := wMsg (wOp (wGraphOf wGraph) o) (.memoryReply 7)
     mapGet s.ops 7 = some o ∧ o.parts ≠ [] ∧ (o.parts.map (·.lane)).Nodup ∧ (∀ p ∈ o.parts, p.st = .ok ∧ p.off = 0 ∧ 0 < p.val.toNat ∧ p.val.toNat ≤ 65535) ∧
     ∀ u, u < 32 → o.lanes.getLsbD u = true → ∃ p ∈ o.parts, p.lane = u) ∧
    (∀ n ∈ [0, 65536], let o : Op := { warp := 1, kind := .word (.gtoken wC (some (.v 8)) (.k 16) (.imm 1)), lanes := 1, parts := [{ lane := 0, va := 0x1080, n := 64, val := BitVec.ofNat 128 n }] }
     let s := wMsg (wOp (wGraphOf wGraph) o) (.memoryReply 7)
     ((∀ p ∈ o.parts, p.val.toNat = 0 ∨ 65535 < p.val.toNat)) ∧ runningStale s (getWarp s 1) = false ∧ nodeAt s 0 0x1080 ≠ none ∧ (getWarp s 1).resident = true ∧ condAt s 1 0 ≠ .ended ∧
     o.lanes = BitVec.twoPow 32 0) := by
  refine ⟨⟨by constructor <;> decide +kernel, by decide +kernel⟩, wAllows _ _ _ _ _ (by decide +kernel) (by decide +kernel) (by decide +kernel),
    fun m => ⟨?_, by revert m; decide +kernel, by revert m; decide +kernel⟩, by decide +kernel, by decide +kernel,
    ⟨by decide +kernel, by decide +kernel, by decide +kernel, by decide +kernel, fun p hp => wNotPrivate _ _ _ _ (by revert p; decide +kernel)⟩, wApart _ _, wAligned _ _, by decide +kernel, by decide +kernel⟩
  cases m <;> constructor <;> decide +kernel

/-- The page tables, a graph header at 0x1000 with one SUBGRAPH node, and at 0x1100 a launch record of one group of one warp. -/
def wImage : List Host.Cell :=
  [(0x1000, 1), (0x1001, 32), (0x2000, 1), (0x2001, 48), (0x3000, 1), (0x3001, 64), (0x4008, 31), (0x4009, 80), (0x5000, 1), (0x5040, 4), (0x5101, 16), (0x5108, 12)] ++
  [(0x510C, 3), (0x5110, 1), (0x5114, 32), (0x5117, 33), (0x5118, 1), (0x511B, 50), (0x5130, 64), (0x5131, 1), (0x5132, 24), (0x5135, 8), (0x5138, 2), (0x513C, 1)]
/-- The words of that record. -/
def wRec : List Word := [0x1000, 0, 12, 3, 1, 0x21000020, 0x32000001, 0, 0, 0, 0, 0, 0x180140, 2048, 2, 1] ++ List.replicate 24 0
def wBase : State := { wPage 0x1F with mem := wImage }
def wIface (f : Iface → Iface) : State := { wBase with ifaces := [(0, f (getIface wBase 0))] }

/-- A byte of the page at 0x1000 is walked to the page at 0x5000. -/
theorem wWalkAt (s : State) (o : Nat) (h : o < 4096) (h1 : devNat s 0x1000 8 = 0x2001) (h2 : devNat s 0x2000 8 = 0x3001) (h3 : devNat s 0x3000 8 = 0x4001)
    (h4 : devNat s 0x4008 8 = 0x501F) : walkFrom s (0x1000 + o) 3 0x1000 = .ok (0x5000 + o) 0x501F 1 1 := by
  have i3 : 0x1000 + 8 * ((0x1000 + o) / 2 ^ (12 + 9 * 3) % 512) = 0x1000 := by omega
  have i2 : 0x2000 + 8 * ((0x1000 + o) / 2 ^ (12 + 9 * 2) % 512) = 0x2000 := by omega
  have i1 : 0x3000 + 8 * ((0x1000 + o) / 2 ^ (12 + 9 * 1) % 512) = 0x3000 := by omega
  have i0 : 0x4000 + 8 * ((0x1000 + o) / 2 ^ (12 + 9 * 0) % 512) = 0x4008 := by omega
  have p3 : entryPfn 0x2001 = 0x2000 := by decide
  have p2 : entryPfn 0x3001 = 0x3000 := by decide
  have p1 : entryPfn 0x4001 = 0x4000 := by decide
  have p0 : entryPfn 0x501F = 0x5000 := by decide
  have d : (0x1000 + o) / 2 ^ (12 + 9 * 0) = 1 := by omega
  have m : (0x1000 + o) % 2 ^ (12 + 9 * 0) = o := by omega
  have k : ∀ t, t < 0x6000 → physOk t = true := by intro t ht; have : t < Config.hbmTop := Nat.lt_trans ht (by decide); simp [physOk, this]
  unfold walkFrom; simp only [i3, h1]; rw [if_neg (by simp [k]), if_neg (by decide), if_neg (by decide), if_neg (by decide)]
  simp only [show (BitVec.ofNat 64 0x2001) = 0x2001 from rfl, p3]
  unfold walkFrom; simp only [i2, h2]; rw [if_neg (by simp [k]), if_neg (by decide), if_neg (by decide), if_neg (by decide)]
  simp only [show (BitVec.ofNat 64 0x3001) = 0x3001 from rfl, p2]
  unfold walkFrom; simp only [i1, h3]; rw [if_neg (by simp [k]), if_neg (by decide), if_neg (by decide), if_neg (by decide)]
  simp only [show (BitVec.ofNat 64 0x4001) = 0x4001 from rfl, p1]
  unfold walkFrom; simp only [i0, h4]; rw [if_neg (by simp [k]), if_neg (by decide), if_pos (by decide), if_neg (by decide)]
  simp only [show (BitVec.ofNat 64 0x501F) = 0x501F from rfl, p0, d, m]
  rfl

/-- Such a state. -/
structure wMaps (s : State) : Prop where
  e1 : devNat s 0x1000 8 = 0x2001
  e2 : devNat s 0x2000 8 = 0x3001
  e3 : devNat s 0x3000 8 = 0x4001
  e4 : devNat s 0x4008 8 = 0x501F
  tlb : s.tlb = []
  root : (getIface s 0).ptroot.toNat = 0x1000

theorem wVNat (s : State) (h : wMaps s) (o n : Nat) (ho : o + n ≤ 4096) : vNat s 0 (0x1000 + o) n = devNat s (0x5000 + o) n := by
  unfold vNat devNat vBytes devBytes
  congr 1
  refine List.map_congr_left fun i hi => ?_
  have hi : i < n := by simpa using hi
  have e : (0x1000 + o + i) % 2 ^ 64 = 0x1000 + (o + i) := by omega
  have w : Machine.translate s engineUnit 0 (0x1000 + (o + i)) = .ok (0x5000 + (o + i)) 0x501F 1 1 := by
    rw [wFresh s 0 h.tlb, h.root]; exact wWalkAt s (o + i) (by omega) h.e1 h.e2 h.e3 h.e4
  have g : ¬ 0x1000 + (o + i) ≥ 2 ^ 48 := by omega
  have c : checkPage s engineUnit 0 (0x1000 + (o + i)) {} = .ok (0x5000 + (o + i)) 0x501F (.ok (0x5000 + (o + i)) 0x501F 1 1) := by
    unfold checkPage; rw [if_neg g, w]; rfl
  rw [e]; unfold vByte vPa; rw [c]; simp [Nat.add_assoc]

def wLaunch : State := wMsg (wIface fun x => { x with launchq := [(0x1000, none)] }) (.graphLaunch 0 0x1000 none false)
theorem wLaunchMaps : wMaps wLaunch := by constructor <;> decide +kernel
theorem witness_GraphsRunTheirNodes_launch :
    (getIface wLaunch 0).launchq = (0x1000, none) :: [] ∧ wLaunch.engineWaits = [] ∧ launchMay wLaunch = true ∧ (getIface wLaunch 0).stopped = false ∧ (getIface wLaunch 0).resetting = false ∧
    engineRuns wLaunch (.graphLaunch 0 0x1000 none true) 0 [(0x1000, 64, { r := true, w := true })] = .ok ∧ wLaunch.graphs = [] ∧
    engineRuns wLaunch (.graphLaunch 0 0x1000 none true) 0 (launchRuns wLaunch 0 0x1000) = .ok := by decide +kernel
/-- Its header is good, and so is its record; a header of no nodes is not. -/
theorem witness_GraphsRunTheirNodes_header :
    vNat wLaunch 0 (0x1000 + 0) 4 = 1 ∧ vNat wLaunch 0 (0x1000 + 4) 4 = 0 ∧ vNat wLaunch 0 (0x1000 + 8) 4 = 0 ∧ vNat wLaunch 0 (0x1000 + 0x38) 8 = 0 ∧ vNat wLaunch 0 (0x1000 + 0x20) 8 = 0 ∧
    vNat wLaunch 0 (0x1000 + 0x40) 1 = 4 ∧ vNat wLaunch 0 (0x1000 + 0x42) 1 = 0 ∧ vNat wLaunch 0 (0x1000 + 0x43) 1 = 0 ∧ vNat wLaunch 0 (0x1000 + 0x44) 2 = 0 ∧
    vNat wLaunch 0 (0x1000 + 0x48) 1 = 0 ∧ vNat wLaunch 0 (0x1000 + 0x4C) 4 = 0 ∧ vNat wLaunch 0 (0x1000 + 0x74) 4 = 0 ∧ vNat wLaunch 0 (0x1000 + 0x78) 8 = 0 := by
  simp only [wVNat wLaunch wLaunchMaps _ _ (by decide : 0 + 4 ≤ 4096), wVNat wLaunch wLaunchMaps _ _ (by decide : 4 + 4 ≤ 4096), wVNat wLaunch wLaunchMaps _ _ (by decide : 8 + 4 ≤ 4096),
    wVNat wLaunch wLaunchMaps _ _ (by decide : 0x38 + 8 ≤ 4096), wVNat wLaunch wLaunchMaps _ _ (by decide : 0x20 + 8 ≤ 4096), wVNat wLaunch wLaunchMaps _ _ (by decide : 0x40 + 1 ≤ 4096),
    wVNat wLaunch wLaunchMaps _ _ (by decide : 0x42 + 1 ≤ 4096), wVNat wLaunch wLaunchMaps _ _ (by decide : 0x43 + 1 ≤ 4096), wVNat wLaunch wLaunchMaps _ _ (by decide : 0x44 + 2 ≤ 4096),
    wVNat wLaunch wLaunchMaps _ _ (by decide : 0x48 + 1 ≤ 4096), wVNat wLaunch wLaunchMaps _ _ (by decide : 0x4C + 4 ≤ 4096), wVNat wLaunch wLaunchMaps _ _ (by decide : 0x74 + 4 ≤ 4096),
    wVNat wLaunch wLaunchMaps _ _ (by decide : 0x78 + 8 ≤ 4096)]
  decide +kernel

/-- Node 1 of each kind is READY, alone in its queue. -/
def wReady (k : Nat) : State := { wMsg (wIface fun x => { x with ready := [[(3, 1)], [], [], []] }) (.nodeDispatch 0 none) with
  graphs := [(3, { wGraph with funcrec := 0x1100, nodes := [{ wNode0 with args := 0 }, { kind := k, st := .ready, target := if k = 0 then 0x1100 else 0x1008 }] })] }
theorem witness_GraphsRunTheirNodes_dispatch : ∀ k, k < 5 →
    (getIface (wReady k) 0).ready = [[(3, 1)], [], [], []] ∧ 1 < (getGraph (wReady k) 3).nodes.length ∧
    (nodeOf (wReady k) 3 1).prio = 0 ∧ (nodeOf (wReady k) 3 1).kind = k ∧ mapWf (wReady k).warps = true ∧ (∀ u, u < 32 → condAt (wReady k) 1 u ≠ .waiting (.fire 7)) ∧
    (getIface (wReady k) 0).stopped = false ∧ (getGraph (wReady k) 3).closed = false ∧ (getGraph (wReady k) 3).iface = 0 ∧ engineRuns (wReady k) (.nodeDispatch 0 (some (3, 1, 0))) 0 [(0x1100, 0xA0, { r := true })] = .ok ∧
    engineRuns (wReady k) (.nodeDispatch 0 (some (3, 1, 0))) 0 (recordRuns (wReady k) 0 0x1100) = .ok := by
  decide +kernel
theorem witness_GraphsRunTheirNodes_record : vWords (wReady 0) 0 0x1100 40 = wRec := by
  have h : wMaps (wReady 0) := by constructor <;> decide +kernel
  have e : vWords (wReady 0) 0 0x1100 40 = (List.range 40).map fun k => BitVec.ofNat 32 (devNat (wReady 0) (0x5100 + 4 * k) 4) :=
    List.map_congr_left fun k hk => by
      have hk : k < 40 := by simpa using hk
      have := wVNat _ h (0x100 + 4 * k) 4 (by omega)
      rw [show 0x1000 + (0x100 + 4 * k) = 0x1100 + 4 * k by omega, show 0x5000 + (0x100 + 4 * k) = 0x5100 + 4 * k by omega] at this
      rw [this]
  rw [e]; decide +kernel
theorem witness_GraphsRunTheirNodes_code : launchCode (wReady 0) 0 (parseRecord wRec []) (some 1) true false = none := by decide +kernel
theorem witness_GraphsRunTheirNodes_func : launchCode (wReady 1) 0 (parseRecord wRec []) (some 1) true true = none ∧ launchCode (wReady 1) 0 (parseRecord [] []) (some 1) true true ≠ none := by decide +kernel

def wSignal : State := { wMsg wBase (.nodeDispatch 0 (some (3, 1, 0))) with graphs := [(3, { wGraph with nodes := [wNode0, { kind := 3, st := .running, target := 0x1F00, signal := some (5, 127) }] })] }
theorem witness_GraphsRunTheirNodes_signal : (nodeOf wSignal 3 1).attempts = 0 ∧ (nodeOf wSignal 3 1).signal = some (5, 127) ∧ activeNode (nodeOf wSignal 3 0) = true ∧
    (getGraph wSignal 3).closed = false ∧
    checkPage wSignal engineUnit 0 0x1F00 { r := true, w := true } = .ok 0x5F00 0x501F (.ok 0x5F00 0x501F 1 1) ∧ hasError wSignal 0x5F00 8 = false ∧
    (∀ b : Bool, let s := { wSignal with ifaces := [(0, { getIface wSignal 0 with masked := if b then BitVec.twoPow 64 63 else 0 })] }
     (getIface s 0).masked.getLsbD 63 = b) := by decide +kernel

/-- Node 0 in a state, with a budget of retries. -/
def wEnds (st : NodeSt) (r : Nat) (m : Msg) : State := { wMsg wBase m with graphs := [(3, { wGraph with nodes := [{ wNode0 with st := st, retries := r }, wNode1] }),
  (4, { hdr := 0x1000, nodes := [{ kind := 4, st := .done }], ended := true, parent := some (3, 0) })] }
theorem witness_GraphsRunTheirNodes_complete : ∀ st ∈ [NodeSt.running, .cancelling, .retry], 0 < (getGraph (wEnds st 0 (.nodeComplete 3 0)) 3).nodes.length ∧
    (nodeOf (wEnds st 0 (.nodeComplete 3 0)) 3 0).st = st ∧ (getGraph (wEnds st 0 (.nodeComplete 3 0)) 3).ended = false ∧ (getGraph (wEnds st 0 (.nodeComplete 3 0)) 3).closed = false ∧
    ∀ k ∈ (nodeOf (wEnds st 0 (.nodeComplete 3 0)) 3 0).succ, k < (getGraph (wEnds st 0 (.nodeComplete 3 0)) 3).nodes.length := by decide +kernel
theorem witness_GraphsRunTheirNodes_fail : ∀ r, r < 2 → (nodeOf (wEnds .running r (.nodeFail 3 0 4 255)) 3 0).st = .running ∧ (getGraph (wEnds .running r (.nodeFail 3 0 4 255)) 3).closed = false ∧
    (∀ k, k < 2 → (∀ j ∈ (nodeOf (wEnds .running r (.nodeFail 3 0 4 255)) 3 k).succ, j < 2) ∧ (nodeOf (wEnds .running r (.nodeFail 3 0 4 255)) 3 k).succ.Nodup) ∧
    (nodeOf (wEnds .running r (.nodeFail 3 0 4 255)) 3 1).st ≠ .running := by decide +kernel
def wParent : State := wEnds .running 0 (.nodeWorkStopped 4 0)
theorem witness_GraphsRunTheirNodes_end : (getGraph wParent 4).ended = true ∧ (getGraph wParent 4).closed = false ∧ (getGraph wParent 4).resetting = false ∧ (getGraph wParent 4).parent = some (3, 0) ∧
    0 < (getGraph wParent 3).nodes.length ∧ (getGraph wParent 3).closed = false ∧ (nodeOf wParent 3 0).st = .running ∧ engineRuns wParent (.nodeWorkStopped 4 0) 0 (closeRuns (getGraph wParent 4)) = .ok := by decide +kernel

/-- Two lanes trap SOFTWARE; the launch has a handler for it or none, and the threads are inside a handler or not. -/
def wTraps : List TrapIn := [{ lane := 0, cause := 13, addr := 4 }, { lane := 31, cause := 13, detail := 127 }]
def wTrap (v b : Bool) : State := { wSt with
  launches := [(1, { getLaunch wSt 1 with record := { (getLaunch wSt 1).record with trapvec := List.replicate 16 (if v then 0x24 else 0xFFFFFFFF) } })]
  warps := [(1, { getWarp wSt 1 with threads := List.replicate 32 { pc := 0x1000, trapinfo := if b then 256 else 0 } })] }
theorem witness_TrapsEnterTheirHandlers :
    (∀ v b : Bool, let s := wTrap v b
     (getLaunch s 1).aborted = none ∧ (∀ t ∈ wTraps, t.cause = 13 ∧ t.lane < 32 ∧ t.lane < (getWarp s 1).threads.length ∧ t.detail < 128) ∧ (wTraps.map (·.lane)).Nodup ∧
     (getLaunch s (getWarp s 1).launch).record.trapvec.getD 13 0xFFFFFFFF = (if v then 0x24 else 0xFFFFFFFF) ∧ ∀ t ∈ wTraps, (threadOf (getWarp s 1) t.lane).trapinfo.getLsbD 8 = b) ∧
    (let s := wIface fun x => { x with fqsize := 4, fqbase := 0x6000, fqtail := 15, fqhead := 1 }
     let q := queueOf (getIface s 0) false
     (List.replicate 8 (0 : Word)).length = 8 ∧ 4 ≤ q.size ∧ q.size ≤ 16 ∧ q.sump = false ∧ (q.tail + 2 ^ q.size - q.head % 2 ^ q.size) % 2 ^ q.size < 2 ^ q.size - 1 ∧
     q.base + 32 * q.tail + 32 ≤ Config.hbmTop) ∧
    (let s := wIface fun x => { x with fqsize := 4, fqbase := 0x6000, fqtail := 15, fqhead := 0 }
     let q := queueOf (getIface s 0) false
     (q.tail + 2 ^ q.size - q.head % 2 ^ q.size) % 2 ^ q.size = 2 ^ q.size - 1) ∧
    (∀ b : Bool, Issues (wWith fun x => { x with threads := List.replicate 32 { trapinfo := if b then 256 else 0 } }) wC 1 allLanes allLanes) ∧
    (let s := wMsg (wIface fun x => { x with tqsize := 16, tqbase := 0x6000 }) (.fatalRecord 0 17)
     let q := queueOf (getIface s 0) true
     s.msg = some (.fatalRecord 0 17) ∧ mapWf s.launches = true ∧ mapGet s.launches 1 = some (getLaunch s 1) ∧ (getLaunch s 1).iface = 0 ∧ (getLaunch s 1).aborted = none ∧ 4 ≤ q.size ∧ q.size ≤ 16 ∧
     q.sump = false ∧ q.base + 32 * q.tail + 32 ≤ Config.hbmTop ∧ (∀ e ∈ s.warps, e.2.latched = []) ∧ (getIface s 0).fatalx.getLsbD 31 = false) := by
  refine ⟨by decide +kernel, by decide +kernel, by decide +kernel, fun b => by cases b <;> constructor <;> decide +kernel, by decide +kernel⟩

def wThreads (c : Cond) (f : Warp → Warp) : State := { wBase with warps := [(1, f { getWarp wBase 1 with threads := List.replicate 32 { cond := c, pc := 0x100C } })] }
theorem witness_WarpsComeAndGo :
    (let s := { wMsg (wIface fun x => { x with places := [⟨0, 0, some 1⟩] }) (.groupPlacement 1 [5]) with launches := [(1, { getLaunch wSt 1 with placed := 0 })], next := 8 }
     let r := (getLaunch s 1).record
     placeHead s 0 = some 1 ∧ (homesOf r [5]).length = gangSize r ∧ gangOk s 0 r (homesOf r [5]) = true ∧ mapWf s.warps = true ∧ mapWf s.groups = true ∧
     (∀ e ∈ s.warps, e.1 < s.next) ∧ (∀ e ∈ s.groups, e.1 < s.next) ∧ homesOf r [5] = [[5]] ∧ 0 < groupWarps r) ∧
    (let s := wMsg (wThreads .ended id) (.warpRetire 1)
     (∀ th ∈ (getWarp s 1).threads, th.cond = .ended) ∧ (getWarp s 1).retired = false ∧ (getWarp s 1).frames = [] ∧ s.ops = [] ∧ mapGet s.warps 1 = some (getWarp s 1)) ∧
    (∀ b : Bool, let s := wMsg (wThreads (.waiting .anyEvent) fun x => { x with stop := b }) (.warpRetire 1)
     atBlock s 1 (getWarp s 1) = true ∧ (getWarp s 1).stop = b ∧ (getIface s 0).resetting = false ∧ ∃ th ∈ (getWarp s 1).threads, th.cond ≠ .ended) ∧
    (let s := wMsg (wThreads (.waiting (.room 0 0)) fun x => { x with stop := true }) (.warpRetire 1)
     atBlock s 1 (getWarp s 1) = true ∧ (graphFires (getWarp s 1) = false ∨ ∀ u, u < 32 → condAt s 1 u ≠ .waiting .anyEvent)) ∧
    (let s := wMsg (wThreads (.waiting .anyEvent) fun x => { x with events := [(0, { typ := 8, repeats := false, hoff := 0, object := 0, arg := 0 })], evp := 1 }) (.warpRetire 1)
     graphFires (getWarp s 1) = true ∧ (getIface s 0).resetting = false ∧ (getWarp s 1).frames = [] ∧ (getWarp s 1).threads.length = 32 ∧ condAt s 1 0 = .waiting .anyEvent) ∧
    (let s := wMsg (wThreads .ended fun x => { x with retired := true }) (.groupRetire 1)
     mapGet s.groups 1 = some (getGroup s 1) ∧ (∀ e ∈ s.warps, e.2.retired = true) ∧ s.copies = [] ∧ s.arrays = [] ∧ mapGet s.launches 1 = some (getLaunch s 1)) ∧
    (∀ b : Bool, let s := { wMsg wBase (.kernelBoundary 1) with launches := [(1, { getLaunch wBase 1 with retired := 1, ending := b })] }
     mapGet s.launches 1 = some (getLaunch s 1) ∧ (getLaunch s 1).retired = (getLaunch s 1).placed ∧ (getLaunch s 1).placed = (getLaunch s 1).count ∧ (getLaunch s 1).ending = b ∧
     (getLaunch s 1).pushes = 0 ∧ mapWf s.l1 = true ∧ s.pushOut = []) ∧
    (let s := { wMsg (wWith fun x => { x with eligible := some 0 }) (.warpUrgent 1) with clock := 32 }
     (getWarp s 1).urgent = false ∧ (getWarp s 1).eligible = some 0 ∧ 0 + 32 ≤ s.clock) ∧
    (let s := { wMsg (wThreads (.waiting .anyEvent) id) (.eviction 1) with ifaces := [(0, { getIface wBase 0 with preempt := true })] }
     evictMay s 1 (getWarp s 1) = true ∧ mapWf s.ops = true) ∧
    (let s := wMsg (wThreads (.waiting .anyEvent) fun x => { x with resident := false }) (.groupStateSave 1)
     saveMay s 1 (getGroup s 1) = true ∧ (getGroup s 1).cores = [0]) ∧
    (∀ b : Bool, let s := { wMsg (wThreads (.waiting .anyEvent) fun x => { x with resident := false, evp := 1, events := [(0, { typ := 9, repeats := false, hoff := 0, object := 0, arg := 0 })] })
       (.warpResume 1 0) with groups := [(1, { getGroup wBase 1 with saved := b })] }
     resumeMay s 1 0 = true ∧ (getGroup s (getWarp s 1).group).saved = b ∧ mapWf s.warps = true) := by
  decide +kernel

theorem witness_HostAccessesAreServedAtTheSlices :
    (∀ a ∈ [0x5000, Config.hbmTop - 2, Config.hostBase, 2 ^ 52 - 2], let s := wMsg wBase (.postedWrite 0 a [1, 2])
     s.msg = some (.postedWrite 0 a [1, 2]) ∧ s.sys.stage = 5 ∧ 0 ≤ s.sys.vfs ∧ (a + 2 ≤ Config.hbmTop ∨ (Config.hostBase ≤ a ∧ a + 2 ≤ 2 ^ 52))) ∧
    (let s := wMsg wBase (.hostSnoop (Config.hostBase / 64))
     s.sys.stage = 5 ∧ Config.hostBase ≤ 64 * (Config.hostBase / 64)) ∧
    (let s := { wMsg wBase (.bisnp 1) with hostHeld := [1] }
     1 ∈ s.hostHeld ∧ 1 ∉ s.bisnps) ∧
    (let s := { wSt with cur := none, cc := [(cacheKey 0 16, { data := 5, st := .core 0 })], net := [⟨some 0, .pushArrive 0 0 1 1 7, 0⟩], hostHeld := [1] }
     Move.flight 0 ∈ candidates s ∧ 1 ∈ waitsLines s (.flight 0) ∧ 1 ∉ s.bisnps) ∧
    (let s := { wSt with cur := none, cc := [(cacheKey 0 16, { data := 5, st := .core 0 })], net := [⟨some 0, .pushArrive 0 0 1 1 7, 0⟩], inbox := [.hostRead 0 64 64 true], granted := [1] }
     s.inbox[0]? = some (.hostRead 0 64 64 true) ∧ 1 ∈ linesOver 64 64 ∧ 1 ∈ s.granted ∧ Move.flight 0 ∈ candidates s ∧ inputOf s (.flight 0) = none ∧
     1 ∈ modifies s (.flight 0) (·.granted)) ∧
    (∀ a n m, NoBreach (wMsg wBase m) a n true false) ∧
    (let s := { wMsg wBase (.bisnpResponse 1) with bisnps := [1], hostHeld := [1] }
     1 ∈ s.bisnps) ∧
    (let s := { wMsg wBase (.hostWriteback 1 (List.replicate 64 5)) with hostHeld := [1] }
     1 ∈ s.hostHeld ∧ (List.replicate 64 (5 : Byte)).length = 64 ∧ 64 * 1 + 64 ≤ Config.hbmTop) := by
  exact ⟨by decide +kernel, by decide +kernel, by decide +kernel, by decide +kernel, by decide +kernel, fun _ _ _ => wNoBreach _ _ _ _ _ ⟨rfl, fun _ => rfl, rfl⟩, by decide +kernel, by decide +kernel⟩


/-- Interface 0 runs; one more is enabled. -/
def wRuns (m : Msg) (f : Iface → Iface) : State := { wMsg (wIface f) m with sys := { wBase.sys with vfs := 1 } }
theorem witness_InterfaceRegistersTakeTheirWrites :
    (let s := wRuns (.launch 0 0x1000) id
     s.msg = some (.launch 0 0x1000) ∧ 2 ≤ s.sys.stage ∧ s.sys.stage ≤ 5 ∧ s.sys.stage = 5 ∧ 1 ≤ s.sys.vfs ∧ (getIface s 0).resetting = false ∧ (getIface s 0).stopped = false ∧
     (getIface s 0).launchq.length < 256 ∧ s.tlb = [] ∧ s.ops = [] ∧ s.recWaits = [] ∧ (∃ e ∈ s.warps, e.2.iface = 0 ∧ e.2.resident = true)) ∧
    (let s := wRuns (.launch 0 0x1000) fun x => { x with launchq := List.replicate 256 (0, none) }
     256 ≤ (getIface s 0).launchq.length) ∧
    (let s := { wRuns (.fqhead 0 1) fun x => { x with fqsize := 4, fqbase := 0x6000, fqtail := 15 } with recWaits := [⟨0, List.replicate 8 1⟩] }
     let q := queueOf { getIface s 0 with fqhead := 1 } false
     s.recWaits = [⟨0, List.replicate 8 1⟩] ∧ 4 ≤ q.size ∧ q.size ≤ 16 ∧ q.sump = false ∧ (q.tail + 2 ^ q.size - 1 % 2 ^ q.size) % 2 ^ q.size < 2 ^ q.size - 1 ∧ q.base + 32 * q.tail + 32 ≤ Config.hbmTop) ∧
    (let s := wRuns (.msixUnmask 0 63) fun x => { x with pending := 0x8000000000000000 }
     (getIface s 0).pending.getLsbD 63 = true) ∧
    (let s := wRuns (.invalidationComplete 0) fun x => { x with invbusy := true, invs := [0x1000, 1] }
     (getIface s 0).invbusy = true ∧ oldAccess s 0 = false ∧ (∀ e ∈ s.ops, ∀ p ∈ e.2.parts, p.walked = false) ∧ (63 : Nat) < 64) ∧
    (let s := { wRuns (.invalidationComplete 0) fun x => { x with invbusy := true, invs := [1] } with
        ops := [(7, { wAcc wLd .device with parts := (wAcc wLd .device).parts.map fun p => { p with st := .done }, acks := 1 })] }
     oldAccess s 0 = true) ∧
    (let s := { wRuns .bucketRefill id with gtime := 1024 }
     s.refill + 1024 ≤ s.gtime ∧ mapWf s.ifaces = true) := by
  decide +kernel

theorem witness_ResetsClearTheirTenant :
    (let s := wRuns (.reset 0) id
     s.sys.stage = 5 ∧ 0 ≤ s.sys.vfs ∧ (getIface s 0).resetting = false ∧ mapWf s.graphs = true ∧ mapWf s.launches = true) ∧
    (let s := { wRuns (.resetKillTimeout 0) fun x => { x with resetting := true, killAt := some 1000000 } with gtime := 1000000 }
     (getIface s 0).killAt = some 1000000 ∧ (∃ e ∈ s.warps, e.2.iface = 0 ∧ ∃ th ∈ e.2.threads, th.cond ≠ .ended) ∧ mapWf s.warps = true) ∧
    (let s := { wRuns (.resetComplete 0) fun x => { x with resetting := true, masked := 0xFFFFFFFFFFFFFFFE } with
       warps := [(1, { getWarp wBase 1 with threads := List.replicate 32 { cond := .ended } })], colls := [(0, {})], regions := [(0, wRegion .read .opened)] }
     (getIface s 0).resetting = true ∧ ¬ (∃ e ∈ s.warps, e.2.iface = 0 ∧ ∃ th ∈ e.2.threads, th.cond ≠ .ended) ∧ mapWf s.warps = true ∧ mapWf s.regions = true ∧ mapWf s.colls = true ∧
     (getIface s 0).masked.getLsbD 0 = false ∧ mapGet s.colls 0 = some {}) ∧
    (let s := { wRuns (.virtualFunctionEnable 0) id with ifaces := [(0, {}), (1, { policy := 3 })] }
     2 ≤ s.sys.stage ∧ s.sys.stage ≤ 5 ∧ mapGet s.ifaces 1 = some { policy := 3 } ∧ min 0 255 < 1 ∧ (∀ e ∈ s.ifaces, min 0 255 < e.1 → e.1 = 1) ∧ mapWf s.ifaces = true) := by
  decide +kernel

theorem witness_ErrorsAreCountedAndRetired :
    (∀ e ∈ [(1, 15), (2, 7), (3, 31), (4, 15)], let s := { wRuns (.eccCorrected e.1 5) fun x => { x with fqsize := 4, fqbase := 0x6000, masked := 0 } with
       sys := { wBase.sys with counts := [⟨e.1, 5, e.2, false⟩] } }
     let q := queueOf (getIface s 0) false
     s.sys.stage = 5 ∧ countOf s e.1 5 + 1 = (s.sys.thresholds.extractLsb' (8 * (e.1 - 1)) 8).toNat ∧ (e.1, 5) ∉ s.sys.retired ∧ 5 ∉ s.sys.retiring ∧ (s.sys.counts.all fun c => !c.lasting) = true ∧
     4 ≤ q.size ∧ q.size ≤ 16 ∧ q.sump = false ∧ (q.tail + 2 ^ q.size - q.head % 2 ^ q.size) % 2 ^ q.size < 2 ^ q.size - 1 ∧ q.base + 32 * q.tail + 32 ≤ Config.hbmTop ∧ s.owner = [] ∧
     (getIface s 0).masked.getLsbD 0 = false ∧ (getIface s 0).masked.getLsbD 1 = false) ∧
    (let s := wMsg (wOp wBase (wAcc wLd .device)) (.eccUncorrectable 2 5 0x5000 (some 7))
     s.sys.stage = 5 ∧ mapGet s.ops 7 = some (wAcc wLd .device) ∧ mapGet s.ops 6 = none) ∧
    (let s := { wMsg wBase .errorWindowExpire with gtime := 2 ^ 30 }
     s.sys.windowEnd ≤ s.gtime) ∧
    ((20 : Word).toNat % 64 = 20 ∧ (40 : Word).toNat % 64 = 40 ∧ 2 ≤ wBase.sys.stage ∧ wBase.sys.stage ≤ 5 ∧ (getIface wBase 0).resetting = false) := by
  decide +kernel

/-- A collective of one F32 for each of two devices, over link 15; its descriptor is at 0x1000. -/
def wColl : Coll := { desc := 0x1000, ncont := 1, ty := 8, ndev := 2, rank := 0, count := 1, src := 0x1F00, dst := 0x1F80, links := 0x8000, routes := [(15, 1)], table := 0x1E00 }
def wColls (c : Coll) (m : Msg) : State := { wRuns m id with colls := [(0, c)], sys := { wBase.sys with links := [(15, { up := true, rank := 1, retries := 16 })] } }
/-- Its descriptor in memory: HANDLE 0, NCONT 1, F32, ADD, two devices, ARRIVE 0x1E80, LINKS 0x8000. -/
def wOpened : State := { wColls {} (.collOpen 0 0x1000) with colls := [], mem := [(0x1000, 1), (0x1001, 32), (0x2000, 1), (0x2001, 48), (0x3000, 1), (0x3001, 64), (0x4008, 31), (0x4009, 80), (0x5005, 8), (0x5006, 1), (0x5008, 2), (0x500C, 1), (0x5010, 0x80), (0x5011, 0x1E), (0x5029, 0x80)] }
theorem wPageOk (s : State) (h : wMaps s) (o : Nat) (need : Need) (ho : o < 4096) (hn : needOk need 0x501F = true) :
    checkPage s engineUnit 0 (0x1000 + o) need = .ok (0x5000 + o) 0x501F (.ok (0x5000 + o) 0x501F 1 1) := by
  have w : Machine.translate s engineUnit 0 (0x1000 + o) = .ok (0x5000 + o) 0x501F 1 1 := by
    rw [wFresh s 0 h.tlb, h.root]; exact wWalkAt s o ho h.e1 h.e2 h.e3 h.e4
  unfold checkPage; rw [if_neg (by omega), w]; exact if_pos hn

theorem wNotPark (s : State) (h : wMaps s) (o : Nat) (need : Need) (ho : o < 4096) : checkPage s engineUnit 0 (0x1000 + o) need ≠ .park := by
  have w : Machine.translate s engineUnit 0 (0x1000 + o) = .ok (0x5000 + o) 0x501F 1 1 := by
    rw [wFresh s 0 h.tlb, h.root]; exact wWalkAt s o ho h.e1 h.e2 h.e3 h.e4
  unfold checkPage; rw [if_neg (by omega), w]; dsimp only
  cases needOk need 0x501F <;> exact Check.noConfusion

theorem witness_CollectivesFoldInOrder :
    (let s := wColls wColl (.linkDown 15)
     s.msg = some (.linkDown 15) ∧ 15 < 16 ∧ (getLink s 15).up = true ∧ 16 ≤ (getLink s 15).retries ∧ s.colls = [(0, wColl)] ∧ wColl.st = 0 ∧ wColl.links.getLsbD 15 = true ∧ s.engineWaits = [] ∧
     wColl.desc % 64 = 0 ∧ 2 ≤ s.sys.stage ∧ s.sys.stage ≤ 5) ∧
    (∀ m ∈ [Msg.linkDown 15, .collContribute 0 63, .collEnd 0 [[0, 0, 0, 0]], .collAbort 0 255], ∃ pa e k, checkPage (wColls wColl m) engineUnit 0 (wColl.desc + 0x2C) { w := true } = .ok pa e k) ∧
    (∀ need, checkPage (wColls wColl (.collAbort 0 255)) engineUnit 0 (wColl.desc + 0x2C) need ≠ .park) ∧
    (let s := wColls { wColl with bits := 1 } (.collContribute 0 64)
     mapGet s.colls 0 = some (getColl s 0) ∧ (getColl s 0).st = 0 ∧ (getColl s 0).bits.getLsbD (getColl s 0).merged = true ∧ (getColl s 0).merged < (getColl s 0).ncont ∧
     engineRuns s (.collContribute 0 64) 0 [(0x1F00, 8, { r := true })] = .ok) ∧
    (let c := { wColl with sent := true, acc := [0x3F800000] }
     let s := wColls c (.collEnd 0 [[0, 0, 0, 0]])
     mapGet s.colls 0 = some c ∧ [[(0 : Byte), 0, 0, 0]].length + 1 = c.ndev ∧ c.acc.length = c.count ∧ c.rank < c.ndev ∧ c.embx = false ∧ c.spoiled = false ∧ c.dst + 4096 < 2 ^ 64 ∧ engineRuns s (.collEnd 0 [[0, 0, 0, 0]]) 0 [(c.dst, 4 * 1, { w := true })] = .ok ∧
     c.dst % 4096 + 4 * 1 ≤ 4096 ∧ ∀ p ∈ [[(0 : Byte), 0, 0, 0]], p.length = 4 * c.count) ∧
    (let c := { wColl with embx := true }
     let s := wColls c (.embxRequest 0 1 [])
     mapGet s.colls 0 = some c ∧ engineRuns s (.embxRequest 0 1 []) 0 [(c.table, 64, { r := true })] = .ok ∧ c.routes.find? (fun r => r.2 == 1) = some (15, 1)) := by
  refine ⟨by decide +kernel, fun m hm => ⟨_, _, _, wPageOk _ ?_ 0x2C _ (by decide) (by decide)⟩, fun need => wNotPark _ ?_ 0x2C _ (by decide), by decide +kernel, by decide +kernel, by decide +kernel⟩
  rotate_left
  · constructor <;> decide +kernel
  simp only [List.mem_cons, List.mem_nil_iff, or_false] at hm
  obtain rfl | rfl | rfl | rfl := hm <;> constructor <;> decide +kernel

/-- A descriptor that COLLOPEN accepts. -/
theorem witness_CollectivesFoldInOrder_open : (∃ pa e k, checkPage wOpened engineUnit 0 0x1000 { r := true, w := true } = .ok pa e k ∧ hasError wOpened pa 64 = false) ∧ wOpened.sys.stage = 5 ∧ (getIface wOpened 0).resetting = false ∧
    (∃ pb e k, checkPage wOpened engineUnit 0 0x1E80 { r := true } = .ok pb e k ∧ hasError wOpened pb 8 = false) ∧ (∀ n ∈ [15], (getLink wOpened n).up = true) ∧
    (let f (off n : Nat) : Nat := vNat wOpened 0 (0x1000 + off) n
     f 4 4 = 0x10800 ∧ f 8 4 = 2 ∧ f 0xC 4 = 1 ∧ f 0x10 8 = 0x1E80 ∧ f 0x28 4 = 0x8000 ∧ f 0x38 8 = 0) := by
  have h : wMaps wOpened := by constructor <;> decide +kernel
  refine ⟨⟨_, _, _, wPageOk _ h 0 _ (by decide) (by decide), by decide +kernel⟩, by decide +kernel, by decide +kernel, ⟨_, _, _, wPageOk _ h 0xE80 _ (by decide) (by decide), by decide +kernel⟩, by decide +kernel, ?_⟩
  simp only [wVNat wOpened h _ _ (by decide : 4 + 4 ≤ 4096), wVNat wOpened h _ _ (by decide : 8 + 4 ≤ 4096), wVNat wOpened h _ _ (by decide : 0xC + 4 ≤ 4096), wVNat wOpened h _ _ (by decide : 0x10 + 8 ≤ 4096),
    wVNat wOpened h _ _ (by decide : 0x28 + 4 ≤ 4096), wVNat wOpened h _ _ (by decide : 0x38 + 8 ≤ 4096)]
  decide +kernel

def wSys (x : Sys) (m : Msg) : State := { State.reset with sys := x, msg := some m }
theorem witness_BringUpPassesItsStages :
    (∀ e ∈ [((1 : Nat), Msg.supplyStable), (2, .romStage true), (3, .verify []), (4, .memoryStage none), (4, .ready)], let s := wSys { stage := e.1, trained := true } e.2
     s.msg = some e.2 ∧ s.sys.stage = e.1 ∧ s.sys.error = 0 ∧ s.sys.trained = true) ∧
    (∀ n, 2 ≤ n → n ≤ 4 → let s := wSys { stage := 3, error := n } (.bootimg 0)
     s.sys.stage = 3 ∧ 2 ≤ s.sys.error ∧ s.sys.error ≤ 4 ∧ 8 % 8 = 0 ∧ (getIface s 0).resetting = false) ∧
    (2 ≤ (wSys { stage := 5 } .ready).sys.stage ∧ (getIface (wSys { stage := 5 } .ready) 0).resetting = false ∧ (wSys { stage := 5 } .ready).sys.attbusy = false ∧
     ∀ n ∈ [Config.hostBase, 2 ^ 52 - 512], (BitVec.ofNat 64 n).toNat = n ∧ n % 64 = 0 ∧ Config.hostBase ≤ n ∧ n + 512 ≤ 2 ^ 52) ∧
    (let s := wSys { stage := 5, attbusy := true, attreq := 0x0008000000000000, firmware := [1] } .attestationDone
     s.sys.attbusy = true ∧ Config.hostBase ≤ s.sys.attreq.toNat ∧ s.sys.attreq.toNat + 512 ≤ 2 ^ 52 ∧ s.sys.firmware ≠ []) :=
  ⟨by decide +kernel, fun n h2 h4 => ⟨rfl, h2, h4, rfl, rfl⟩, by decide +kernel, by decide +kernel⟩

/-- A window with one sample to come, each of the averages at the edge of a rule. -/
def wLimit (mv die hbm : Nat) : State := wSys { stage := 5, clkstep := 1, window := List.replicate 999 ⟨mv, 0, die, 0, hbm, 0⟩ } (.limitSample ⟨mv, 0, die, 7, hbm, 3⟩)
theorem witness_LimitsThrottleAndShutDown :
    (wSys { stage := 6, above := false } .powerOn).sys.stage = 6 ∧ (wSys { stage := 4, error := 5 } .hostLinkReset).sys.error ≠ 0 ∧ (wSys { stage := 5 } (.shutdown 255 255)).sys.stage ≠ 6 ∧
    (∀ e ∈ [(36000, 0, 0), (40000, 105, 0), (40000, 104, 95), (40000, 0, 0), (43000, 89, 79), (42000, 94, 84)], let s := wLimit e.1 e.2.1 e.2.2
     36000 ≤ e.1 ∧ 2 ≤ s.sys.stage ∧ s.sys.stage ≠ 6 ∧ s.sys.window.length = 999 ∧ s.sys.powers.length < 9999 ∧ 0 < s.sys.clkstep ∧ s.sys.clkstep < 3) ∧
    ((List.replicate 999 40000).sum + 40000 = 40000000 ∧ (List.replicate 999 105).sum + 105 = 105000 ∧ (List.replicate 999 104).sum + 104 < 105000 ∧ (List.replicate 999 95).sum + 95 = 95000 ∧
     (List.replicate 999 43000).sum + 43000 = 43000000 ∧ (List.replicate 999 89).sum + 89 < 90000 ∧ (List.replicate 999 79).sum + 79 < 80000) := by
  decide +kernel

/-- The NOP of `withFetchWord` is fetched, decodes, and is the only choice of the next step. -/
theorem witness_StepRunsTheDecodedWord : (let s := State.reset.withFetchWord 96 wNop
     chooseMove s = .word 1 allLanes 0x1000 true false ∧ mapWf s.warps = true ∧ fetchAt s (getWarp s 1) 0x1000 = .word (BitVec.ofNat 96 wNop) ∧ (getWarp s 1).latched = [] ∧
     (getWarp s 1).threads.length = 32 ∧ decodeWord (limitsOf s (getWarp s 1)) (BitVec.ofNat 96 wNop) = .ok (.nop ⟨7, 0xF0000⟩)) ∧
    (let s := { State.reset.withFetchWord 96 wNop with warps := [(1, { getWarp wSt 1 with latched := [{ cause := 13, detail := 0, addr := 0 }] })] }
     fetchAt s (getWarp s 1) 0x1000 = .word (BitVec.ofNat 96 wNop) ∧ (getWarp s 1).latched ≠ []) ∧
    (let s := wSt
     fetchAt s (getWarp s 1) 0x100C = .trap causeAccess ∧ fetchAt s (getWarp s 1) 0x1004 = .trap causeAlign ∧ hasError s 0x5000 12 = false ∧
     fetchAt { s with errors := [0x500B] } (getWarp s 1) 0x1000 = .trap causeAccess ∧ fetchAt { s with parks := [(3, wEntry)] } (getWarp s 1) 0x1000 = .park) ∧
    chooseMove State.reset = .tick := by
  decide +kernel

theorem witness_DecodeInvertsEncode : (Instr.nop ⟨7, 0xF0000⟩).wf = true ∧ (Instr.bra ⟨0xF, 0xF0000⟩ 0x1FFFFF).wf = true := by decide +kernel
theorem witness_EveryStepAnswers : ¬ isEvent (.nop wC) ∧ wSt.cur = some (1, allLanes) ∧ guardLanes wSt 1 (getWarp wSt 1) allLanes 0xF = 0 ∧ (wMsg wSt .ready).msg = some .ready := by
  refine ⟨?_, by decide +kernel, by decide +kernel, rfl⟩
  rintro ⟨m, h⟩; cases m <;> simp [Msg.instr] at h

/-- One step of the machine: the NOP is issued, and the thread stands at the next word. -/
theorem test_step_nop : (match step (State.reset.withFetchWord 96 wNop) with
    | .next t => decide (pcAt t 1 0 = 0x100C ∧ pcAt t 1 31 = 0x100C ∧ t.cur = some (1, allLanes))
    | _ => false) = true := by decide +kernel
theorem witness_MemoryStaysCanonical : Memory.wf (State.reset.withFetchWord 96 wNop).mem = true := by decide +kernel

end Sys2Proof.Tests
end

section
/-! What the control words of R98, R99, R104 and R105 do (O1, O4). -/

namespace Sys2Proof.Machine

/-! ### Control transfers -/

/-- A state in which only threads of a warp differ is given by those threads. -/
theorem onlyThreads_iff {s t : State} {w : Nat} :
    OnlyThreads s t w ↔ ∃ th, t = setWarp s w { getWarp s w with threads := th } := by
  refine ⟨fun h => ⟨_, h⟩, ?_⟩
  rintro ⟨th, rfl⟩
  simp [OnlyThreads]

theorem OnlyThreads.advance (s : State) (w : Nat) (set : Lanes) : OnlyThreads s (advance s w set) w :=
  advance_eq s w set

theorem OnlyThreads.jump {s t : State} {w : Nat} (h : OnlyThreads s t w) (m : Lanes) (f : Nat → DWord) :
    OnlyThreads s (jump t w m f) w := by
  obtain ⟨th, rfl⟩ := onlyThreads_iff.1 h
  refine onlyThreads_iff.2 ⟨(makeReady s { getWarp s w with threads := th } m fun u _ => f u).threads, ?_⟩
  rw [Machine.jump, updWarp, getWarp_setWarp, setWarp_setWarp]
  rfl

@[simp] theorem codeBase_advance (s : State) (w : Nat) (set : Lanes) :
    codeBase (advance s w set) (getWarp (advance s w set) w) = codeBase s (getWarp s w) := by
  simp [codeBase, getLaunch]

/-- After an issue and a jump of its active threads each thread stands where R59 and R88 say. -/
theorem GoesTo.jump {s t : State} {w : Nat} {set : Lanes}
    (ht : (getWarp t w).threads = (getWarp (Machine.advance s w set) w).threads) (act : Lanes) (f : Nat → DWord) :
    GoesTo s (jump t w act f) w set act f := by
  intro u hu
  have hlen : u < (getWarp t w).threads.length := by rw [ht, threads_length_advance]; exact hu
  have hpc : pcAt t w u = pcAt (Machine.advance s w set) w u := by simp only [pcAt, threadOf, ht]
  rw [pcAt_jump _ _ _ _ _ hlen, hpc, pcAt_advance _ _ _ _ hu]

theorem GoesTo.advance (s : State) (w : Nat) (set : Lanes) (f : Nat → DWord) :
    GoesTo s (advance s w set) w set 0 f := by
  intro u hu
  simp [pcAt_advance _ _ _ _ hu]

/-- An issuing word whose effect is a jump of its active threads. -/
theorem issue_jump {s : State} {c : Ctl} {w : Nat} {set act : Lanes} (h : Issues s c w set act)
    (f : Issue → State → Nat → DWord) (g : Nat → DWord) (hg : f (issueAt s w set act) (advance s w set) = g) :
    ∃ t, issue s c (fun i s => jump s i.w i.act (f i s)) = .next t ∧ OnlyThreads s t w ∧ GoesTo s t w set act g :=
  ⟨_, issue_next h _, (OnlyThreads.advance s w set).jump act _, hg ▸ GoesTo.jump rfl act _⟩

@[simp] theorem baseTarget_advance (s : State) (w : Nat) (set : Lanes) (off : Nat) :
    baseTarget (advance s w set) w off = codeBase s (getWarp s w) + BitVec.ofNat 64 off := by
  rw [baseTarget, codeBase_advance]

/-- R99: the target that a transfer reads from its source, in a lane. -/
def registerTarget (s : State) (i : Issue) (a : Opd) (u : Nat) : DWord :=
  baseTarget s i.w (srcVal s i.w (getWarp s i.w) a 1 u)

theorem registerTarget_advance (s : State) (w : Nat) (set act : Lanes) (a : Opd) :
    registerTarget (advance s w set) (issueAt s w set act) a
      = fun u => codeBase s (getWarp s w) + BitVec.ofNat 64 (reads s w a 1 u) := by
  funext u
  rw [registerTarget, issueAt_w, baseTarget_advance, srcVal_advance, reads]

/-! ### The arms of R98 and R99 -/

theorem exec_nop (c : Ctl) (s : State) : exec (.nop c) s = issue s c fun _ s => s := rfl

theorem exec_bra (c : Ctl) (off : BitVec 8) (s : State) :
    exec (.bra c off) s = issue s c fun i s => jump s i.w i.act fun _ => relTarget i.pc off := rfl

theorem exec_registerTransfer (c : Ctl) (a : Opd) (i : Instr) (hi : i ∈ [Instr.brak c a, .brx c a, .ret c a]) (s : State) :
    exec i s = issue s c fun i s => jump s i.w i.act fun u => registerTarget s i a u := by
  simp only [List.mem_cons, List.not_mem_nil, or_false] at hi
  obtain rfl | rfl | rfl := hi <;> rfl

theorem exec_call (c : Ctl) (d : Opd) (off : BitVec 8) (s : State) :
    exec (.call c d off) s = issue s c fun i s => jump (writeLink s i d) i.w i.act fun _ => relTarget i.pc off := rfl

theorem exec_callk (c : Ctl) (d a : Opd) (s : State) :
    exec (.callk c d a) s = issue s c fun i s => jump (writeLink s i d) i.w i.act fun u => registerTarget s i a u := rfl

/-! ### Calls -/

@[simp] theorem pcOff_advance (s : State) (w : Nat) (set : Lanes) (pc : DWord) :
    pcOff (advance s w set) (getWarp (advance s w set) w) pc = pcOff s (getWarp s w) pc := by
  rw [pcOff, codeBase_advance, pcOff]

theorem threads_putVs (s : State) (w lat n k : Nat) (m : Lanes) (f : Nat → Nat) :
    (getWarp (putVs s w lat n k m f) w).threads = (getWarp s w).threads := by
  unfold putVs
  induction List.range k generalizing s with
  | nil => rfl
  | cons a l ih => rw [List.foldl_cons, ih, putV_threads]

theorem vReg_jump (s : State) (w : Nat) (m : Lanes) (f : Nat → DWord) (r u : Nat) :
    vReg (jump s w m f) w r u = vReg s w r u := by
  simp [vReg, jump, makeReady, updThreads]

theorem vReg_advance (s : State) (w : Nat) (set : Lanes) (r u : Nat) :
    vReg (advance s w set) w r u = vReg s w r u := by
  rw [vReg, getWarp_advance_v, vReg]

theorem lateHaz_advance (s : State) (w : Nat) (set : Lanes) (r : Reg) (lat u : Nat) :
    lateHaz (advance s w set) (getWarp (advance s w set) w) r lat u = lateHaz s (getWarp s w) r lat u := by
  rw [lateHaz, getWarp_advance_haz, advance_clock, lateHaz]

/-- The registers that a word writes after its issue and before a jump. -/
theorem VTakes_jump_putVs (s : State) (w : Nat) (set : Lanes) (lat n k : Nat) (m m' : Lanes) (f : Nat → Nat) (g : Nat → DWord)
    (h : 0 < lat ∨ k ≤ 1) : VTakes s (jump (putVs (advance s w set) w lat n k m f) w m' g) w lat n k m f := by
  intro r u hu
  have hv := VTakes_putVs (advance s w set) w lat n k m f h r u hu
  rwa [lateHaz_advance, vReg_advance, ← vReg_jump _ _ m' g] at hv

/-- A call: the link is written, then the active threads jump. -/
theorem issue_call {s : State} {c : Ctl} {w : Nat} {set act : Lanes} (h : Issues s c w set act) (d : BitVec 9)
    (f : Issue → State → Nat → DWord) (g : Nat → DWord) (hg : f (issueAt s w set act) (advance s w set) = g) :
    ∃ t, issue s c (fun i s => jump (writeLink s i (.v d)) i.w i.act (f i s)) = .next t ∧ RegisterFrame s t w ∧
      GoesTo s t w set act g ∧
      VTakes s t w 0 d.toNat 1 act fun _ => (pcOff s (getWarp s w) ((issueAt s w set act).pc + 12)).toNat := by
  subst hg
  refine ⟨_, issue_next h _, ?_, GoesTo.jump (threads_putVs _ _ _ _ _ _ _) act _, ?_⟩
  · exact jump_frame (putVs_frame (.advance s w set) _ _ _ _ _) _ _
  · rw [← pcOff_advance s w set]
    exact VTakes_jump_putVs s w set 0 d.toNat 1 act act _ _ (Or.inr (Nat.le_refl 1))

end Sys2Proof.Machine

open Sys2Proof Sys2Proof.Machine

/-- Settles O1: every transfer is the advance of its set followed by a jump of its active threads, and a call writes its link between the two. -/
theorem transfersReachTheirTargets : Obligations.TransfersReachTheirTargets := by
  unfold Obligations.TransfersReachTheirTargets
  intro s c w set act h
  refine ⟨⟨_, (exec_nop c s).trans (issue_next h _), .advance s w set, .advance s w set _⟩, fun off => ?_, fun a i hi => ?_,
    fun d off => ?_, fun d a => ?_⟩
  · rw [exec_bra]
    exact issue_jump h (fun i _ _ => relTarget i.pc off) _ rfl
  · rw [exec_registerTransfer c a i hi]
    exact issue_jump h (fun i s u => registerTarget s i a u) _ (registerTarget_advance s w set act a)
  · rw [exec_call]
    exact issue_call h d (fun i _ _ => relTarget i.pc off) _ rfl
  · rw [exec_callk]
    exact issue_call h d (fun i s u => registerTarget s i a u) _ (registerTarget_advance s w set act a)

end

section
/-! What SREAD reads and SWRITE changes (R96, R97, R104, R105). -/

namespace Sys2Proof.Machine

/-! ### Reads do not see the advance -/

theorem threadOf_of_length_le {x : Warp} {u : Nat} (h : x.threads.length ≤ u) : threadOf x u = {} := by
  simp [threadOf, h]

/-- The issue of a word moves threads; it changes neither EVID nor TRAPINFO. -/
theorem threadOf_advance_registers (s : State) (w : Nat) (set : Lanes) (u : Nat) :
    (threadOf (getWarp (advance s w set) w) u).evid = (threadOf (getWarp s w) u).evid ∧
      (threadOf (getWarp (advance s w set) w) u).trapinfo = (threadOf (getWarp s w) u).trapinfo := by
  by_cases h : u < (getWarp s w).threads.length
  · rw [advance, getWarp_updWarp, threads_makeReady _ _ _ _ _ h]
    split <;> exact ⟨rfl, rfl⟩
  · rw [threadOf_of_length_le (by rw [threads_length_advance]; omega), threadOf_of_length_le (by omega)]
    exact ⟨rfl, rfl⟩

/-- A system register other than EVID and TRAPINFO does not depend on the threads. -/
theorem sysVal_withThreads (s : State) (x : Warp) (th : List Thread) (a : Opd) (t : Nat)
    (hevid : (threadOf { x with threads := th } t).evid = (threadOf x t).evid)
    (htrap : (threadOf { x with threads := th } t).trapinfo = (threadOf x t).trapinfo) :
    sysVal s { x with threads := th } a t = sysVal s x a t := by
  cases a with
  | sys r =>
    cases r with
    | evid => exact congrArg BitVec.toNat hevid
    | trapinfo => exact congrArg BitVec.toNat htrap
    | _ => rfl
  | _ => rfl

theorem sysVal_advance (s : State) (w : Nat) (set : Lanes) (a : Opd) :
    sysVal (advance s w set) (getWarp (advance s w set) w) a = sysVal s (getWarp s w) a := by
  funext t
  obtain ⟨hevid, htrap⟩ := threadOf_advance_registers s w set t
  rw [getWarp_advance] at hevid htrap ⊢
  exact sysVal_withThreads s _ _ a t hevid htrap

@[simp] theorem recordOf_advance (s : State) (w : Nat) (set : Lanes) :
    recordOf (advance s w set) (getWarp (advance s w set) w) = recordOf s (getWarp s w) := by
  simp [recordOf, getLaunch]

@[simp] theorem getWarp_advance_gnum (s : State) (w : Nat) (set : Lanes) :
    (getWarp (advance s w set) w).gnum = (getWarp s w).gnum := by
  rw [getWarp_advance]

/-! ### Levels (R96) -/

theorem levelExt_of_lt {r : Record} {n : Nat} (h : n < r.levelN) : levelExt r n = (r.levels.getD n 0).toNat % 2 ^ 24 := if_pos h
theorem levelExt_of_le {r : Record} {n : Nat} (h : r.levelN ≤ n) : levelExt r n = 1 := if_neg (by omega)
theorem levelNum_of_lt {r : Record} {n : Nat} (h : n < r.levelN) (gnum t : Nat) :
    levelNum r gnum t n = (gnum * 32 + t) / levelSize r n := if_pos h
theorem levelNum_of_le {r : Record} {n : Nat} (h : r.levelN ≤ n) (gnum t : Nat) : levelNum r gnum t n = 0 := if_neg (by omega)

/-- The lanes of a bound level are the product of the extents up to it. -/
theorem levelSize_of_lt {r : Record} {n : Nat} (h : n < r.levelN) :
    levelSize r n = ((List.range (n + 1)).map fun j => (r.levels.getD j 0).toNat % 2 ^ 24).prod := by
  have hext : (List.range (n + 1)).map (levelExt r) = (List.range (n + 1)).map fun j => (r.levels.getD j 0).toNat % 2 ^ 24 :=
    List.map_congr_left fun j hj => levelExt_of_lt (by rw [List.mem_range] at hj; omega)
  rw [← hext, List.prod_eq_foldl, List.foldl_map]
  rfl

/-- ID of the last bound level is its number within the launch. -/
theorem levelId_eq (r : Record) (gnum t n : Nat) : levelId r gnum t n =
    if n + 1 < r.levelN then levelNum r gnum t n % ((r.levels.getD (n + 1) 0).toNat % 2 ^ 24) else levelNum r gnum t n := by
  unfold levelId
  split
  · rw [levelExt_of_lt ‹_›]
  · rfl

/-- R96: the binding of a level; an unbound one reads all ones. -/
def levelBind (r : Record) (n : Nat) : Nat := if n < r.levelN then (r.levels.getD n 0).toNat else 0xFFFFFFFF

/-! ### The arms of R104 and R105 -/

theorem exec_sread (c : Ctl) (d a : Opd) (s : State) : exec (.sread c d a) s =
    fixedWord s c [] d (if a = .sys .gtime then 2 else 1) (if a = .sys .gtime then 10 else 6) fun s x _ t => sysVal s x a t := rfl

theorem exec_sreadId (c : Ctl) (d : Opd) (n : BitVec 3) (s : State) : exec (.sreadId c d n) s =
    fixedWord s c [] d 1 6 fun s x _ t => levelId (recordOf s x) x.gnum t n.toNat := rfl

theorem exec_sreadExt (c : Ctl) (d : Opd) (n : BitVec 3) (s : State) : exec (.sreadExt c d n) s =
    fixedWord s c [] d 1 6 fun s x _ _ => levelExt (recordOf s x) n.toNat := rfl

theorem exec_sreadNum (c : Ctl) (d : Opd) (n : BitVec 3) (s : State) : exec (.sreadNum c d n) s =
    fixedWord s c [] d 1 6 fun s x _ t => levelNum (recordOf s x) x.gnum t n.toNat := rfl

theorem exec_sreadBind (c : Ctl) (d : Opd) (n : BitVec 3) (s : State) : exec (.sreadBind c d n) s =
    fixedWord s c [] d 1 6 fun s x _ _ => levelBind (recordOf s x) n.toNat := rfl

theorem exec_swrite_status (c : Ctl) (a : Opd) (s : State) : exec (.swrite c (.sys .status) a) s =
    issue s c fun i s => updWarp s i.w fun x => setStatus s x
      ((statusNow s x &&& 0x3F0 &&& ~~~(BitVec.ofNat 32 (lowVal s i a 1))) ||| (BitVec.ofNat 32 (lowVal s i a 1) &&& 3)) := rfl

theorem exec_swrite_evh (c : Ctl) (a : Opd) (s : State) : exec (.swrite c (.sys .evh) a) s =
    issue s c fun i s => updWarp s i.w fun x => { x with evh := BitVec.ofNat 32 (lowVal s i a 1) } := rfl

theorem exec_swrite_gdepth (c : Ctl) (a : Opd) (s : State) : exec (.swrite c (.sys .gdepth) a) s =
    issue s c fun i s =>
      if (BitVec.ofNat 32 (lowVal s i a 1)).toNat > 8 then trapSet s i causeOperand
      else updWarp s i.w fun x => { x with gdepth := (BitVec.ofNat 32 (lowVal s i a 1)).toNat } := rfl

/-- R104: SREAD writes what its field names, as it stands at issue. -/
theorem exec_sread_next {s : State} {c : Ctl} {w : Nat} {set act : Lanes} {d : Opd} (h : Issues s c w set act)
    (hf : StreamsFit s w set act [] (some d)) (a : Opd) {k lat : Nat} (hk : (if a = .sys .gtime then 2 else 1) = k)
    (hl : (if a = .sys .gtime then 10 else 6) = lat) :
    exec (.sread c d a) s = .next (written s w set act [] lat d k (sysVal s (getWarp s w) a)) := by
  rw [exec_sread, fixedWord_next _ _ _ h hf, hk, hl, ← sysVal_advance s w set a]

/-- R96: what the level forms of SREAD write. -/
theorem exec_sreadLevel_next {s : State} {c : Ctl} {w : Nat} {set act : Lanes} {d : Opd} (h : Issues s c w set act)
    (hf : StreamsFit s w set act [] (some d)) (n : BitVec 3) :
    let r := (getLaunch s (getWarp s w).launch).record
    let g := (getWarp s w).gnum
    exec (.sreadExt c d n) s = .next (written s w set act [] 6 d 1 fun _ => levelExt r n.toNat) ∧
    exec (.sreadNum c d n) s = .next (written s w set act [] 6 d 1 fun u => levelNum r g u n.toNat) ∧
    exec (.sreadId c d n) s = .next (written s w set act [] 6 d 1 fun u => levelId r g u n.toNat) ∧
    exec (.sreadBind c d n) s = .next (written s w set act [] 6 d 1 fun _ => levelBind r n.toNat) := by
  intro r g
  refine ⟨?_, ?_, ?_, ?_⟩
  · rw [exec_sreadExt, fixedWord_next _ _ _ h hf, recordOf_advance]; rfl
  · rw [exec_sreadNum, fixedWord_next _ _ _ h hf, recordOf_advance, getWarp_advance_gnum]; rfl
  · rw [exec_sreadId, fixedWord_next _ _ _ h hf, recordOf_advance, getWarp_advance_gnum]; rfl
  · rw [exec_sreadBind, fixedWord_next _ _ _ h hf, recordOf_advance]; rfl

/-- R105: the bits of STATUS after a write. -/
theorem getLsbD_writtenStatus (old v : Word) (j : Nat) (hj : j < 32) :
    ((old &&& 0x3F0 &&& ~~~v) ||| (v &&& 3)).getLsbD j
      = if j < 2 then v.getLsbD j else if 4 ≤ j ∧ j < 10 then (old.getLsbD j && !v.getLsbD j) else false := by
  have hsticky : ∀ j : Fin 32, (0x3F0 : Word).getLsbD j = decide (4 ≤ j.val ∧ j.val < 10) := by decide
  have hmode : ∀ j : Fin 32, (3 : Word).getLsbD j = decide (j.val < 2) := by decide
  rw [BitVec.getLsbD_or, BitVec.getLsbD_and, BitVec.getLsbD_and, BitVec.getLsbD_and, BitVec.getLsbD_not, hsticky ⟨j, hj⟩, hmode ⟨j, hj⟩]
  by_cases h2 : j < 2
  · simp [h2, show ¬ 4 ≤ j by omega]
  · by_cases h4 : 4 ≤ j ∧ j < 10 <;> simp [h2, h4, hj]

end Sys2Proof.Machine

open Sys2Proof Sys2Proof.Machine

/-- Settles O4: SREAD is the fixed-latency word of the value as it stands at issue, SWRITE a change of one field of its warp. -/
theorem specialRegistersAreReadAndWritten : Obligations.SpecialRegistersAreReadAndWritten := by
  unfold Obligations.SpecialRegistersAreReadAndWritten
  refine ⟨fun s c w set act d h hf => ⟨?_, ?_, ?_, ?_, ?_⟩, fun s c w set act a h => ⟨?_, ?_, ?_, ?_⟩⟩
  · intro a k lat f ha
    simp only [List.mem_cons, Prod.mk.injEq, List.not_mem_nil, or_false] at ha
    rcases ha with ⟨rfl, rfl, rfl, rfl⟩ | ⟨rfl, rfl, rfl, rfl⟩ | ⟨rfl, rfl, rfl, rfl⟩ | ⟨rfl, rfl, rfl, rfl⟩ | ⟨rfl, rfl, rfl, rfl⟩ |
      ⟨rfl, rfl, rfl, rfl⟩ | ⟨rfl, rfl, rfl, rfl⟩ | ⟨rfl, rfl, rfl, rfl⟩ | ⟨rfl, rfl, rfl, rfl⟩ | ⟨rfl, rfl, rfl, rfl⟩ | ⟨rfl, rfl, rfl, rfl⟩ <;>
    exact exec_sread_next h hf _ (by decide) (by decide)
  · exact ⟨_, exec_sread_next h hf _ (by decide) (by decide), fun u _ => rfl⟩
  · exact ⟨_, exec_sread_next h hf _ (by decide) (by decide), fun u _ => rfl⟩
  · exact fun n => exec_sread_next h hf (.cf n) (by simp) (by simp)
  · intro n
    obtain ⟨hext, hnum, hid, hbind⟩ := exec_sreadLevel_next h hf n
    refine ⟨_, _, _, _, hext, hnum, hid, hbind, fun u => ⟨fun hn => ?_, fun hn => ?_⟩⟩
    · have hnum0 := levelNum_of_le hn (getWarp s w).gnum u
      exact ⟨levelExt_of_le hn, hnum0, by rw [levelId, if_neg (by omega), hnum0], if_neg (by omega)⟩
    · refine ⟨levelExt_of_lt hn, ?_, if_pos hn, levelId_eq _ _ _ _⟩
      rw [levelNum_of_lt hn, levelSize_of_lt hn]
  · refine ⟨_, (exec_swrite_status c a s).trans (issue_next h _), fun j hj => ?_⟩
    rw [lowVal_advance]
    exact getLsbD_writtenStatus _ _ j hj
  · rw [exec_swrite_evh, issue_next h, lowVal_advance]
    rfl
  · intro hv
    rw [exec_swrite_gdepth, issue_next h, lowVal_advance, if_neg (by omega)]
    rfl
  · intro hv
    rw [exec_swrite_gdepth, issue_next h, lowVal_advance, if_pos hv]

end

section
/-! How warps, groups and operations go on under the parts of the machine that place, retire, evict and resume no warp: three relations between a state and a later one, from the strictest to the loosest. -/

namespace Sys2Proof.Machine

/-! ### The relations -/

/-- Where a warp sits and what its launch gave it: everything that only placement, retirement, eviction, resumption and the words LPARTSET and SWRITE change. -/
def Warp.seat (x : Warp) : Warp :=
  { launch := x.launch, group := x.group, iface := x.iface, num := x.num, gnum := x.gnum, core := x.core, part := x.part, slot := x.slot
    context := x.context, resident := x.resident, retired := x.retired, lpart := x.lpart, gdepth := x.gdepth, age := x.age }

/-- Where a group is placed. -/
def Group.home (g : Group) : List Nat × Bool := (g.cores, g.saved)

/-- A thread keeps its condition, or is made ready, or begins the acquire of its BARWAIT; one that has ended stays so. -/
def Cond.Onward (c d : Cond) : Prop := d = c ∨ (c ≠ .ended ∧ (d = .ready ∨ ∃ op, d = .waiting (.barAcquire op)))

/-- The frames of a warp, but for their marks. -/
def Warp.unmarked (x : Warp) : List Frame := x.frames.map fun f => { f with marked := false }

/-- A warp keeps its seat, its threads go on, and its frames are at most marked. -/
structure Warp.Onward (x y : Warp) : Prop where
  seat : y.seat = x.seat
  length : y.threads.length = x.threads.length
  cond : ∀ u, (threadOf x u).cond.Onward (threadOf y u).cond
  frames : y.unmarked = x.unmarked

/-- Nothing of warps, groups and operations changes. -/
structure Apart (s t : State) : Prop where
  warps : t.warps = s.warps
  groups : t.groups = s.groups
  ops : t.ops = s.ops
  next : s.next ≤ t.next

/-- Every warp goes on, every group stays where it is, and every incomplete word keeps its operands. -/
structure Onward (s t : State) : Prop where
  warps : ∀ w, (getWarp s w).Onward (getWarp t w)
  groups : ∀ g, (getGroup t g).home = (getGroup s g).home
  next : s.next ≤ t.next
  ops : ∀ id o, id < s.next → mapGet s.ops id = some o → ∃ q, mapGet t.ops id = some q ∧ q.args = o.args

/-- Every warp keeps its seat and every group its home. -/
structure Seated (s t : State) : Prop where
  warps : ∀ w, (getWarp t w).seat = (getWarp s w).seat
  groups : ∀ g, (getGroup t g).home = (getGroup s g).home

section
variable {s t u : State} {x y z : Warp}

theorem Cond.Onward.refl (c : Cond) : c.Onward c := .inl rfl

theorem Cond.Onward.trans {a b c : Cond} (h : a.Onward b) (k : b.Onward c) : a.Onward c := by
  rcases k with rfl | ⟨hb, hc⟩
  · exact h
  · rcases h with rfl | ⟨ha, _⟩
    · exact .inr ⟨hb, hc⟩
    · exact .inr ⟨ha, hc⟩

theorem Cond.Onward.ended_iff {c d : Cond} (h : c.Onward d) : d = .ended ↔ c = .ended := by
  rcases h with rfl | ⟨hc, rfl | ⟨op, rfl⟩⟩ <;> simp_all

/-- No thread begins to wait in any way but for the acquire of its BARWAIT. -/
theorem Cond.Onward.waiting {c : Cond} {v : Wait} (h : c.Onward (.waiting v)) (hv : ∀ op, v ≠ .barAcquire op) : c = .waiting v := by
  rcases h with h | ⟨_, h | ⟨op, h⟩⟩
  · exact h.symm
  · cases h
  · cases h; exact absurd rfl (hv op)

theorem Warp.Onward.refl (x : Warp) : x.Onward x := ⟨rfl, rfl, fun _ => .refl _, rfl⟩
theorem Warp.Onward.trans (h : x.Onward y) (k : y.Onward z) : x.Onward z :=
  ⟨k.seat.trans h.seat, k.length.trans h.length, fun u => (h.cond u).trans (k.cond u), k.frames.trans h.frames⟩

theorem Apart.refl (s : State) : Apart s s := ⟨rfl, rfl, rfl, Nat.le_refl _⟩
theorem Apart.trans (h : Apart s t) (k : Apart t u) : Apart s u :=
  ⟨k.warps.trans h.warps, k.groups.trans h.groups, k.ops.trans h.ops, h.next.trans k.next⟩

theorem Onward.refl (s : State) : Onward s s :=
  ⟨fun _ => .refl _, fun _ => rfl, Nat.le_refl _, fun _ o _ h => ⟨o, h, rfl⟩⟩

theorem Onward.trans (h : Onward s t) (k : Onward t u) : Onward s u where
  warps w := (h.warps w).trans (k.warps w)
  groups g := (k.groups g).trans (h.groups g)
  next := h.next.trans k.next
  ops id o hid ho := by
    obtain ⟨p, hp, hpo⟩ := h.ops id o hid ho
    obtain ⟨q, hq, hqp⟩ := k.ops id p (hid.trans_le h.next) hp
    exact ⟨q, hq, hqp.trans hpo⟩

theorem Seated.refl (s : State) : Seated s s := ⟨fun _ => rfl, fun _ => rfl⟩
theorem Seated.trans (h : Seated s t) (k : Seated t u) : Seated s u :=
  ⟨fun w => (k.warps w).trans (h.warps w), fun g => (k.groups g).trans (h.groups g)⟩

theorem Apart.onward (h : Apart s t) : Onward s t where
  warps w := by rw [getWarp, getWarp, h.warps]; exact .refl _
  groups g := by rw [getGroup, getGroup, h.groups]
  next := h.next
  ops id o _ ho := ⟨o, by rw [h.ops]; exact ho, rfl⟩

theorem Onward.cond (h : Onward s t) (w u : Nat) : (condAt s w u).Onward (condAt t w u) := (h.warps w).cond u

theorem Onward.seated (h : Onward s t) : Seated s t := ⟨fun w => (h.warps w).seat, h.groups⟩
theorem Seated.of_eq (hw : t.warps = s.warps) (hg : t.groups = s.groups) : Seated s t :=
  ⟨fun w => by rw [getWarp, getWarp, hw], fun g => by rw [getGroup, getGroup, hg]⟩

theorem Apart.ite {p : Prop} [Decidable p] (h : Apart s t) (k : Apart s u) : Apart s (if p then t else u) := by split; exacts [h, k]
theorem Onward.ite {p : Prop} [Decidable p] (h : Onward s t) (k : Onward s u) : Onward s (if p then t else u) := by split; exacts [h, k]
theorem Seated.ite {p : Prop} [Decidable p] (h : Seated s t) (k : Seated s u) : Seated s (if p then t else u) := by split; exacts [h, k]

theorem Apart.foldl {α : Type} {g : State → α → State} (hg : ∀ s a, Apart s (g s a)) (l : List α) (s : State) : Apart s (l.foldl g s) :=
  List.foldlRecOn (motive := fun t => Apart s t) l g (.refl s) fun t h a _ => h.trans (hg t a)

theorem Onward.foldl {α : Type} {g : State → α → State} (hg : ∀ s a, Onward s (g s a)) (l : List α) (s : State) : Onward s (l.foldl g s) :=
  List.foldlRecOn (motive := fun t => Onward s t) l g (.refl s) fun t h a _ => h.trans (hg t a)

theorem Seated.foldl {α : Type} {g : State → α → State} (hg : ∀ s a, Seated s (g s a)) (l : List α) (s : State) : Seated s (l.foldl g s) :=
  List.foldlRecOn (motive := fun t => Seated s t) l g (.refl s) fun t h a _ => h.trans (hg t a)

end

/-! ### Reads after writes of warps, groups and launches -/

section
variable (s : State)

theorem getWarp_setWarp_ite (w v : Nat) (x : Warp) : getWarp (setWarp s w x) v = if v = w then x else getWarp s v :=
  mapGetD_mapSet s.warps w v x {}

theorem getGroup_setGroup_ite (g k : Nat) (x : Group) : getGroup (setGroup s g x) k = if k = g then x else getGroup s k :=
  mapGetD_mapSet s.groups g k x {}

theorem getLaunch_setLaunch_ite (l k : Nat) (x : Launch) : getLaunch (setLaunch s l x) k = if k = l then x else getLaunch s k :=
  mapGetD_mapSet s.launches l k x {}

@[simp] theorem getGroup_setGroup (g : Nat) (x : Group) : getGroup (setGroup s g x) g = x := by simp [getGroup_setGroup_ite]

@[simp] theorem getLaunch_setLaunch (l : Nat) (x : Launch) : getLaunch (setLaunch s l x) l = x := by simp [getLaunch_setLaunch_ite]

end

/-! ### Updates of one warp, one group, one operation -/

section
variable {s : State}

theorem Onward.setWarp {w : Nat} {y : Warp} (h : (getWarp s w).Onward y) : Onward s (setWarp s w y) where
  warps v := by
    rw [getWarp_setWarp_ite]
    split
    · subst_vars; exact h
    · exact .refl _
  groups _ := rfl
  next := Nat.le_refl _
  ops _ o _ ho := ⟨o, ho, rfl⟩

theorem Seated.setWarp {w : Nat} {y : Warp} (h : y.seat = (getWarp s w).seat) : Seated s (setWarp s w y) where
  warps v := by
    rw [getWarp_setWarp_ite]
    split
    · subst_vars; exact h
    · rfl
  groups _ := rfl

theorem Onward.setGroup {g : Nat} {y : Group} (h : y.home = (getGroup s g).home) : Onward s (setGroup s g y) where
  warps _ := .refl _
  groups k := by
    rw [getGroup_setGroup_ite]
    split
    · subst_vars; exact h
    · rfl
  next := Nat.le_refl _
  ops _ o _ ho := ⟨o, ho, rfl⟩

theorem Onward.updOp (s : State) (id : Nat) {f : Op → Op} (hf : ∀ o, (f o).args = o.args) : Onward s (updOp s id f) where
  warps _ := .refl _
  groups _ := rfl
  next := Nat.le_refl _
  ops k o _ ho := by
    rw [updOp_ops, mapGet_mapUpd]
    split
    · subst_vars; rw [ho]; exact ⟨_, rfl, hf o⟩
    · exact ⟨o, ho, rfl⟩

theorem Onward.mapOps (s : State) {f : Nat → Op → Op} (hf : ∀ k o, (f k o).args = o.args) : Onward s { s with ops := mapAll s.ops f } where
  warps _ := .refl _
  groups _ := rfl
  next := Nat.le_refl _
  ops k o _ ho := ⟨f k o, by rw [mapGet_mapAll, ho]; rfl, hf k o⟩

end

/-! ### Updates of threads -/

section
variable {x : Warp} {m : Lanes}

theorem Warp.Onward.updThreads {f : Nat → Thread → Thread}
    (hf : ∀ u, m.getLsbD u = true → (threadOf x u).cond.Onward (f u (threadOf x u)).cond) : x.Onward (updThreads x m f) where
  seat := rfl
  length := length_updThreads x m f
  cond u := by
    by_cases hu : u < x.threads.length
    · rw [threadOf_updThreads _ _ _ _ hu]
      split
      · exact hf u ‹_›
      · exact .refl _
    · rw [threadOf_of_length_le (x := x) (by omega), threadOf_of_length_le (by rw [length_updThreads]; omega)]
      exact .refl _
  frames := rfl

/-- Threads that have not ended are made ready. -/
theorem Warp.Onward.makeReady (s : State) (pc : Nat → Thread → DWord) (hm : ∀ u, m.getLsbD u = true → (threadOf x u).cond ≠ .ended) :
    x.Onward (makeReady s x m pc) :=
  .updThreads fun u hu => .inr ⟨hm u hu, .inl rfl⟩

theorem getLsbD_lanesWhere (x : Warp) (p : Thread → Bool) (u : Nat) :
    (lanesWhere x p).getLsbD u = true ↔ u < 32 ∧ u < x.threads.length ∧ p (threadOf x u) = true := by
  simp [lanesWhere]

theorem getLsbD_waiting (x : Warp) (p : Wait → Bool) (u : Nat) :
    (waiting x p).getLsbD u = true ↔ u < 32 ∧ u < x.threads.length ∧ ∃ v, (threadOf x u).cond = .waiting v ∧ p v = true := by
  rw [waiting, getLsbD_lanesWhere]
  cases (threadOf x u).cond <;> simp

theorem releasable_stopped {th : Thread} (h : releasable x th = true) : ∃ m, th.cond = .stopped m := by
  unfold releasable at h
  split at h
  · exact ⟨_, ‹_›⟩
  · cases h

theorem settle_onward (s : State) (w : Nat) : Onward s (settle s w) := by
  unfold settle
  dsimp only
  split
  · exact .refl s
  · refine .setWarp (.makeReady s _ fun u hu => ?_)
    obtain ⟨k, hk⟩ := releasable_stopped ((getLsbD_lanesWhere _ _ _).1 hu).2.2
    rw [hk]
    exact Cond.noConfusion

theorem jump_onward {s : State} {w : Nat} {m : Lanes} (hm : ∀ u, m.getLsbD u = true → condAt s w u ≠ .ended) (pc : Nat → DWord) :
    Onward s (jump s w m pc) := .setWarp (.makeReady s _ hm)

/-- Waiting threads go on, and RECONVs are judged again. -/
theorem wake_onward {s : State} {w : Nat} {m : Lanes} (hm : ∀ u, m.getLsbD u = true → condAt s w u ≠ .ended) (pc : Nat → DWord) :
    Onward s (wake s w m pc) := (jump_onward hm pc).trans (settle_onward _ w)

end

end Sys2Proof.Machine
end

section
/-! The parts of the machine under which every warp goes on: memory, records, scratchpad lines, barriers, signals, the end of copies. -/

namespace Sys2Proof.Machine

/-! ### Memory and records -/

theorem setMemByte_apart (s : State) (a : Nat) (b : Byte) : Apart s (setMemByte s a b) := ⟨rfl, rfl, rfl, Nat.le_refl _⟩

theorem setMemWord_apart (s : State) (w : Nat) (x : Word) : Apart s (setMemWord s w x) :=
  (((setMemByte_apart _ _ _).trans (setMemByte_apart _ _ _)).trans (setMemByte_apart _ _ _)).trans (setMemByte_apart _ _ _)

theorem takeLine_apart (s : State) (a : Nat) : Apart s (takeLine s a) := ⟨rfl, rfl, rfl, Nat.le_refl _⟩

theorem recallWord_apart (s : State) (w : Nat) : Apart s (recallWord s w) := by
  have hend (t : State) (o : Map Nat) (b : Map WbWord) : Apart t { t with owner := o, wbuf := b } := ⟨rfl, rfl, rfl, Nat.le_refl _⟩
  have hdrop (t : State) (k : Nat) (keep : CcWord → Bool) :
      Apart t (match mapGet t.cc k with | some x => if keep x then t else { t with cc := mapErase t.cc k } | none => t) := by
    split
    · split <;> exact ⟨rfl, rfl, rfl, Nat.le_refl _⟩
    · exact .refl t
  unfold recallWord
  split
  · exact .refl s
  · rename_i c _
    have hmem : Apart s (match clusterHolds s c w with | some x => setMemWord (takeLine s (4 * w)) w x.data | none => s) := by
      split
      · exact (takeLine_apart _ _).trans (setMemWord_apart _ _ _)
      · exact .refl s
    exact (hmem.trans (hdrop _ _ _)).trans (hend _ _ _)

theorem devWrite_apart (bs : List Byte) (s : State) (a : Nat) : Apart s (devWrite s a bs) := by
  induction bs generalizing s a with
  | nil => exact .refl s
  | cons b bs ih =>
    exact (((takeLine_apart s a).trans (recallWord_apart _ _)).trans (setMemByte_apart _ _ _)).trans (ih _ _)

theorem updIface_apart (s : State) (i : Nat) (f : Iface → Iface) : Apart s (updIface s i f) := ⟨rfl, rfl, rfl, Nat.le_refl _⟩

theorem send_apart (s : State) (c : Option Nat) (m : Msg) : Apart s (send s c m) := ⟨rfl, rfl, rfl, Nat.le_refl _⟩

theorem raiseMsix_apart (s : State) (i v : Nat) : Apart s (raiseMsix s i v) := by
  unfold raiseMsix
  dsimp only
  split <;> exact ⟨rfl, rfl, rfl, Nat.le_refl _⟩

theorem putRecord_apart (s : State) (i : Nat) (q : Bool) (ws : List Word) (sump : Bool) : Apart s (putRecord s i q ws sump) := by
  unfold putRecord
  dsimp only
  split
  · exact send_apart _ _ _
  · exact ((devWrite_apart _ _ _).trans (updIface_apart _ _ _)).trans (raiseMsix_apart _ _ _)

theorem plainRecord_apart (s : State) (i : Nat) (q : Bool) (ws : List Word) : Apart s (plainRecord s i q ws) := by
  unfold plainRecord
  dsimp only
  split
  · exact putRecord_apart _ _ _ _ _
  · exact updIface_apart _ _ _

theorem replayRecord_apart (s : State) (i : Nat) (ws : List Word) : Apart s (replayRecord s i ws) := by
  unfold replayRecord
  dsimp only
  split
  · exact putRecord_apart _ _ _ _ _
  · exact ⟨rfl, rfl, rfl, Nat.le_refl _⟩

/-- A parked-fault entry is taken, or none is free. -/
theorem takePark_apart (s : State) (q access va : Nat) (p : Park) : Apart s (takePark s q access va p).1 := by
  unfold takePark
  split
  · exact .refl s
  · dsimp only
    have hnext {parks : Map Park} : Apart s { s with parks := parks, next := s.next + 1 } := ⟨rfl, rfl, rfl, Nat.le_succ _⟩
    split
    · exact hnext.trans (replayRecord_apart _ _ _)
    · exact hnext

/-! ### Incomplete words -/

theorem scatter_args (s : State) (m : Lanes) (o : Op) : (scatter s m o).args = o.args := rfl

theorem markOp_args (s : State) (m : Lanes) (r : Reg) (o : Op) : (markOp s m r o).args = o.args := by
  unfold markOp
  dsimp only
  split
  · rfl
  · split
    · rw [scatter_args]; split <;> split <;> rfl
    · split <;> split <;> rfl

theorem markOps_onward (s : State) (w : Nat) (m : Lanes) (r : Reg) : Onward s (markOps s w m r) :=
  .mapOps s fun _ o => by split; exacts [markOp_args s m r o, rfl]

/-- An operation is added under the next number. -/
theorem addOp_onward {s t : State} (h : t.next = s.next) (x : Op) : Onward t { t with ops := mapSet t.ops s.next x, next := s.next + 1 } where
  warps _ := .refl _
  groups _ := rfl
  next := h ▸ Nat.le_succ _
  ops id p hid hp := ⟨p, by rw [mapGet_mapSet, if_neg (by omega)]; exact hp, rfl⟩

/-- A word that becomes incomplete takes the next number and marks earlier ones. -/
theorem newOp_onward (s : State) (o : Op) : Onward s (newOp s o) := by
  have hmarks : Onward s (o.writes.foldl (fun s r => markOps s o.warp o.lanes r) s) := .foldl (fun s r => markOps_onward s _ _ r) _ _
  have hmarked : (o.writes.foldl (fun s r => markOps s o.warp o.lanes r) s).next = s.next :=
    List.foldlRecOn (motive := fun t : State => t.next = s.next) _ _ rfl fun t h r _ => h
  unfold newOp
  dsimp only
  split
  · exact hmarks.trans (addOp_onward hmarked _)
  · exact (hmarks.trans (addOp_onward hmarked _)).trans (.setWarp ⟨rfl, rfl, fun _ => .refl _, rfl⟩)

/-! ### Scratchpad -/

theorem updGroup_onward (s : State) (g : Nat) {f : Group → Group} (hf : ∀ x, (f x).home = x.home) : Onward s (updGroup s g f) :=
  .setGroup (hf _)

@[simp] theorem setScr_home (bs : List Byte) (g : Group) (half a : Nat) : (setScr g half a bs).home = g.home := by
  induction bs generalizing g a with
  | nil => rfl
  | cons b bs ih => exact ih _ _

@[simp] theorem setScrNat_home (g : Group) (half a n x : Nat) : (setScrNat g half a n x).home = g.home := setScr_home _ _ _ _

theorem foldl_home {α : Type} {f : Group → α → Group} (hf : ∀ g a, (f g a).home = g.home) (l : List α) (g : Group) :
    (l.foldl f g).home = g.home :=
  List.foldlRecOn (motive := fun x => x.home = g.home) l f rfl fun x h a _ => (hf x a).trans h

theorem touchPending_onward (s : State) (gi half : Nat) (b : Bool) (a n : Nat) (own : Option Nat) :
    Onward s (touchPending s gi half b a n own) := Apart.onward ⟨rfl, rfl, rfl, Nat.le_refl _⟩

theorem spoilCopies_onward (s : State) (gi half a n : Nat) (sts : Bool) : Onward s (spoilCopies s gi half a n sts) := by
  have hopen (t : State) (pa : Nat) (b : Byte) : Apart t (openByteAt t pa b) := ⟨rfl, rfl, rfl, Nat.le_refl _⟩
  have hcopies (t : State) (c : Map Copy) : Apart t { t with copies := c } := ⟨rfl, rfl, rfl, Nat.le_refl _⟩
  unfold spoilCopies
  exact ((Apart.foldl (fun t pa => hopen t pa _) _ s).trans (hcopies _ _)).onward

theorem spoilMail_onward (s : State) (gi half a n : Nat) : Onward s (spoilMail s gi half a n) := by
  unfold spoilMail
  dsimp only
  split
  · exact .refl s
  · exact .setGroup (foldl_home (fun g b => setScrNat_home g _ _ _ _) _ _)

theorem scratchWritten_onward (s : State) (gi half a n w op : Nat) (sts : Bool) : Onward s (scratchWritten s gi half a n w op sts) := by
  unfold scratchWritten
  dsimp only
  refine (((updGroup_onward s gi fun g => ?_).trans (touchPending_onward _ _ _ _ _ _ _)).trans (spoilCopies_onward _ _ _ _ _ _)).trans
    (spoilMail_onward _ _ _ _ _)
  exact foldl_home (fun g k => setScrNat_home g _ _ _ _) _ g

theorem performScr_home (s : State) (o : Op) (half : Nat) (i : Instr) (g : Group) (p : Part) : (performScr s o half i g p).1.home = g.home := by
  unfold performScr
  dsimp only
  split <;> simp

theorem scrDo_onward (s : State) (gi half id : Nat) (i : Instr) (ok : Part → Bool) : Onward s (scrDo s gi half id i ok) := by
  unfold scrDo
  dsimp only
  refine ((Onward.setGroup ?_).trans (.updOp _ id ?_)).trans (.foldl (fun s r => scratchWritten_onward s _ _ _ _ _ _ _) _ _)
  case refine_2 => exact fun _ => rfl
  refine List.foldlRecOn (motive := fun r : Group × List Part × List (Nat × Nat) => r.1.home = (getGroup s gi).home) _ _ rfl ?_
  rintro ⟨g, ps, ws⟩ h p _
  dsimp only at h ⊢
  split
  · exact h
  · split
    · exact h
    · exact (performScr_home _ _ _ _ _ _).trans h

theorem proceed_onward (gi half n : Nat) (s : State) (id : Nat) : Onward s (proceed gi half n s id) := by
  unfold proceed
  dsimp only
  split
  · split
    · exact .refl s
    · exact scrDo_onward _ _ _ _ _ _
  · exact .refl s

theorem fillLine_onward (s : State) (gi half n : Nat) : Onward s (fillLine s gi half n) := by
  unfold fillLine
  dsimp only
  have hset : Onward s (setGroup s gi (setLine (getGroup s gi) half n { lineOf (getGroup s gi) half n with full := true })) := .setGroup rfl
  split
  · exact hset
  · exact (hset.trans (.foldl (proceed_onward gi half n) _ _)).trans (send_apart _ _ _).onward

/-! ### Events and signals -/

theorem latchSignal_onward (s : State) (x : Warp) (k : Nat) : x.Onward (latchSignal s x k) := by
  unfold latchSignal
  split
  · exact ⟨rfl, rfl, fun _ => .refl _, rfl⟩
  · exact ⟨rfl, rfl, fun _ => .refl _, rfl⟩

/-- The set that WAITANY resumes waits. -/
theorem anySet_waits {x : Warp} {u : Nat} (h : (anySet x).getLsbD u = true) : (threadOf x u).cond = .waiting .anyEvent := by
  have := ((getLsbD_lanesWhere x _ u).1 h).2.2
  simp only [Bool.and_eq_true, beq_iff_eq] at this
  exact this.1

/-- A warp changes and then threads of it that have not ended go on. -/
theorem setWarp_wake_onward {s : State} {w : Nat} {y : Warp} {m : Lanes} (h : (getWarp s w).Onward y)
    (hm : ∀ u, m.getLsbD u = true → condAt s w u ≠ .ended) (pc : Nat → DWord) : Onward s (wake (setWarp s w y) w m pc) := by
  refine (Onward.setWarp h).trans (wake_onward (fun u hu hc => hm u hu ?_) pc)
  rw [condAt, getWarp_setWarp] at hc
  exact (h.cond u).ended_iff.1 hc

theorem fireEntry_onward {s : State} {w : Nat} {m : Lanes} (k : Nat) (hm : ∀ u, m.getLsbD u = true → condAt s w u ≠ .ended) :
    Onward s (fireEntry s w k m) := by
  have hevents (x : Warp) (p : BitVec 16) (es : Map EvEntry) (g : Bool) : x.Onward { x with evp := p, events := es, graphSeen := g } :=
    ⟨rfl, rfl, fun _ => .refl _, rfl⟩
  have hevid (x : Warp) (v : Word) : x.Onward (updThreads x m fun _ th => { th with evid := v }) := .updThreads fun _ _ => .refl _
  unfold fireEntry
  dsimp only
  split
  · exact .refl s
  · exact setWarp_wake_onward ((hevents (getWarp s w) _ _ _).trans (hevid _ _)) hm _

theorem resumeAny_onward (n : Nat) (s : State) (w : Nat) : Onward s (resumeAny s w n) := by
  induction n generalizing s with
  | zero => exact .refl s
  | succ n ih =>
    rw [resumeAny]
    split
    · split
      · exact .refl s
      · refine (fireEntry_onward _ fun u hu => ?_).trans (ih _)
        rw [condAt, anySet_waits hu]
        exact Cond.noConfusion
    · exact .refl s

theorem signalWarp_onward (s : State) (w : Nat) (names : EvEntry → Bool) : Onward s (signalWarp s w names) := by
  unfold signalWarp
  dsimp only
  split
  · exact .refl s
  · refine (Onward.setWarp ?_).trans (resumeAny_onward _ _ _)
    exact List.foldlRecOn (motive := fun x => (getWarp s w).Onward x) _ _ (.refl _) fun x h e _ => h.trans (latchSignal_onward s x _)

theorem signalGroup_onward (s : State) (gi half : Nat) (names : EvEntry → Bool) : Onward s (signalGroup s gi half names) :=
  .foldl (fun s w => signalWarp_onward s w names) _ _

/-! ### Barriers -/

theorem beginBarAcquire_onward {s : State} {w : Nat} {m : Lanes} (sc : Scope) (d : Nat)
    (hm : ∀ u, m.getLsbD u = true → condAt s w u ≠ .ended) : Onward s (beginBarAcquire s w m sc d) := by
  unfold beginBarAcquire
  dsimp only
  have hnew := newOp_onward s { warp := w, kind := .word (.barwait ⟨7, 0⟩ sc (.p ⟨d % 8, Nat.mod_lt _ (by decide)⟩) (.imm 0) (.imm 0)), lanes := m
                                pc := (threadOf (getWarp s w) (lowLane m)).pc, scope := sc, phase := .acquiring, args := [d] }
  refine hnew.trans (.setWarp (.updThreads fun u hu => .inr ⟨?_, .inr ⟨_, rfl⟩⟩))
  exact fun hc => hm u hu ((hnew.cond w u).ended_iff.1 hc)

/-- The threads of the BARWAIT sets of a warp wait. -/
theorem barSets_wait {x : Warp} {n : Nat} {e : Lanes × Nat × Scope × Nat} (he : e ∈ barSets x n) {u : Nat} (hu : e.1.getLsbD u = true) :
    (threadOf x u).cond ≠ .ended := by
  unfold barSets at he
  obtain ⟨⟨p, sc, d⟩, _, rfl⟩ := List.mem_map.1 he
  obtain ⟨_, _, v, hv, _⟩ := (getLsbD_waiting x _ u).1 hu
  rw [hv]
  exact Cond.noConfusion

theorem learnLine_onward (s : State) (gi half n w : Nat) : Onward s (learnLine s gi half n w) := updGroup_onward s gi fun _ => rfl

theorem wakeBar_onward (s : State) (gi half n w : Nat) : Onward s (wakeBar s gi half n w) := by
  unfold wakeBar
  split
  · exact .refl s
  · refine List.foldlRecOn (motive := fun t => Onward s t) _ _ (.refl s) ?_
    rintro t h ⟨m, p, sc, d⟩ he
    dsimp only
    split
    · have hlearn := h.trans (learnLine_onward t gi half n w)
      refine hlearn.trans (beginBarAcquire_onward sc d fun u hu hc => ?_)
      exact barSets_wait he hu ((hlearn.cond w u).ended_iff.1 hc)
    · exact h

theorem barTest_onward (s : State) (gi half n : Nat) : Onward s (barTest s gi half n) := by
  unfold barTest
  dsimp only
  split
  · refine ((Onward.setGroup ?_).trans (.foldl (fun s w => wakeBar_onward s gi half n w) _ _)).trans (signalGroup_onward _ _ _ _)
    simp only [setScrNat_home]
  · exact .refl s

theorem barArrive_onward (s : State) (gi half n count xbytes lbytes : Nat) (cancel : Bool) :
    Onward s (barArrive s gi half n count xbytes lbytes cancel) := by
  unfold barArrive
  dsimp only
  refine (Onward.setGroup ?_).trans (barTest_onward _ _ _ _)
  split <;> simp only [setScrNat_home]

/-! ### The end of a copy -/

theorem copyArrive_onward (s : State) (c : Copy) (bytes : Nat) (cancel : Bool) : Onward s (copyArrive s c bytes cancel) := by
  unfold copyArrive
  split
  · exact .refl s
  · split
    · exact barArrive_onward _ _ _ _ _ _ _ _
    · exact .refl s

theorem releaseLines_onward (s : State) (id : Nat) (c : Copy) : Onward s (releaseLines s id c) := by
  unfold releaseLines
  split
  · refine .foldl (fun s n => ?_) _ _
    split
    · exact fillLine_onward _ _ _ _
    · exact .refl s
  · exact .refl s

theorem freeSlot_apart (s : State) (c : Copy) : Apart s (freeSlot s c) := by
  unfold freeSlot
  dsimp only
  split <;> exact ⟨rfl, rfl, rfl, Nat.le_refl _⟩

theorem cancelCopy_onward (s : State) (id : Nat) : Onward s (cancelCopy s id) := by
  unfold cancelCopy
  split
  · exact .refl s
  · rename_i c _
    dsimp only
    split
    · exact .refl s
    · have hupd {copies : Map Copy} {parks : Map Park} : Apart s { s with copies := copies, parks := parks } := ⟨rfl, rfl, rfl, Nat.le_refl _⟩
      exact (((hupd.trans (freeSlot_apart _ c)).onward.trans (releaseLines_onward _ _ _)).trans (copyArrive_onward _ _ _ _)).trans
        (signalGroup_onward _ _ _ _)

end Sys2Proof.Machine
end

section
/-! The graph engine's checks (R379 to R382): what ends a graph, tells its parent and stops work lets every warp go on. -/

namespace Sys2Proof.Machine

/-! ### Records of graphs -/

theorem updGraph_apart (s : State) (g : Nat) (f : Graph → Graph) : Apart s (updGraph s g f) := ⟨rfl, rfl, rfl, Nat.le_refl _⟩
theorem updNode_apart (s : State) (g n : Nat) (f : Node → Node) : Apart s (updNode s g n f) := updGraph_apart _ _ _

theorem updReady_apart (s : State) (i p : Nat) (f : List (Nat × Nat) → List (Nat × Nat)) : Apart s (updReady s i p f) := updIface_apart _ _ _

theorem fireNode_apart (s : State) (g n : Nat) : Apart s (fireNode s g n) := (updNode_apart s g n _).trans (updReady_apart _ _ _ _)

theorem retestFires_apart (s : State) (i p : Nat) : Apart s (retestFires s i p) := .foldl (fun _ _ => send_apart _ _ _) _ _

theorem unready_apart (s : State) (g n : Nat) : Apart s (unready s g n) := (updReady_apart _ _ _ _).trans (retestFires_apart _ _ _)

theorem postToken_apart (s : State) (g n k : Nat) : Apart s (postToken s g n k) := by
  unfold postToken
  dsimp only
  split
  · exact (updNode_apart _ _ _ _).trans (fireNode_apart _ _ _)
  · exact updNode_apart _ _ _ _

theorem clearWork_apart (s : State) (g n : Nat) : Apart s (clearWork s g n) := (updNode_apart s g n _).trans (updIface_apart _ _ _)

theorem workStopped_apart (s : State) (g n : Nat) : Apart s (workStopped s g n) := by
  unfold workStopped
  dsimp only
  split
  · exact ((clearWork_apart _ _ _).trans (updNode_apart _ _ _ _)).trans (updGraph_apart _ _ _)
  · exact (clearWork_apart _ _ _).trans (fireNode_apart _ _ _)
  · exact clearWork_apart _ _ _

theorem nodeDone_apart (s : State) (g n : Nat) : Apart s (nodeDone s g n) := by
  unfold nodeDone
  split
  · exact (((clearWork_apart _ _ _).trans (updNode_apart _ _ _ _)).trans (updGraph_apart _ _ _)).trans (.foldl (fun _ _ => postToken_apart _ _ _ _) _ _)
  · exact workStopped_apart _ _ _
  · exact workStopped_apart _ _ _
  · exact clearWork_apart _ _ _

/-! ### The end of a graph -/

theorem refusalRecord_apart (s : State) (i code addr : Nat) : Apart s (refusalRecord s i code addr) := plainRecord_apart _ _ _ _

theorem enginePut_apart (s : State) (i va : Nat) (bs : List Byte) : Apart s (enginePut s i va bs) := by
  unfold enginePut
  split
  · exact devWrite_apart _ _ _
  · exact refusalRecord_apart _ _ _ _

theorem engineAdd_apart (s : State) (i va v : Nat) : Apart s (engineAdd s i va v) := by
  unfold engineAdd
  split
  · exact devWrite_apart _ _ _
  · exact refusalRecord_apart _ _ _ _

theorem putNodes_apart (s : State) (x : Graph) : Apart s (putNodes s x) :=
  .foldl (fun _ _ => (enginePut_apart _ _ _ _).trans (enginePut_apart _ _ _ _)) _ _

theorem writeEnd_apart (s : State) (g : Nat) : Apart s (writeEnd s g) := by
  have hadd (t : State) (p : Prop) [Decidable p] (i va v : Nat) : Apart t (if p then t else engineAdd t i va v) :=
    .ite (.refl t) (engineAdd_apart _ _ _ _)
  have hirq (t : State) (p : Prop) [Decidable p] (i v : Nat) : Apart t (if p then raiseMsix t i v else t) :=
    .ite (raiseMsix_apart _ _ _) (.refl t)
  have hretire (t : State) : Apart t (retireCores t) := ⟨rfl, rfl, rfl, Nat.le_refl _⟩
  have hput (t : State) (i va : Nat) (bs : List Byte) : Apart t (enginePut t i va bs) := enginePut_apart t i va bs
  unfold writeEnd
  exact (((((((((hput _ _ _ _).trans (hput _ _ _ _)).trans (hput _ _ _ _)).trans (hput _ _ _ _)).trans (hput _ _ _ _)).trans
    (putNodes_apart _ _)).trans (hadd _ _ _ _ _)).trans (hirq _ _ _ _)).trans (updGraph_apart _ _ _)).trans (hretire _)

theorem parkEngine_apart (s : State) (m : Msg) (i va : Nat) (need : Need) : Apart s (parkEngine s m i va need) := by
  have hnext : Apart s { s with next := s.next + 1 } := ⟨rfl, rfl, rfl, Nat.le_succ _⟩
  unfold parkEngine
  dsimp only
  split
  · exact (hnext.trans (takePark_apart _ _ _ _ _)).trans ⟨rfl, rfl, rfl, Nat.le_refl _⟩
  · exact send_apart _ _ _

theorem dropDenials_apart (s : State) (m : Msg) : Apart s (dropDenials s m) := ⟨rfl, rfl, rfl, Nat.le_refl _⟩

theorem closeGraph_apart (s : State) (g : Nat) : Apart s (closeGraph s g) := by
  unfold closeGraph
  dsimp only
  split
  · exact parkEngine_apart _ _ _ _ _
  · exact (dropDenials_apart _ _).trans (writeEnd_apart _ _)

theorem endIfQuiet_apart (s : State) (g : Nat) : Apart s (endIfQuiet s g) := by
  unfold endIfQuiet
  dsimp only
  split
  · exact .refl s
  · exact (updGraph_apart _ _ _).trans (closeGraph_apart _ _)

/-! ### Stopping work -/

theorem cancelLaunch_onward (s : State) (l : Nat) : Onward s (cancelLaunch s l) := by
  unfold cancelLaunch
  split
  · exact .refl s
  · have hset (x : Launch) : Apart s (setLaunch s l x) := ⟨rfl, rfl, rfl, Nat.le_refl _⟩
    have hstop (t : State) (w : Nat) : Onward t (updWarp t w fun x => { x with stop := true }) := .setWarp ⟨rfl, rfl, fun _ => .refl _, rfl⟩
    exact (hset _).onward.trans (.foldl (fun t w => (hstop t w).trans (signalWarp_onward _ _ _)) _ _)

theorem markFrame_onward (s : State) (w g n : Nat) : Onward s (markFrame s w g n) := by
  refine .setWarp ⟨rfl, rfl, fun _ => .refl _, ?_⟩
  simp only [Warp.unmarked, List.map_map]
  refine List.map_congr_left fun f _ => ?_
  simp only [Function.comp]
  split <;> rfl

theorem dropReads_apart (s : State) (g n : Nat) : Apart s (dropReads s g n) := by
  have hdrop (net : List Flight) (waits : Map EngineWait) (parks : Map Park) :
      Apart s { s with net := net, engineWaits := waits, parks := parks } := ⟨rfl, rfl, rfl, Nat.le_refl _⟩
  unfold dropReads
  exact (hdrop _ _ _).trans (updIface_apart _ _ _)

theorem stopWork_onward (d : Nat) (s : State) (g n : Nat) : Onward s (stopWork d s g n) := by
  induction d generalizing s g n with
  | zero => exact .refl s
  | succ d ih =>
    rw [stopWork]
    split
    · exact cancelLaunch_onward _ _
    · exact (cancelCopy_onward _ _).trans (workStopped_apart _ _ _).onward
    · split
      · exact .refl s
      · dsimp only
        have hnodes (c : Nat) (l : List Nat) (t : State) := Onward.foldl (g := fun s k => match (nodeOf s c k).st with
          | .waiting => updGraph (updNode s c k fun y => { y with st := .cancelled, cause := 6 }) c fun x => { x with cancelled := x.cancelled + 1 }
          | .ready => updGraph (unready (updNode s c k fun y => { y with st := .cancelled, cause := 6 }) c k) c fun x => { x with cancelled := x.cancelled + 1 }
          | .running => stopWork d (updNode s c k fun y => { y with st := .cancelling, cause := 6 }) c k
          | .retry => updNode s c k fun y => { y with st := .cancelling, cause := 6 }
          | _ => s) (fun s k => by
            split
            · exact ((updNode_apart _ _ _ _).trans (updGraph_apart _ _ _)).onward
            · exact (((updNode_apart _ _ _ _).trans (unready_apart _ _ _)).trans (updGraph_apart _ _ _)).onward
            · exact (updNode_apart _ _ _ _).onward.trans (ih _ _ _)
            · exact (updNode_apart _ _ _ _).onward
            · exact .refl s) l t
        split
        · exact ((hnodes _ _ _).trans (endIfQuiet_apart _ _).onward).trans (workStopped_apart _ _ _).onward
        · exact (hnodes _ _ _).trans (endIfQuiet_apart _ _).onward
    · exact markFrame_onward _ _ _ _
    · exact ((dropReads_apart _ _ _).trans (workStopped_apart _ _ _)).onward

theorem walkNode_onward (s : State) (g n : Nat) : Onward s (walkNode s g n) := by
  unfold walkNode
  dsimp only
  split
  · exact ((updNode_apart _ _ _ _).trans (updGraph_apart _ _ _)).onward
  · exact (((updNode_apart _ _ _ _).trans (unready_apart _ _ _)).trans (updGraph_apart _ _ _)).onward
  · exact (updNode_apart _ _ _ _).onward.trans (stopWork_onward _ _ _ _)
  · exact (updNode_apart _ _ _ _).onward
  · exact .refl s

theorem walkCone_onward (k : Nat) (s : State) (g : Nat) (q marked : List Nat) : Onward s (walkCone k s g q marked) := by
  induction k generalizing s q marked with
  | zero => exact .refl s
  | succ k ih =>
    cases q with
    | nil => exact .refl s
    | cons x q => exact (Onward.foldl (fun s y => walkNode_onward s g y) _ _).trans (ih _ _ _)

theorem nodeFailed_onward (s : State) (g n cause code : Nat) (fin : Bool) : Onward s (nodeFailed s g n cause code fin) := by
  have hclear : Apart s (if fin then clearWork s g n else s) := by
    split
    · exact clearWork_apart _ _ _
    · exact .refl s
  unfold nodeFailed
  dsimp only
  split
  · have hfail (t : State) (a : Bool) (f : Node → Node) (k : Graph → Graph) :
        Apart t (if a = true then updNode t g n f else updGraph (updNode t g n f) g k) :=
      .ite (updNode_apart _ _ _ _) ((updNode_apart _ _ _ _).trans (updGraph_apart _ _ _))
    refine Onward.ite ?stop (Onward.trans ?stop (walkCone_onward _ _ _ _ _))
    exact (hclear.trans (hfail _ _ _ _)).onward.trans (stopWork_onward _ _ _ _)
  · exact .ite (hclear.trans (workStopped_apart _ _ _)).onward (.refl s)
  · exact .ite (hclear.trans (workStopped_apart _ _ _)).onward (.refl s)
  · exact hclear.onward

theorem tellParent_onward (s : State) (g : Nat) : Onward s (tellParent s g) := by
  unfold tellParent
  split
  · exact .refl s
  · split
    · exact (nodeDone_apart _ _ _).onward
    · exact nodeFailed_onward _ _ _ _ _ _

theorem climb_onward (d : Nat) (s : State) (g : Nat) : Onward s (climb d s g) := by
  induction d generalizing s g with
  | zero => exact .refl s
  | succ d ih =>
    rw [climb]
    split
    · exact .refl s
    · dsimp only
      split
      · exact tellParent_onward _ _
      · split
        · exact tellParent_onward _ _
        · exact ((tellParent_onward _ _).trans (endIfQuiet_apart _ _).onward).trans (ih _ _)

theorem graphCheck_onward (s : State) (g : Nat) : Onward s (graphCheck s g) := by
  unfold graphCheck
  split
  · exact .refl s
  · exact (endIfQuiet_apart _ _).onward.trans (climb_onward _ _ _)

end Sys2Proof.Machine
end

section
/-! Traps, ends of threads and the walks of requests keep every warp on its seat and every group in its home. -/

namespace Sys2Proof.Machine

/-! ### Incomplete words end -/

theorem Seated.updWarp (s : State) (w : Nat) {f : Warp → Warp} (hf : ∀ x, (f x).seat = x.seat) : Seated s (updWarp s w f) := .setWarp (hf _)

theorem updOp_seated (s : State) (id : Nat) (f : Op → Op) : Seated s (updOp s id f) := .of_eq rfl rfl

theorem finishOp_seated (s : State) (id : Nat) : Seated s (finishOp s id) := by
  have herase : Seated s { s with ops := mapErase s.ops id } := .of_eq rfl rfl
  unfold finishOp
  split
  · exact .refl s
  · dsimp only
    split
    · exact herase
    · exact herase.trans (.updWarp _ _ fun _ => by rfl)

theorem freeParks_seated (s : State) (id : Nat) : Seated s (freeParks s id) := .of_eq rfl rfl

/-! ### Threads end -/

theorem markEnded_seated (s : State) (w : Nat) (m : Lanes) : Seated s (markEnded s w m) :=
  Seated.trans (t := updWarp s w fun x => updThreads x m fun _ th => { th with cond := .ended }) (.updWarp s w fun _ => by rfl) (.of_eq rfl rfl)

theorem beginLeave_seated (s : State) (w n : Nat) (m : Lanes) (pc : DWord) (cf : Option Nat) : Seated s (beginLeave s w n m pc cf) := by
  have hleave (o : Op) : Seated s (newOp (setHold s w n {}) o) := Seated.trans (.updWarp s w fun _ => by rfl) (newOp_onward _ o).seated
  unfold beginLeave
  dsimp only
  split
  · exact hleave _
  · exact hleave _
  · exact hleave _
  · exact .refl s

theorem copyStopLost_onward (s : State) (a : Async) : Onward s (copyStopLost s a) := by
  unfold copyStopLost
  split
  · exact .refl s
  · exact .ite (.refl s) ((plainRecord_apart _ _ _ _).onward.trans (cancelCopy_onward _ _))

theorem asyncLost_onward (s : State) (x : Warp) (a : Async) : Onward s (asyncLost s x a) :=
  .ite (updIface_apart _ _ _).onward (.ite (.refl s) (copyStopLost_onward s a))

theorem endOfWarp_seated (s : State) (w : Nat) : Seated s (endOfWarp s w) := by
  unfold endOfWarp
  refine .ite (.refl s) ?_
  exact ((Seated.foldl (fun s n => beginLeave_seated s _ _ _ _ _) _ s).trans (.updWarp _ _ fun _ => by rfl)).trans
    (.foldl (fun s a => (asyncLost_onward s _ a).seated) _ _)

theorem exitThreads_seated (s : State) (w : Nat) (m : Lanes) : Seated s (exitThreads s w m) :=
  ((markEnded_seated s w m).trans (settle_onward _ w).seated).trans (endOfWarp_seated _ w)

/-! ### The end of a launch -/

theorem dropSignatures_seated (s : State) (l : Nat) : Seated s (dropSignatures s l) := by
  have hgroups (a : Map (List ArrayOp)) (f : Nat → Group → Group) (hf : ∀ k g, (f k g).home = g.home) :
      Seated s { s with arrays := a, groups := mapAll s.groups f } := by
    refine ⟨fun _ => rfl, fun k => ?_⟩
    simp only [getGroup, mapGetD, mapGet_mapAll]
    cases mapGet s.groups k with
    | none => rfl
    | some g => exact hf k g
  unfold dropSignatures
  refine (hgroups _ _ fun _ g => ?_).trans (.foldl finishOp_seated _ _)
  split <;> rfl

theorem endLaunch_seated (s : State) (l cause : Nat) : Seated s (endLaunch s l cause) := by
  have hset (x : Launch) : Seated s (setLaunch s l x) := .of_eq rfl rfl
  have hcopies (t : State) (es : List (Nat × Copy)) : Seated t (es.foldl (fun s e => cancelCopy s e.1) t) :=
    .foldl (fun s e => (cancelCopy_onward s e.1).seated) es t
  have hexit (t : State) (ws : List Nat) : Seated t (ws.foldl (fun s w => exitThreads s w allLanes) t) :=
    .foldl (fun s w => exitThreads_seated s w _) ws t
  have hcolls (t : State) (cs : List Nat) : Seated t (cs.foldl (fun s h => send s none (.collAbort h 4)) t) :=
    .foldl (fun s h => (send_apart s _ _).onward.seated) cs t
  have hnode (t : State) (o : Option (Nat × Nat)) :
      Seated t (match o with | some (g, n) => send t (nodeChan g n) (.nodeFail g n 2 cause) | none => t) := by
    split
    · exact (send_apart _ _ _).onward.seated
    · exact .refl t
  unfold endLaunch
  exact (((((hset _).trans (hcopies _ _)).trans (dropSignatures_seated _ _)).trans (hexit _ _)).trans (hcolls _ _)).trans (hnode _ _)

theorem abort_seated (s : State) (w : Nat) (pc : Word) (t : TrapIn) : Seated s (abort s w pc t) := by
  have hrec (t : State) (l : Nat) (f : Launch → Launch) : Seated t (updLaunch t l f) := .of_eq rfl rfl
  unfold abort
  dsimp only
  split
  · split
    · exact (devWrite_apart _ _ _).onward.seated
    · exact .refl s
  · exact ((plainRecord_apart _ _ _ _).onward.seated.trans (hrec _ _ _)).trans (endLaunch_seated _ _ _)

/-! ### Traps -/

@[simp] theorem updThreads_seat (x : Warp) (m : Lanes) (f : Nat → Thread → Thread) : (updThreads x m f).seat = x.seat := rfl
@[simp] theorem makeReady_seat (s : State) (x : Warp) (m : Lanes) (pc : Nat → Thread → DWord) : (makeReady s x m pc).seat = x.seat := rfl

theorem writeFrames_seat (x : Warp) (off : Word) (h : Bool) (ts : List TrapIn) : (writeFrames x off h ts).seat = x.seat :=
  List.foldlRecOn (motive := fun y : Warp => y.seat = x.seat) ts _ rfl fun _ h _ _ => h

theorem enterHandler_seated (s : State) (w : Nat) (pc : DWord) (cause : Nat) (ts : List TrapIn) : Seated s (enterHandler s w pc cause ts) := by
  unfold enterHandler
  dsimp only
  refine .ite ?_ (.ite (.ite ?_ ?_) ?_)
  · split
    · exact .ite (abort_seated _ _ _ _) (.refl s)
    · exact .refl s
  · exact (Seated.setWarp (writeFrames_seat _ _ _ _)).trans (.updWarp _ _ fun _ => by rfl)
  · split
    · exact abort_seated _ _ _ _
    · exact .refl s
  · refine (Seated.setWarp ?_).trans (settle_onward _ _).seated
    rw [makeReady_seat, updThreads_seat, writeFrames_seat]
    rfl

theorem deliverCause_seated (s : State) (w : Nat) (pc : DWord) (cause : Nat) (ts : List TrapIn) : Seated s (deliverCause s w pc cause ts) := by
  have habort (l : List TrapIn) (off : Word) (f : TrapIn → TrapIn) :
      Seated s (match l with | [] => s | t :: _ => abort s w off (f t)) := by
    split
    · exact .refl s
    · exact abort_seated _ _ _ _
  unfold deliverCause
  dsimp only
  split
  · exact habort _ _ fun t => { t with detail := t.detail ||| 128 }
  · exact (habort _ _ fun t => { t with detail := t.detail ||| 128 }).trans (enterHandler_seated _ _ _ _ _)

theorem deliver_seated (s : State) (w : Nat) (pc : DWord) (ts : List TrapIn) : Seated s (deliver s w pc ts) := by
  refine .foldl (fun s c => ?_) _ _
  split
  · exact .refl s
  · exact deliverCause_seated _ _ _ _ _

/-! ### Walks -/

theorem failLanes_seated (s : State) (id : Nat) (fs : List (Nat × Nat × Nat)) : Seated s (failLanes s id fs) := by
  have hparks (ops : Map Op) (parks : Map Park) : Seated s { s with ops := ops, parks := parks } := .of_eq rfl rfl
  unfold failLanes
  split
  · exact .refl s
  · dsimp only
    split
    · exact .refl s
    · exact .refl s
    · exact ((updOp_seated _ _ _).trans (.updWarp _ _ fun _ => by rfl)).trans (freeParks_seated _ _)
    · exact (hparks _ _).trans (deliver_seated _ _ _ _)
    · refine .ite (.refl s) (.ite ?_ ?_)
      · exact ((hparks s.ops _).trans (finishOp_seated _ _)).trans (deliver_seated _ _ _ _)
      · have hfree (f : Op → Op) := (updOp_seated s id f).trans (freeParks_seated _ id)
        exact (Seated.ite ((hfree _).trans (finishOp_seated _ _)) (hfree _)).trans (deliver_seated _ _ _ _)

theorem parkPart_apart (s : State) (id : Nat) (o : Op) (i : Nat) (p : Part) : Apart s (parkPart s id o i p).1 := by
  unfold parkPart
  dsimp only
  split
  · exact .refl s
  · split
    · exact takePark_apart _ _ _ _ _
    · exact (takePark_apart _ _ _ _ _).trans ⟨rfl, rfl, rfl, Nat.le_refl _⟩

theorem tlbFill_apart (s : State) (unit i : Nat) (k : Walk) : Apart s (tlbFill s unit i k) := by
  unfold tlbFill
  split
  · exact ⟨rfl, rfl, rfl, Nat.le_refl _⟩
  · exact .refl s

theorem acceptPart_apart (s : State) (id : Nat) (o : Op) (p : Part) : Apart s (acceptPart s id o p).1 := by
  unfold acceptPart
  dsimp only
  split
  · exact parkPart_apart _ _ _ _ _
  · split
    · exact .refl s
    · split
      · exact .refl s
      · exact tlbFill_apart _ _ _ _
    · exact parkPart_apart _ _ _ _ _

theorem acceptGo_apart (id : Nat) (o : Op) (s : State) (ps : List Part) : Apart s (acceptGo id o s ps).1 := by
  refine List.foldlRecOn (motive := fun r : State × List Part × List (Nat × Nat × Nat) => Apart s r.1) ps _ (.refl s) ?_
  rintro ⟨t, done, fs⟩ h p _
  dsimp only at h ⊢
  split
  · split
    · exact h.trans (acceptPart_apart _ _ _ _)
    · exact h.trans (acceptPart_apart _ _ _ _)
  · exact h

theorem accept_seated (s : State) (id : Nat) : Seated s (accept s id) := by
  unfold accept
  split
  · exact .refl s
  · exact ((acceptGo_apart id _ s _).onward.seated.trans (updOp_seated _ _ _)).trans (failLanes_seated _ _ _)

/-! ### A warp is woken -/

theorem putP_seated (s : State) (w lat n : Nat) (m : Lanes) (f : Nat → Bool) : Seated s (putP s w lat n m f) :=
  .ite (.refl s) ((Seated.setWarp (by rfl)).trans (markOps_onward _ _ _ _).seated)

theorem wake_seated (s : State) (w : Nat) (m : Lanes) (pc : Nat → DWord) : Seated s (wake s w m pc) :=
  (Seated.updWarp s w fun _ => by rfl).trans (settle_onward _ w).seated

theorem wakeBarInval_seated (s : State) (n w : Nat) : Seated s (wakeBarInval s n w) :=
  .ite (.refl s) (.foldl (fun s _ => (putP_seated s _ _ _ _ _).trans (wake_seated _ _ _ _)) _ _)

theorem assignQueues_seated (n : Nat) (s : State) (core part : Nat) : Seated s (assignQueues s core part n) := by
  induction n generalizing s with
  | zero => exact .refl s
  | succ n ih =>
    rw [assignQueues]
    refine .ite ?_ (.refl s)
    split
    · exact (Seated.updWarp _ _ fun _ => by rfl).trans (ih _)
    · exact .refl s

theorem wakeUp_seated (s : State) (w : Nat) : Seated s (wakeUp s w) := by
  have hrooms (t : State) (l : List Hold) : Seated t (l.foldl (fun s' h =>
      if h.st == .held then regionAcquire s' (getWarp s w).core (getRegion s' (handleKey h.handle.toNat)) else s') t) :=
    .foldl (fun s' _ => .ite (.of_eq (by rfl) (by rfl)) (.refl s')) l t
  have hwalks (t : State) (l : List Nat) : Seated t (l.foldl (fun s id => match (getOp s id).kind with
      | .word (.cstore ..) => s
      | _ => accept (failLanes s id (failedParts (getOp s id))) id) t) := by
    refine .foldl (fun s' id => ?_) l t
    split
    · exact .refl s'
    · exact (failLanes_seated _ _ _).trans (accept_seated _ _)
  have hbars (t : State) (gi half : Nat) (l : List Nat) : Seated t (l.foldl (fun s n =>
      if lineKind (getGroup s gi) half n = 1 then wakeBar s gi half n w else wakeBarInval s n w) t) :=
    .foldl (fun s n => .ite (wakeBar_onward _ _ _ _ _).seated (wakeBarInval_seated _ _ _)) l t
  unfold wakeUp
  exact (((((hrooms s _).trans (hwalks _ _)).trans (hbars _ _ _ _)).trans (resumeAny_onward _ _ _).seated).trans
    (send_apart _ _ _).onward.seated).trans (assignQueues_seated _ _ _ _)

end Sys2Proof.Machine
end

section
/-! R388: popping a marked frame. -/

namespace Sys2Proof.Machine

/-! ### What RECONV leaves -/

/-- The conditions of RECONV change threads of their warp, and only stopped ones. -/
theorem settle_eq (s : State) (w : Nat) :
    settle s w = s ∨ settle s w = setWarp s w (makeReady s (getWarp s w) (lanesWhere (getWarp s w) (releasable (getWarp s w))) fun _ th => th.pc + 12) := by
  unfold settle
  dsimp only
  split
  · exact .inl rfl
  · exact .inr rfl

theorem settle_ops (s : State) (w : Nat) : (settle s w).ops = s.ops := by
  obtain h | h := settle_eq s w
  · rw [h]
  · rw [h]
    rfl

theorem frames_settle (s : State) (w : Nat) : (getWarp (settle s w) w).frames = (getWarp s w).frames := by
  obtain h | h := settle_eq s w
  · rw [h]
  · rw [h, getWarp_setWarp]
    rfl

theorem threadOf_settle (s : State) (w u : Nat) (hu : u < (getWarp s w).threads.length) (h : ∀ m, condAt s w u ≠ .stopped m) :
    threadOf (getWarp (settle s w) w) u = threadOf (getWarp s w) u := by
  obtain he | he := settle_eq s w
  · rw [he]
  rw [he, getWarp_setWarp, threads_makeReady _ _ _ _ _ hu, if_neg]
  intro hm
  obtain ⟨m, hc⟩ := releasable_stopped ((getLsbD_lanesWhere _ _ _).1 hm).2.2
  exact h m hc

/-! ### Words that end -/

theorem mapGet_finishOp (s : State) {id k : Nat} (h : k ≠ id) : mapGet (finishOp s id).ops k = mapGet s.ops k := by
  unfold finishOp
  split
  · rfl
  · dsimp only
    split
    · rw [mapGet_mapErase, if_neg h]
    · exact (mapGet_mapErase _ _ _).trans (if_neg h)

theorem mapGet_foldl_finishOp (l : List Nat) (s : State) {k : Nat} (h : k ∉ l) : mapGet (l.foldl finishOp s).ops k = mapGet s.ops k :=
  List.foldlRecOn (motive := fun t : State => mapGet t.ops k = mapGet s.ops k) l _ rfl
    fun t ht id hid => (mapGet_finishOp t (by rintro rfl; exact h hid)).trans ht

/-! ### The frame is popped -/

/-- The GFIREs of a warp for which one of its sets waits. -/
def blockedFires (s : State) (w : Nat) : List Nat :=
  (s.ops.filter fun e => e.2.warp == w && waiting (getWarp s w) (· == .fire e.1) != 0).map (·.1)

theorem not_mem_blockedFires {s : State} {w id : Nat} (h : ∀ u, condAt s w u ≠ .waiting (.fire id)) : id ∉ blockedFires s w := by
  intro hm
  obtain ⟨e, he, rfl⟩ := List.mem_map.1 hm
  have hw := (List.mem_filter.1 he).2
  simp only [Bool.and_eq_true, bne_iff_ne, ne_eq] at hw
  obtain ⟨u, hu⟩ := lowLane_mem hw.2
  obtain ⟨_, _, v, hv, hf⟩ := (getLsbD_waiting _ _ _).1 hu
  exact h _ (hv.trans (by rw [beq_iff_eq.1 hf]))

/-- The operations as a popped frame leaves them: its GFIRE has the result, blocked ones are given up. -/
def popOps (s : State) (w v id : Nat) : State :=
  (blockedFires s w).foldl finishOp (updOp s id fun o => { o with args := o.args.take 1 ++ [v] })

/-- The warp as a popped frame leaves it, before RECONVs are judged. -/
def popWarp (s : State) (w v : Nat) (f : Frame) (r : List Frame) : Warp :=
  makeReady (popOps s w v f.op)
    (updThreads { getWarp s w with frames := r, cf := (getWarp (popOps s w v f.op) w).cf } (liveLanes (getWarp s w))
      fun _ th => { th with trapinfo := th.trapinfo &&& 0xFFFFFEFF, sub := 0 })
    (liveLanes (getWarp s w)) fun _ _ => f.ret

theorem popFrame_eq {s : State} {w : Nat} {f : Frame} {r : List Frame} (h : (getWarp s w).frames = f :: r) (v : Nat) :
    popFrame s w v = settle (setWarp (popOps s w v f.op) w (popWarp s w v f r)) w := by
  unfold popFrame
  dsimp only
  rw [h]
  rfl

theorem getLsbD_liveLanes {x : Warp} {u : Nat} (h32 : u < 32) (hu : u < x.threads.length) :
    (liveLanes x).getLsbD u = true ↔ (threadOf x u).cond ≠ .ended := by
  rw [liveLanes, getLsbD_lanesWhere]
  simp [h32, hu]

theorem threadOf_popWarp (s : State) (w v : Nat) (f : Frame) (r : List Frame) {u : Nat} (h32 : u < 32) (hu : u < (getWarp s w).threads.length) :
    threadOf (popWarp s w v f r) u =
      if condAt s w u = .ended then threadOf (getWarp s w) u
      else { threadOf (getWarp s w) u with
        pc := f.ret, cond := .ready, since := (popOps s w v f.op).tick, sub := 0, trapinfo := (threadOf (getWarp s w) u).trapinfo &&& 0xFFFFFEFF } := by
  rw [popWarp, threads_makeReady _ _ _ _ _ (by rw [length_updThreads]; exact hu), threadOf_updThreads _ _ _ _ (by exact hu)]
  by_cases hc : condAt s w u = .ended
  · have hm : ¬ (liveLanes (getWarp s w)).getLsbD u = true := fun hm => (getLsbD_liveLanes h32 hu).1 hm hc
    rw [if_pos hc, if_neg hm, if_neg hm]
    rfl
  · have hm := (getLsbD_liveLanes h32 hu).2 hc
    rw [if_neg hc, if_pos hm, if_pos hm]
    rfl

/-- Where the threads of the warp stand after a frame has been popped. -/
theorem threadOf_popFrame {s : State} {w : Nat} {f : Frame} {r : List Frame} (h : (getWarp s w).frames = f :: r) (v : Nat)
    {u : Nat} (h32 : u < 32) (hu : u < (getWarp s w).threads.length) :
    threadOf (getWarp (popFrame s w v) w) u = threadOf (popWarp s w v f r) u := by
  have hlen : (popWarp s w v f r).threads.length = (getWarp s w).threads.length := by simp [popWarp, makeReady]
  rw [popFrame_eq h, threadOf_settle _ _ _ (by rw [getWarp_setWarp, hlen]; exact hu), getWarp_setWarp]
  intro m
  rw [condAt, getWarp_setWarp, threadOf_popWarp _ _ _ _ _ h32 hu]
  split
  · rename_i hc
    rw [condAt] at hc
    rw [hc]
    exact Cond.noConfusion
  · exact Cond.noConfusion

/-- R388: a marked frame is popped, after whatever its graph's check did. -/
theorem popFrame_popped {s t : State} {w : Nat} (v : Nat) (h : Onward s t) : Popped s (popFrame t w v) w v := by
  intro f r hf
  obtain ⟨f', r', hf', hmark, hrest⟩ : ∃ f' r', (getWarp t w).frames = f' :: r' ∧ { f' with marked := false } = { f with marked := false } ∧
      r'.map (fun f => { f with marked := false }) = r.map (fun f => { f with marked := false }) := by
    have := (h.warps w).frames
    rw [Warp.unmarked, Warp.unmarked, hf, List.map_cons, List.map_eq_cons_iff] at this
    obtain ⟨f', r', hfr, hm, hr⟩ := this
    exact ⟨f', r', hfr, hm, hr⟩
  obtain ⟨hop, hret⟩ : f'.op = f.op ∧ f'.ret = f.ret := by
    simp only [Frame.mk.injEq] at hmark
    exact ⟨hmark.2.2.2.1, hmark.2.2.1⟩
  refine ⟨?_, fun o ho hlt hfire => ?_, fun u hu h32 => ?_⟩
  · rw [popFrame_eq hf', frames_settle, getWarp_setWarp]
    exact hrest
  · obtain ⟨q, hq, hargs⟩ := h.ops f.op o hlt ho
    have hfree : f.op ∉ blockedFires t w :=
      not_mem_blockedFires fun u hc => hfire u ((hc ▸ h.cond w u).waiting fun _ => Wait.noConfusion)
    refine ⟨{ q with args := q.args.take 1 ++ [v] }, ?_, by rw [hargs]⟩
    rw [popFrame_eq hf', settle_ops, hop]
    refine (mapGet_foldl_finishOp _ _ hfree).trans ?_
    rw [updOp_ops, mapGet_mapUpd, if_pos rfl, hq]
    rfl
  · have hu' : u < (getWarp t w).threads.length := by rw [(h.warps w).length]; exact hu
    have hcond : condAt t w u = .ended ↔ condAt s w u = .ended := (h.cond w u).ended_iff
    have hthread := (threadOf_popFrame hf' v h32 hu').trans (threadOf_popWarp t w v f' r' h32 hu')
    by_cases hc : condAt s w u = .ended
    · rw [if_pos (hcond.2 hc)] at hthread
      rw [if_pos hc]
      exact (congrArg Thread.cond hthread).trans (hcond.2 hc)
    · rw [if_neg fun h => hc (hcond.1 h)] at hthread
      rw [if_neg hc]
      exact ⟨congrArg Thread.cond hthread, (congrArg Thread.pc hthread).trans hret, congrArg Thread.sub hthread, by rw [hthread]; simp⟩

theorem popMarked_popped (s : State) (w : Nat) : Popped s (popMarked s w) w 5 := by
  unfold popMarked
  split
  · rename_i h
    intro f r hf
    rw [h] at hf
    cases hf
  · exact popFrame_popped 5 ((workStopped_apart _ _ _).onward.trans (graphCheck_onward _ _))

end Sys2Proof.Machine
end

section
/-! R84, R380, R388, R427: a warp retires, is discarded, ends, or has its frame popped. -/

namespace Sys2Proof.Machine

/-! ### Stream queues are assigned -/

/-- A stream as it goes on, but for the queue that R122 may assign to it. -/
def SameStreams (a b : Map Stream) : Prop :=
  ∀ n, (mapGet b n).map (fun z => { z with queue := false }) = (mapGet a n).map fun z => { z with queue := false }

theorem SameStreams.refl (a : Map Stream) : SameStreams a a := fun _ => rfl
theorem SameStreams.trans {a b c : Map Stream} (h : SameStreams a b) (k : SameStreams b c) : SameStreams a c := fun n => (k n).trans (h n)

theorem sameStreams_queue (a : Map Stream) (k : Nat) : SameStreams a (mapUpd a k fun z => { z with queue := true }) := by
  intro n
  rw [mapGet_mapUpd]
  split
  · subst_vars
    rw [Option.map_map]
    rfl
  · rfl

/-- The assignment of queues changes streams of warps and nothing else. -/
structure Queued (s t : State) : Prop where
  state : t = { s with warps := t.warps }
  warps : ∀ v, ∃ ss, getWarp t v = { getWarp s v with streams := ss } ∧ SameStreams (getWarp s v).streams ss

theorem Queued.refl (s : State) : Queued s s := ⟨rfl, fun _ => ⟨_, rfl, .refl _⟩⟩

theorem Queued.trans {s t u : State} (h : Queued s t) (k : Queued t u) : Queued s u := by
  refine ⟨?_, fun v => ?_⟩
  · rw [k.state, h.state]
  · obtain ⟨ss, hss, hs⟩ := h.warps v
    obtain ⟨st, hst, ht⟩ := k.warps v
    rw [hss] at hst ht
    exact ⟨st, hst, hs.trans ht⟩

theorem assignQueues_queued (n : Nat) (s : State) (core part : Nat) : Queued s (assignQueues s core part n) := by
  induction n generalizing s with
  | zero => exact .refl s
  | succ n ih =>
    rw [assignQueues]
    split
    · split
      · rename_i w k _
        refine Queued.trans ⟨rfl, fun v => ?_⟩ (ih _)
        rw [updWarp, getWarp_setWarp_ite]
        split
        · subst_vars
          exact ⟨_, rfl, sameStreams_queue _ _⟩
        · exact ⟨_, rfl, .refl _⟩
      · exact .refl s
    · exact .refl s

/-! ### The conditions of WARP_RETIRE -/

theorem allEnded_iff (x : Warp) : allEnded x = true ↔ ∀ th ∈ x.threads, th.cond = .ended := by
  simp [allEnded]

theorem retireMay_of_opsDone {s : State} {w : Nat} {x : Warp} (hended : ∀ th ∈ x.threads, th.cond = .ended) (hret : x.retired = false)
    (hops : ∀ e ∈ s.ops, e.2.warp ≠ w) : retireMay s w x = true := by
  have hend := (allEnded_iff x).2 hended
  simp only [retireMay, hret, hend, Bool.not_false, Bool.true_and, Bool.not_eq_true', List.any_eq_false, Bool.and_eq_true, not_and, beq_iff_eq]
  exact fun e he h => absurd h (hops e he)

theorem not_retireMay_of_ops {s : State} {w : Nat} {x : Warp} (hops : ∃ e ∈ s.ops, e.2.warp = w) (hf : x.frames = []) : retireMay s w x = false := by
  obtain ⟨e, he, hw⟩ := hops
  have : (s.ops.any fun e => e.2.warp == w && !(x.frames.any fun f => f.op == e.1)) = true :=
    List.any_eq_true.2 ⟨e, he, by simp [hw, hf]⟩
  simp [retireMay, this]

theorem not_retireMay_of_live {s : State} {w : Nat} {x : Warp} (h : allEnded x = false) : retireMay s w x = false := by simp [retireMay, h]

theorem not_discardMay_of_ended {s : State} {w : Nat} {x : Warp} (h : allEnded x = true) : discardMay s w x = false := by simp [discardMay, h]
theorem not_discardMay_of_not_resetting {s : State} {w : Nat} {x : Warp} (h : (getIface s x.iface).resetting = false) : discardMay s w x = false := by
  simp [discardMay, h]
theorem not_stopMay_of_ended {s : State} {w : Nat} {x : Warp} (h : allEnded x = true) : stopMay s w x = false := by simp [stopMay, h]
theorem not_popMay_of_noFrames {s : State} {w : Nat} {x : Warp} (h : x.frames = []) : popMay s w x = false := by simp [popMay, h]

/-- The lanes that wait in WAITANY are none where no thread does. -/
theorem anySet_eq_zero {x : Warp} (h : ∀ u, u < 32 → (threadOf x u).cond ≠ .waiting .anyEvent) : anySet x = 0 := by
  apply BitVec.eq_of_getLsbD_eq
  intro u hu
  rw [show (0 : Lanes).getLsbD u = false from BitVec.getLsbD_zero, Bool.eq_false_iff]
  exact fun hm => h u hu (anySet_waits hm)

/-- Among lanes there is one whose measure is the least. -/
theorem foldl_min_mem (l : List Nat) (a : Nat) : l.foldl min a = a ∨ l.foldl min a ∈ l := by
  induction l generalizing a with
  | nil => exact .inl rfl
  | cons b l ih =>
    rw [List.foldl_cons]
    rcases ih (min a b) with h | h
    · rw [h]
      rcases Nat.le_total a b with hab | hab
      · exact .inl (Nat.min_eq_left hab)
      · exact .inr (by rw [Nat.min_eq_right hab]; exact List.mem_cons_self)
    · exact .inr (List.mem_cons_of_mem _ h)

/-- Where a thread waits in WAITANY, a set does: the one that has waited longest. -/
theorem anySet_ne_zero {x : Warp} {u : Nat} (h32 : u < 32) (h : (threadOf x u).cond = .waiting .anyEvent) : anySet x ≠ 0 := by
  have hlen : u < x.threads.length := by
    by_contra hn
    rw [threadOf_of_length_le (by omega)] at h
    cases h
  have hm : waiting x (· == .anyEvent) ≠ 0 := by
    intro h0
    have : (waiting x (· == .anyEvent)).getLsbD u = true := (getLsbD_waiting _ _ _).2 ⟨h32, hlen, .anyEvent, h, rfl⟩
    simp [h0] at this
  obtain ⟨k, hk, hmin⟩ : ∃ k, (waiting x (· == .anyEvent)).getLsbD k = true ∧
      ((laneList (waiting x (· == .anyEvent))).map fun t => (threadOf x t).since).foldl min
        (threadOf x (lowLane (waiting x (· == .anyEvent)))).since = (threadOf x k).since := by
    rcases foldl_min_mem ((laneList (waiting x (· == .anyEvent))).map fun t => (threadOf x t).since)
      (threadOf x (lowLane (waiting x (· == .anyEvent)))).since with h | h
    · exact ⟨_, (lowLane_mem hm).2, h⟩
    · obtain ⟨k, hk, he⟩ := List.mem_map.1 h
      exact ⟨k, ((mem_laneList _ _).1 hk).2, he.symm⟩
  obtain ⟨hk32, hklen, v, hv, hany⟩ := (getLsbD_waiting _ _ _).1 hk
  intro h0
  have : (anySet x).getLsbD k = true := by
    refine (getLsbD_lanesWhere _ _ _).2 ⟨hk32, hklen, ?_⟩
    rw [hv, beq_iff_eq.1 hany, hmin]
    simp
  simp [h0] at this

/-! ### What WARP_RETIRE does -/

/-- The step of WARP_RETIRE, case by case. -/
theorem exec_warpRetire {s : State} {w : Nat} (h : s.msg = some (.warpRetire w)) : exec .warpRetire s = .next (
    if discardMay s w (getWarp s w) then discardWarp s w
    else if stopMay s w (getWarp s w) then exitThreads s w allLanes
    else if popMay s w (getWarp s w) then popMarked s w
    else if retireMay s w (getWarp s w) then retireWarp s w
    else s) := by
  change execWarpRetire s = _
  exact event_next h rfl

theorem condAt_discardWarp {s : State} {w u : Nat} (hu : u < 32) (hlen : (getWarp s w).threads.length = 32) :
    condAt (discardWarp s w) w u = .ended := by
  have hall : allLanes.getLsbD u = true := by
    rw [show allLanes = BitVec.allOnes 32 from rfl, BitVec.getLsbD_allOnes, decide_eq_true hu]
  have hended : getWarp (markEnded s w allLanes) w = updThreads (getWarp s w) allLanes fun _ th => { th with cond := .ended } :=
    getWarp_updWarp s w fun x => updThreads x allLanes fun _ th => { th with cond := .ended }
  have hth : threadOf (getWarp (discardWarp s w) w) u = threadOf (getWarp (markEnded s w allLanes) w) u := by
    rw [discardWarp, getWarp_updWarp]
    rfl
  rw [condAt, hth, hended, threadOf_updThreads _ _ _ _ (hlen ▸ hu), if_pos hall]

/-- R84, R375: the completion that the retirement of a warp of a launch sends, for a FUNC node. -/
def funcDone (la : Launch) : List Flight :=
  match la.node with
  | some (g, n) => if la.func = true then [⟨nodeChan g n, .nodeComplete g n, 0⟩] else []
  | none => []

/-- R84: what the retirement of a warp without frames changes. -/
theorem retireWarp_queued {s : State} {w : Nat} (hf : (getWarp s w).frames = []) :
    Queued (updWarp { s with net := s.net ++ funcDone (getLaunch s (getWarp s w).launch) } w fun x =>
      { x with retired := true, resident := false, streams := [], frames := [] }) (retireWarp s w) := by
  unfold retireWarp funcDone
  simp only [hf, List.foldl_nil]
  cases (getLaunch s (getWarp s w).launch).node with
  | none =>
    simp only [List.append_nil]
    exact assignQueues_queued _ _ _ _
  | some p =>
    obtain ⟨g, n⟩ := p
    cases (getLaunch s (getWarp s w).launch).func
    · simp only [List.append_nil, Bool.false_eq_true, if_false]
      exact assignQueues_queued _ _ _ _
    · exact assignQueues_queued _ _ _ _

/-! ### The clause on WARP_RETIRE -/

section
variable {s : State} {w : Nat}

/-- A warp that has nothing outstanding retires. -/
theorem warpRetire_retires (h : s.msg = some (.warpRetire w)) (hend : ∀ th ∈ (getWarp s w).threads, th.cond = .ended)
    (hret : (getWarp s w).retired = false) (hf : (getWarp s w).frames = []) (hops : ∀ e ∈ s.ops, e.2.warp ≠ w) :
    ∃ t, exec .warpRetire s = .next t ∧ (getWarp t w).retired = true ∧ (getWarp t w).resident = false ∧ t.mem = s.mem ∧ t.groups = s.groups ∧
      (∀ v, v ≠ w → ∃ ss, getWarp t v = { getWarp s v with streams := ss }) ∧ t.net = s.net ++ funcDone (getLaunch s (getWarp s w).launch) := by
  have hall := (allEnded_iff _).2 hend
  have hq := retireWarp_queued hf
  refine ⟨retireWarp s w, ?_, ?_, ?_, ?_, ?_, fun v hv => ?_, ?_⟩
  · rw [exec_warpRetire h, if_neg, if_neg, if_neg, if_pos (retireMay_of_opsDone hend hret hops)]
    · simp [not_popMay_of_noFrames hf]
    · simp [not_stopMay_of_ended hall]
    · simp [not_discardMay_of_ended hall]
  · obtain ⟨ss, hss, _⟩ := hq.warps w
    rw [hss, getWarp_updWarp]
  · obtain ⟨ss, hss, _⟩ := hq.warps w
    rw [hss, getWarp_updWarp]
  · rw [hq.state]; rfl
  · rw [hq.state]; rfl
  · obtain ⟨ss, hss, _⟩ := hq.warps v
    refine ⟨ss, ?_⟩
    rw [hss, updWarp, getWarp_setWarp_ite, if_neg hv]
    rfl
  · rw [hq.state]; rfl

theorem warpRetire_waits (h : s.msg = some (.warpRetire w)) (hend : ∀ th ∈ (getWarp s w).threads, th.cond = .ended)
    (hops : ∃ e ∈ s.ops, e.2.warp = w) (hf : (getWarp s w).frames = []) : exec .warpRetire s = .next s := by
  have hall := (allEnded_iff _).2 hend
  rw [exec_warpRetire h]
  simp [not_popMay_of_noFrames hf, not_stopMay_of_ended hall, not_discardMay_of_ended hall, not_retireMay_of_ops hops hf]

theorem warpRetire_unblocked (h : s.msg = some (.warpRetire w)) (hend : allEnded (getWarp s w) = false)
    (hb : atBlock s w (getWarp s w) = false) : exec .warpRetire s = .next s := by
  rw [exec_warpRetire h]
  simp [discardMay, stopMay, popMay, hb, not_retireMay_of_live hend]

/-- A warp of an interface in reset is discarded. -/
theorem warpRetire_discards (h : s.msg = some (.warpRetire w)) (hend : allEnded (getWarp s w) = false)
    (hb : atBlock s w (getWarp s w) = true) (hr : (getIface s (getWarp s w).iface).resetting = true) (hlen : (getWarp s w).threads.length = 32) :
    ∃ t, exec .warpRetire s = .next t ∧ (∀ u, u < 32 → condAt t w u = .ended) ∧ t.net = s.net ∧ t.mem = s.mem ∧ t.regions = s.regions :=
  ⟨discardWarp s w, by rw [exec_warpRetire h, if_pos (by simp [discardMay, hr, hend, hb])],
    fun _ hu => condAt_discardWarp hu hlen, rfl, rfl, rfl⟩

/-- A stopped warp ends, unless a set of it is first resumed at its GRAPH entry. -/
theorem warpRetire_stops (h : s.msg = some (.warpRetire w)) (hend : allEnded (getWarp s w) = false)
    (hb : atBlock s w (getWarp s w) = true) (hr : (getIface s (getWarp s w).iface).resetting = false) (hs : (getWarp s w).stop = true)
    (hg : graphFires (getWarp s w) = false ∨ ∀ u, u < 32 → condAt s w u ≠ .waiting .anyEvent) :
    exec .warpRetire s = .next (exitThreads s w allLanes) := by
  have hmay : stopMay s w (getWarp s w) = true := by
    rcases hg with hg | hg
    · simp [stopMay, hs, hend, hb, hg]
    · simp [stopMay, hs, hend, hb, anySet_eq_zero hg]
  rw [exec_warpRetire h, if_neg (by simp [not_discardMay_of_not_resetting hr]), if_pos hmay]

theorem warpRetire_resumes_first (h : s.msg = some (.warpRetire w)) (hend : allEnded (getWarp s w) = false)
    (hr : (getIface s (getWarp s w).iface).resetting = false) (hg : graphFires (getWarp s w) = true) (hf : (getWarp s w).frames = [])
    (hany : ∃ u, u < 32 ∧ condAt s w u = .waiting .anyEvent) : exec .warpRetire s = .next s := by
  obtain ⟨u, hu, hc⟩ := hany
  have hset : anySet (getWarp s w) ≠ 0#32 := anySet_ne_zero hu hc
  rw [exec_warpRetire h]
  simp [not_discardMay_of_not_resetting hr, stopMay, hset, hg, not_popMay_of_noFrames hf, not_retireMay_of_live hend]

/-- A marked frame is popped. -/
theorem warpRetire_pops (h : s.msg = some (.warpRetire w)) (hb : atBlock s w (getWarp s w) = true)
    (hr : (getIface s (getWarp s w).iface).resetting = false) (hs : (getWarp s w).stop = false) {f : Frame} {r : List Frame}
    (hf : (getWarp s w).frames = f :: r) (hm : f.marked = true) : ∃ t, exec .warpRetire s = .next t ∧ Popped s t w 5 := by
  refine ⟨popMarked s w, ?_, popMarked_popped s w⟩
  rw [exec_warpRetire h, if_neg (by simp [not_discardMay_of_not_resetting hr]), if_neg (by simp [stopMay, hs]),
    if_pos (by simp [popMay, hf, hm, hb])]

end

end Sys2Proof.Machine
end

section
/-! R84, R115, R199, R409: a group retires or is saved, a warp becomes urgent. -/

namespace Sys2Proof.Machine

/-! ### What changes only the carve-out of cores -/

theorem foldl_shrinkCarve (l : List Nat) (s : State) : ∃ m, l.foldl shrinkCarve s = { s with carve := m } :=
  List.foldlRecOn (motive := fun t => ∃ m, t = { s with carve := m }) l shrinkCarve ⟨_, rfl⟩ fun t ht a _ => by
    obtain ⟨m, rfl⟩ := ht
    exact ⟨_, rfl⟩

/-! ### GROUP_RETIRE -/

theorem exec_groupRetire {s : State} {gi : Nat} (h : s.msg = some (.groupRetire gi)) :
    exec .groupRetire s = .next (if (mapGet s.groups gi).isSome && groupMay s gi then retireGroup s gi else s) := by
  change execGroupRetire s = _
  exact event_next h rfl

/-- R84: what a group waits for before it retires. -/
theorem groupMay_iff (s : State) (gi : Nat) : groupMay s gi = true ↔
    (∀ e ∈ s.warps, e.2.group = gi → e.2.retired = true) ∧ (∀ e ∈ s.copies, e.2.group = gi → e.2.node = none → unfinished e.2 = false) ∧
      ∀ e ∈ s.arrays, ∀ a ∈ e.2, a.group ≠ gi := by
  simp only [groupMay, Bool.and_eq_true, List.all_eq_true, Bool.or_eq_true, bne_iff_ne, ne_eq, Bool.not_eq_true', List.any_eq_false, not_and,
    beq_iff_eq, Option.isNone_iff_eq_none, Bool.not_eq_true, and_assoc, or_iff_not_imp_left, not_not]

/-- R84, R199: what the retirement of a group changes, besides the carve-out of its cores. -/
theorem retireGroup_eq (s : State) (gi : Nat) : ∃ m, retireGroup s gi =
    { updLaunch { s with groups := mapErase s.groups gi, warps := mapFilter s.warps fun _ x => x.group != gi } (getGroup s gi).launch
        fun l => { l with retired := l.retired + 1 } with carve := m } := by
  unfold retireGroup
  dsimp only
  split
  · exact ⟨_, rfl⟩
  · exact foldl_shrinkCarve _ _

theorem groupRetire_waits {s : State} {gi : Nat} (h : s.msg = some (.groupRetire gi)) (hm : groupMay s gi = false) :
    exec .groupRetire s = .next s := by
  rw [exec_groupRetire h, if_neg (by simp [hm])]

theorem groupRetire_retires {s : State} {gi : Nat} (h : s.msg = some (.groupRetire gi)) (hg : ∃ g, mapGet s.groups gi = some g)
    (hm : groupMay s gi = true) : ∃ t, exec .groupRetire s = .next t ∧ mapGet t.groups gi = none ∧
      (∀ k, k ≠ gi → mapGet t.groups k = mapGet s.groups k) ∧ (∀ e, e ∈ t.warps ↔ e ∈ s.warps ∧ e.2.group ≠ gi) ∧
      (∀ la, mapGet s.launches (getGroup s gi).launch = some la → (getLaunch t (getGroup s gi).launch).retired = la.retired + 1) ∧
      t.mem = s.mem ∧ t.l1 = s.l1 := by
  obtain ⟨g, hg⟩ := hg
  obtain ⟨m, hr⟩ := retireGroup_eq s gi
  refine ⟨_, (exec_groupRetire h).trans (congrArg _ (if_pos (by simp [hg, hm]))), ?_⟩
  rw [hr]
  refine ⟨?_, fun k hk => ?_, fun e => ?_, fun la hla => ?_, rfl, rfl⟩
  · exact (mapGet_mapErase _ _ _).trans (if_pos rfl)
  · exact (mapGet_mapErase _ _ _).trans (if_neg hk)
  · refine List.mem_filter.trans (and_congr_right fun _ => ?_)
    exact bne_iff_ne
  · have hget : getLaunch s (getGroup s gi).launch = la := by rw [getLaunch, mapGetD, hla]; rfl
    exact (congrArg Launch.retired (getLaunch_setLaunch _ _ _)).trans (congrArg (·.retired + 1) hget)

/-! ### WARP_URGENT -/

theorem exec_warpUrgent {s : State} {w : Nat} (h : s.msg = some (.warpUrgent w)) :
    exec .warpUrgent s = .next (if urgentMay s (getWarp s w) then updWarp s w fun x => { x with urgent := true } else s) := by
  change execWarpUrgent s = _
  exact event_next h rfl

theorem urgentMay_iff (s : State) (x : Warp) : urgentMay s x = true ↔ x.urgent = false ∧ ∃ c, x.eligible = some c ∧ c + 32 ≤ s.clock := by
  unfold urgentMay
  cases x.eligible <;> simp

theorem warpUrgent_eligible {s : State} {w c : Nat} (h : s.msg = some (.warpUrgent w)) (hu : (getWarp s w).urgent = false)
    (he : (getWarp s w).eligible = some c) (hc : c + 32 ≤ s.clock) :
    exec .warpUrgent s = .next (setWarp s w { getWarp s w with urgent := true }) := by
  rw [exec_warpUrgent h, if_pos ((urgentMay_iff _ _).2 ⟨hu, c, he, hc⟩)]
  rfl

theorem warpUrgent_not {s : State} {w : Nat} (h : s.msg = some (.warpUrgent w)) (hn : (getWarp s w).urgent = true ∨ (getWarp s w).eligible = none ∨
    ∃ c, (getWarp s w).eligible = some c ∧ s.clock < c + 32) : exec .warpUrgent s = .next s := by
  rw [exec_warpUrgent h, if_neg]
  intro hm
  obtain ⟨hu, c, hc, hle⟩ := (urgentMay_iff _ _).1 hm
  rcases hn with hn | hn | ⟨d, hd, hlt⟩
  · rw [hu] at hn
    cases hn
  · rw [hc] at hn
    cases hn
  · rw [hc] at hd
    cases hd
    omega

/-! ### GROUP_STATE_SAVE -/

theorem exec_groupStateSave {s : State} {gi : Nat} (h : s.msg = some (.groupStateSave gi)) :
    exec .groupStateSave s = .next (if (mapGet s.groups gi).isSome && saveMay s gi (getGroup s gi) then saveGroup s gi else s) := by
  change execGroupStateSave s = _
  exact event_next h rfl

theorem not_saveMay {s : State} {gi : Nat} {g : Group} (h : (∃ e ∈ s.warps, e.2.group = gi ∧ e.2.retired = false ∧ e.2.resident = true) ∨ g.saved = true) :
    saveMay s gi g = false := by
  rcases h with ⟨e, he, hg, hret, hres⟩ | h
  · have hall : ((s.warps.filter fun e => e.2.group == gi && !e.2.retired).all fun e => !e.2.resident) = false :=
      List.all_eq_false.2 ⟨e, List.mem_filter.2 ⟨he, by simp [hg, hret]⟩, by simp [hres]⟩
    unfold saveMay
    dsimp only
    rw [hall]
    simp
  · simp [saveMay, h]

theorem groupStateSave_waits {s : State} {gi : Nat} (h : s.msg = some (.groupStateSave gi))
    (hn : (∃ e ∈ s.warps, e.2.group = gi ∧ e.2.retired = false ∧ e.2.resident = true) ∨ (getGroup s gi).saved = true) :
    exec .groupStateSave s = .next s := by
  rw [exec_groupStateSave h, if_neg (by simp [not_saveMay hn])]

theorem groupStateSave_saves {s : State} {gi : Nat} (h : s.msg = some (.groupStateSave gi)) (hg : ∃ g, mapGet s.groups gi = some g)
    (hm : saveMay s gi (getGroup s gi) = true) : ∃ t, exec .groupStateSave s = .next t ∧ getGroup t gi = { getGroup s gi with saved := true } ∧
      (∀ k, k ≠ gi → getGroup t k = getGroup s k) ∧ t.l1 = s.l1 ∧ t.cc = s.cc ∧ t.mem = s.mem ∧ t.warps = s.warps := by
  obtain ⟨g, hg⟩ := hg
  obtain ⟨m, hr⟩ := foldl_shrinkCarve (getGroup s gi).cores (updGroup s gi fun g => { g with saved := true })
  refine ⟨_, (exec_groupStateSave h).trans (congrArg _ (if_pos (by simp [hg, hm]))), ?_⟩
  rw [saveGroup, hr]
  exact ⟨getGroup_setGroup _ _ _, fun k hk => (getGroup_setGroup_ite _ _ _ _).trans (if_neg hk), rfl, rfl, rfl, rfl⟩

end Sys2Proof.Machine
end

section
/-! Finite maps by their entries, what only moves words between the caches, and R258, R375: the kernel boundary. -/

namespace Sys2Proof.Machine

/-! ### Finite maps by their entries -/

section
variable {α : Type} {m : Map α} {k : Nat}

theorem mem_of_mapGet {x : α} (h : mapGet m k = some x) : (k, x) ∈ m := by
  induction m with
  | nil => cases h
  | cons e m ih =>
    obtain ⟨i, v⟩ := e
    rw [mapGet] at h
    split at h
    · cases h
      subst_vars
      exact List.mem_cons_self
    · exact List.mem_cons_of_mem _ (ih h)

theorem lt_of_mapAbove {b : Nat} (h : mapAbove b m = true) : ∀ e ∈ m, b < e.1 := by
  induction m with
  | nil => exact fun _ he => absurd he List.not_mem_nil
  | cons e m ih =>
    simp only [mapAbove, Bool.and_eq_true, decide_eq_true_eq] at h
    exact List.forall_mem_cons.2 ⟨h.1, ih h.2⟩

theorem mapGet_eq_none_of_forall_ne (h : ∀ e ∈ m, e.1 ≠ k) : mapGet m k = none := by
  cases hx : mapGet m k with
  | none => rfl
  | some x => exact absurd rfl (h _ (mem_of_mapGet hx))

theorem mapGet_of_mem {x : α} (hm : mapWf m = true) (h : (k, x) ∈ m) : mapGet m k = some x := by
  induction m with
  | nil => cases h
  | cons e m ih =>
    obtain ⟨i, v⟩ := e
    simp only [mapWf, Bool.and_eq_true] at hm
    rw [mapGet]
    rcases List.mem_cons.1 h with h | h
    · cases h
      exact if_pos rfl
    · have hlt := lt_of_mapAbove hm.1 _ h
      rw [if_neg (by omega)]
      exact ih hm.2 h

theorem mapGet_mapFilter (hm : mapWf m = true) (p : Nat → α → Bool) (k : Nat) : mapGet (mapFilter m p) k = (mapGet m k).filter (p k) := by
  induction m with
  | nil => rfl
  | cons e m ih =>
    obtain ⟨i, v⟩ := e
    simp only [mapWf, Bool.and_eq_true] at hm
    have hcons : mapFilter ((i, v) :: m) p = if p i v then (i, v) :: mapFilter m p else mapFilter m p := List.filter_cons
    rw [hcons, mapGet]
    by_cases hk : k = i
    · subst hk
      have hnone : mapGet m k = none := mapGet_eq_none_of_forall_ne fun e he => by
        have := lt_of_mapAbove hm.1 e he
        omega
      have hrest : mapGet (mapFilter m p) k = none := by rw [ih hm.2, hnone]; rfl
      cases hp : p k v <;> simp [hp, hrest, mapGet, Option.filter]
    · rw [if_neg hk, ← ih hm.2]
      cases p i v <;> simp [hk, mapGet]

/-- A key above every listed one is listed last. -/
theorem mapSet_of_forall_lt (h : ∀ e ∈ m, e.1 < k) (x : α) : mapSet m k x = m ++ [(k, x)] := by
  induction m with
  | nil => rfl
  | cons e m ih =>
    obtain ⟨i, v⟩ := e
    obtain ⟨hi, hm⟩ := List.forall_mem_cons.1 h
    dsimp only at hi
    rw [mapSet, if_neg (by omega), if_neg (by omega), ih hm]
    rfl

end

/-! ### What only moves words between the caches -/

/-- Nothing changes but the words of the caches and of memory, and each core's carve-out, placement tag and last acquire. -/
def CachesOnly (s t : State) : Prop :=
  t = { s with l1 := t.l1, cc := t.cc, mem := t.mem, errors := t.errors, sectorMod := t.sectorMod, hostDirty := t.hostDirty, carve := t.carve, tags := t.tags, acquired := t.acquired }

theorem CachesOnly.refl (s : State) : CachesOnly s s := rfl
theorem CachesOnly.trans {s t u : State} (h : CachesOnly s t) (k : CachesOnly t u) : CachesOnly s u := by
  rw [CachesOnly] at h k ⊢
  rw [k, h]
theorem CachesOnly.ite {s t u : State} {p : Prop} [Decidable p] (h : CachesOnly s t) (k : CachesOnly s u) : CachesOnly s (if p then t else u) := by
  split
  exacts [h, k]
theorem CachesOnly.foldl {α : Type} {g : State → α → State} (hg : ∀ s a, CachesOnly s (g s a)) (l : List α) (s : State) : CachesOnly s (l.foldl g s) :=
  List.foldlRecOn (motive := fun t => CachesOnly s t) l g (.refl s) fun t h a _ => h.trans (hg t a)

theorem noteSector_caches (s : State) (c w : Nat) (t : Tag) : CachesOnly s (noteSector s c w t) := by
  unfold noteSector
  dsimp only
  exact .ite rfl rfl

theorem pushToCluster_caches (s : State) (core w : Nat) : CachesOnly s (pushToCluster s core w) := by
  unfold pushToCluster
  split
  · dsimp only
    exact .ite (.trans (noteSector_caches _ _ _ _) rfl) rfl
  · rfl

theorem setMemByte_caches (s : State) (a : Nat) (b : Byte) : CachesOnly s (setMemByte s a b) := rfl

theorem setMemWord_caches (s : State) (w : Nat) (x : Word) : CachesOnly s (setMemWord s w x) :=
  (((setMemByte_caches _ _ _).trans (setMemByte_caches _ _ _)).trans (setMemByte_caches _ _ _)).trans (setMemByte_caches _ _ _)

theorem pushToDevice_caches (s : State) (core w : Nat) : CachesOnly s (pushToDevice s core w) := by
  unfold pushToDevice
  dsimp only
  refine (pushToCluster_caches s core w).trans ?_
  split
  · refine .ite ?_ rfl
    refine CachesOnly.trans ?_ (setMemWord_caches _ _ _)
    rfl
  · rfl

theorem evictL1_caches (s : State) (core : Nat) (ws : List Nat) : CachesOnly s (evictL1 s core ws) := by
  refine .foldl (fun s w => ?_) _ _
  refine (pushToCluster_caches s core w).trans ?_
  rfl

theorem growCarve_caches (s : State) (core : Nat) : CachesOnly s (growCarve s core) := by
  unfold growCarve
  dsimp only
  refine .ite rfl (CachesOnly.trans ?_ (evictL1_caches _ _ _))
  rfl

theorem acquireAct_caches (s : State) (core lvl : Nat) (uo : Bool) : CachesOnly s (acquireAct s core lvl uo) := by
  unfold acquireAct
  exact .ite rfl (.ite rfl rfl)

theorem moveL1_caches (s : State) (mine : Nat → Bool) (old new : Nat) : CachesOnly s (moveL1 s mine old new) := by
  unfold moveL1
  exact .ite rfl rfl

theorem moveCc_caches (s : State) (mine : Nat → Bool) (old new : Nat) : CachesOnly s (moveCc s mine old new) := by
  unfold moveCc
  dsimp only
  refine .ite rfl (CachesOnly.trans ?_ (.foldl (fun s _ => noteSector_caches s _ _ _) _ _))
  rfl

theorem moveWords_caches (s : State) (gi : Nat) (home : List Nat) : CachesOnly s (moveWords s gi home) := by
  unfold moveWords
  exact .trans (.foldl (fun s _ => moveL1_caches s _ _ _) _ _) (moveCc_caches _ _ _ _)

/-! ### Pushes that a launch waits for -/

/-- How often a waiter stands among the pushes that are not acknowledged. -/
def waitsOf (m : Map PushOut) (l : Nat) : Nat := (m.map fun e => e.2.waiters.count l).sum

/-- Pushes begin, and `l` waits for `n` acknowledgements more. -/
structure PushesFor (l : Nat) (s t : State) (n : Nat) : Prop where
  launches : t.launches = s.launches
  warps : t.warps = s.warps
  next : s.next ≤ t.next
  net : ∃ q, t.net = s.net ++ q ∧ ∀ f ∈ q, ∃ c k a m n, f.msg = .pushArrive c k a m n
  keys : (∀ e ∈ s.pushOut, e.1 < s.next) → ∀ e ∈ t.pushOut, e.1 < t.next
  waits : (∀ e ∈ s.pushOut, e.1 < s.next) → waitsOf t.pushOut l = waitsOf s.pushOut l + n

theorem PushesFor.trans {l a b : Nat} {s t u : State} (h : PushesFor l s t a) (k : PushesFor l t u b) : PushesFor l s u (a + b) where
  launches := k.launches.trans h.launches
  warps := k.warps.trans h.warps
  next := h.next.trans k.next
  net := by
    obtain ⟨q, hq, hqs⟩ := h.net
    obtain ⟨r, hr, hrs⟩ := k.net
    refine ⟨q ++ r, by rw [hr, hq, List.append_assoc], fun f hf => ?_⟩
    rcases List.mem_append.1 hf with hf | hf
    · exact hqs f hf
    · exact hrs f hf
  keys hs := k.keys (h.keys hs)
  waits hs := by rw [k.waits (h.keys hs), h.waits hs, Nat.add_assoc]

theorem CachesOnly.pushesFor {s t : State} (h : CachesOnly s t) (l : Nat) : PushesFor l s t 0 := by
  rw [CachesOnly] at h
  rw [h]
  exact ⟨rfl, rfl, Nat.le_refl _, ⟨[], (List.append_nil _).symm, fun _ hf => absurd hf List.not_mem_nil⟩, id, fun _ => rfl⟩

theorem PushesFor.refl (l : Nat) (s : State) : PushesFor l s s 0 := (CachesOnly.refl s).pushesFor l

/-- R272: a release joins the pushes of its cluster. -/
theorem waitsOf_join (m : Map PushOut) (c l : Nat) :
    waitsOf (mapAll m fun _ p => if p.cluster = c then { p with waiters := l :: p.waiters } else p) l =
      waitsOf m l + (m.filter fun e => e.2.cluster == c).length := by
  induction m with
  | nil => rfl
  | cons e m ih =>
    simp only [waitsOf, mapAll, List.map_cons, List.sum_cons, List.filter_cons] at ih ⊢
    rw [ih]
    by_cases hc : e.2.cluster = c
    · simp only [hc, if_true, List.count_cons_self, beq_self_eq_true, List.length_cons]
      omega
    · simp only [hc, if_false, beq_iff_eq]
      omega

theorem joinPushes_pushesFor (s : State) (core l : Nat) : PushesFor l s (joinPushes s core l).1 (joinPushes s core l).2 where
  launches := rfl
  warps := rfl
  next := Nat.le_refl _
  net := ⟨[], (List.append_nil _).symm, fun _ hf => absurd hf List.not_mem_nil⟩
  keys hs e he := by
    obtain ⟨d, hd, rfl⟩ := List.mem_map.1 he
    exact hs d hd
  waits _ := waitsOf_join _ _ _

/-- R245: a push of one sector begins under a new number. -/
theorem sendPush_pushesFor (s : State) (chan : Option Nat) (c k a l : Nat) (m : BitVec 16) :
    PushesFor l s { send s chan (.pushArrive c k a m s.next) with pushOut := mapSet s.pushOut s.next ⟨c, [l]⟩, next := s.next + 1 } 1 where
  launches := rfl
  warps := rfl
  next := Nat.le_succ _
  net := ⟨_, rfl, by simp⟩
  keys hs e he := by
    dsimp only at he ⊢
    rw [mapSet_of_forall_lt hs] at he
    rcases List.mem_append.1 he with he | he
    · exact Nat.lt_succ_of_lt (hs e he)
    · rw [List.mem_singleton.1 he]
      exact Nat.lt_succ_self _
  waits hs := by
    dsimp only
    rw [mapSet_of_forall_lt hs]
    simp [waitsOf]

theorem PushesFor.foldl {α : Type} {l : Nat} {g : State → α → State} (hg : ∀ s a, PushesFor l s (g s a) 1) (xs : List α) (s : State) :
    PushesFor l s (xs.foldl g s) xs.length := by
  induction xs generalizing s with
  | nil => exact .refl l s
  | cons x xs ih =>
    rw [List.length_cons, Nat.add_comm]
    exact (hg s x).trans (ih _)

theorem sendPushes_pushesFor (s : State) (core l : Nat) (ws : List Nat) : PushesFor l s (sendPushes s core l ws).1 (sendPushes s core l ws).2.1 :=
  .foldl (fun s _ => sendPush_pushesFor s _ _ _ _ l _) _ s

theorem releasePush_pushesFor (s : State) (core l : Nat) (uo : Bool) : PushesFor l s (releasePush s core 2 l uo).1 (releasePush s core 2 l uo).2.1 := by
  have hpush (t : State) (ws : List Nat) : PushesFor l t (sendPushes (ws.foldl (fun s w => pushToDevice s core w) t) core l ws).1
      (sendPushes (ws.foldl (fun s w => pushToDevice s core w) t) core l ws).2.1 := by
    have hdev := (CachesOnly.foldl (fun s w => pushToDevice_caches s core w) ws t).pushesFor l
    have := hdev.trans (sendPushes_pushesFor _ core l ws)
    rwa [Nat.zero_add] at this
  exact (joinPushes_pushesFor s core l).trans (hpush _ _)

/-! ### KERNEL_BOUNDARY -/

theorem exec_kernelBoundary {s : State} {l : Nat} (h : s.msg = some (.kernelBoundary l)) : exec .kernelBoundary s = .next (
    if (mapGet s.launches l).isSome && boundaryMay s l then
      if (getLaunch s l).ending then endBoundary s l else beginBoundary s l
    else s) := by
  change execKernelBoundary s = _
  exact event_next h rfl

theorem launchOver_iff (s : State) (l : Nat) : launchOver s l = true ↔ (getLaunch s l).retired = (getLaunch s l).placed ∧
    ((getLaunch s l).cancelled = true ∨ (getLaunch s l).placed = (getLaunch s l).count) := by
  simp [launchOver]

theorem boundaryMay_iff (s : State) (l : Nat) : boundaryMay s l = true ↔ launchOver s l = true ∧ ((getLaunch s l).ending = false ∨ (getLaunch s l).pushes = 0) := by
  simp [boundaryMay]

theorem kernelBoundary_waits {s : State} {l : Nat} (h : s.msg = some (.kernelBoundary l)) (hm : boundaryMay s l = false) :
    exec .kernelBoundary s = .next s := by
  rw [exec_kernelBoundary h, if_neg (by simp [hm])]

/-- R258 step 1: the pushes of some cores: the state, the acknowledgements outstanding, the largest stamp. -/
def boundaryPushes (l : Nat) (cs : List Nat) (p : State × Nat × Nat) : State × Nat × Nat :=
  cs.foldl (fun (s, n, st) c =>
    let r := releasePush s c 2 l true
    (r.1, n + r.2.1, max st (r.2.2.getD 0))) p

theorem boundaryPushes_pushesFor (l : Nat) (cs : List Nat) {s : State} {p : State × Nat × Nat} (h : PushesFor l s p.1 p.2.1) :
    PushesFor l s (boundaryPushes l cs p).1 (boundaryPushes l cs p).2.1 ∧ p.2.2 ≤ (boundaryPushes l cs p).2.2 := by
  induction cs generalizing p with
  | nil => exact ⟨h, Nat.le_refl _⟩
  | cons c cs ih =>
    obtain ⟨t, n, st⟩ := p
    have hc := ih (p := ((releasePush t c 2 l true).1, n + (releasePush t c 2 l true).2.1, max st ((releasePush t c 2 l true).2.2.getD 0)))
      (h.trans (releasePush_pushesFor t c l true))
    exact ⟨hc.1, (Nat.le_max_left _ _).trans hc.2⟩

theorem beginBoundary_eq (s : State) (l : Nat) : ∃ t n st, PushesFor l s t n ∧ s.gtime ≤ st ∧
    beginBoundary s l = updLaunch t l fun la => { la with ending := true, pushes := n, stamp := st } := by
  obtain ⟨hp, hst⟩ := boundaryPushes_pushesFor l (List.range Config.cores) (p := (s, 0, s.gtime)) (.refl l s)
  refine ⟨_, _, _, hp, hst, ?_⟩
  unfold beginBoundary boundaryPushes
  generalize List.range Config.cores = cs
  rfl

theorem kernelBoundary_begins {s : State} {l : Nat} (h : s.msg = some (.kernelBoundary l)) (hl : ∃ la, mapGet s.launches l = some la)
    (hover : launchOver s l = true) (hend : (getLaunch s l).ending = false) : ∃ t q, exec .kernelBoundary s = .next t ∧ t.net = s.net ++ q ∧
      getLaunch t l = { getLaunch s l with ending := true, pushes := (getLaunch t l).pushes, stamp := (getLaunch t l).stamp } ∧
      s.gtime ≤ (getLaunch t l).stamp ∧ t.warps = s.warps ∧
      ((∀ e ∈ s.pushOut, e.1 < s.next) → waitsOf t.pushOut l = waitsOf s.pushOut l + (getLaunch t l).pushes) ∧
      ∀ f ∈ q, ∃ c k a m n, f.msg = .pushArrive c k a m n := by
  obtain ⟨la, hla⟩ := hl
  have hmay := (boundaryMay_iff s l).2 ⟨hover, .inl hend⟩
  obtain ⟨t, n, st, hp, hst, hb⟩ := beginBoundary_eq s l
  obtain ⟨q, hq, hqs⟩ := hp.net
  have hget : getLaunch (updLaunch t l fun la => { la with ending := true, pushes := n, stamp := st }) l =
      { getLaunch s l with ending := true, pushes := n, stamp := st } := by
    rw [updLaunch, getLaunch_setLaunch, getLaunch, getLaunch, hp.launches]
  have hexec : exec .kernelBoundary s = .next (updLaunch t l fun la => { la with ending := true, pushes := n, stamp := st }) := by
    rw [exec_kernelBoundary h, if_pos (by simp [hla, hmay]), if_neg (by simp [hend]), hb]
  refine ⟨_, q, hexec, hq, ?_, ?_, hp.warps, ?_, hqs⟩
  · rw [hget]
  · rw [hget]
    exact hst
  · rw [hget]
    exact hp.waits

/-- The node whose completion the end of a launch's boundary tells: not that of a FUNC of which a warp ran. -/
def boundaryDone (la : Launch) : List Flight :=
  match la.node with
  | some (g, n) => if la.func = true ∧ 0 < la.placed then [] else [⟨nodeChan g n, .nodeComplete g n, 0⟩]
  | none => []

/-- R258 step 3: every cluster takes the stamp of the boundary. -/
def staleAfter (stamp n : Nat) (m : Map Nat) : Map Nat := (List.range n).foldl (fun m c => mapSet m c (max stamp (mapGetD m c 0))) m

theorem mapGetD_staleAfter (stamp n c : Nat) (m : Map Nat) : mapGetD (staleAfter stamp n m) c 0 =
    if c < n then max stamp (mapGetD m c 0) else mapGetD m c 0 := by
  unfold staleAfter
  induction n with
  | zero => rfl
  | succ n ih =>
    rw [List.range_succ, List.foldl_append, List.foldl_cons, List.foldl_nil, mapGetD_mapSet]
    by_cases hc : c = n
    · subst hc
      rw [if_pos rfl, ih, if_neg (Nat.lt_irrefl _), if_pos (Nat.lt_succ_self _)]
    · rw [if_neg hc, ih]
      simp only [show c < n + 1 ↔ c < n by omega]

/-- R258 steps 2 and 3: the boundary of a launch completes. -/
theorem endBoundary_eq (s : State) (l : Nat) : endBoundary s l =
    { updIface s (getLaunch s l).iface fun x => { x with places := x.places.filter fun p => p.launch != some l } with
      l1 := mapFilter s.l1 fun _ x => x.dirty
      staleBefore := staleAfter ((getLaunch s l).stamp + 2 * s.sys.gband) Config.clusters s.staleBefore
      launches := mapErase s.launches l
      net := s.net ++ boundaryDone (getLaunch s l) } := by
  unfold endBoundary boundaryDone staleAfter
  generalize List.range Config.clusters = cs
  dsimp only
  cases (getLaunch s l).node with
  | none =>
    rw [List.append_nil]
    rfl
  | some p =>
    obtain ⟨g, n⟩ := p
    by_cases hf : (getLaunch s l).func = true ∧ 0 < (getLaunch s l).placed
    · simp only [hf, decide_true, Bool.and_self, if_true, and_self, List.append_nil]
      rfl
    · have hb : ¬ ((getLaunch s l).func && decide (0 < (getLaunch s l).placed)) = true := by simpa using hf
      simp only [if_neg hf, if_neg hb]
      rfl

theorem getIface_updIface (s : State) (i : Nat) (f : Iface → Iface) : getIface (updIface s i f) i = f (getIface s i) := by
  rw [updIface, getIface, setIface, mapGetD_mapPut, if_pos rfl]

theorem kernelBoundary_ends {s : State} {l : Nat} (h : s.msg = some (.kernelBoundary l)) (hl : ∃ la, mapGet s.launches l = some la)
    (hover : launchOver s l = true) (hend : (getLaunch s l).ending = true) (hp : (getLaunch s l).pushes = 0) (hwf : mapWf s.l1 = true) :
    ∃ t, exec .kernelBoundary s = .next t ∧ mapGet t.launches l = none ∧ t.mem = s.mem ∧ t.cc = s.cc ∧
      (∀ k, mapGet t.l1 k = (mapGet s.l1 k).filter fun y => y.dirty) ∧
      (∀ c, c < Config.clusters → mapGetD t.staleBefore c 0 = max ((getLaunch s l).stamp + 2 * s.sys.gband) (mapGetD s.staleBefore c 0)) ∧
      (getIface t (getLaunch s l).iface).places = (getIface s (getLaunch s l).iface).places.filter (fun p => p.launch != some l) ∧
      t.net = s.net ++ boundaryDone (getLaunch s l) := by
  obtain ⟨la, hla⟩ := hl
  have hmay := (boundaryMay_iff s l).2 ⟨hover, .inr hp⟩
  have hexec : exec .kernelBoundary s = .next (endBoundary s l) := by
    rw [exec_kernelBoundary h, if_pos (by simp [hla, hmay]), if_pos hend]
  rw [endBoundary_eq] at hexec
  refine ⟨_, hexec, ?_, rfl, rfl, mapGet_mapFilter hwf fun _ x => x.dirty, fun c hc => ?_, ?_, rfl⟩
  · dsimp only
    rw [mapGet_mapErase, if_pos rfl]
  · dsimp only
    rw [mapGetD_staleAfter, if_pos hc]
  · exact congrArg Iface.places (getIface_updIface s (getLaunch s l).iface fun x => { x with places := x.places.filter fun p => p.launch != some l })

end Sys2Proof.Machine
end

section
/-! R83, R92 to R96, R407: the next gang of a launch is placed. -/

namespace Sys2Proof.Machine

/-! ### A free context number -/

theorem mem_contextsUsed {s : State} {w : Nat} {x : Warp} (h : mapGet s.warps w = some x) (hr : x.retired = false) : x.context ∈ contextsUsed s x.iface :=
  List.mem_map.2 ⟨(w, x), List.mem_filter.2 ⟨mem_of_mapGet h, by simp [hr]⟩, rfl⟩

/-- R407: below 65,536 live warps there is a number that none of them holds, and one such is taken. -/
theorem freeContext_not_mem {s : State} {i : Nat} (h : (contextsUsed s i).length < 65536) : freeContext s i ∉ contextsUsed s i := by
  unfold freeContext
  dsimp only
  generalize contextsUsed s i = used at h
  generalize Config.pick _ = k
  have hnodup : ((List.range (used.length + 1)).map fun n => (k + n) % 65536).Nodup := by
    refine List.Nodup.map_on (fun a ha b hb hab => ?_) List.nodup_range
    rw [List.mem_range] at ha hb
    omega
  obtain ⟨c, hc, hfree⟩ : ∃ c ∈ (List.range (used.length + 1)).map fun n => (k + n) % 65536, c ∉ used := by
    by_contra hall
    push Not at hall
    have hlen := (hnodup.subperm hall).length_le
    simp at hlen
  cases hf : ((List.range (used.length + 1)).map fun n => (k + n) % 65536).find? fun n => !used.contains n with
  | none =>
    have := List.find?_eq_none.1 hf c hc
    simp [hfree] at this
  | some d =>
    have := List.find?_some hf
    simpa using this

/-! ### What placement keeps -/

/-- A launch, but for where its groups stand. -/
def Launch.still (la : Launch) : Launch := { la with homes := [] }

/-- No warp and no group has a number that is still to be given. -/
def Numbered (s : State) : Prop := (∀ e ∈ s.warps, e.1 < s.next) ∧ ∀ e ∈ s.groups, e.1 < s.next

/-- At most `n` warps of a launch of interface `i` start, under context numbers of their own; warps and groups that there were stay as they are. -/
structure Started (l i n : Nat) (s t : State) : Prop where
  launch : (getLaunch t l).still = (getLaunch s l).still
  tick : t.tick = s.tick
  next : s.next ≤ t.next
  warps : ∀ w, w < s.next → mapGet t.warps w = mapGet s.warps w
  groups : ∀ g, g < s.next → mapGet t.groups g = mapGet s.groups g
  numbered : Numbered s → Numbered t
  used : Numbered s → (contextsUsed t i).length ≤ (contextsUsed s i).length + n
  live : Numbered s → ∀ w x, s.next ≤ w → mapGet t.warps w = some x → x.iface = i ∧ x.retired = false
  contexts : Numbered s → (contextsUsed s i).length + n ≤ 65536 → ∀ w x, s.next ≤ w → mapGet t.warps w = some x →
    ∀ v y, mapGet t.warps v = some y → v ≠ w → y.iface = i → y.retired = false → y.context ≠ x.context

section
variable {l i m n : Nat} {s t u : State}

theorem Started.trans (h : Started l i m s t) (k : Started l i n t u) : Started l i (m + n) s u where
  launch := k.launch.trans h.launch
  tick := k.tick.trans h.tick
  next := h.next.trans k.next
  warps w hw := (k.warps w (hw.trans_le h.next)).trans (h.warps w hw)
  groups g hg := (k.groups g (hg.trans_le h.next)).trans (h.groups g hg)
  numbered hs := k.numbered (h.numbered hs)
  used hs := by
    have := h.used hs
    have := k.used (h.numbered hs)
    omega
  live hs w x hw hx := by
    by_cases hlt : w < t.next
    · exact h.live hs w x hw ((k.warps w hlt).symm.trans hx)
    · exact k.live (h.numbered hs) w x (not_lt.1 hlt) hx
  contexts hs hroom w x hw hx v y hy hvw hyi hyr := by
    have ht := h.numbered hs
    have hused := h.used hs
    have hk := k.contexts ht (by omega)
    by_cases hwt : w < t.next
    · have hxt := (k.warps w hwt).symm.trans hx
      by_cases hvt : v < t.next
      · exact h.contexts hs (by omega) w x hw hxt v y ((k.warps v hvt).symm.trans hy) hvw hyi hyr
      · obtain ⟨hxi, hxr⟩ := h.live hs w x hw hxt
        exact (hk v y (not_lt.1 hvt) hy w x hx hvw.symm hxi hxr).symm
    · exact hk w x (not_lt.1 hwt) hx v y hy hvw hyi hyr

/-- A step that starts no warp. -/
theorem Started.of_warps_eq (hl : (getLaunch t l).still = (getLaunch s l).still) (htick : t.tick = s.tick) (hnext : s.next ≤ t.next)
    (hw : t.warps = s.warps) (hg : ∀ g, g < s.next → mapGet t.groups g = mapGet s.groups g)
    (hgn : (∀ e ∈ s.groups, e.1 < s.next) → ∀ e ∈ t.groups, e.1 < t.next) : Started l i 0 s t where
  launch := hl
  tick := htick
  next := hnext
  warps _ _ := by rw [hw]
  groups := hg
  numbered hs := ⟨fun e he => (hs.1 e (hw ▸ he)).trans_le hnext, hgn hs.2⟩
  used _ := by rw [contextsUsed, contextsUsed, hw]; exact Nat.le_refl _
  live hs w x hle hx := absurd (hs.1 _ (mem_of_mapGet (hw ▸ hx))) (not_lt.2 hle)
  contexts hs _ w x hle hx := absurd (hs.1 _ (mem_of_mapGet (hw ▸ hx))) (not_lt.2 hle)

theorem Started.refl (l i : Nat) (s : State) : Started l i 0 s s := .of_warps_eq rfl rfl (Nat.le_refl _) rfl (fun _ _ => rfl) id

theorem CachesOnly.started (h : CachesOnly s t) (l i : Nat) : Started l i 0 s t := by
  rw [CachesOnly] at h
  rw [h]
  exact .of_warps_eq rfl rfl (Nat.le_refl _) rfl (fun _ _ => rfl) id

theorem setHome_started (s : State) (l i index : Nat) (home : List Nat) : Started l i 0 s (setHome s l index home) :=
  .of_warps_eq (by rw [setHome, updLaunch, getLaunch_setLaunch]; rfl) rfl (Nat.le_refl _) rfl (fun _ _ => rfl) id

/-- A group under the next number. -/
def addGroup (s : State) (g : Group) : State := { setGroup s s.next g with next := s.next + 1 }

theorem mapGet_addGroup (s : State) (g : Group) : mapGet (addGroup s g).groups s.next = some g := mapGet_mapSet_self _ _ _

theorem addGroup_started (s : State) (l i : Nat) (g : Group) : Started l i 0 s (addGroup s g) := by
  refine .of_warps_eq rfl rfl (Nat.le_succ _) rfl (fun k hk => ?_) fun hs e he => ?_
  · exact (mapGet_mapSet _ _ _ _).trans (if_neg (Nat.ne_of_lt hk))
  · dsimp only [addGroup, setGroup] at he ⊢
    rw [mapSet_of_forall_lt hs] at he
    rcases List.mem_append.1 he with he | he
    · exact Nat.lt_succ_of_lt (hs e he)
    · rw [List.mem_singleton.1 he]
      exact Nat.lt_succ_self _

end

/-! ### A warp starts -/

/-- R83, R96: the state in which warp `j` of a group starts. -/
def Launch.warp (la : Launch) (l gi index : Nat) (home : List Nat) (j tick slot context age : Nat) : Warp :=
  { launch := l, group := gi, iface := la.iface, num := j, gnum := index * groupWarps la.record + j
    core := home.getD (warpSpot (home.length == 2) j).1 0, part := (warpSpot (home.length == 2) j).2
    slot := slot, context := context, lpart := tileExt la.record, age := age
    threads := List.replicate 32 { pc := la.record.codeBase + BitVec.ofNat 64 la.entry, since := tick } }

theorem Launch.still_warp (la : Launch) : la.still.warp = la.warp := rfl

theorem startWarp_eq (s : State) (l gi index : Nat) (home : List Nat) (j : Nat) : ∃ slot, startWarp s l gi index home j =
    { setWarp s s.next ((getLaunch s l).warp l gi index home j s.tick slot (freeContext s (getLaunch s l).iface) (s.next + 1)) with next := s.next + 2 } := by
  refine ⟨freeSlotOf s (home.getD (warpSpot (home.length == 2) j).1 0) (warpSpot (home.length == 2) j).2, ?_⟩
  unfold startWarp makeYoungest updWarp
  dsimp only
  rw [show ∀ (x : Warp) (k : Nat), getWarp { setWarp s s.next x with next := k } s.next = x from fun x _ => getWarp_setWarp s s.next x]
  exact congrArg (fun z : State => { z with next := s.next + 2 }) (setWarp_setWarp s s.next _ _)

theorem startWarp_started (s : State) (l gi index : Nat) (home : List Nat) (j : Nat) :
    Started l (getLaunch s l).iface 1 s (startWarp s l gi index home j) ∧
      ∃ slot context age, mapGet (startWarp s l gi index home j).warps s.next = some ((getLaunch s l).warp l gi index home j s.tick slot context age) := by
  obtain ⟨slot, he⟩ := startWarp_eq s l gi index home j
  rw [he]
  generalize hx : (getLaunch s l).warp l gi index home j s.tick slot (freeContext s (getLaunch s l).iface) (s.next + 1) = x
  obtain ⟨hiface, hret, hctx⟩ : x.iface = (getLaunch s l).iface ∧ x.retired = false ∧ x.context = freeContext s (getLaunch s l).iface := by
    rw [← hx]
    exact ⟨rfl, rfl, rfl⟩
  have hget (w : Nat) : mapGet (mapSet s.warps s.next x) w = if w = s.next then some x else mapGet s.warps w := mapGet_mapSet _ _ _ _
  have hnew {w : Nat} {y : Warp} (hs : Numbered s) (hw : s.next ≤ w) (hy : mapGet (mapSet s.warps s.next x) w = some y) : w = s.next ∧ y = x := by
    rw [hget] at hy
    split at hy
    · exact ⟨‹_›, (Option.some.inj hy).symm⟩
    · exact absurd (hs.1 _ (mem_of_mapGet hy)) (not_lt.2 hw)
  refine ⟨⟨rfl, rfl, Nat.le_add_right _ _, fun w hw => ?_, fun _ _ => rfl, fun hs => ⟨fun e hmem => ?_, fun e hmem => ?_⟩, fun hs => ?_,
    fun hs w y hw hy => ?_, fun hs hroom w y hw hy v z hz hvw hzi hzr => ?_⟩, slot, _, _, (hget _).trans ((if_pos rfl).trans (congrArg some hx.symm))⟩
  · exact (hget w).trans (if_neg (Nat.ne_of_lt hw))
  · dsimp only [setWarp] at hmem ⊢
    rw [mapSet_of_forall_lt hs.1] at hmem
    rcases List.mem_append.1 hmem with hmem | hmem
    · exact (hs.1 e hmem).trans_le (Nat.le_add_right _ _)
    · rw [List.mem_singleton.1 hmem]
      exact Nat.lt_add_of_pos_right Nat.two_pos
  · exact (hs.2 e hmem).trans_le (Nat.le_add_right _ _)
  · have happ : (setWarp s s.next x).warps = s.warps ++ [(s.next, x)] := mapSet_of_forall_lt hs.1 x
    simp only [contextsUsed, happ, List.filter_append, List.map_append, List.length_append, List.length_map]
    exact Nat.add_le_add_left (List.length_filter_le _ [(s.next, x)]) _
  · obtain ⟨_, rfl⟩ := hnew hs hw hy
    exact ⟨hiface, hret⟩
  · obtain ⟨rfl, rfl⟩ := hnew hs hw hy
    have hzs : mapGet s.warps v = some z := ((hget v).trans (if_neg hvw)).symm.trans hz
    intro heq
    have hmem : z.context ∈ contextsUsed s (getLaunch s l).iface := hzi ▸ mem_contextsUsed hzs hzr
    rw [heq, hctx] at hmem
    exact freeContext_not_mem (by omega) hmem

/-! ### The warps of a group -/

/-- Warps 0 to n - 1 of a group have started. -/
def WarpsAt (la : Launch) (l gi index : Nat) (home : List Nat) (tick n : Nat) (s t : State) : Prop :=
  ∀ j, j < n → ∃ w slot context age, s.next ≤ w ∧ w < t.next ∧ mapGet t.warps w = some (la.warp l gi index home j tick slot context age)

theorem WarpsAt.keep {la : Launch} {l gi index tick n m i : Nat} {home : List Nat} {r s t u : State} (h : WarpsAt la l gi index home tick n s t)
    (hr : r.next ≤ s.next) (k : Started l i m t u) : WarpsAt la l gi index home tick n r u := fun j hj => by
  obtain ⟨w, slot, context, age, hle, hlt, hw⟩ := h j hj
  exact ⟨w, slot, context, age, hr.trans hle, hlt.trans_le k.next, (k.warps w hlt).trans hw⟩

theorem WarpsAt.of_still {la lb : Launch} {l gi index tick n : Nat} {home : List Nat} {s t : State} (h : WarpsAt la l gi index home tick n s t)
    (hl : la.still = lb.still) : WarpsAt lb l gi index home tick n s t := by
  have hw : la.warp = lb.warp := (congrArg Launch.warp hl :)
  rw [WarpsAt, ← hw]
  exact h

theorem startWarps_started (s : State) (l gi index : Nat) (home : List Nat) (n : Nat) :
    Started l (getLaunch s l).iface n s ((List.range n).foldl (fun s w => startWarp s l gi index home w) s) ∧
      WarpsAt (getLaunch s l) l gi index home s.tick n s ((List.range n).foldl (fun s w => startWarp s l gi index home w) s) := by
  induction n with
  | zero => exact ⟨.refl _ _ s, fun _ hj => absurd hj (Nat.not_lt_zero _)⟩
  | succ n ih =>
    rw [List.range_succ, List.foldl_append, List.foldl_cons, List.foldl_nil]
    generalize (List.range n).foldl (fun s w => startWarp s l gi index home w) s = t at ih
    obtain ⟨hst, hat⟩ := ih
    obtain ⟨hone, slot, context, age, hnew⟩ := startWarp_started t l gi index home n
    rw [show (getLaunch t l).iface = (getLaunch s l).iface from (congrArg Launch.iface hst.launch :)] at hone
    rw [← Launch.still_warp, hst.launch, Launch.still_warp, hst.tick] at hnew
    refine ⟨hst.trans hone, fun j hj => ?_⟩
    rcases Nat.lt_succ_iff_lt_or_eq.1 hj with hj | rfl
    · exact hat.keep (Nat.le_refl _) hone j hj
    · have hw := mem_of_mapGet hnew
      refine ⟨t.next, slot, context, age, hst.next, ?_, hnew⟩
      obtain ⟨slot, he⟩ := startWarp_eq t l gi index home j
      rw [he]
      exact Nat.lt_add_of_pos_right Nat.two_pos

/-! ### A group starts -/

/-- R308: the placement tags that the cores of a home give. -/
def homeTags (home : List Nat) (p : State × List Nat) : State × List Nat :=
  home.foldl (fun (s, ts) c => let r := nextTag s c; (r.1, ts ++ [r.2])) p

theorem homeTags_caches (home : List Nat) (p : State × List Nat) : CachesOnly p.1 (homeTags home p).1 := by
  induction home generalizing p with
  | nil => exact .refl _
  | cons c home ih => exact CachesOnly.trans (t := (nextTag p.1 c).1) rfl (ih ((nextTag p.1 c).1, p.2 ++ [(nextTag p.1 c).2]))

/-- R93: the state in which a group starts. -/
def Launch.group (la : Launch) (l index : Nat) (home tags : List Nat) : Group :=
  { launch := l, iface := la.iface, index := index, cores := home, tags := tags, k := la.kinit }

/-- A group of a launch and all its warps have started. -/
def GroupAt (la : Launch) (l index : Nat) (home : List Nat) (tick : Nat) (s t : State) : Prop :=
  ∃ gi tags, s.next ≤ gi ∧ gi < t.next ∧ mapGet t.groups gi = some (la.group l index home tags) ∧
    WarpsAt la l gi index home tick (groupWarps la.record) s t

theorem GroupAt.keep {la : Launch} {l index tick m i : Nat} {home : List Nat} {r s t u : State} (h : GroupAt la l index home tick s t)
    (hr : r.next ≤ s.next) (k : Started l i m t u) : GroupAt la l index home tick r u := by
  obtain ⟨gi, tags, hle, hlt, hg, hw⟩ := h
  exact ⟨gi, tags, hr.trans hle, hlt.trans_le k.next, (k.groups gi hlt).trans hg, hw.keep hr k⟩

theorem GroupAt.of_still {la lb : Launch} {l index tick : Nat} {home : List Nat} {s t : State} (h : GroupAt la l index home tick s t)
    (hl : la.still = lb.still) : GroupAt lb l index home tick s t := by
  obtain ⟨gi, tags, hle, hlt, hg, hw⟩ := h
  have hgroup : la.group = lb.group := (congrArg Launch.group hl :)
  have hrecord : la.record = lb.record := (congrArg Launch.record hl :)
  exact ⟨gi, tags, hle, hlt, hgroup ▸ hg, hrecord ▸ hw.of_still hl⟩

/-- A group starts: its record, then the carve-out of its cores, then its warps. -/
theorem startGroup_eq (l : Nat) (s : State) (index : Nat) (home : List Nat) : ∃ r tags, Started l (getLaunch s l).iface 0 s r ∧
    startGroup l s index home = (List.range (groupWarps (getLaunch s l).record)).foldl (fun s w => startWarp s l r.next index home w)
      (home.foldl growCarve (addGroup r ((getLaunch s l).group l index home tags))) := by
  have htag := homeTags_caches home (s, [])
  refine ⟨_, (homeTags home (s, [])).2, (htag.started l _).trans (setHome_started _ l _ index home), ?_⟩
  rfl

theorem startGroup_started (l : Nat) (s : State) (index : Nat) (home : List Nat) :
    Started l (getLaunch s l).iface (groupWarps (getLaunch s l).record) s (startGroup l s index home) ∧
      GroupAt (getLaunch s l) l index home s.tick s (startGroup l s index home) := by
  obtain ⟨r, tags, hr, he⟩ := startGroup_eq l s index home
  rw [he]
  have hg := mapGet_addGroup r ((getLaunch s l).group l index home tags)
  have hadd := addGroup_started r l (getLaunch s l).iface ((getLaunch s l).group l index home tags)
  have hlt : r.next < (addGroup r ((getLaunch s l).group l index home tags)).next := Nat.lt_succ_self _
  generalize addGroup r ((getLaunch s l).group l index home tags) = t at hg hadd hlt ⊢
  have hgrow : Started l (getLaunch s l).iface 0 t (home.foldl growCarve t) := (CachesOnly.foldl growCarve_caches home t).started _ _
  generalize home.foldl growCarve t = u at hgrow ⊢
  have hsu := (hr.trans hadd).trans hgrow
  obtain ⟨hw, hat⟩ := startWarps_started u l r.next index home (groupWarps (getLaunch s l).record)
  rw [show (getLaunch u l).iface = (getLaunch s l).iface from (congrArg Launch.iface hsu.launch :)] at hw
  rw [hsu.tick] at hat
  have hall := hsu.trans hw
  rw [show 0 + 0 + 0 + groupWarps (getLaunch s l).record = groupWarps (getLaunch s l).record by omega] at hall
  refine ⟨hall, r.next, tags, hr.next, hlt.trans_le (hgrow.trans hw).next, ?_, (hat.of_still hsu.launch).keep hsu.next (.refl l 0 _)⟩
  exact ((hgrow.trans hw).groups _ hlt).trans hg

/-! ### The gang starts -/

/-- The groups of a gang, from index `a` on, start. -/
def startGroups (l a : Nat) (homes : List (List Nat)) (k : Nat) (s : State) : State :=
  (homes.zipIdx k).foldl (fun s (h, k) => startGroup l s (a + k) h) s

theorem startGroups_started (l a : Nat) (homes : List (List Nat)) (k : Nat) (s : State) :
    Started l (getLaunch s l).iface (homes.length * groupWarps (getLaunch s l).record) s (startGroups l a homes k s) ∧
      ∀ d home, homes[d]? = some home → GroupAt (getLaunch s l) l (a + (k + d)) home s.tick s (startGroups l a homes k s) := by
  induction homes generalizing k s with
  | nil =>
    refine ⟨?_, fun d home hd => by cases hd⟩
    rw [List.length_nil, Nat.zero_mul]
    exact .refl _ _ s
  | cons h homes ih =>
    obtain ⟨hone, hat⟩ := startGroup_started l s (a + k) h
    have hrest := ih (k + 1) (startGroup l s (a + k) h)
    have hcons : startGroups l a (h :: homes) k s = startGroups l a homes (k + 1) (startGroup l s (a + k) h) := rfl
    rw [hcons]
    generalize startGroup l s (a + k) h = t at hone hat hrest ⊢
    obtain ⟨hmore, hats⟩ := hrest
    have hiface : (getLaunch t l).iface = (getLaunch s l).iface := (congrArg Launch.iface hone.launch :)
    have hrecord : (getLaunch t l).record = (getLaunch s l).record := (congrArg Launch.record hone.launch :)
    rw [hiface, hrecord] at hmore
    refine ⟨?_, fun d home hd => ?_⟩
    · rw [List.length_cons, Nat.succ_mul, Nat.add_comm]
      exact hone.trans hmore
    · cases d with
      | zero =>
        cases hd
        exact hat.keep (Nat.le_refl _) hmore
      | succ d =>
        have hd := (hats d home hd).of_still hone.launch
        rw [hone.tick, show a + (k + 1 + d) = a + (k + (d + 1)) by omega] at hd
        exact hd.keep hone.next (.refl l 0 _)

/-! ### GROUP_PLACEMENT -/

theorem exec_groupPlacement {s : State} {l : Nat} {cores : List Nat} (h : s.msg = some (.groupPlacement l cores)) : exec .groupPlacement s = .next (
    if placeHead s (getLaunch s l).iface = some l ∧ (homesOf (getLaunch s l).record cores).length = gangSize (getLaunch s l).record ∧
      gangOk s (getLaunch s l).iface (getLaunch s l).record (homesOf (getLaunch s l).record cores) = true then
      placeGang s l (homesOf (getLaunch s l).record cores)
    else s) := by
  change execGroupPlacement s = _
  exact event_next h rfl

theorem placeGang_eq (s : State) (l : Nat) (homes : List (List Nat)) : placeGang s l homes =
    updLaunch (startGroups l (getLaunch s l).placed homes 0 s) l fun la => { la with placed := (getLaunch s l).placed + homes.length } := rfl

/-- R407: what a gang that fits leaves of the context numbers. -/
theorem contexts_of_gangOk {s : State} {i : Nat} {r : Record} {homes : List (List Nat)} (h : gangOk s i r homes = true) :
    (contextsUsed s i).length + homes.length * groupWarps r ≤ 65536 := by
  simp only [gangOk, shareOk, Bool.and_eq_true, decide_eq_true_eq] at h
  exact h.1.2.2

/-- R83, R93 to R96, R407: what the placement of a gang makes. -/
theorem placeGang_places {s : State} {l : Nat} {homes : List (List Nat)} (hok : gangOk s (getLaunch s l).iface (getLaunch s l).record homes = true)
    (hs : Numbered s) : (getLaunch (placeGang s l homes) l).placed = (getLaunch s l).placed + homes.length ∧
      (∀ w, w < s.next → getWarp (placeGang s l homes) w = getWarp s w) ∧ (∀ g, g < s.next → getGroup (placeGang s l homes) g = getGroup s g) ∧
      ∀ k home, homes[k]? = some home → ∃ gi tags, s.next ≤ gi ∧
        getGroup (placeGang s l homes) gi = (getLaunch s l).group l ((getLaunch s l).placed + k) home tags ∧
        ∀ j, j < groupWarps (getLaunch s l).record → ∃ w slot context age, s.next ≤ w ∧
          getWarp (placeGang s l homes) w = (getLaunch s l).warp l gi ((getLaunch s l).placed + k) home j s.tick slot context age ∧
          ∀ v y, mapGet (placeGang s l homes).warps v = some y → v ≠ w → y.iface = (getLaunch s l).iface → y.retired = false → y.context ≠ context := by
  have hroom := contexts_of_gangOk hok
  obtain ⟨hst, hat⟩ := startGroups_started l (getLaunch s l).placed homes 0 s
  rw [placeGang_eq]
  generalize startGroups l (getLaunch s l).placed homes 0 s = t at hst hat ⊢
  have hwarp (w : Nat) (f : Launch → Launch) : getWarp (updLaunch t l f) w = getWarp t w := rfl
  have hgroup (g : Nat) (f : Launch → Launch) : getGroup (updLaunch t l f) g = getGroup t g := rfl
  refine ⟨by rw [updLaunch, getLaunch_setLaunch], fun w hw => ?_, fun g hg => ?_, fun k home hk => ?_⟩
  · rw [hwarp, getWarp, getWarp, mapGetD, mapGetD, hst.warps w hw]
  · rw [hgroup, getGroup, getGroup, mapGetD, mapGetD, hst.groups g hg]
  · obtain ⟨gi, tags, hle, _, hg, hws⟩ := hat k home hk
    rw [Nat.zero_add] at hg hws
    refine ⟨gi, tags, hle, by rw [hgroup, getGroup, mapGetD, hg]; rfl, fun j hj => ?_⟩
    obtain ⟨w, slot, context, age, hwle, _, hw⟩ := hws j hj
    exact ⟨w, slot, context, age, hwle, by rw [hwarp, getWarp, mapGetD, hw]; rfl, hst.contexts hs hroom w _ hwle hw⟩

end Sys2Proof.Machine
end

section
/-! R113, R328, R408, R422: a warp is evicted. -/

namespace Sys2Proof.Machine

/-! ### Rooms are pushed -/

/-- Nothing of warps, groups, operations and regions changes. -/
structure Aside (s t : State) : Prop where
  warps : t.warps = s.warps
  groups : t.groups = s.groups
  ops : t.ops = s.ops
  regions : t.regions = s.regions

theorem Aside.refl (s : State) : Aside s s := ⟨rfl, rfl, rfl, rfl⟩
theorem Aside.trans {s t u : State} (h : Aside s t) (k : Aside t u) : Aside s u :=
  ⟨k.warps.trans h.warps, k.groups.trans h.groups, k.ops.trans h.ops, k.regions.trans h.regions⟩
theorem Aside.foldl {α : Type} {g : State → α → State} (hg : ∀ s a, Aside s (g s a)) (l : List α) (s : State) : Aside s (l.foldl g s) :=
  List.foldlRecOn (motive := fun t => Aside s t) l g (.refl s) fun t h a _ => h.trans (hg t a)

theorem CachesOnly.aside {s t : State} (h : CachesOnly s t) : Aside s t := by
  rw [CachesOnly] at h
  rw [h]
  exact ⟨rfl, rfl, rfl, rfl⟩

theorem sendPushes_aside (s : State) (core op : Nat) (ws : List Nat) : Aside s (sendPushes s core op ws).1 := by
  refine .foldl (fun t x => ?_) _ s
  exact ⟨rfl, rfl, rfl, rfl⟩

theorem pushRoom_aside (core : Nat) (s : State) (h : Hold) : Aside s (pushRoom core s h) := by
  unfold pushRoom
  split
  · exact ((CachesOnly.foldl (fun s w => pushToDevice_caches s core w) _ s).aside).trans (sendPushes_aside _ core 0 _)
  · exact .refl s

/-! ### Loads are withdrawn -/

/-- R113: a part of a load as it is withdrawn. -/
def Part.withdraw (p : Part) : Part := if p.parked then { p with st := .retry 0 } else p

/-- R113: a load as it is withdrawn. -/
def Op.withdraw (o : Op) : Op :=
  { o with phase := if o.phase == .longPark then .ready else o.phase, parkedAt := 0, parts := o.parts.map Part.withdraw }

theorem Part.parked_iff (p : Part) : p.parked = true ↔ ∃ n, p.st = .parked n := by
  unfold Part.parked
  cases p.st <;> simp

theorem Part.parked_withdraw (p : Part) : p.withdraw.parked = false := by
  unfold Part.withdraw
  by_cases h : p.parked = true
  · rw [if_pos h]
    rfl
  · rw [if_neg h]
    exact eq_false_of_ne_true h

theorem Part.withdraw_withdraw (p : Part) : p.withdraw.withdraw = p.withdraw := if_neg (by simp [parked_withdraw])

theorem Op.withdraw_parts {o : Op} {p : Part} (h : p ∈ o.withdraw.parts) : p.parked = false := by
  obtain ⟨q, _, rfl⟩ := List.mem_map.1 h
  exact q.parked_withdraw

theorem Op.withdraw_withdraw (o : Op) : o.withdraw.withdraw = o.withdraw := by
  have hparts : (o.parts.map Part.withdraw).map Part.withdraw = o.parts.map Part.withdraw := by
    rw [List.map_map]
    exact List.map_congr_left fun p _ => p.withdraw_withdraw
  have hphase (f : Phase) : (if (if f == .longPark then Phase.ready else f) == .longPark then Phase.ready else if f == .longPark then .ready else f) =
      if f == .longPark then .ready else f := by
    by_cases h : (f == .longPark) = true
    · simp [h]
    · rw [if_neg h, if_neg h]
  unfold Op.withdraw
  dsimp only
  rw [hparts, hphase]

/-- R194: the loads of a warp that are parked. -/
def parkedLoads (s : State) (w : Nat) : List Nat :=
  (s.ops.filter fun e => e.2.warp == w && plainLoad e.2.kind && e.2.parts.any Part.parked).map (·.1)

theorem mapWf_mapUpd {α : Type} {m : Map α} {i : Nat} {f : α → α} (h : mapWf m = true) : mapWf (mapUpd m i f) = true := by
  unfold mapUpd
  split
  · exact h
  · exact mapWf_mapSet h

theorem withdrawAll_eq (l : List Nat) (s : State) : ∃ ops parks, l.foldl (fun s id => freeParks (updOp s id Op.withdraw) id) s = { s with ops := ops, parks := parks } ∧
    (mapWf s.ops = true → mapWf ops = true) ∧ ∀ id, mapGet ops id = if id ∈ l then (mapGet s.ops id).map Op.withdraw else mapGet s.ops id := by
  induction l generalizing s with
  | nil => exact ⟨s.ops, s.parks, rfl, id, fun _ => rfl⟩
  | cons k l ih =>
    obtain ⟨ops, parks, he, hwf, hget⟩ := ih (freeParks (updOp s k Op.withdraw) k)
    refine ⟨ops, parks, he, fun h => hwf (mapWf_mapUpd h), fun id => ?_⟩
    have hone : mapGet (freeParks (updOp s k Op.withdraw) k).ops id = if id = k then (mapGet s.ops k).map Op.withdraw else mapGet s.ops id :=
      mapGet_mapUpd _ _ _ _
    rw [hget, hone]
    by_cases hk : id = k
    · subst hk
      simp [Option.map_map, Function.comp_def, Op.withdraw_withdraw]
    · simp [hk]

theorem withdrawLoads_eq (s : State) (w : Nat) : ∃ ops parks, withdrawLoads s w = { s with ops := ops, parks := parks } ∧
    (mapWf s.ops = true → mapWf ops = true) ∧
      ∀ id, mapGet ops id = if id ∈ parkedLoads s w then (mapGet s.ops id).map Op.withdraw else mapGet s.ops id :=
  withdrawAll_eq (parkedLoads s w) s

/-! ### What was fetched ahead is discarded -/

/-- R113: a stream of a warp that is evicted. -/
def Stream.drop (z : Stream) : Stream := if z.store then { z with queue := false } else { z with queue := false, groups := [], fetching := false }

/-- The fetches ahead that a warp has under way. -/
def aheadFetches (s : State) (w : Nat) : List Nat :=
  (s.ops.filter fun e => e.2.warp == w && match e.2.kind with
    | .fetch .. => true
    | _ => false).map (·.1)

theorem dropAhead_eq (s : State) (w : Nat) : ∃ parks, dropAhead s w =
    updWarp { s with ops := mapFilter s.ops fun k _ => !(aheadFetches s w).contains k, parks := parks } w fun x =>
      { x with streams := mapAll x.streams fun _ => Stream.drop } := ⟨_, rfl⟩

theorem mapGet_dropAhead {s : State} {w id : Nat} {o : Op} (hwf : mapWf s.ops = true) (h : mapGet s.ops id = some o) (hk : ∃ i, o.kind = .word i) :
    mapGet (dropAhead s w).ops id = some o := by
  have hkeep : id ∉ aheadFetches s w := by
    intro hmem
    obtain ⟨⟨k, q⟩, hq, rfl⟩ := List.mem_map.1 hmem
    obtain ⟨hin, hfetch⟩ := List.mem_filter.1 hq
    rw [mapGet_of_mem hwf hin] at h
    cases h
    obtain ⟨i, hi⟩ := hk
    simp [hi] at hfetch
  obtain ⟨parks, he⟩ := dropAhead_eq s w
  have hops : (dropAhead s w).ops = mapFilter s.ops fun k _ => !(aheadFetches s w).contains k := by rw [he]; rfl
  rw [hops, mapGet_mapFilter hwf, h]
  simp [Option.filter, hkeep]

/-! ### The warp is evicted -/

section
variable {s : State} {w : Nat}

/-- R408: what the eviction of a warp changes. -/
theorem evictWarp_queued (s : State) (w : Nat) : ∃ r, Queued (updWarp r w fun x => { x with resident := false, pair := none, eligible := none, urgent := false }) (evictWarp s w) ∧
    Aside (dropAhead (withdrawLoads s w) w) r :=
  ⟨_, assignQueues_queued _ _ _ _, .foldl (pushRoom_aside _) _ _⟩

theorem evictWarp_groups (s : State) (w : Nat) : (evictWarp s w).groups = s.groups ∧ (evictWarp s w).regions = s.regions := by
  obtain ⟨r, hq, ha⟩ := evictWarp_queued s w
  obtain ⟨ops, parks, hw, _, _⟩ := withdrawLoads_eq s w
  obtain ⟨parks', hd⟩ := dropAhead_eq (withdrawLoads s w) w
  rw [hq.state]
  refine ⟨ha.groups.trans ?_, ha.regions.trans ?_⟩ <;> rw [hd, hw] <;> rfl

theorem evictWarp_warp (s : State) (w : Nat) : ∃ ss, SameStreams (mapAll (getWarp s w).streams fun _ => Stream.drop) ss ∧
    getWarp (evictWarp s w) w = { getWarp s w with resident := false, pair := none, eligible := none, urgent := false, streams := ss } := by
  obtain ⟨r, hq, ha⟩ := evictWarp_queued s w
  obtain ⟨ops, parks, hw, _, _⟩ := withdrawLoads_eq s w
  obtain ⟨parks', hd⟩ := dropAhead_eq (withdrawLoads s w) w
  obtain ⟨ss, hss, hsame⟩ := hq.warps w
  have hr : getWarp r w = { getWarp s w with streams := mapAll (getWarp s w).streams fun _ => Stream.drop } := by
    rw [getWarp, ha.warps, hd, hw]
    exact getWarp_updWarp s w fun x => { x with streams := mapAll x.streams fun _ => Stream.drop }
  rw [getWarp_updWarp, hr] at hss hsame
  exact ⟨ss, hsame, hss⟩

/-- R113: streams keep their positions; a load stream discards what it fetched ahead. -/
theorem evictWarp_streams {n : Nat} {z : Stream} (hz : mapGet (getWarp s w).streams n = some z) : ∃ y, mapGet (getWarp (evictWarp s w) w).streams n = some y ∧
    y.pos = z.pos ∧ y.walk = z.walk ∧ y.store = z.store ∧ (z.store = false → y.groups = []) := by
  obtain ⟨ss, hsame, hx⟩ := evictWarp_warp s w
  have hn := hsame n
  rw [mapGet_mapAll, hz, Option.map_some, Option.map_some] at hn
  obtain ⟨y, hy, hyz⟩ := Option.map_eq_some_iff.1 hn
  refine ⟨y, by rw [hx]; exact hy, ?_⟩
  simp only [Stream.mk.injEq] at hyz
  obtain ⟨hstore, hwalk, _, hpos, _, _, hgroups, _⟩ := hyz
  rw [hstore, hwalk, hpos, hgroups]
  unfold Stream.drop
  cases z.store <;> simp

/-- R113: incomplete words keep their operands; parked loads are withdrawn. -/
theorem evictWarp_ops {id : Nat} {o : Op} (hwf : mapWf s.ops = true) (ho : mapGet s.ops id = some o) (hw : o.warp = w) (hk : ∃ i, o.kind = .word i) :
    ∃ q, mapGet (evictWarp s w).ops id = some q ∧ q.kind = o.kind ∧ q.lanes = o.lanes ∧ q.args = o.args ∧
      (∀ p ∈ q.parts, plainLoad o.kind = true → ∀ n, p.st ≠ .parked n) := by
  obtain ⟨r, hq, ha⟩ := evictWarp_queued s w
  obtain ⟨ops, parks, hwd, hwf', hget⟩ := withdrawLoads_eq s w
  have hops : (evictWarp s w).ops = (dropAhead (withdrawLoads s w) w).ops := by
    rw [hq.state]
    exact ha.ops
  have hdrop {q : Op} (h : mapGet ops id = some q) (hk : ∃ i, q.kind = .word i) : mapGet (evictWarp s w).ops id = some q := by
    rw [hops]
    rw [hwd]
    exact mapGet_dropAhead (hwf' hwf) h hk
  have hid := hget id
  by_cases hmem : id ∈ parkedLoads s w
  · rw [if_pos hmem, ho] at hid
    refine ⟨o.withdraw, hdrop hid hk, rfl, rfl, rfl, fun p hp _ n hn => ?_⟩
    have := Op.withdraw_parts hp
    rw [(Part.parked_iff p).2 ⟨n, hn⟩] at this
    cases this
  · rw [if_neg hmem, ho] at hid
    refine ⟨o, hdrop hid hk, rfl, rfl, rfl, fun p hp hload n hn => hmem ?_⟩
    refine List.mem_map.2 ⟨(id, o), List.mem_filter.2 ⟨mem_of_mapGet ho, ?_⟩, rfl⟩
    simp only [hw, beq_self_eq_true, hload, Bool.true_and]
    exact List.any_eq_true.2 ⟨p, hp, (Part.parked_iff p).2 ⟨n, hn⟩⟩

end

/-! ### EVICTION -/

theorem exec_eviction {s : State} {w : Nat} (h : s.msg = some (.eviction w)) :
    exec .eviction s = .next (if evictMay s w (getWarp s w) then preemptDone (evictWarp s w) (getWarp s w).iface else s) := by
  change execEviction s = _
  exact event_next h rfl

theorem not_evictMay {s : State} {w : Nat} {x : Warp} (h : x.resident = false ∨ atBlock s w x = false ∨ pushLeft s w = true) : evictMay s w x = false := by
  rcases h with h | h | h <;> simp [evictMay, evictable, h]

theorem preemptDone_aside (s : State) (i : Nat) : Aside s (preemptDone s i) := by
  unfold preemptDone
  split
  · exact ⟨rfl, rfl, rfl, rfl⟩
  · exact .refl s

theorem preempt_preemptDone {s : State} {i : Nat} (h : ∀ e ∈ s.warps, e.2.iface = i → e.2.resident = false) :
    (getIface (preemptDone s i) i).preempt = false := by
  have hnone : anyResident s i = false := by
    rw [anyResident, List.any_eq_false]
    intro e he hres
    simp only [Bool.and_eq_true, beq_iff_eq] at hres
    rw [h e he hres.1] at hres
    cases hres.2
  unfold preemptDone
  cases hp : (getIface s i).preempt
  · simpa using hp
  · rw [hnone, Bool.not_false, Bool.and_self, if_pos rfl, getIface_updIface]

theorem eviction_waits {s : State} {w : Nat} (h : s.msg = some (.eviction w))
    (hn : (getWarp s w).resident = false ∨ atBlock s w (getWarp s w) = false ∨ pushLeft s w = true) : exec .eviction s = .next s := by
  rw [exec_eviction h, if_neg (by simp [not_evictMay hn])]

theorem eviction_evicts {s : State} {w : Nat} (h : s.msg = some (.eviction w)) (hm : evictMay s w (getWarp s w) = true) :
    ∃ t, exec .eviction s = .next t ∧ t.groups = s.groups ∧ t.regions = s.regions ∧
      getWarp t w = { getWarp s w with resident := false, pair := none, eligible := none, urgent := false, streams := (getWarp t w).streams } ∧
      (∀ n z, mapGet (getWarp s w).streams n = some z →
        ∃ y, mapGet (getWarp t w).streams n = some y ∧ y.pos = z.pos ∧ y.walk = z.walk ∧ y.store = z.store ∧ (z.store = false → y.groups = [])) ∧
      (mapWf s.ops = true → ∀ id o, mapGet s.ops id = some o → o.warp = w → (∃ i, o.kind = .word i) →
        ∃ q, mapGet t.ops id = some q ∧ q.kind = o.kind ∧ q.lanes = o.lanes ∧ q.args = o.args ∧ (∀ p ∈ q.parts, plainLoad o.kind = true → ∀ n, p.st ≠ .parked n)) ∧
      ((∀ e ∈ t.warps, e.2.iface = (getWarp s w).iface → e.2.resident = false) → (getIface t (getWarp s w).iface).preempt = false) := by
  have hexec : exec .eviction s = .next (preemptDone (evictWarp s w) (getWarp s w).iface) := by rw [exec_eviction h, if_pos hm]
  have ha := preemptDone_aside (evictWarp s w) (getWarp s w).iface
  have hwarp : getWarp (preemptDone (evictWarp s w) (getWarp s w).iface) w = getWarp (evictWarp s w) w := by rw [getWarp, ha.warps, getWarp]
  obtain ⟨hgroups, hregions⟩ := evictWarp_groups s w
  obtain ⟨ss, _, hx⟩ := evictWarp_warp s w
  refine ⟨_, hexec, ha.groups.trans hgroups, ha.regions.trans hregions, ?_, ?_, ?_, ?_⟩
  · rw [hwarp, hx]
  · rw [hwarp]
    exact fun n z hz => evictWarp_streams hz
  · rw [ha.ops]
    exact fun hwf id o ho hw hk => evictWarp_ops hwf ho hw hk
  · rw [ha.warps]
    exact preempt_preemptDone

end Sys2Proof.Machine
end

section
/-! R13, R410: an evicted warp resumes, alone or with its saved group. -/

namespace Sys2Proof.Machine

/-! ### A warp takes a slot -/

/-- R410: a warp as it takes a slot. -/
def Warp.seatAt (x : Warp) (core part slot age : Nat) : Warp := { x with resident := true, core := core, part := part, slot := slot, age := age }

theorem getWarp_seatWarp (s : State) (w core p v : Nat) : ∃ slot, getWarp (seatWarp s w core p) v =
    if v = w then (getWarp s w).seatAt core p slot s.next else getWarp s v := by
  refine ⟨freeSlotOf s core p, ?_⟩
  unfold seatWarp makeYoungest updWarp
  dsimp only
  generalize hs : ({ s with ops := mapAll s.ops fun _ o => if o.warp == w then { o with core := core } else o } : State) = r
  have hr (k : Nat) : getWarp r k = getWarp s k := by rw [← hs]; rfl
  have hn : r.next = s.next := by rw [← hs]
  rw [setWarp_setWarp, getWarp_setWarp]
  refine (getWarp_setWarp_ite r w v _).trans ?_
  rw [hr, hr, setWarp_next, hn]
  rfl

theorem seatWarp_groups (s : State) (w core p : Nat) : (seatWarp s w core p).groups = s.groups := rfl

/-! ### WARP_RESUME -/

theorem exec_warpResume {s : State} {w core : Nat} (h : s.msg = some (.warpResume w core)) : exec .warpResume s = .next (
    if !resumeMay s w core then s
    else if (getGroup s (getWarp s w).group).saved then
      match savedHome s (getGroup s (getWarp s w).group) core with
      | some h => restoreGroup s (getWarp s w).group h
      | none => s
    else wakeUp (seatWarp s w core (choosePart s core (recordRows s (getWarp s w)))) w) := by
  change execWarpResume s = _
  exact event_next h rfl

theorem not_resumeMay {s : State} {w core : Nat} (h : (getWarp s w).resident = true ∨ (getWarp s w).retired = true ∨ readyToResume s w (getWarp s w) = false) :
    resumeMay s w core = false := by
  rcases h with h | h | h <;> simp [resumeMay, h]

theorem warpResume_waits {s : State} {w core : Nat} (h : s.msg = some (.warpResume w core))
    (hn : (getWarp s w).resident = true ∨ (getWarp s w).retired = true ∨ readyToResume s w (getWarp s w) = false) : exec .warpResume s = .next s := by
  rw [exec_warpResume h, if_pos (by simp [not_resumeMay hn])]

/-- R410: a warp of a group that has its home resumes on its own core. -/
theorem warpResume_resumes {s : State} {w core : Nat} (h : s.msg = some (.warpResume w core)) (hm : resumeMay s w core = true)
    (hg : (getGroup s (getWarp s w).group).saved = false) : ∃ t part slot, exec .warpResume s = .next t ∧ core = (getWarp s w).core ∧
      (getWarp t w).seat = ((getWarp s w).seatAt core part slot s.next).seat ∧ ∀ g, (getGroup t g).home = (getGroup s g).home := by
  have hcore : core = (getWarp s w).core := by
    simp only [resumeMay, hg, Bool.and_eq_true, Bool.false_eq_true, if_false, beq_iff_eq] at hm
    exact hm.2.1.1
  obtain ⟨slot, hw⟩ := getWarp_seatWarp s w core (choosePart s core (recordRows s (getWarp s w))) w
  have hseat := wakeUp_seated (seatWarp s w core (choosePart s core (recordRows s (getWarp s w)))) w
  refine ⟨_, choosePart s core (recordRows s (getWarp s w)), slot, (exec_warpResume h).trans (congrArg _ ?_), hcore, (hseat.warps w).trans ?_, fun g => (hseat.groups g).trans ?_⟩
  · rw [if_neg (by simp [hm]), if_neg (by simp [hg])]
  · rw [hw, if_pos rfl]
  · rw [getGroup, seatWarp_groups, getGroup]

/-! ### A saved group is placed again -/

/-- R93: a warp of a group takes its place in a home. -/
def seatIn (home : List Nat) (s : State) (w : Nat) : State :=
  seatWarp s w (home.getD (warpSpot (home.length == 2) (getWarp s w).num).1 0) (warpSpot (home.length == 2) (getWarp s w).num).2

/-- A warp stands in its place in a home. -/
def Warp.In (home : List Nat) (num : Nat) (x : Warp) : Prop :=
  x.num = num ∧ x.resident = true ∧ x.core = home.getD (warpSpot (home.length == 2) num).1 0 ∧ x.part = (warpSpot (home.length == 2) num).2

theorem foldl_seatIn (home : List Nat) (ws : List Nat) (s : State) : (ws.foldl (seatIn home) s).groups = s.groups ∧
    ∀ v, if v ∈ ws then (getWarp (ws.foldl (seatIn home) s) v).In home (getWarp s v).num else getWarp (ws.foldl (seatIn home) s) v = getWarp s v := by
  induction ws generalizing s with
  | nil => exact ⟨rfl, fun v => rfl⟩
  | cons w ws ih =>
    obtain ⟨hg, hw⟩ := ih (seatIn home s w)
    refine ⟨hg, fun v => ?_⟩
    obtain ⟨slot, hone⟩ := getWarp_seatWarp s w (home.getD (warpSpot (home.length == 2) (getWarp s w).num).1 0) (warpSpot (home.length == 2) (getWarp s w).num).2 v
    have hv := hw v
    rw [show getWarp (seatIn home s w) v = _ from hone] at hv
    by_cases hvw : v = w
    · subst hvw
      rw [if_pos rfl] at hv
      rw [if_pos List.mem_cons_self, List.foldl_cons]
      split at hv
      · exact hv
      · rw [hv]
        exact ⟨rfl, rfl, rfl, rfl⟩
    · rw [if_neg hvw] at hv
      simpa [hvw] using hv

/-- The live warps of a group. -/
def memberWarps (s : State) (gi : Nat) : List Nat := (s.warps.filter fun e => e.2.group == gi && !e.2.retired).map (·.1)

theorem renameRings_home (g : Group) (half core tag : Nat) : (renameRings g half core tag).home = g.home :=
  foldl_home (fun _ _ => setScrNat_home _ _ _ _ _) _ _

/-- R410: the record of a group in its new home. -/
def Group.rehome (g : Group) (home tags : List Nat) : Group :=
  (home.zipIdx).foldl (fun g (c, h) => renameRings g h c (tags.getD h 0)) { moveSigns g home with cores := home, tags := tags, saved := false }

theorem Group.rehome_home (g : Group) (home tags : List Nat) : (g.rehome home tags).home = (home, false) :=
  foldl_home (fun _ _ => renameRings_home _ _ _ _) _ _

/-- R410: the state in which a saved group has its new home, before its warps have their slots. -/
def rehomed (s : State) (gi : Nat) (home : List Nat) : State :=
  let r := homeTags home (moveWords s gi home, [])
  home.foldl (fun s c => acquireAct (growCarve s c) c 2 true)
    (setHome (updGroup r.1 gi fun g => g.rehome home r.2) (getGroup s gi).launch (getGroup s gi).index home)

theorem restoreGroup_eq (s : State) (gi : Nat) (home : List Nat) : restoreGroup s gi home =
    (memberWarps (rehomed s gi home) gi).foldl wakeUp ((memberWarps (rehomed s gi home) gi).foldl (seatIn home) (rehomed s gi home)) := rfl

theorem rehomed_group (s : State) (gi : Nat) (home : List Nat) : (rehomed s gi home).warps = s.warps ∧ (getGroup (rehomed s gi home) gi).home = (home, false) := by
  unfold rehomed
  dsimp only
  have htags := ((moveWords_caches s gi home).trans (homeTags_caches home (moveWords s gi home, []))).aside
  generalize homeTags home (moveWords s gi home, []) = p at htags ⊢
  generalize hr : setHome (updGroup p.1 gi fun g => g.rehome home p.2) (getGroup s gi).launch (getGroup s gi).index home = r
  have hgrow := (CachesOnly.foldl (fun s c => (growCarve_caches s c).trans (acquireAct_caches _ c 2 true)) home r).aside
  have hget : getGroup r gi = (getGroup p.1 gi).rehome home p.2 := by
    rw [← hr]
    exact getGroup_setGroup _ _ _
  refine ⟨hgrow.warps.trans ?_, ?_⟩
  · rw [← hr]
    exact htags.warps
  · rw [getGroup, hgrow.groups]
    exact (congrArg Group.home hget).trans (Group.rehome_home _ _ _)

theorem restoreGroup_restores (s : State) (gi : Nat) (home : List Nat) : (getGroup (restoreGroup s gi home) gi).home = (home, false) ∧
    ∀ v ∈ memberWarps s gi, (getWarp (restoreGroup s gi home) v).In home (getWarp s v).num := by
  have he := restoreGroup_eq s gi home
  obtain ⟨hwarps, hhome⟩ := rehomed_group s gi home
  generalize rehomed s gi home = r at he hwarps hhome
  have hlive : memberWarps r gi = memberWarps s gi := by rw [memberWarps, memberWarps, hwarps]
  rw [hlive] at he
  obtain ⟨hg, hw⟩ := foldl_seatIn home (memberWarps s gi) r
  have hseat := Seated.foldl wakeUp_seated (memberWarps s gi) ((memberWarps s gi).foldl (seatIn home) r)
  rw [he]
  refine ⟨(hseat.groups gi).trans ?_, fun v hv => ?_⟩
  · rw [getGroup, hg]
    exact hhome
  · have hin := hw v
    rw [if_pos hv, show getWarp r v = getWarp s v by rw [getWarp, getWarp, hwarps]] at hin
    have hsv := hseat.warps v
    obtain ⟨hnum, hres, hcore, hpart⟩ := hin
    exact ⟨(congrArg Warp.num hsv).trans hnum, (congrArg Warp.resident hsv).trans hres, (congrArg Warp.core hsv).trans hcore, (congrArg Warp.part hsv).trans hpart⟩

theorem warpResume_restores {s : State} {w core : Nat} (h : s.msg = some (.warpResume w core)) (hm : resumeMay s w core = true)
    (hg : (getGroup s (getWarp s w).group).saved = true) : ∃ t home, exec .warpResume s = .next t ∧
      savedHome s (getGroup s (getWarp s w).group) core = some home ∧ (getGroup t (getWarp s w).group).home = (home, false) ∧
      ∀ v ∈ memberWarps s (getWarp s w).group, (getWarp t v).In home (getWarp s v).num := by
  obtain ⟨home, hhome⟩ : ∃ home, savedHome s (getGroup s (getWarp s w).group) core = some home := by
    simp only [resumeMay, hg, Bool.and_eq_true, if_true] at hm
    exact Option.isSome_iff_exists.1 hm.2
  obtain ⟨hgroup, hwarps⟩ := restoreGroup_restores s (getWarp s w).group home
  refine ⟨_, home, (exec_warpResume h).trans (congrArg _ ?_), hhome, hgroup, hwarps⟩
  rw [if_neg (by simp [hm]), if_pos hg, hhome]

end Sys2Proof.Machine
end

section
/-! O46: warps, groups and launches come and go. -/

namespace Sys2Proof.Machine

section
variable {s : State}

/-- R93: half and partition of a warp of its group, as the statement says them. -/
theorem warpSpot_core (home : List Nat) (j : Nat) :
    home.getD (warpSpot (home.length == 2) j).1 0 = if home.length = 2 then home.getD (j % 2) 0 else home.getD 0 0 := by
  unfold warpSpot
  by_cases h : home.length = 2
  · simp [h]
  · simp [h]

theorem warpSpot_part (home : List Nat) (j : Nat) : (warpSpot (home.length == 2) j).2 = if home.length = 2 then j / 2 % 4 else j % 4 := by
  unfold warpSpot
  by_cases h : home.length = 2
  · simp [h]
  · simp [h]

theorem not_allEnded {x : Warp} (h : ¬ ∀ th ∈ x.threads, th.cond = .ended) : allEnded x = false :=
  eq_false_of_ne_true fun hall => h ((allEnded_iff x).1 hall)

theorem getWarp_of_mapGet {v : Nat} {y : Warp} (h : mapGet s.warps v = some y) : getWarp s v = y := by
  rw [getWarp, mapGetD, h]
  rfl

/-- R84, R258: when the boundary of a launch waits. -/
theorem not_boundaryMay {l : Nat} (h : ¬ ((getLaunch s l).retired = (getLaunch s l).placed ∧
    ((getLaunch s l).cancelled = true ∨ (getLaunch s l).placed = (getLaunch s l).count)) ∨ ((getLaunch s l).ending = true ∧ (getLaunch s l).pushes ≠ 0)) :
    boundaryMay s l = false := by
  refine eq_false_of_ne_true fun hm => ?_
  obtain ⟨hover, hrest⟩ := (boundaryMay_iff s l).1 hm
  rcases h with h | ⟨hend, hp⟩
  · exact h ((launchOver_iff s l).1 hover)
  · rcases hrest with hrest | hrest
    · rw [hend] at hrest
      cases hrest
    · exact hp hrest

end

end Sys2Proof.Machine

open Sys2Proof Sys2Proof.Machine

/-- Settles O46, clause by clause: each event's step is unfolded once, and what lies beyond its own warp or group is kept by the relations `Onward`, `Seated`, `Started` and `CachesOnly`. -/
theorem warpsComeAndGo : Obligations.WarpsComeAndGo := by
  unfold Obligations.WarpsComeAndGo
  refine ⟨fun s l cores h => ⟨fun hmay => ?_, fun hmay _ _ hw hg => ?_⟩, fun s w h _ => ?_, fun s gi h hg => ⟨fun hn => ?_, fun hm => ?_⟩,
    fun s l h hl => ⟨fun hn => ?_, fun hover hend => ?_, fun hover hend hp hwf => ?_⟩,
    fun s w h => ⟨fun c hu he hc => warpUrgent_eligible h hu he hc, fun hn => warpUrgent_not h hn⟩,
    fun s w h => ⟨fun hn => eviction_waits h hn, fun hm => eviction_evicts h hm⟩,
    fun s gi h hg => ⟨fun hn => groupStateSave_waits h hn, fun hm => groupStateSave_saves h hg hm⟩,
    fun s w core h _ => ⟨fun hn => warpResume_waits h hn, fun hm hg => ?_, fun hm hg _ _ => ?_⟩⟩
  · rw [exec_groupPlacement h, if_neg hmay]
  · obtain ⟨hplaced, hwarps, hgroups, hnew⟩ := placeGang_places hmay.2.2 ⟨hw, hg⟩
    refine ⟨_, (exec_groupPlacement h).trans (congrArg _ (if_pos hmay)), hplaced.trans (congrArg _ hmay.2.1), hwarps, hgroups, fun k home hk => ?_⟩
    obtain ⟨gi, tags, hle, hgroup, hws⟩ := hnew k home hk
    refine ⟨gi, hle, ?_, fun j hj => ?_⟩
    · rw [hgroup]
      exact ⟨rfl, rfl, rfl, rfl, rfl, rfl, rfl, rfl, rfl, rfl, rfl, rfl, rfl⟩
    · obtain ⟨w, slot, context, age, hwle, hwarp, hctx⟩ := hws j hj
      refine ⟨w, hwle, ?_⟩
      rw [hwarp]
      exact ⟨rfl, rfl, rfl, rfl, rfl, rfl, rfl, warpSpot_core home j, warpSpot_part home j, rfl, rfl, rfl, rfl, rfl, rfl, rfl, rfl, rfl, rfl, rfl, rfl, rfl, rfl, rfl, hctx⟩
  · exact ⟨fun hend hret hf hops => warpRetire_retires h hend hret hf hops, fun hend hops hf => warpRetire_waits h hend hops hf,
      fun hend hb => warpRetire_unblocked h (not_allEnded hend) hb, fun hend hb hr hlen => warpRetire_discards h (not_allEnded hend) hb hr hlen,
      fun hend hb hr hs hg => warpRetire_stops h (not_allEnded hend) hb (eq_false_of_ne_true hr) hs hg,
      fun hend hr hg hf hany => warpRetire_resumes_first h (not_allEnded hend) (eq_false_of_ne_true hr) hg hf hany,
      fun _ hb hr hs f r hf hm => warpRetire_pops h hb (eq_false_of_ne_true hr) hs hf hm⟩
  · exact groupRetire_waits h (eq_false_of_ne_true fun hm => hn ((groupMay_iff s gi).1 hm))
  · exact groupRetire_retires h hg ((groupMay_iff s gi).2 hm)
  · exact kernelBoundary_waits h (not_boundaryMay hn)
  · exact kernelBoundary_begins h hl ((launchOver_iff s l).2 hover) hend
  · exact kernelBoundary_ends h hl ((launchOver_iff s l).2 hover) hend hp hwf
  · obtain ⟨t, part, slot, hexec, hcore, hseat, hhome⟩ := warpResume_resumes h hm hg
    exact ⟨t, hexec, ⟨(congrArg Warp.launch hseat :), (congrArg Warp.group hseat :), (congrArg Warp.context hseat :), (congrArg Warp.num hseat :),
      (congrArg Warp.lpart hseat :), (congrArg Warp.gdepth hseat :)⟩, (congrArg Warp.resident hseat :), (congrArg Warp.core hseat :), hcore, (congrArg Warp.age hseat :),
      congrArg Prod.fst (hhome _)⟩
  · obtain ⟨t, home, hexec, hsaved, hhome, hwarps⟩ := warpResume_restores h hm hg
    refine ⟨t, home, hexec, hsaved, congrArg Prod.snd hhome, congrArg Prod.fst hhome, fun v y hv hgroup hret => ?_⟩
    obtain ⟨_, hres, hcore, hpart⟩ := hwarps v (List.mem_map.2 ⟨(v, y), List.mem_filter.2 ⟨mem_of_mapGet hv, by simp [hgroup, hret]⟩, rfl⟩)
    rw [getWarp_of_mapGet hv] at hcore hpart
    exact ⟨hres, hcore.trans (warpSpot_core home y.num), hpart.trans (warpSpot_part home y.num)⟩

end

section
/-! What the register words write: moves, selections, byte inserts, predicates, the state of a stream, K registers (R123 to R128, R131). -/

namespace Sys2Proof.Machine

/-! ### Words without conditions -/

/-- A fixed-latency word of one destination that writes `g`. -/
theorem fixedWord_writes {s : State} {c : Ctl} {w : Nat} {set act : Lanes} {srcs : List Opd} {d : Opd} {k lat : Nat}
    {f : State → Warp → Issue → Nat → Nat} (h : Issues s c w set act) (hf : StreamsFit s w set act srcs (some d)) {g : Nat → Nat}
    (hg : ∀ u, f (advance s w set) (getWarp (advance s w set) w) (issueAt s w set act) u = g u) :
    fixedWord s c srcs d k lat f = .next (written s w set act srcs lat d k g) := by
  rw [fixedWord_next k lat f h hf, funext hg]

/-- A fixed-latency word of another destination: its pops, then its writes. -/
theorem fixedGen_writes {s : State} {w : Nat} {set act : Lanes} {srcs : List Opd} {d : Option Opd} {lat : Nat}
    {write : Lanes → State → State} (hf : StreamsFit s w set act srcs d) :
    fixedGen (advance s w set) (issueAt s w set act) srcs d lat (fun _ => {}) write = write act (afterReads s w set act srcs lat) := by
  rw [fixedGen_next lat _ _ hf (arithTraps_none _ _), setFlags_none]

/-! ### The arms of R123 to R128 and R131 -/

section
variable (c : Ctl) (neg : Bool) (n : BitVec 3) (lut : BitVec 8) (d a b : Opd) (s : State)

theorem exec_mov : exec (.mov c d a) s = execMov c d a s := rfl
theorem exec_mov64 : exec (.mov64 c d a) s = execMov64 c d a s := rfl
theorem exec_movk : exec (.movk c d a) s = issue s c (movkBody d a 1) := rfl
theorem exec_movk64 : exec (.movk64 c d a) s = issue s c (movkBody d a 2) := rfl
theorem exec_bcast : exec (.bcast c d a b) s = execBcast c d a b s := rfl
theorem exec_limm : exec (.limm c d a b) s = execLimm c d a b s := rfl
theorem exec_limmIns : exec (.limmIns c d a b) s = execLimmIns c d a b s := rfl
theorem exec_sel : exec (.sel c neg n d a b) s = execSel c neg n d a b s := rfl
theorem exec_sel64 : exec (.sel64 c neg n d a b) s = execSel64 c neg n d a b s := rfl
theorem exec_plog : exec (.plog c n lut d a b) s = execPlog c n lut d a b s := rfl
theorem exec_plogTov : exec (.plogTov c d) s = execPlogTov c d s := rfl
theorem exec_plogFromv : exec (.plogFromv c a) s = execPlogFromv c a s := rfl
theorem exec_sflags : exec (.sflags c d a) s = execSflags c d a s := rfl

end

/-! ### Moves and selections (R123, R125, R127) -/

section
variable {s : State} {c : Ctl} {w : Nat} {set act : Lanes} {d a b : Opd} (h : Issues s c w set act)
include h

theorem exec_mov_next (hf : StreamsFit s w set act [a] (some d)) :
    exec (.mov c d a) s = .next (written s w set act [a] 4 d 1 (reads s w a 1)) :=
  (exec_mov ..).trans <| fixedWord_writes h hf fun u => srcVal_advance s w set a 1 u

theorem exec_mov64_next (hf : StreamsFit s w set act [a] (some d)) :
    exec (.mov64 c d a) s = .next (written s w set act [a] 4 d 2 (reads s w a 2)) :=
  (exec_mov64 ..).trans <| fixedWord_writes h hf fun u => srcVal_advance s w set a 2 u

theorem exec_bcast_next (hf : StreamsFit s w set act [a] (some d)) :
    exec (.bcast c d a b) s = .next (written s w set act [a] 6 d 1 fun u => reads s w a 1 (reads s w b 1 u % 32)) :=
  (exec_bcast ..).trans <| fixedWord_writes h hf fun u => by simp only [issueAt_w, srcVal_advance, reads]

theorem exec_sel_next (hf : StreamsFit s w set act [a, b] (some d)) (neg : Bool) (n : BitVec 3) :
    exec (.sel c neg n d a b) s = .next (written s w set act [a, b] 4 d 1
      fun u => if predAt s w n.toNat u ^^ neg then reads s w a 1 u else reads s w b 1 u) :=
  (exec_sel ..).trans <| fixedWord_writes h hf fun u => by simp only [issueAt_w, pBit_advance, srcVal_advance]; rfl

theorem exec_sel64_next (hf : StreamsFit s w set act [a, b] (some d)) (neg : Bool) (n : BitVec 3) :
    exec (.sel64 c neg n d a b) s = .next (written s w set act [a, b] 4 d 2
      fun u => if predAt s w n.toNat u ^^ neg then reads s w a 2 u else reads s w b 2 u) :=
  (exec_sel64 ..).trans <| fixedWord_writes h hf fun u => by simp only [issueAt_w, pBit_advance, srcVal_advance]; rfl

/-! ### The words that read no stream (R126, R128, R131) -/

theorem exec_plog_next (hf : StreamsFit s w set act [] (some d)) (n : BitVec 3) (lut : BitVec 8) :
    exec (.plog c n lut d a b) s = .next (written s w set act [] 4 d 1
      fun u => (lutBit lut (readsP s w a u) (readsP s w b u) (predAt s w n.toNat u)).toNat) :=
  (exec_plog ..).trans <| fixedWord_writes h hf fun u => by simp only [issueAt_w, srcPred_advance, pBit_advance, readsP, predAt]

theorem exec_limm_next (hf : StreamsFit s w set act [] (some d)) :
    exec (.limm c d a b) s = .next (written s w set act [] 4 d 1 fun u => insertByte 0 (reads s w a 1 u) (reads s w b 1 u)) :=
  (exec_limm ..).trans <| fixedWord_writes h hf fun u => by simp only [issueAt_w, srcVal_advance, reads]

theorem exec_limmIns_next (hf : StreamsFit s w set act [] (some d)) :
    exec (.limmIns c d a b) s = .next (written s w set act [] 4 d 1
      fun u => insertByte (reads s w d 1 u) (reads s w a 1 u) (reads s w b 1 u)) :=
  (exec_limmIns ..).trans <| fixedWord_writes h hf fun u => by simp only [issueAt_w, srcVal_advance, reads]

theorem exec_sflags_next (hf : StreamsFit s w set act [] (some d)) (n : Fin 16) :
    exec (.sflags c d (.s n)) s = .next (written s w set act [] 4 d 1 fun _ => sflagsVal (getWarp s w) n.val) :=
  (exec_sflags ..).trans <| fixedWord_writes h hf fun u => by simp only [sflagsVal, getStream, getWarp_advance_streams]

end

/-- A number made of bits. -/
def bitsVal (p : Nat → Bool) (n : Nat) : Nat := (List.range n).foldl (fun a j => a + (p j).toNat * 2 ^ j) 0

theorem bitsVal_succ (p : Nat → Bool) (n : Nat) : bitsVal p (n + 1) = 2 ^ n * (p n).toNat + bitsVal p n := by
  rw [bitsVal, List.range_succ, List.foldl_append, Nat.mul_comm, Nat.add_comm]
  rfl

theorem bitsVal_lt (p : Nat → Bool) (n : Nat) : bitsVal p n < 2 ^ n := by
  induction n with
  | zero => exact Nat.one_pos
  | succ n ih =>
    have := Nat.mul_le_mul_left (2 ^ n) (Bool.toNat_le (p n))
    rw [bitsVal_succ, Nat.pow_succ]
    omega

theorem testBit_bitsVal (p : Nat → Bool) (n j : Nat) : (bitsVal p n).testBit j = (decide (j < n) && p j) := by
  induction n with
  | zero => simp [bitsVal]
  | succ n ih =>
    rw [bitsVal_succ, Nat.testBit_two_pow_mul_add _ (bitsVal_lt p n), ih]
    obtain hlt | rfl | hgt := Nat.lt_trichotomy j n
    · simp [hlt, Nat.lt_succ_of_lt hlt]
    · cases p j <;> simp
    · have hbit : (p n).toNat.testBit (j - n) = false :=
        Nat.testBit_lt_two_pow (Nat.lt_of_le_of_lt (Bool.toNat_le _) (Nat.one_lt_two_pow (by omega)))
      rw [if_neg (by omega), hbit, decide_eq_false (by omega), Bool.false_and]

theorem exec_plogTov_next {s : State} {c : Ctl} {w : Nat} {set act : Lanes} {d : Opd} (h : Issues s c w set act)
    (hf : StreamsFit s w set act [] (some d)) :
    exec (.plogTov c d) s = .next (written s w set act [] 4 d 1 fun u => bitsVal (fun n => predAt s w n u) 8) :=
  (exec_plogTov ..).trans <| fixedWord_writes h hf fun u => by simp only [issueAt_w, pBit_advance, bitsVal, predAt]

/-- R126: byte `p` is the immediate, every other byte is as before. -/
theorem insertByte_byte (old imm : Nat) {p j : Nat} (hp : p ≤ 3) (hj : j < 4) :
    insertByte old imm p / 2 ^ (8 * j) % 256 = if j = p then imm % 256 else old / 2 ^ (8 * j) % 256 := by
  have hpos : p % 256 % 4 = p := by omega
  simp only [insertByte, hpos]
  interval_cases p <;> interval_cases j <;> simp <;> omega

/-- R131: the fields of the state of a stream. -/
theorem sflagsVal_of_bound {x : Warp} {n : Nat} {st : Stream} (h : getStream x n = some st) :
    sflagsVal x n / 2 ^ 31 = 1 ∧ (sflagsVal x n).testBit 30 = st.store ∧ (sflagsVal x n).testBit 29 = st.queue ∧
      sflagsVal x n % 2 ^ 29 = min (walkCount st - 32 * st.pos) 0x1FFFFFFF := by
  simp only [sflagsVal, h, Nat.testBit_eq_decide_div_mod_eq]
  generalize walkCount st - 32 * st.pos = left
  cases st.store <;> cases st.queue <;> simp <;> omega

/-! ### K registers (R124) -/

theorem issue_movk {s : State} {c : Ctl} {w : Nat} {set act : Lanes} {a : Opd} (h : Issues s c w set act)
    (hf : StreamsFit s w set act [a] none) (n : BitVec 9) (k : Nat) :
    issue s c (movkBody (.k n) a k) = .next ((List.range k).foldl
      (fun t j => putK t w 4 (n.toNat + j) (BitVec.ofNat 32 (readsOnce s w act a k / 2 ^ (32 * j)))) (afterReads s w set act [a] 4)) := by
  rw [issue_next h, movkBody, fixedGen_writes hf, if_neg h.live]
  simp only [issueAt_w, srcVal_advance, readsOnce, reads]

@[simp] theorem getWarp_putK (s : State) (w lat n : Nat) (v : Word) :
    getWarp (putK s w lat n v) w = { getWarp s w with haz := addHaz s (getWarp s w) (.k n) allLanes lat } :=
  getWarp_setWarp _ w _

/-- R124: the group after a MOVK, where no other warp's write of the register is unordered and no older result is still to land. -/
theorem getGroup_putK {s : State} {w lat n : Nat} (v : Word)
    (hmine : ∀ p ∈ (getGroup s (getWarp s w).group).kPend, p.k = n → p.warp = w) (hlate : lateHaz s (getWarp s w) (.k n) lat 0 = false) :
    let g := getGroup s (getWarp s w).group
    getGroup (putK s w lat n v) (getWarp s w).group
      = { g with k := mapPut 0 g.k n v, kPend := ⟨n, mapGetD g.k n 0, w, s.next⟩ :: g.kPend } := by
  have hother : ((getGroup s (getWarp s w).group).kPend.any fun p => p.k == n && p.warp != w) = false := by
    simpa using hmine
  simp only [putK, hother, hlate, Bool.false_and, Bool.false_eq_true, if_false]
  exact mapGetD_mapSet_self _ _ _ _

/-! ### Predicates from a register (R128) -/

/-- The predicates after a write of one. -/
theorem pReg_putP (s : State) (w lat n : Nat) (m : Lanes) (f : Nat → Bool) (r j : Nat) (hj : j < 32) (hn : n ≠ 7) :
    pReg (putP s w lat n m f) w r j =
      if r = n ∧ m.getLsbD j then
        if lateHaz s (getWarp s w) (.p n) lat j then (fresh s (freeBase + 1024 + regKey (.p n) j)).getLsbD 0 else f j
      else pReg s w r j := by
  simp only [pReg, putP, if_neg hn, getWarp_markOps, getWarp_setWarp, mapGetD_mapPut]
  by_cases hr : r = n
  · subst hr
    rw [if_pos rfl, getLsbD_laneSet]
    simp [hj]
  · simp [hr]

@[simp] theorem getWarp_putP_v (s : State) (w lat n : Nat) (m : Lanes) (f : Nat → Bool) :
    (getWarp (putP s w lat n m f) w).v = (getWarp s w).v := by
  unfold putP
  split
  · rfl
  · rw [getWarp_markOps, getWarp_setWarp]

/-- Steps that keep the V registers of a warp keep them together. -/
theorem foldl_keeps_v {α : Type} {w : Nat} {g : State → α → State} (hg : ∀ s a, (getWarp (g s a) w).v = (getWarp s w).v)
    (l : List α) (s : State) : (getWarp (l.foldl g s) w).v = (getWarp s w).v := by
  induction l generalizing s with
  | nil => rfl
  | cons a l ih => rw [List.foldl_cons, ih, hg]

theorem popStream_v (s : State) (i : Issue) (lat n : Nat) : (getWarp (popStream s i lat n) i.w).v = (getWarp s i.w).v := by
  unfold popStream
  split
  · rfl
  · rw [setStream, getWarp_updWarp]
    exact foldl_keeps_v (fun _ _ => getWarp_putP_v _ _ _ _ _ _) _ _

theorem afterReads_v (s : State) (w : Nat) (set act : Lanes) (srcs : List Opd) (lat : Nat) :
    (getWarp (afterReads s w set act srcs lat) w).v = (getWarp s w).v :=
  (foldl_keeps_v (fun _ _ => popStream_v _ (issueAt s w set act) _ _) _ _).trans (getWarp_advance_v s w set)

/-- P0 to P`k`-1 take the bits of a value in the lanes of a set. -/
def putBits (s : State) (w lat k : Nat) (m : Lanes) (f : Nat → Nat) : State :=
  (List.range k).foldl (fun t n => putP t w lat n m fun u => (f u).testBit n) s

theorem putBits_succ (s : State) (w lat k : Nat) (m : Lanes) (f : Nat → Nat) :
    putBits s w lat (k + 1) m f = putP (putBits s w lat k m f) w lat k m fun u => (f u).testBit k := by
  rw [putBits, List.range_succ, List.foldl_append]
  rfl

theorem lateHaz_putBits (s : State) {w lat k : Nat} (m : Lanes) (f : Nat → Nat) {n : Nat} (j : Nat) (hlat : 0 < lat) (hn : k ≤ n) :
    lateHaz (putBits s w lat k m f) (getWarp (putBits s w lat k m f) w) (.p n) lat j = lateHaz s (getWarp s w) (.p n) lat j := by
  induction k with
  | zero => rfl
  | succ k ih =>
    rw [putBits_succ, lateHaz_putP _ _ _ _ _ _ _ _ _ (by rintro ⟨⟩; omega) hlat, ih (by omega)]

theorem pReg_putBits (s : State) {w lat k : Nat} {m : Lanes} (f : Nat → Nat) {n j : Nat} (hlat : 0 < lat) (hk : k ≤ 7) (hn : n < k)
    (hj : j < 32) (hm : m.getLsbD j = true) (hlate : lateHaz s (getWarp s w) (.p n) lat j = false) :
    pReg (putBits s w lat k m f) w n j = (f j).testBit n := by
  induction k with
  | zero => omega
  | succ k ih =>
    rw [putBits_succ, pReg_putP _ _ _ _ _ _ _ _ hj (by omega)]
    by_cases hnk : n = k
    · subst hnk
      rw [if_pos ⟨rfl, hm⟩, lateHaz_putBits s m f j hlat (Nat.le_refl n), hlate]
      rfl
    · rw [if_neg (fun hc => hnk hc.1)]
      exact ih (by omega) (by omega)

theorem putBits_frame {s t : State} {w : Nat} (h : RegisterFrame s t w) (lat k : Nat) (m : Lanes) (f : Nat → Nat) :
    RegisterFrame s (putBits t w lat k m f) w :=
  foldl_frame _ _ (fun _ _ h => putP_frame h _ _ _ _) h

theorem putBits_v (s : State) (w lat k : Nat) (m : Lanes) (f : Nat → Nat) :
    (getWarp (putBits s w lat k m f) w).v = (getWarp s w).v :=
  foldl_keeps_v (fun _ _ => getWarp_putP_v _ _ _ _ _ _) _ _

theorem exec_plogFromv_next {s : State} {c : Ctl} {w : Nat} {set act : Lanes} {a : Opd} (h : Issues s c w set act)
    (hf : StreamsFit s w set act [a] none) :
    exec (.plogFromv c a) s = .next (putBits (afterReads s w set act [a] 4) w 4 7 act (reads s w a 1)) := by
  rw [exec_plogFromv, execPlogFromv, issue_next h, fixedGen_writes hf]
  simp only [issueAt_w, srcVal_advance]
  rfl

end Sys2Proof.Machine

open Sys2Proof Sys2Proof.Machine

/-- Settles O5: the words of R123, R125 to R128 and R131 are fixed-latency words of one value; MOVK and PLOG.FROMV write one register after another. -/
theorem registerWordsMoveAndSelect : Obligations.RegisterWordsMoveAndSelect := by
  unfold Obligations.RegisterWordsMoveAndSelect
  refine ⟨fun s c w set act d a b h => ⟨fun hf => ⟨exec_mov_next h hf, exec_mov64_next h hf, exec_bcast_next h hf⟩,
    fun hf neg n => ⟨exec_sel_next h hf neg n, exec_sel64_next h hf neg n⟩, fun hf => ⟨fun n lut => ?_, ?_, fun n => ?_⟩,
    fun hf ins => ?_⟩, fun s c w set act a h hf => ⟨fun n => ?_, fun n => ?_, fun n v hmine hlate => ⟨fun k => ?_, ?_, rfl, ?_⟩, ?_⟩⟩
  · refine ⟨_, exec_plog_next h hf n lut, fun u => ?_⟩
    cases hbit : lutBit lut (readsP s w a u) (readsP s w b u) (predAt s w n.toNat u) <;> exact hbit.symm
  · refine ⟨_, exec_plogTov_next h hf, fun u => ⟨bitsVal_lt _ 8, testBit_bitsVal _ 8 7, fun n hn => ?_⟩⟩
    rw [testBit_bitsVal, decide_eq_true (by omega), Bool.true_and]
  · refine ⟨_, exec_sflags_next h hf n, fun hnone _ => ?_, fun st hst _ => sflagsVal_of_bound hst⟩
    rw [sflagsVal, hnone]
  · cases ins with
    | false =>
      refine ⟨_, exec_limm_next h hf, fun u hb _ j hj => ?_⟩
      simp [insertByte_byte _ _ hb hj]
    | true => exact ⟨_, exec_limmIns_next h hf, fun u hb _ j hj => insertByte_byte _ _ hb hj⟩
  · rw [exec_movk, issue_movk h hf]
    simp
  · rw [exec_movk64, issue_movk h hf]
    simp [List.range_succ]
  · rw [getWarp_putK, getGroup_putK v hmine hlate]
    exact mapGetD_mapPut 0 _ n k v
  · rw [getWarp_putK, getGroup_putK v hmine hlate]
    exact ⟨_, List.mem_cons_self, rfl, rfl⟩
  · rw [getWarp_putK]
  · refine ⟨_, exec_plogFromv_next h hf, putBits_frame (afterReads_frame s w set act [a] 4) 4 7 act _,
      (putBits_v _ _ _ _ _ _).trans (afterReads_v s w set act [a] 4), fun n j hn hj hact hlate => ?_⟩
    exact pReg_putBits _ _ (by decide) (Nat.le_refl 7) hn hj hact hlate

end

section
/-! A stream fetch whose lanes read one physical word through two leaves, of which one is IMMUTABLE (R119, R187, R255). -/

namespace Sys2Proof.Machine

/-- A load stream of two one-byte elements, at virtual 0x1000 and 0x2000. -/
def aliasedStream : Stream := { walk := [0x1000, 0, 0, 0, 2, 0x1000, 1, 0, 1, 0, 1, 0] }

/-- The leaves of the two pages: both map physical page 0x5000, the second one IMMUTABLE. -/
def aliasedEntry (u : Nat) : DWord := if u = 0 then 0x5017 else 0x5097

/-- The fetch of the stream's first group comes next. The cluster holds a V copy of the word at 0x5000 with the value 9, filled before the core's last acquire; the slice holds 0. -/
def aliasedState : State :=
  { bootWord State.reset [] with
    msg := some (.streamFetchDone 1 3)
    warps := [(1, { bootWarp with streams := [(3, aliasedStream)] })]
    mem := mapPut 0 (mapPut 0 (bootWord State.reset []).mem 0x4010 0x97) 0x4011 0x50
    cc := [(cacheKey 0 0x1400, { data := 9, st := .valid 0 })]
    acquired := [(0, 100)] }

/-- Where nothing is cached, a translation is its walk. -/
theorem noStale_of_tlb_nil {s : State} (h : s.tlb = []) (iface : Nat) : NoStale s iface := by
  intro unit va
  unfold translate cachedWalks
  rw [h]
  rfl

theorem aliasedState_allows : ∀ u, u < 2 → Allows aliasedState 1 { r := true } (0x1000 + 0x1000 * u) 0x5000 (aliasedEntry u) := by
  intro u hu
  refine ⟨⟨u + 1, 1, ?_⟩, ?_, ?_, ?_, ?_, ?_⟩ <;> revert u hu <;> decide +kernel

theorem aliasedState_notPrivate : ∀ u, u < 2 → NotPrivate aliasedState 0 (0x1000 + 0x1000 * u) 1 := by
  intro u hu k h1 h2
  obtain rfl : k = (0x1000 + 0x1000 * u) / 4 := by omega
  revert u hu
  decide +kernel

/-- Before the fetch a read through the IMMUTABLE leaf gives the cluster's copy: R255 exempts it from the acquire stamp. -/
theorem aliasedState_view : viewByte aliasedState 0 (readLevel aliasedState 0 0 (wordsOf 0x5000 1) true) 0x5000 = 9 := by decide +kernel

/-- The groups that wait in a stream after a step. -/
def groupsAfter (w n : Nat) : Host.Outcome State Fault Refusal → List (List Elem)
  | .next t => ((getStream (getWarp t w) n).map Stream.groups).getD []
  | _ => []

/-- The read of lane 0 misses the old copy and refreshes it from the slice (R255), and lane 1 reads what lane 0 left. -/
theorem aliasedState_fetch : groupsAfter 1 3 (exec .streamFetchDone aliasedState) = [List.replicate 32 {}] := by decide +kernel

end Sys2Proof.Machine

open Sys2Proof Sys2Proof.Machine

/-- Refutes O6: its last clause reads every element of a group as the caches stand before the fetch. The lanes of one fetch read in turn: where two pages map one word and one of them is IMMUTABLE, the plain lane refreshes the copy that the other would have read. -/
theorem not_streamsAreBoundAndFetched : ¬ Obligations.StreamsAreBoundAndFetched := by
  unfold Obligations.StreamsAreBoundAndFetched
  rintro ⟨-, hfetch⟩
  obtain ⟨-, -, hfetch⟩ := hfetch aliasedState 1 3 rfl
  obtain ⟨t, q, hexec, -, -, -, hstream, -, helem⟩ :=
    hfetch aliasedStream rfl rfl (noStale_of_tlb_nil rfl _) (fun _ => 0x5000) aliasedEntry (by
      intro u _ hu
      have hu : 0 + u < 2 := hu
      obtain rfl | rfl : u = 0 ∨ u = 1 := by omega
      · exact ⟨by decide, by decide, by decide, aliasedState_allows 0 (by decide), aliasedState_notPrivate 0 (by decide)⟩
      · exact ⟨by decide, by decide, by decide, aliasedState_allows 1 (by decide), aliasedState_notPrivate 1 (by decide)⟩)
  have hq : q = List.replicate 32 {} := by
    have hgroups := aliasedState_fetch
    rw [hexec, groupsAfter, hstream] at hgroups
    exact List.singleton_injective hgroups
  obtain ⟨v, hbyte, hv, hval⟩ := (helem 1 (by decide)).2 (by decide)
  have hv9 : v = 9 := by
    have hv : v < 256 := hv
    have h9 := (hbyte 0 (by decide)).trans (congrArg BitVec.toNat aliasedState_view)
    simp only [pow_zero, Nat.div_one, Nat.mod_eq_of_lt hv] at h9
    exact h9
  rw [hq, hv9, if_neg (by decide)] at hval
  exact absurd hval (by decide)

end

section
/-! A QSCALE at a percentile of more than 256, which R146 does not define and R364 traps at the word. -/

namespace Sys2Proof.Machine

/-- R146: a histogram that is not empty has no scale at a percentile of more than 256: no bin reaches its share of the values. -/
theorem not_scaleRule_of_lt {h : Nat → Nat} {p : Nat} (hp : 256 < p) (hfed : 0 < ((List.range 254).map fun k => h (k + 1)).sum)
    (x e : Nat) : ¬ ScaleRule h p x e := by
  simp only [ScaleRule]
  rw [if_neg hfed.ne']
  rintro ⟨b, -, hb, hreach, -, -⟩
  have hpart : ((List.range b).map fun k => h (k + 1)).sum ≤ ((List.range 254).map fun k => h (k + 1)).sum :=
    ((List.range_sublist.2 hb).map _).sum_le_sum fun _ _ => Nat.zero_le _
  have hle : p ≤ 256 := Nat.le_of_mul_le_mul_right (hreach.trans (Nat.mul_le_mul_left 256 hpart)) hfed
  omega

/-- QSCALE of Z3 at percentile 257. -/
def percentile257Op : Op :=
  { warp := 1, kind := .word (.qscale ⟨7, 0⟩ false (.v 8) (.z 3) (.imm 257)), lanes := allLanes, args := [257] }

/-- Its completion comes next. The histogram of Z3 holds one value, in bin 129. -/
def percentile257State : State :=
  { bootWord State.reset [] with
    msg := some (.tileWordComplete 7)
    ops := [(7, percentile257Op)]
    groups := [(1, { launch := 1, cores := [0], tags := [0], hist := [(histKey 0 3 129, 1)] })] }

theorem percentile257State_hasNoScale (x e : Nat) :
    ¬ ScaleRule (histBinOf (homeGroup percentile257State percentile257Op.warp) (homeHalf percentile257State percentile257Op.warp) 3)
      (percentile257Op.args.getD 0 0) x e :=
  not_scaleRule_of_lt (by decide) (by decide +kernel) x e

/-- No earlier word feeds the histogram. -/
theorem percentile257State_isFirst : ¬ ∃ q ∈ percentile257State.ops, q.1 < 7 := by decide

end Sys2Proof.Machine

open Sys2Proof Sys2Proof.Machine

/-- Refutes O42: its clause on QSCALE asks for the scale of R146 at any percentile that the incomplete word holds. At 257, where R146 ends at 256, a histogram of one value has none. QSCALE traps such a percentile when it issues, and the statement does not carry that bound to the completion. -/
theorem not_matrixWordsComplete : ¬ Obligations.MatrixWordsComplete := by
  unfold Obligations.MatrixWordsComplete
  rintro ⟨-, hword⟩
  obtain ⟨-, -, -, -, hhist, -⟩ := hword percentile257State 7 percentile257Op _ rfl rfl rfl rfl rfl
  obtain ⟨-, -, -, hscale⟩ := hhist 3
  have hcompletes := (hscale _ _ _ _ rfl).2 fun ⟨q, hq, hlt, _⟩ => percentile257State_isFirst ⟨q, hq, hlt⟩
  simp only [Fin.isValue, Fin.coe_ofNat_eq_mod, Nat.reduceMod, percentile257State_hasNoScale, false_and, and_false, exists_false] at hcompletes

end

section
/-! The traps of ARITHEN at a fixed-latency word, and the flags of STATUS that a set of conditions sets (R160, R97). -/

namespace Sys2Proof.Machine

/-! ### Lanes that trap ARITH -/

/-- The lanes of a list of traps. -/
theorem getLsbD_trapLanes (ts : List TrapIn) {u : Nat} (hu : u < 32) : (trapLanes ts).getLsbD u = ts.any fun t => t.lane == u := by
  rw [trapLanes, getLsbD_laneSet, decide_eq_true hu, Bool.true_and]

/-- R160: a lane traps ARITH where it signals an invalid operation, a division by zero or an overflow. -/
theorem arithDetail_ne_zero (c : Conds) : (arithDetail c != 0) = (c.nv || c.dz || c.ofl) := by
  obtain ⟨nv, dz, ofl, uf, nx⟩ := c
  cases nv <;> cases dz <;> cases ofl <;> rfl

/-- R160, R398: the traps of a word under ARITHEN, one for each active lane that signals. -/
theorem mem_arithTraps {x : Warp} (h : x.status.getLsbD 1 = true) (m : Lanes) (cond : Nat → Conds) (t : TrapIn) :
    t ∈ arithTraps x m cond ↔ t.lane < 32 ∧ m.getLsbD t.lane = true ∧ (arithDetail (cond t.lane) != 0) = true ∧
      t = { lane := t.lane, cause := causeArith, detail := arithDetail (cond t.lane) } := by
  simp only [arithTraps, h, if_true, List.mem_map, List.mem_filter, mem_laneList]
  constructor
  · rintro ⟨u, ⟨⟨hu, hm⟩, hd⟩, rfl⟩
    exact ⟨hu, hm, hd, rfl⟩
  · rintro ⟨hu, hm, hd, ht⟩
    exact ⟨t.lane, ⟨⟨hu, hm⟩, hd⟩, ht.symm⟩

/-- R160: the lanes that a word under ARITHEN still writes are the active ones that do not signal. -/
theorem getLsbD_without_arithTraps {x : Warp} (h : x.status.getLsbD 1 = true) (m : Lanes) (cond : Nat → Conds) {u : Nat} (hu : u < 32) :
    (m &&& ~~~trapLanes (arithTraps x m cond)).getLsbD u = (m.getLsbD u && !(arithDetail (cond u) != 0)) := by
  rw [BitVec.getLsbD_and, BitVec.getLsbD_not, decide_eq_true hu, Bool.true_and, getLsbD_trapLanes _ hu]
  cases hm : m.getLsbD u with
  | false => rfl
  | true =>
    congr 2
    rw [Bool.eq_iff_iff, List.any_eq_true]
    constructor
    · rintro ⟨t, ht, heq⟩
      obtain ⟨-, -, hd, -⟩ := (mem_arithTraps h m cond t).1 ht
      rwa [eq_of_beq heq] at hd
    · intro hd
      exact ⟨{ lane := u, cause := causeArith, detail := arithDetail (cond u) }, (mem_arithTraps h m cond _).2 ⟨hu, hm, hd, rfl⟩, beq_self_eq_true u⟩

/-- A fixed-latency word whose streams fit: its pops, its writes and flags in the lanes that do not trap ARITH, its traps. -/
theorem fixedGen_arith {s : State} {w : Nat} {set act : Lanes} {srcs : List Opd} {d : Option Opd} (lat : Nat) (cond : Nat → Conds)
    (write : Lanes → State → State) (hf : StreamsFit s w set act srcs d) :
    fixedGen (advance s w set) (issueAt s w set act) srcs d lat cond write
      = deliver (setFlags (write (act &&& ~~~trapLanes (arithTraps (getWarp s w) act cond)) (afterReads s w set act srcs lat)) w lat
          (act &&& ~~~trapLanes (arithTraps (getWarp s w) act cond)) cond) w (issueAt s w set act).pc (arithTraps (getWarp s w) act cond) := by
  obtain ⟨hbad, hfaults⟩ := hf
  have htraps : arithTraps (getWarp (advance s w set) w) act cond = arithTraps (getWarp s w) act cond := by
    simp only [arithTraps, getWarp_advance_status]
  unfold fixedGen
  simp only [issueAt_w, issueAt_act, streamBad_advance, popFaults_advance, hbad, hfaults, htraps, trapLanes_nil, and_not_zero,
    Bool.false_eq_true, if_false, List.nil_append]
  rfl

theorem exec_fadd (c : Ctl) (ty : Ty) (r : Rm) (d a b : Opd) (s : State) : exec (.fadd c ty r d a b) s = execFadd c ty r d a b s := rfl

/-! ### The flags of STATUS -/

/-- Flags that are joined to STATUS one after the other. -/
theorem getLsbD_foldl_or {α : Type} (l : List α) (g : α → Word) (v : Word) (j : Nat) :
    (l.foldl (fun b a => b ||| g a) v).getLsbD j = (v.getLsbD j || l.any fun a => (g a).getLsbD j) := by
  induction l generalizing v with
  | nil => rw [List.foldl_nil, List.any_nil, Bool.or_false]
  | cons a l ih => rw [List.foldl_cons, ih, BitVec.getLsbD_or, List.any_cons, Bool.or_assoc]

/-- R97: the bit of each condition. -/
theorem getLsbD_condsBits (c : Conds) (j : Nat) : (condsBits c).getLsbD j = true ↔
    (j = 4 ∧ c.nv = true) ∨ (j = 5 ∧ c.dz = true) ∨ (j = 6 ∧ c.ofl = true) ∨ (j = 7 ∧ c.uf = true) ∨ (j = 8 ∧ c.nx = true) := by
  have hbit (x : Bool) (n : Nat) (hn : n < 32) : (if x then BitVec.twoPow 32 n else (0 : Word)).getLsbD j = true ↔ j = n ∧ x = true := by
    cases x
    · simp
    · simp [BitVec.getLsbD_twoPow, hn, eq_comm]
  simp only [condsBits, BitVec.getLsbD_or, Bool.or_eq_true, hbit _ _ (by decide : (4 : Nat) < 32), hbit _ _ (by decide : (5 : Nat) < 32),
    hbit _ _ (by decide : (6 : Nat) < 32), hbit _ _ (by decide : (7 : Nat) < 32), hbit _ _ (by decide : (8 : Nat) < 32), or_assoc]

/-- The flags that the lanes of a word set together. -/
def flagBits (m : Lanes) (cs : Nat → Conds) : Word := (laneList m).foldl (fun b t => b ||| condsBits (cs t)) 0

/-- A condition that some lane of a set signals. -/
def signalled (m : Lanes) (cs : Nat → Conds) (p : Conds → Bool) : Prop := ∃ u, u < 32 ∧ m.getLsbD u = true ∧ p (cs u) = true

theorem getLsbD_flagBits (m : Lanes) (cs : Nat → Conds) (j : Nat) : (flagBits m cs).getLsbD j = true ↔
    (j = 4 ∧ signalled m cs (·.nv)) ∨ (j = 5 ∧ signalled m cs (·.dz)) ∨ (j = 6 ∧ signalled m cs (·.ofl)) ∨
      (j = 7 ∧ signalled m cs (·.uf)) ∨ (j = 8 ∧ signalled m cs (·.nx)) := by
  have hfold : (flagBits m cs).getLsbD j = true ↔ ∃ u, (u < 32 ∧ m.getLsbD u = true) ∧ (condsBits (cs u)).getLsbD j = true := by
    simp [flagBits, getLsbD_foldl_or, mem_laneList]
  simp only [hfold, getLsbD_condsBits, and_or_left, exists_or, and_left_comm (b := j = _), exists_and_left, and_assoc, signalled]

/-- STATUS at a clock: what it holds, and the flags of the words that are complete by then. -/
theorem getLsbD_statusNow (s : State) (x : Warp) (j : Nat) :
    (statusNow s x).getLsbD j = true ↔ x.status.getLsbD j = true ∨ ∃ e ∈ x.flagsNext, e.1 ≤ s.clock ∧ e.2.getLsbD j = true := by
  simp [statusNow, getLsbD_foldl_or]

/-- Folding the flags of complete words into STATUS changes no later reading of it. -/
theorem statusNow_setStatus {s : State} {k : Nat} (hk : s.clock ≤ k) (x : Warp) (j : Nat) :
    (statusNow { s with clock := k } (setStatus s x (statusNow s x))).getLsbD j = true ↔
      (statusNow { s with clock := k } x).getLsbD j = true := by
  simp only [getLsbD_statusNow, setStatus, List.mem_filter, decide_eq_true_eq]
  constructor
  · rintro ((h | ⟨e, he, hle, hbit⟩) | ⟨e, ⟨he, -⟩, hle, hbit⟩)
    · exact .inl h
    · exact .inr ⟨e, he, hle.trans hk, hbit⟩
    · exact .inr ⟨e, he, hle, hbit⟩
  · rintro (h | ⟨e, he, hle, hbit⟩)
    · exact .inl (.inl h)
    · by_cases hnow : e.1 ≤ s.clock
      · exact .inl (.inr ⟨e, he, hnow, hbit⟩)
      · exact .inr ⟨e, ⟨he, Nat.lt_of_not_le hnow⟩, hle, hbit⟩

/-- The warp after its flags were set, where there are any. -/
def withFlags (s : State) (x : Warp) (lat : Nat) (b : Word) : Warp :=
  let y := setStatus s x (statusNow s x)
  if lat = 0 then { y with status := y.status ||| b } else { y with flagsNext := y.flagsNext ++ [(s.clock + lat, b)] }

theorem setFlags_eq (s : State) (w lat : Nat) (m : Lanes) (cs : Nat → Conds) :
    setFlags s w lat m cs = if flagBits m cs = 0 then s else updWarp s w fun x => withFlags s x lat (flagBits m cs) := rfl

theorem withFlags_frame (s : State) (x : Warp) (lat : Nat) (b : Word) :
    withFlags s x lat b = { x with status := (withFlags s x lat b).status, flagsNext := (withFlags s x lat b).flagsNext } := by
  unfold withFlags setStatus
  split <;> rfl

/-- R160: the flags join STATUS when the word's latency has passed. -/
theorem statusNow_withFlags {s : State} {k : Nat} (hk : s.clock ≤ k) (x : Warp) (lat : Nat) (b : Word) (j : Nat) :
    (statusNow { s with clock := k } (withFlags s x lat b)).getLsbD j = true ↔
      (statusNow { s with clock := k } x).getLsbD j = true ∨ (s.clock + lat ≤ k ∧ b.getLsbD j = true) := by
  rw [← statusNow_setStatus hk x j]
  by_cases hlat : lat = 0
  · subst hlat
    simp only [withFlags, if_true, getLsbD_statusNow, BitVec.getLsbD_or, Bool.or_eq_true, Nat.add_zero, hk, true_and]
    exact or_right_comm
  · simp only [withFlags, if_neg hlat, getLsbD_statusNow, List.mem_append, List.mem_singleton, or_and_right, exists_or, exists_eq_left,
      or_assoc]

/-- R160: what setting flags changes of a state: two fields of one warp. -/
theorem setFlags_frame (s : State) (w lat : Nat) (m : Lanes) (cs : Nat → Conds) :
    getWarp (setFlags s w lat m cs) w = { getWarp s w with
      status := (getWarp (setFlags s w lat m cs) w).status, flagsNext := (getWarp (setFlags s w lat m cs) w).flagsNext } ∧
    (∃ x, setFlags s w lat m cs = { s with warps := x }) ∧ ∀ v, v ≠ w → getWarp (setFlags s w lat m cs) v = getWarp s v := by
  rw [setFlags_eq]
  split
  · exact ⟨rfl, ⟨s.warps, rfl⟩, fun _ _ => rfl⟩
  · refine ⟨?_, ⟨_, rfl⟩, fun v hv => getWarp_setWarp_other s w v _ hv⟩
    rw [getWarp_updWarp]
    exact withFlags_frame _ _ _ _

theorem statusNow_setFlags {s : State} {k : Nat} (hk : s.clock ≤ k) (w lat : Nat) (m : Lanes) (cs : Nat → Conds) (j : Nat) :
    (statusNow { setFlags s w lat m cs with clock := k } (getWarp (setFlags s w lat m cs) w)).getLsbD j = true ↔
      (statusNow { s with clock := k } (getWarp s w)).getLsbD j = true ∨ (s.clock + lat ≤ k ∧ (flagBits m cs).getLsbD j = true) := by
  rw [setFlags_eq]
  split
  next h0 => simp [h0]
  next =>
    rw [getWarp_updWarp]
    exact statusNow_withFlags hk _ _ _ _

end Sys2Proof.Machine

open Sys2Proof Sys2Proof.Machine

/-- Settles O12: the lanes that signal are taken out before the word writes, and what the others signal is one mask that joins STATUS at the word's completion. -/
theorem arithmeticTrapsAndFlags : Obligations.ArithmeticTrapsAndFlags := by
  unfold Obligations.ArithmeticTrapsAndFlags
  refine ⟨fun s c w set act ty r d a b h hf harith => ?_, fun s w lat m cs => ?_⟩
  · have hword : exec (.fadd c ty r d a b) s = .next (fixedGen (advance s w set) (issueAt s w set act) [a, b] (some d) (if ty = .f64 then 8 else 4)
        (fun u => (elems2 ty (fAdd (fmtOf ty) r ((getWarp s w).status.getLsbD 0)) (reads s w a ty.regs u) (reads s w b ty.regs u)).2)
        fun ok t => writeDst t (issueAt s w set act) (if ty = .f64 then 8 else 4) d ty.regs ok fun u =>
          (elems2 ty (fAdd (fmtOf ty) r ((getWarp s w).status.getLsbD 0)) (reads s w a ty.regs u) (reads s w b ty.regs u)).1) := by
      rw [exec_fadd, execFadd, float2, floatWord, issue_next h]
      simp only [fixedBody, issueAt_w, srcVal_advance, ftzOf, getWarp_advance_status, floatLat, beq_iff_eq]
      rfl
    rw [hword, fixedGen_arith _ _ _ hf]
    refine ⟨_, _, rfl, fun u hu => ?_, fun t => ?_⟩
    · rw [getLsbD_without_arithTraps harith _ _ hu, arithDetail_ne_zero]
    · rw [mem_arithTraps harith, arithDetail_ne_zero]
      rfl
  · obtain ⟨hwarp, hstate, hother⟩ := setFlags_frame s w lat m cs
    refine ⟨hwarp, hstate, hother, fun k j hk _ => ?_⟩
    rw [statusNow_setFlags hk, getLsbD_flagBits]
    rfl

end

section
/-! Integers of a type in their registers: values modulo 2^w, ranges, saturation (R132, R152). -/

namespace Sys2Proof.Machine

/-! ### Reduction modulo 2^w -/

theorem wrapTo_lt (w : Nat) (x : Int) : wrapTo w x < 2 ^ w := by
  have := Int.emod_lt_of_pos x (b := 2 ^ w) (by positivity)
  rw [wrapTo, Int.toNat_lt (Int.emod_nonneg x (by positivity))]
  exact_mod_cast this

theorem natCast_wrapTo (w : Nat) (x : Int) : (wrapTo w x : Int) = x % 2 ^ w :=
  Int.toNat_of_nonneg (Int.emod_nonneg x (by positivity))

theorem wrapTo_modEq (w : Nat) (x : Int) : (wrapTo w x : Int) ≡ x [ZMOD 2 ^ w] := by
  rw [natCast_wrapTo]
  exact Int.mod_modEq _ _

theorem wrapTo_eq_of_modEq {w : Nat} {x : Int} {n : Nat} (h : x ≡ n [ZMOD 2 ^ w]) : wrapTo w x = n % 2 ^ w := by
  have h : x % 2 ^ w = ((n % 2 ^ w : Nat) : Int) := by exact_mod_cast h
  rw [wrapTo, h, Int.toNat_natCast]

/-- A result that was reduced differs from the exact one by a multiple of 2^w. -/
theorem exists_eq_wrapTo_add (w : Nat) (x : Int) : ∃ q : Int, x = wrapTo w x + q * 2 ^ w :=
  ⟨x / 2 ^ w, by rw [natCast_wrapTo, Int.emod_add_ediv_mul]⟩

/-! ### The values of a type (R132) -/

theorem tyBits_pos (ty : Ty) : 0 < tyBits ty := by cases ty <;> decide

/-- 2^w is twice the weight of the sign bit. -/
theorem two_pow_tyBits (ty : Ty) : (2 : Int) ^ tyBits ty = 2 * 2 ^ (tyBits ty - 1) := by
  rw [← pow_succ', Nat.sub_add_cancel (tyBits_pos ty)]

theorem tyMax_sub_tyMin (ty : Ty) : tyMax ty - tyMin ty = 2 ^ tyBits ty - 1 := by
  rw [tyMax, tyMin]
  split
  · rw [two_pow_tyBits]
    ring
  · ring

theorem tyMin_le_tyMax (ty : Ty) : tyMin ty ≤ tyMax ty := by
  have := tyMax_sub_tyMin ty
  have : (0 : Int) < 2 ^ tyBits ty := by positivity
  omega

theorem intVal_modEq (ty : Ty) (x : Nat) : intVal ty x ≡ x [ZMOD 2 ^ tyBits ty] := by
  have h : ((x % 2 ^ tyBits ty : Nat) : Int) ≡ x [ZMOD 2 ^ tyBits ty] := by
    push_cast
    exact Int.mod_modEq _ _
  simp only [intVal]
  split
  · exact (Int.modEq_iff_dvd.2 ⟨1, by ring⟩).trans h
  · exact h

theorem intVal_mem (ty : Ty) (x : Nat) : tyMin ty ≤ intVal ty x ∧ intVal ty x ≤ tyMax ty := by
  have hlt : ((x % 2 ^ tyBits ty : Nat) : Int) < 2 ^ tyBits ty := by exact_mod_cast Nat.mod_lt x (by positivity)
  have hpow := two_pow_tyBits ty
  simp only [intVal, tyMin, tyMax]
  generalize x % 2 ^ tyBits ty = n at hlt
  by_cases hs : tySigned ty = true
  · simp only [hs, Bool.true_and, if_true, decide_eq_true_eq]
    split
    next hn =>
      have : (2 : Int) ^ (tyBits ty - 1) ≤ n := by exact_mod_cast hn
      omega
    next hn =>
      have : (n : Int) < 2 ^ (tyBits ty - 1) := by exact_mod_cast Nat.lt_of_not_le hn
      omega
  · simp only [hs, Bool.false_and, Bool.false_eq_true, if_false]
    omega

/-- Two numbers of one range that agree modulo 2^w are equal. -/
theorem eq_of_modEq_of_range {ty : Ty} {x y : Int} (h : x ≡ y [ZMOD 2 ^ tyBits ty]) (hx : tyMin ty ≤ x ∧ x ≤ tyMax ty)
    (hy : tyMin ty ≤ y ∧ y ≤ tyMax ty) : x = y := by
  have hspan := tyMax_sub_tyMin ty
  have hdvd := h.symm.dvd
  have hzero := Int.eq_zero_of_abs_lt_dvd hdvd (abs_lt.2 ⟨by omega, by omega⟩)
  omega

/-- The value of a reduced result is the one number of the range that agrees with it. -/
theorem intVal_wrapTo {ty : Ty} {x : Int} (h : tyMin ty ≤ x ∧ x ≤ tyMax ty) : intVal ty (wrapTo (tyBits ty) x) = x :=
  eq_of_modEq_of_range ((intVal_modEq ty _).trans (wrapTo_modEq _ x)) (intVal_mem ty _) h

/-! ### Saturation (R152) -/

theorem clampTo_eq (ty : Ty) (x : Int) : clampTo ty x = max (tyMin ty) (min (tyMax ty) x) := by
  have := tyMin_le_tyMax ty
  rw [clampTo]
  omega

theorem clampTo_mem (ty : Ty) (x : Int) : tyMin ty ≤ clampTo ty x ∧ clampTo ty x ≤ tyMax ty := by
  have := tyMin_le_tyMax ty
  rw [clampTo]
  omega

theorem intOut_lt (ty : Ty) (sat : Bool) (x : Int) : intOut ty sat x < 2 ^ tyBits ty := wrapTo_lt _ _

theorem intOut_modEq (ty : Ty) (x : Int) : (intOut ty false x : Int) ≡ x [ZMOD 2 ^ tyBits ty] := wrapTo_modEq _ _

theorem intOut_eq_of_modEq {ty : Ty} {x : Int} {n : Nat} (h : x ≡ n [ZMOD 2 ^ tyBits ty]) :
    intOut ty false x = n % 2 ^ tyBits ty := wrapTo_eq_of_modEq h

theorem intVal_intOut_sat (ty : Ty) (x : Int) : intVal ty (intOut ty true x) = max (tyMin ty) (min (tyMax ty) x) :=
  (intVal_wrapTo (clampTo_mem ty x)).trans (clampTo_eq ty x)

theorem intVal_intOut {ty : Ty} {x : Int} (h : tyMin ty ≤ x ∧ x ≤ tyMax ty) : intVal ty (intOut ty false x) = x :=
  intVal_wrapTo h

/-- R152: the high half of an exact product lies in the type's range. -/
theorem mul_fdiv_mem {ty : Ty} {x y : Int} (hx : tyMin ty ≤ x ∧ x ≤ tyMax ty) (hy : tyMin ty ≤ y ∧ y ≤ tyMax ty) :
    tyMin ty ≤ (x * y).fdiv (2 ^ tyBits ty) ∧ (x * y).fdiv (2 ^ tyBits ty) ≤ tyMax ty := by
  have hP : (0 : Int) < 2 ^ tyBits ty := by positivity
  rw [Int.fdiv_eq_ediv_of_nonneg _ hP.le]
  have hH : (0 : Int) < 2 ^ (tyBits ty - 1) := by positivity
  have hpow := two_pow_tyBits ty
  rw [← Int.lt_add_one_iff (b := tyMax ty), Int.le_ediv_iff_mul_le hP, Int.ediv_lt_iff_lt_mul hP]
  simp only [tyMin, tyMax] at *
  generalize (2 : Int) ^ (tyBits ty - 1) = H at *
  generalize (2 : Int) ^ tyBits ty = P at *
  subst hpow
  by_cases hs : tySigned ty = true
  · simp only [hs, if_true] at *
    have hxy := abs_mul x y
    have hxa : |x| ≤ H := abs_le.2 (by omega)
    have hya : |y| ≤ H := abs_le.2 (by omega)
    have hmul := mul_le_mul hxa hya (abs_nonneg y) hH.le
    rw [← abs_mul] at hmul
    have := abs_le.1 hmul
    constructor <;> nlinarith
  · simp only [hs, Bool.false_eq_true, if_false] at *
    have hmul := mul_le_mul hx.2 hy.2 hy.1 (by omega)
    have := mul_nonneg hx.1 hy.1
    constructor <;> nlinarith

/-- R151: the integer types of the arithmetic words fill their registers. -/
theorem tyBits_of_isInt {ty : Ty} (h : ty.isInt = true) : tyBits ty = 32 * ty.regs := by
  cases ty with
  | u32 | s32 | u64 | s64 => rfl
  | _ => cases h

end Sys2Proof.Machine
end

section
/-! The bits of the results of the logical words, shifts, rotates, counts, reversals and bit fields (R154 to R156). -/

namespace Sys2Proof.Machine

/-- R151: a and not b. -/
theorem testBit_and_not {W x y j : Nat} (hy : y < 2 ^ W) (hj : j < W) :
    (x &&& (2 ^ W - 1 - y)).testBit j = (x.testBit j && !y.testBit j) := by
  rw [Nat.sub_sub, Nat.add_comm 1 y, Nat.testBit_and, Nat.testBit_two_pow_sub_succ hy, decide_eq_true hj, Bool.true_and]

/-- A negative number modulo 2^w has the complements of the bits of what its magnitude exceeds 1 by. -/
theorem testBit_wrapTo_neg {w b j : Nat} (hb : b < 2 ^ w) (hj : j < w) : (wrapTo w (-((b : Int) + 1))).testBit j = !b.testBit j := by
  have hval : wrapTo w (-((b : Int) + 1)) = 2 ^ w - (b + 1) := by
    have hcast : ((2 ^ w - (b + 1) : Nat) : Int) = 2 ^ w - (b + 1) := by push_cast [Nat.cast_sub (Nat.succ_le_of_lt hb)]; ring
    rw [wrapTo_eq_of_modEq (n := 2 ^ w - (b + 1)), Nat.mod_eq_of_lt (by omega)]
    rw [hcast]
    exact Int.modEq_iff_dvd.2 ⟨1, by ring⟩
  rw [hval, Nat.testBit_two_pow_sub_succ hb, decide_eq_true hj, Bool.true_and]

/-! ### Shifts (R154) -/

theorem shlVal_lt (w a n : Nat) : shlVal w a n < 2 ^ w := by
  rw [shlVal]
  split
  · exact Nat.mod_lt _ (by positivity)
  · positivity

theorem testBit_shlVal {w j : Nat} (a n : Nat) (hj : j < w) : (shlVal w a n).testBit j = (decide (n ≤ j) && a.testBit (j - n)) := by
  rw [shlVal]
  split
  next => rw [Nat.testBit_mod_two_pow, Nat.testBit_mul_two_pow, decide_eq_true hj, Bool.true_and]
  next hn => rw [Nat.zero_testBit, decide_eq_false (by omega), Bool.false_and]

theorem shrVal_lt {w a : Nat} (ha : a < 2 ^ w) (n : Nat) : shrVal w a n < 2 ^ w := by
  rw [shrVal]
  split
  · exact (Nat.div_le_self _ _).trans_lt ha
  · positivity

theorem testBit_shrVal {w a : Nat} (ha : a < 2 ^ w) (n j : Nat) : (shrVal w a n).testBit j = a.testBit (j + n) := by
  rw [shrVal]
  split
  next => rw [Nat.testBit_div_two_pow]
  next hn =>
    rw [Nat.zero_testBit, Nat.testBit_lt_two_pow (ha.trans_le (Nat.pow_le_pow_right (by decide) (by omega)))]

theorem sarVal_lt (w a n : Nat) : sarVal w a n < 2 ^ w := wrapTo_lt _ _

/-- R154: SAR fills with the sign: its bits are those of the value, and above them the sign bit. -/
theorem testBit_sarVal {w a j : Nat} (ha : a < 2 ^ w) (hj : j < w) (n : Nat) :
    (sarVal w a n).testBit j = a.testBit (min (j + n) (w - 1)) := by
  have hpow : (2 : Nat) ^ w = 2 * 2 ^ (w - 1) := by rw [← pow_succ', Nat.sub_add_cancel (by omega)]
  have habove (b : Nat) (hb : b < 2 ^ w) : b.testBit (j + min n w) = (decide (j + n < w) && b.testBit (j + n)) := by
    by_cases hjn : j + n < w
    · rw [Nat.min_eq_left (by omega), decide_eq_true hjn, Bool.true_and]
    · rw [decide_eq_false hjn, Bool.false_and]
      exact Nat.testBit_lt_two_pow (hb.trans_le (Nat.pow_le_pow_right (by decide) (by omega)))
  simp only [sarVal]
  rw [Int.fdiv_eq_ediv_of_nonneg _ (by positivity)]
  by_cases hneg : a < 2 ^ (w - 1)
  · have hquot : ((a : Int) / 2 ^ min n w) = ((a / 2 ^ min n w : Nat) : Int) := by push_cast; rfl
    rw [if_pos hneg, hquot, wrapTo_eq_of_modEq rfl, Nat.testBit_mod_two_pow, decide_eq_true hj, Bool.true_and, Nat.testBit_div_two_pow,
      habove a ha]
    by_cases hjn : j + n < w
    · rw [decide_eq_true hjn, Bool.true_and, Nat.min_eq_left (by omega)]
    · rw [decide_eq_false hjn, Bool.false_and, Nat.min_eq_right (by omega), Nat.testBit_lt_two_pow hneg]
  · have hsub : ((a : Int) - 2 ^ w) = Int.negSucc (2 ^ w - (a + 1)) := by
      rw [Int.negSucc_eq]
      push_cast [Nat.cast_sub (Nat.succ_le_of_lt ha)]
      ring
    have hb : 2 ^ w - (a + 1) < 2 ^ w := by omega
    have hquot : ((2 ^ w - (a + 1) : Nat) : Int).ediv (2 ^ min n w) = (((2 ^ w - (a + 1)) / 2 ^ min n w : Nat) : Int) := by
      push_cast; rfl
    rw [if_neg hneg, hsub, Int.negSucc_ediv _ (by positivity), hquot, testBit_wrapTo_neg ((Nat.div_le_self _ _).trans_lt hb) hj,
      Nat.testBit_div_two_pow, habove _ hb, Nat.testBit_two_pow_sub_succ ha]
    by_cases hjn : j + n < w
    · rw [decide_eq_true hjn, Bool.true_and, Bool.true_and, Bool.not_not, Nat.min_eq_left (by omega)]
    · have hsign : a.testBit (w - 1) = true := by
        have : a / 2 ^ (w - 1) = 1 := by
          rw [Nat.div_eq_iff (by positivity)]
          omega
        rw [Nat.testBit_eq_decide_div_mod_eq, this]
        rfl
      rw [decide_eq_false hjn, Bool.false_and, Nat.min_eq_right (by omega), hsign]
      rfl

theorem rotlVal_lt (w a n : Nat) : rotlVal w a n < 2 ^ w := Nat.mod_lt _ (by positivity)

theorem testBit_rotlVal {w a j : Nat} (ha : a < 2 ^ w) (hj : j < w) (n : Nat) :
    (rotlVal w a n).testBit j = a.testBit ((j + (w - n % w)) % w) := by
  have hk : n % w < w := Nat.mod_lt _ (by omega)
  simp only [rotlVal]
  generalize n % w = k at hk
  have hlow : a / 2 ^ (w - k) < 2 ^ k := by
    rw [Nat.div_lt_iff_lt_mul (by positivity), ← pow_add]
    rwa [Nat.add_sub_cancel' hk.le]
  rw [Nat.testBit_mod_two_pow, decide_eq_true hj, Bool.true_and, Nat.mul_comm, Nat.testBit_two_pow_mul_add _ hlow]
  split
  next hjk => rw [Nat.testBit_div_two_pow, Nat.mod_eq_of_lt (by omega)]
  next hjk =>
    rw [show j + (w - k) = j - k + w by omega, Nat.add_mod_right, Nat.mod_eq_of_lt (by omega)]

/-! ### Counts and reversal (R155) -/

theorem clzVal_spec {w a : Nat} (ha : a < 2 ^ w) : clzVal w a ≤ w ∧ (∀ j, w - clzVal w a ≤ j → a.testBit j = false) ∧
    (clzVal w a < w → a.testBit (w - 1 - clzVal w a) = true) := by
  rw [clzVal]
  split
  next h0 => exact ⟨Nat.le_refl w, fun j _ => by rw [h0, Nat.zero_testBit], fun h => absurd h (lt_irrefl w)⟩
  next h0 =>
    have hlog : a.log2 < w := (Nat.log2_lt h0).2 ha
    refine ⟨by omega, fun j hj => ?_, fun _ => ?_⟩
    · exact Nat.testBit_lt_two_pow (Nat.lt_log2_self.trans_le (Nat.pow_le_pow_right (by decide) (by omega)))
    · rw [show w - 1 - (w - 1 - a.log2) = a.log2 by omega]
      exact Nat.testBit_log2 h0

theorem ctzVal_spec (w a : Nat) : ctzVal w a ≤ w ∧ (∀ j, j < ctzVal w a → a.testBit j = false) ∧
    (ctzVal w a < w → a.testBit (ctzVal w a) = true) := by
  rw [ctzVal]
  cases hfind : (List.range w).find? fun i => a.testBit i with
  | none =>
    rw [Option.getD_none]
    exact ⟨Nat.le_refl w, fun j hj => by simpa using List.find?_range_eq_none.1 hfind j hj, fun h => absurd h (lt_irrefl w)⟩
  | some i =>
    rw [Option.getD_some]
    obtain ⟨hi, hw, hbelow⟩ := List.find?_range_eq_some.1 hfind
    exact ⟨(List.mem_range.1 hw).le, fun j hj => by simpa using hbelow j hj, fun _ => hi⟩

theorem foldl_range_add (g : Nat → Nat) (n : Nat) : (List.range n).foldl (fun r i => r + g i) 0 = ∑ i ∈ Finset.range n, g i := by
  induction n with
  | zero => rfl
  | succ n ih => rw [List.range_succ, List.foldl_append, ih, Finset.sum_range_succ]; rfl

/-- R155: BREV sums the bits of its operand in the opposite order. -/
theorem brevVal_eq_bitsVal (w a : Nat) : brevVal w a = bitsVal (fun j => a.testBit (w - 1 - j)) w := by
  rw [brevVal, bitsVal, foldl_range_add fun i => (a.testBit i).toNat * 2 ^ (w - 1 - i),
    foldl_range_add fun j => (a.testBit (w - 1 - j)).toNat * 2 ^ j, ← Finset.sum_range_reflect _ w]
  refine Finset.sum_congr rfl fun j hj => ?_
  rw [Finset.mem_range] at hj
  rw [show w - 1 - (w - 1 - j) = j by omega]

theorem brevVal_lt (w a : Nat) : brevVal w a < 2 ^ w := by
  rw [brevVal_eq_bitsVal]
  exact bitsVal_lt _ w

theorem testBit_brevVal {w j : Nat} (a : Nat) (hj : j < w) : (brevVal w a).testBit j = a.testBit (w - 1 - j) := by
  rw [brevVal_eq_bitsVal, testBit_bitsVal, decide_eq_true hj, Bool.true_and]

/-! ### Bit fields (R156) -/

theorem bfxVal_lt (ty : Ty) (pos len a : Nat) : bfxVal ty pos len a < 2 ^ tyBits ty := wrapTo_lt _ _

/-- R156: a field extended by its top bit for a signed type, by zeros otherwise. -/
theorem testBit_bfxVal (ty : Ty) (pos len a : Nat) {j : Nat} (hj : j < tyBits ty) :
    let p := min pos (tyBits ty)
    let l := min len (tyBits ty - p)
    (bfxVal ty pos len a).testBit j =
      if j < l then a.testBit (p + j) else tySigned ty && decide (0 < l) && a.testBit (p + l - 1) := by
  intro p l
  have hl : l ≤ tyBits ty := (Nat.min_le_right _ _).trans (Nat.sub_le _ _)
  have hfield (i : Nat) : (a / 2 ^ p % 2 ^ l).testBit i = (decide (i < l) && a.testBit (p + i)) := by
    rw [Nat.testBit_mod_two_pow, Nat.testBit_div_two_pow, Nat.add_comm]
  have hlt : a / 2 ^ p % 2 ^ l < 2 ^ l := Nat.mod_lt _ (by positivity)
  have htop : (tySigned ty && decide (0 < l) && (a / 2 ^ p % 2 ^ l).testBit (l - 1)) = (tySigned ty && decide (0 < l) && a.testBit (p + l - 1)) := by
    by_cases h0 : 0 < l
    · rw [hfield, decide_eq_true (by omega : l - 1 < l), Bool.true_and, ← Nat.add_sub_assoc h0]
    · rw [decide_eq_false h0, Bool.and_false, Bool.false_and, Bool.false_and]
  simp only [bfxVal, ← htop]
  change (wrapTo (tyBits ty) (if (tySigned ty && decide (0 < l) && (a / 2 ^ p % 2 ^ l).testBit (l - 1)) = true
    then ((a / 2 ^ p % 2 ^ l : Nat) : Int) - 2 ^ l else ((a / 2 ^ p % 2 ^ l : Nat) : Int))).testBit j = _
  cases hsign : tySigned ty && decide (0 < l) && (a / 2 ^ p % 2 ^ l).testBit (l - 1)
  · rw [if_neg Bool.false_ne_true, wrapTo_eq_of_modEq rfl, Nat.testBit_mod_two_pow, decide_eq_true hj, Bool.true_and, hfield]
    split
    next h => rw [decide_eq_true h, Bool.true_and]
    next h => rw [decide_eq_false h, Bool.false_and]
  · have hneg : ((a / 2 ^ p % 2 ^ l : Nat) : Int) - 2 ^ l = -(((2 ^ l - (a / 2 ^ p % 2 ^ l + 1) : Nat) : Int) + 1) := by
      push_cast [Nat.cast_sub (Nat.succ_le_of_lt hlt)]
      ring
    have hb : 2 ^ l - (a / 2 ^ p % 2 ^ l + 1) < 2 ^ tyBits ty :=
      (by omega : 2 ^ l - (a / 2 ^ p % 2 ^ l + 1) < 2 ^ l).trans_le (Nat.pow_le_pow_right (by decide) hl)
    rw [if_pos rfl, hneg, testBit_wrapTo_neg hb hj, Nat.testBit_two_pow_sub_succ hlt, hfield]
    split
    next h => rw [decide_eq_true h, Bool.true_and, Bool.true_and, Bool.not_not]
    next h => rw [decide_eq_false h, Bool.false_and]; rfl

/-- R156: BFI replaces the field and keeps every other bit of the destination. -/
theorem testBit_bfiVal (w pos len d a j : Nat) :
    let p := min pos w
    let l := min len (w - p)
    (bfiVal w pos len d a).testBit j = if p ≤ j ∧ j < p + l then a.testBit (j - p) else d.testBit j := by
  intro p l
  have hd : d = 2 ^ p * (2 ^ l * (d / 2 ^ p / 2 ^ l) + d / 2 ^ p % 2 ^ l) + d % 2 ^ p := by
    rw [Nat.div_add_mod, Nat.div_add_mod]
  have hval : bfiVal w pos len d a = 2 ^ p * (2 ^ l * (d / 2 ^ p / 2 ^ l) + a % 2 ^ l) + d % 2 ^ p := by
    change d - d / 2 ^ p % 2 ^ l * 2 ^ p + a % 2 ^ l * 2 ^ p = _
    have hpart : d - d / 2 ^ p % 2 ^ l * 2 ^ p = 2 ^ p * (2 ^ l * (d / 2 ^ p / 2 ^ l)) + d % 2 ^ p := by
      conv_lhs => lhs; rw [hd]
      rw [Nat.mul_add, Nat.mul_comm (2 ^ p) (d / 2 ^ p % 2 ^ l)]
      omega
    rw [hpart]
    ring
  rw [hval, Nat.testBit_two_pow_mul_add _ (Nat.mod_lt _ (by positivity))]
  conv_rhs => rw [hd, Nat.testBit_two_pow_mul_add _ (Nat.mod_lt _ (by positivity)),
    Nat.testBit_two_pow_mul_add _ (Nat.mod_lt _ (by positivity))]
  rw [Nat.testBit_two_pow_mul_add _ (Nat.mod_lt _ (by positivity))]
  by_cases hp : j < p
  · rw [if_pos hp, if_pos hp, if_neg (by omega)]
  · by_cases hl : j - p < l
    · rw [if_neg hp, if_pos hl, if_pos ⟨by omega, by omega⟩, Nat.testBit_mod_two_pow, decide_eq_true hl, Bool.true_and]
    · rw [if_neg hp, if_neg hl, if_neg hp, if_neg hl, if_neg (by omega)]

end Sys2Proof.Machine
end

section
/-! The integer words: what each writes (R151 to R158). -/

namespace Sys2Proof.Machine

/-! ### The arms of R151 to R158 -/

section
variable (c : Ctl) (wide sat signed : Bool) (ty : Ty) (n : BitVec 3) (f : BfCtl) (m : Mem) (cmp : ICmp) (q : PComb) (d a b : Opd) (s : State)

theorem exec_iadd : exec (.iadd c sat ty d a b) s = execIadd c sat ty d a b s := rfl
theorem exec_iaddc : exec (.iaddc c ty n d a b) s = execIaddc c ty n d a b s := rfl
theorem exec_isub : exec (.isub c sat ty d a b) s = execIsub c sat ty d a b s := rfl
theorem exec_imul : exec (.imul c wide ty d a b) s = execImul c wide ty d a b s := rfl
theorem exec_imulh : exec (.imulh c ty d a b) s = execImulh c ty d a b s := rfl
theorem exec_imad : exec (.imad c wide ty d a b) s = execImad c wide ty d a b s := rfl
theorem exec_imin : exec (.imin c ty d a b) s = execImin c ty d a b s := rfl
theorem exec_imax : exec (.imax c ty d a b) s = execImax c ty d a b s := rfl
theorem exec_iabs : exec (.iabs c sat ty d a) s = execIabs c sat ty d a s := rfl
theorem exec_and : exec (.and c ty d a b) s = execAnd c ty d a b s := rfl
theorem exec_or : exec (.or c ty d a b) s = execOr c ty d a b s := rfl
theorem exec_xor : exec (.xor c ty d a b) s = execXor c ty d a b s := rfl
theorem exec_andn : exec (.andn c ty d a b) s = execAndn c ty d a b s := rfl
theorem exec_shl : exec (.shl c ty d a b) s = execShl c ty d a b s := rfl
theorem exec_shr : exec (.shr c ty d a b) s = execShr c ty d a b s := rfl
theorem exec_sar : exec (.sar c ty d a b) s = execSar c ty d a b s := rfl
theorem exec_rotl : exec (.rotl c ty d a b) s = execRotl c ty d a b s := rfl
theorem exec_popc : exec (.popc c ty d a) s = execPopc c ty d a s := rfl
theorem exec_clz : exec (.clz c ty d a) s = execClz c ty d a s := rfl
theorem exec_ctz : exec (.ctz c ty d a) s = execCtz c ty d a s := rfl
theorem exec_brev : exec (.brev c ty d a) s = execBrev c ty d a s := rfl
theorem exec_bfx : exec (.bfx c ty f d a) s = execBfx c ty f d a s := rfl
theorem exec_bfi : exec (.bfi c ty f d a) s = execBfi c ty f d a s := rfl
theorem exec_isetp : exec (.isetp c cmp ty q d a b) s = execIsetp c cmp ty q d a b s := rfl
theorem exec_agen : exec (.agen c signed ty d m) s = execAgen c signed ty d m s := rfl

end

/-! ### What the words write -/

section
variable {s : State} {c : Ctl} {w : Nat} {set act : Lanes} {d a b : Opd} (h : Issues s c w set act)
include h

theorem intWord_next (hf : StreamsFit s w set act [a, b] (some d)) (ty : Ty) (sat : Bool) (lat : Nat) (f : Int → Int → Int) :
    intWord s c ty sat lat d a b f = .next (written s w set act [a, b] lat d ty.regs fun u =>
      intOut ty sat (f (intVal ty (reads s w a ty.regs u)) (intVal ty (reads s w b ty.regs u)))) :=
  fixedWord_writes h hf fun u => by simp only [issueAt_w, srcVal_advance, reads]

theorem bitWord_next (hf : StreamsFit s w set act [a, b] (some d)) (ty : Ty) (f : Nat → Nat → Nat) :
    bitWord s c ty d a b f = .next (written s w set act [a, b] 4 d ty.regs fun u =>
      f (reads s w a ty.regs u % 2 ^ tyBits ty) (reads s w b ty.regs u % 2 ^ tyBits ty)) :=
  fixedWord_writes h hf fun u => by simp only [issueAt_w, srcVal_advance, reads]

theorem shiftWord_next (hf : StreamsFit s w set act [a, b] (some d)) (ty : Ty) (f : Nat → Nat → Nat) :
    shiftWord s c ty d a b f = .next (written s w set act [a, b] 4 d ty.regs fun u =>
      f (reads s w a ty.regs u % 2 ^ tyBits ty) (reads s w b 1 u % 2 ^ 32)) :=
  fixedWord_writes h hf fun u => by simp only [issueAt_w, srcVal_advance, reads]

theorem unWord_next (hf : StreamsFit s w set act [a] (some d)) (ty : Ty) (k : Nat) (f : Nat → Nat) :
    unWord s c ty k d a f = .next (written s w set act [a] 4 d k fun u => f (reads s w a ty.regs u % 2 ^ tyBits ty)) :=
  fixedWord_writes h hf fun u => by simp only [issueAt_w, srcVal_advance, reads]

theorem exec_iabs_next (hf : StreamsFit s w set act [a] (some d)) (sat : Bool) (ty : Ty) :
    exec (.iabs c sat ty d a) s = .next (written s w set act [a] 4 d ty.regs fun u =>
      intOut ty sat (intVal ty (reads s w a ty.regs u)).natAbs) :=
  (exec_iabs ..).trans <| fixedWord_writes h hf fun u => by simp only [issueAt_w, srcVal_advance, reads]

theorem exec_imul_wide_next (hf : StreamsFit s w set act [a, b] (some d)) (ty : Ty) :
    exec (.imul c true ty d a b) s = .next (written s w set act [a, b] 6 d 2 fun u =>
      wrapTo 64 (intVal ty (reads s w a 1 u) * intVal ty (reads s w b 1 u))) := by
  rw [exec_imul, execImul, if_pos rfl]
  exact fixedWord_writes h hf fun u => by simp only [issueAt_w, srcVal_advance, reads]

theorem exec_imad_next (hf : StreamsFit s w set act [a, b] (some d)) (ty : Ty) :
    exec (.imad c false ty d a b) s = .next (written s w set act [a, b] 6 d ty.regs fun u => wrapTo (32 * ty.regs)
      (intVal ty (reads s w a ty.regs u) * intVal ty (reads s w b ty.regs u) + intVal ty (reads s w d ty.regs u))) := by
  simp only [exec_imad, execImad, Bool.false_eq_true, if_false]
  exact fixedWord_writes h hf fun u => by simp only [issueAt_w, srcVal_advance, reads]

theorem exec_imad_wide_next (hf : StreamsFit s w set act [a, b] (some d)) (ty : Ty) :
    exec (.imad c true ty d a b) s = .next (written s w set act [a, b] 6 d 2 fun u => wrapTo 64
      (intVal ty (reads s w a ty.regs u) * intVal ty (reads s w b ty.regs u) +
        intVal (if tySigned ty then .s64 else .u64) (reads s w d 2 u))) := by
  simp only [exec_imad, execImad, if_true]
  exact fixedWord_writes h hf fun u => by simp only [issueAt_w, srcVal_advance, reads]

theorem exec_iaddc_next (hf : StreamsFit s w set act [a, b] (some d)) (ty : Ty) (n : BitVec 3) :
    exec (.iaddc c ty n d a b) s = .next (putP (written s w set act [a, b] 4 d ty.regs fun u =>
      (reads s w a ty.regs u % 2 ^ tyBits ty + reads s w b ty.regs u % 2 ^ tyBits ty + (predAt s w n.toNat u).toNat) % 2 ^ tyBits ty)
      w 4 n.toNat act fun u => decide (2 ^ tyBits ty ≤
        reads s w a ty.regs u % 2 ^ tyBits ty + reads s w b ty.regs u % 2 ^ tyBits ty + (predAt s w n.toNat u).toNat)) := by
  rw [exec_iaddc, execIaddc, issue_next h, fixedGen_writes hf]
  simp only [issueAt_w, srcVal_advance, pBit_advance]
  rfl

theorem exec_isetp_next (hf : StreamsFit s w set act [a, b] (some d)) (cmp : ICmp) (ty : Ty) (q : PComb) :
    exec (.isetp c cmp ty q d a b) s = .next (written s w set act [a, b] 4 d 1 fun u =>
      (combine q (icmp cmp (intVal ty (reads s w a ty.regs u)) (intVal ty (reads s w b ty.regs u))) (predAt s w q.c.toNat u)).toNat) :=
  (exec_isetp ..).trans <| fixedWord_writes h hf fun u => by simp only [issueAt_w, srcVal_advance, pBit_advance, reads, predAt]

end

/-- R158: the index of AGEN as its form reads it. -/
def agenIndex (s : State) (w : Nat) (signed : Bool) (m : Mem) (u : Nat) : Int :=
  match m.index with
  | some o => intVal (if signed then .s32 else .u32) (reads s w o 1 u)
  | none => 0

theorem exec_agen_next {s : State} {c : Ctl} {w : Nat} {set act : Lanes} {d : Opd} {m : Mem} (h : Issues s c w set act)
    (hf : StreamsFit s w set act (m.base :: m.index.toList) (some d)) (signed : Bool) (ty : Ty) :
    exec (.agen c signed ty d m) s = .next (written s w set act (m.base :: m.index.toList) 4 d ty.regs fun u =>
      wrapTo (tyBits ty) ((reads s w m.base ty.regs u : Int) + agenIndex s w signed m u * 2 ^ m.shift.toNat + m.off.toInt)) :=
  (exec_agen ..).trans <| fixedWord_writes h hf fun u => by
    simp only [issueAt_w, srcVal_advance]
    cases hm : m.index <;> simp only [agenIndex, hm, reads]

/-- R156: position and length of a bit field in a lane. -/
def bfField (s : State) (w : Nat) (f : BfCtl) (u : Nat) : Nat × Nat :=
  match f with
  | .lit p l => (p.toNat, l.toNat)
  | .reg o => (reads s w o 1 u % 256, reads s w o 1 u / 256 % 256)

theorem bfPos_advance (s : State) (w : Nat) (set act : Lanes) (f : BfCtl) (u : Nat) :
    bfPos (advance s w set) (issueAt s w set act) (getWarp (advance s w set) w) u f = bfField s w f u := by
  cases f with
  | lit p l => rfl
  | reg o => simp only [bfPos, bfField, issueAt_w, srcVal_advance, reads]

section
variable {s : State} {c : Ctl} {w : Nat} {set act : Lanes} {d a : Opd} (h : Issues s c w set act)
include h

theorem exec_bfx_next {f : BfCtl} (hf : StreamsFit s w set act (bfSrcs a f) (some d)) (ty : Ty) :
    exec (.bfx c ty f d a) s = .next (written s w set act (bfSrcs a f) 4 d ty.regs fun u =>
      bfxVal ty (bfField s w f u).1 (bfField s w f u).2 (reads s w a ty.regs u % 2 ^ tyBits ty)) :=
  (exec_bfx ..).trans <| fixedWord_writes h hf fun u => by simp only [issueAt_w, srcVal_advance, bfPos_advance, reads]

theorem exec_bfi_next {f : BfCtl} (hf : StreamsFit s w set act (bfSrcs a f) (some d)) (ty : Ty) :
    exec (.bfi c ty f d a) s = .next (written s w set act (bfSrcs a f) 4 d ty.regs fun u =>
      bfiVal (tyBits ty) (bfField s w f u).1 (bfField s w f u).2 (reads s w d ty.regs u) (reads s w a ty.regs u)) :=
  (exec_bfi ..).trans <| fixedWord_writes h hf fun u => by simp only [issueAt_w, srcVal_advance, bfPos_advance, reads]

end

/-! ### Comparisons (R157) -/

/-- The relation that a comparison of ISETP tests. -/
def icmpHolds (cmp : ICmp) (x y : Int) : Prop :=
  match cmp with
  | .eq => x = y | .ne => x ≠ y | .lt => x < y | .le => x ≤ y | .gt => x > y | .ge => x ≥ y

theorem icmp_iff (cmp : ICmp) (x y : Int) : icmp cmp x y = true ↔ icmpHolds cmp x y := by
  cases cmp <;> simp [icmp, icmpHolds]

/-- R157: the combination of a comparison with Pc. -/
theorem combine_iff (q : PComb) (v pc : Bool) : combine q v pc = true ↔
    (q.op = 0 ∧ v = true) ∨ (q.op = 1 ∧ v = true ∧ (pc ^^ q.neg) = true) ∨ (q.op = 2 ∧ (v = true ∨ (pc ^^ q.neg) = true)) ∨
      (q.op = 3 ∧ ¬ (v = true ↔ (pc ^^ q.neg) = true)) := by
  obtain ⟨op, neg, n⟩ := q
  have hop : op = 0 ∨ op = 1 ∨ op = 2 ∨ op = 3 := by revert op; decide
  obtain rfl | rfl | rfl | rfl := hop <;> decide +revert

theorem toNat_ne_zero (v : Bool) : (v.toNat != 0) = v := by cases v <;> rfl

end Sys2Proof.Machine

open Sys2Proof Sys2Proof.Machine

/-- Settles O7: each word writes the reduction of an integer that agrees with the exact one modulo 2^w, or bits that stand where R154 to R156 say. -/
theorem integerFormsAreExact : Obligations.IntegerFormsAreExact := by
  unfold Obligations.IntegerFormsAreExact
  refine ⟨fun s c w set act ty d a b h hty => ⟨fun hf => ⟨?iadd, ?iaddSat, ?isub, ?isubSat, ?imul, ?imulh, ?imad, ?imin, ?imax, ?iaddc, ?wide⟩,
    fun hf sat => ?iabs⟩, fun s c w set act ty d a b h hty => ⟨fun hf => ⟨?logic, ?shifts⟩, fun hf => ?counts, fun f hf => ?fields⟩⟩
  case iadd => exact ⟨_, (exec_iadd ..).trans (intWord_next h hf ty false 4 _), fun u =>
    intOut_eq_of_modEq (by push_cast; exact (intVal_modEq ty _).add (intVal_modEq ty _))⟩
  case iaddSat => exact ⟨_, (exec_iadd ..).trans (intWord_next h hf ty true 4 _), fun u => ⟨intOut_lt .., intVal_intOut_sat ..⟩⟩
  case isub =>
    refine ⟨_, (exec_isub ..).trans (intWord_next h hf ty false 4 _), fun u => ⟨intOut_lt .., ?_⟩⟩
    have hsum := ((intOut_modEq ty (intVal ty (reads s w a ty.regs u) - intVal ty (reads s w b ty.regs u))).trans
      ((intVal_modEq ty _).sub (intVal_modEq ty _))).add_right (reads s w b ty.regs u : Int)
    rw [sub_add_cancel] at hsum
    exact_mod_cast hsum
  case isubSat => exact ⟨_, (exec_isub ..).trans (intWord_next h hf ty true 4 _), fun u => ⟨intOut_lt .., intVal_intOut_sat ..⟩⟩
  case imul => exact ⟨_, (exec_imul ..).trans (intWord_next h hf ty false 6 _), fun u =>
    intOut_eq_of_modEq (by push_cast; exact (intVal_modEq ty _).mul (intVal_modEq ty _))⟩
  case imulh =>
    refine ⟨_, (exec_imulh ..).trans (intWord_next h hf ty false 6 _), fun u => ⟨intOut_lt .., ?_⟩⟩
    rw [intVal_intOut (mul_fdiv_mem (intVal_mem ty _) (intVal_mem ty _)), Int.fdiv_eq_ediv_of_nonneg _ (by positivity)]
    refine ⟨wrapTo (tyBits ty) (intVal ty (reads s w a ty.regs u) * intVal ty (reads s w b ty.regs u)), wrapTo_lt .., ?_⟩
    rw [natCast_wrapTo]
    push_cast
    exact (Int.ediv_mul_add_emod _ _).symm
  case imad =>
    refine ⟨_, exec_imad_next h hf ty, fun u => ?_⟩
    rw [← tyBits_of_isInt hty]
    exact wrapTo_eq_of_modEq (by push_cast; exact ((intVal_modEq ty _).mul (intVal_modEq ty _)).add (intVal_modEq ty _))
  case imin =>
    refine ⟨_, (exec_imin ..).trans (intWord_next h hf ty false 4 _), fun u => ⟨intOut_lt .., intVal_intOut ?_⟩⟩
    have hx := intVal_mem ty (reads s w a ty.regs u)
    have hy := intVal_mem ty (reads s w b ty.regs u)
    exact ⟨le_min hx.1 hy.1, (min_le_left _ _).trans hx.2⟩
  case imax =>
    refine ⟨_, (exec_imax ..).trans (intWord_next h hf ty false 4 _), fun u => ⟨intOut_lt .., intVal_intOut ?_⟩⟩
    have hx := intVal_mem ty (reads s w a ty.regs u)
    have hy := intVal_mem ty (reads s w b ty.regs u)
    exact ⟨hx.1.trans (le_max_left _ _), max_le hx.2 hy.2⟩
  case iaddc => exact fun n => exec_iaddc_next h hf ty n
  case wide =>
    intro hregs
    refine ⟨_, _, exec_imul_wide_next h hf ty, exec_imad_wide_next h hf ty, fun u => ⟨wrapTo_lt .., wrapTo_lt .., ?_, ?_⟩⟩
    · rw [hregs]
      exact exists_eq_wrapTo_add 64 _
    · have haddend : intVal (if tySigned ty then .s64 else .u64) (reads s w d 2 u) ≡ reads s w d 2 u [ZMOD 2 ^ 64] := by
        split <;> exact intVal_modEq _ _
      obtain ⟨q, hq⟩ := (((wrapTo_modEq 64 _).trans (haddend.add_left
        (intVal ty (reads s w a ty.regs u) * intVal ty (reads s w b ty.regs u)))).dvd)
      exact ⟨q, by linear_combination hq⟩
  case iabs =>
    refine ⟨_, exec_iabs_next h hf sat ty, fun u => ⟨intOut_lt .., ?_, ?_⟩⟩
    · rintro rfl
      exact intOut_eq_of_modEq rfl
    · rintro rfl
      exact intVal_intOut_sat ..
  case logic =>
    refine ⟨_, _, _, _, (exec_and ..).trans (bitWord_next h hf ty _), (exec_or ..).trans (bitWord_next h hf ty _),
      (exec_xor ..).trans (bitWord_next h hf ty _), (exec_andn ..).trans (bitWord_next h hf ty _), fun u => ?_⟩
    have ha : reads s w a ty.regs u % 2 ^ tyBits ty < 2 ^ tyBits ty := Nat.mod_lt _ (by positivity)
    have hb : reads s w b ty.regs u % 2 ^ tyBits ty < 2 ^ tyBits ty := Nat.mod_lt _ (by positivity)
    exact ⟨Nat.and_lt_two_pow _ hb, Nat.or_lt_two_pow ha hb, Nat.xor_lt_two_pow ha hb, Nat.and_le_left.trans_lt ha, fun j hj =>
      ⟨Nat.testBit_and .., Nat.testBit_or .., Nat.testBit_xor .., testBit_and_not hb hj⟩⟩
  case shifts =>
    refine ⟨_, _, _, _, (exec_shl ..).trans (shiftWord_next h hf ty _), (exec_shr ..).trans (shiftWord_next h hf ty _),
      (exec_sar ..).trans (shiftWord_next h hf ty _), (exec_rotl ..).trans (shiftWord_next h hf ty _), fun u => ?_⟩
    have ha : reads s w a ty.regs u % 2 ^ tyBits ty < 2 ^ tyBits ty := Nat.mod_lt _ (by positivity)
    exact ⟨shlVal_lt .., shrVal_lt ha _, sarVal_lt .., rotlVal_lt .., fun j hj =>
      ⟨testBit_shlVal _ _ hj, testBit_shrVal ha _ j, testBit_sarVal ha hj _, testBit_rotlVal ha hj _⟩⟩
  case counts =>
    refine ⟨_, _, _, _, (exec_popc ..).trans (unWord_next h hf ty 1 _), (exec_clz ..).trans (unWord_next h hf ty 1 _),
      (exec_ctz ..).trans (unWord_next h hf ty 1 _), (exec_brev ..).trans (unWord_next h hf ty ty.regs _), fun u => ⟨rfl, ?_⟩⟩
    obtain ⟨hclz, habove, htop⟩ := clzVal_spec (Nat.mod_lt (reads s w a ty.regs u) (by positivity : 0 < 2 ^ tyBits ty))
    obtain ⟨hctz, hbelow, hlow⟩ := ctzVal_spec (tyBits ty) (reads s w a ty.regs u % 2 ^ tyBits ty)
    exact ⟨hclz, habove, htop, hctz, hbelow, hlow, brevVal_lt .., fun j hj => testBit_brevVal _ hj⟩
  case fields =>
    refine ⟨_, _, exec_bfx_next h hf ty, exec_bfi_next h hf ty, fun u => ⟨bfxVal_lt .., fun j hj => ⟨?_, fun _ => ?_⟩⟩⟩
    · cases f <;> exact testBit_bfxVal ty _ _ _ hj
    · cases f <;> exact testBit_bfiVal _ _ _ _ _ _

/-- Settles O8: ISETP writes the combination of R157 as 0 or 1; AGEN writes the reduction of the exact address. -/
theorem isetpComparesAndAgenAddresses : Obligations.IsetpComparesAndAgenAddresses := by
  unfold Obligations.IsetpComparesAndAgenAddresses
  refine fun s c w set act ty d h hty => ⟨fun a b cmp q hf => ⟨_, exec_isetp_next h hf cmp ty q, fun u => ?_⟩, fun signed m hf =>
    ⟨_, exec_agen_next h hf signed ty, fun u => ⟨wrapTo_lt .., ?_⟩⟩⟩
  · simp only [toNat_ne_zero, combine_iff, icmp_iff]
    cases cmp <;> rfl
  · obtain ⟨q, hq⟩ := exists_eq_wrapTo_add (tyBits ty)
      ((reads s w m.base ty.regs u : Int) + agenIndex s w signed m u * 2 ^ m.shift.toNat + m.off.toInt)
    refine ⟨q, agenIndex s w signed m u, fun hm => ?_, fun o hm => ?_, hq⟩
    · rw [agenIndex, hm]
    · rw [agenIndex, hm]

end

section
/-! The values of floating-point patterns: they rise with the pattern, in steps of the spacing of their binade (R133, R136). -/

namespace Sys2Proof.Machine

/-- What the rounding rules need of a format: a fraction bit, and more binades below 1 than fraction bits. -/
structure FFmt.Wide (f : FFmt) : Prop where
  eb_pos : 1 ≤ f.eb
  fb_pos : 1 ≤ f.fb
  bias : f.fb + 2 ≤ fmtBias f

/-- Every format of R133 is one. -/
theorem wide_fmtOf (ty : Ty) : (fmtOf ty).Wide := by cases ty <;> constructor <;> decide

theorem wide_fmtF32 : fmtF32.Wide := by constructor <;> decide

namespace FFmt.Wide
variable {f : FFmt} (hf : f.Wide)
include hf

theorem two_pow_eb : 2 ^ f.eb = 2 * fmtBias f + 2 := by
  have : 2 ^ f.eb = 2 * 2 ^ (f.eb - 1) := by rw [← pow_succ', Nat.sub_add_cancel hf.eb_pos]
  have : 0 < 2 ^ (f.eb - 1) := by positivity
  rw [fmtBias]
  omega

/-- The pattern of infinity, by the bias. -/
theorem inf_eq : fmtInf f = (2 * fmtBias f + 1) * 2 ^ f.fb := by
  rw [fmtInf, hf.two_pow_eb]
  rfl

theorem inf_lt : fmtInf f < 2 ^ (f.eb + f.fb) := by
  have : 0 < 2 ^ f.fb := by positivity
  have := hf.two_pow_eb
  rw [fmtInf, pow_add]
  exact Nat.mul_lt_mul_of_pos_right (by omega) (by positivity)

/-- There are more normal binades than fraction bits. -/
theorem mul_le_inf {k : Nat} (hk : k ≤ 2 * f.fb + 5) : k * 2 ^ f.fb ≤ fmtInf f := by
  have := hf.bias
  rw [hf.inf_eq]
  exact Nat.mul_le_mul_right _ (by omega)

end FFmt.Wide

/-! ### Patterns as multiples of their spacing -/

/-- The value `n` in units of the spacing of binade `k`. -/
theorem magVal_grid (f : FFmt) {k n : Nat} (hk : k = 0 ∨ 2 ^ f.fb ≤ n) (hn : n ≤ 2 ^ (f.fb + 1)) :
    magVal f (k * 2 ^ f.fb + n) = n * (2 : Rat) ^ (fmtLow f + k) := by
  have hF : 0 < 2 ^ f.fb := by positivity
  rw [pow_succ] at hn
  by_cases hsub : n < 2 ^ f.fb
  · obtain rfl : k = 0 := hk.resolve_right (by omega)
    have hex : (0 * 2 ^ f.fb + n) / 2 ^ f.fb = 0 := by rw [Nat.zero_mul, Nat.zero_add]; exact Nat.div_eq_of_lt hsub
    have hfr : (0 * 2 ^ f.fb + n) % 2 ^ f.fb = n := by rw [Nat.zero_mul, Nat.zero_add]; exact Nat.mod_eq_of_lt hsub
    simp only [magVal, hex, hfr, if_true, fmtLow]
    norm_num
  · by_cases htop : n = 2 ^ f.fb * 2
    · have hp : k * 2 ^ f.fb + n = (k + 2) * 2 ^ f.fb := by rw [htop]; ring
      have hex : (k * 2 ^ f.fb + n) / 2 ^ f.fb = k + 2 := by rw [hp, Nat.mul_div_cancel _ hF]
      have hfr : (k * 2 ^ f.fb + n) % 2 ^ f.fb = 0 := by rw [hp, Nat.mul_mod_left]
      simp only [magVal, hex, hfr, if_neg (by omega : ¬ k + 2 = 0), Nat.max_eq_left (by omega : 1 ≤ k + 2), Nat.add_zero]
      have hexp : ((k + 2 : Nat) : Int) - fmtBias f - f.fb = (fmtLow f + k) + 1 := by rw [fmtLow]; push_cast; ring
      rw [hexp, zpow_add_one₀ (by norm_num), htop]
      push_cast
      ring
    · have hp : k * 2 ^ f.fb + n = (n - 2 ^ f.fb) + 2 ^ f.fb * (k + 1) := by
        rw [Nat.mul_add, Nat.mul_comm k]; omega
      have hex : (k * 2 ^ f.fb + n) / 2 ^ f.fb = k + 1 := by
        rw [hp, Nat.add_mul_div_left _ _ hF, Nat.div_eq_of_lt (by omega), Nat.zero_add]
      have hfr : (k * 2 ^ f.fb + n) % 2 ^ f.fb = n - 2 ^ f.fb := by
        rw [hp, Nat.add_mul_mod_self_left, Nat.mod_eq_of_lt (by omega)]
      simp only [magVal, hex, hfr, if_neg (by omega : ¬ k + 1 = 0), Nat.max_eq_left (by omega : 1 ≤ k + 1)]
      have hexp : ((k + 1 : Nat) : Int) - fmtBias f - f.fb = fmtLow f + k := by rw [fmtLow]; push_cast; ring
      rw [hexp, Nat.add_sub_cancel' (by omega)]

/-- Every pattern is a multiple of the spacing of its binade. -/
theorem exists_grid (f : FFmt) (p : Nat) : ∃ k n, p = k * 2 ^ f.fb + n ∧ (k = 0 ∨ 2 ^ f.fb ≤ n) ∧ n < 2 ^ (f.fb + 1) := by
  have hF : 0 < 2 ^ f.fb := by positivity
  have hp := Nat.div_add_mod' p (2 ^ f.fb)
  have hlt := Nat.mod_lt p hF
  cases hk : p / 2 ^ f.fb with
  | zero => exact ⟨0, p % 2 ^ f.fb, by rw [hk] at hp; exact hp.symm, .inl rfl, by rw [pow_succ]; omega⟩
  | succ k =>
    rw [hk, Nat.succ_mul] at hp
    exact ⟨k, 2 ^ f.fb + p % 2 ^ f.fb, by omega, .inr (by omega), by rw [pow_succ]; omega⟩

/-- The spacing above a pattern is at least that of the binades up to it. -/
theorem magVal_add_le_succ (f : FFmt) {k p : Nat} (hk : k = 0 ∨ (k + 1) * 2 ^ f.fb ≤ p) :
    magVal f p + (2 : Rat) ^ (fmtLow f + k) ≤ magVal f (p + 1) := by
  obtain ⟨j, n, rfl, hj, hn⟩ := exists_grid f p
  have hkj : k ≤ j := by
    rcases hk with rfl | hk
    · exact Nat.zero_le j
    · rw [pow_succ] at hn
      have hlt : (k + 1) * 2 ^ f.fb < (j + 2) * 2 ^ f.fb := by rw [Nat.add_mul j]; omega
      have := Nat.lt_of_mul_lt_mul_right hlt
      omega
  have hsucc : j = 0 ∨ 2 ^ f.fb ≤ n + 1 := hj.imp_right (by omega)
  have hstep : (2 : Rat) ^ (fmtLow f + k) ≤ (2 : Rat) ^ (fmtLow f + j) := zpow_le_zpow_right₀ (by norm_num) (by omega)
  rw [Nat.add_assoc, magVal_grid f hj hn.le, magVal_grid f hsucc hn]
  push_cast
  linarith

theorem magVal_strictMono (f : FFmt) : StrictMono (magVal f) := by
  refine strictMono_nat_of_lt_succ fun p => ?_
  have := magVal_add_le_succ f (k := 0) (p := p) (.inl rfl)
  have : (0 : Rat) < (2 : Rat) ^ (fmtLow f + (0 : Nat)) := by positivity
  linarith

@[simp] theorem magVal_zero (f : FFmt) : magVal f 0 = 0 := by
  have := magVal_grid f (k := 0) (n := 0) (.inl rfl) (Nat.zero_le _)
  simpa using this

theorem magVal_nonneg (f : FFmt) (p : Nat) : 0 ≤ magVal f p := by
  rw [← magVal_zero f]
  exact (magVal_strictMono f).monotone (Nat.zero_le p)

theorem magVal_eq_zero_iff (f : FFmt) (p : Nat) : magVal f p = 0 ↔ p = 0 := by
  rw [← magVal_zero f, (magVal_strictMono f).injective.eq_iff]

/-- The smallest normal magnitude, and each power of two above it. -/
theorem magVal_binade (f : FFmt) (k : Nat) : magVal f ((k + 1) * 2 ^ f.fb) = (2 : Rat) ^ (fmtLow f + f.fb + k) := by
  have := magVal_grid f (k := k) (n := 2 ^ f.fb) (.inr le_rfl) (Nat.pow_le_pow_right (by decide) (Nat.le_succ _))
  rw [Nat.succ_mul, this]
  push_cast
  rw [← zpow_natCast, ← zpow_add₀ (by norm_num)]
  congr 1
  ring

/-- The value that the pattern of infinity stands for. -/
theorem FFmt.Wide.magVal_inf {f : FFmt} (hf : f.Wide) : magVal f (fmtInf f) = (2 : Rat) ^ ((fmtBias f : Int) + 1) := by
  rw [hf.inf_eq, magVal_binade]
  congr 1
  rw [fmtLow]
  push_cast
  ring

/-! ### Signs and magnitudes of patterns -/

theorem fmtSign_add_lt (f : FFmt) (s : Bool) {m : Nat} (hm : m < 2 ^ (f.eb + f.fb)) : fmtSign f s + m < 2 ^ fmtWidth f := by
  rw [fmtWidth, pow_succ, fmtSign]
  split <;> omega

@[simp] theorem patMag_sign_add (f : FFmt) (s : Bool) {m : Nat} (hm : m < 2 ^ (f.eb + f.fb)) : patMag f (fmtSign f s + m) = m := by
  rw [patMag, fmtSign]
  split
  · rw [Nat.add_mod_left, Nat.mod_eq_of_lt hm]
  · rw [Nat.zero_add, Nat.mod_eq_of_lt hm]

@[simp] theorem patNeg_sign_add (f : FFmt) (s : Bool) {m : Nat} (hm : m < 2 ^ (f.eb + f.fb)) : patNeg f (fmtSign f s + m) = s := by
  have hP : 0 < 2 ^ (f.eb + f.fb) := by positivity
  rw [patNeg, fmtSign]
  cases s
  · rw [if_neg Bool.false_ne_true, Nat.zero_add, Nat.div_eq_of_lt hm]
    rfl
  · rw [if_pos rfl, Nat.add_div_left _ hP, Nat.div_eq_of_lt hm]
    rfl

/-- A pattern is its sign and its magnitude. -/
theorem sign_add_patMag {f : FFmt} {b : Nat} (hb : b < 2 ^ fmtWidth f) : fmtSign f (patNeg f b) + patMag f b = b := by
  have hP : 0 < 2 ^ (f.eb + f.fb) := by positivity
  rw [fmtWidth, pow_succ] at hb
  have hdiv := Nat.div_add_mod b (2 ^ (f.eb + f.fb))
  have hlt : b / 2 ^ (f.eb + f.fb) < 2 := by rwa [Nat.div_lt_iff_lt_mul hP, Nat.mul_comm]
  rw [patMag, patNeg, fmtSign]
  obtain h0 | h1 := Nat.le_one_iff_eq_zero_or_eq_one.1 (Nat.le_of_lt_succ hlt)
  · rw [h0] at hdiv ⊢
    simpa using hdiv
  · rw [h1] at hdiv ⊢
    simpa using hdiv

theorem patMag_lt (f : FFmt) (b : Nat) : patMag f b < 2 ^ (f.eb + f.fb) := Nat.mod_lt _ (by positivity)

/-- The sign of a value as a factor. -/
def signed (s : Bool) (x : Rat) : Rat := if s then -x else x

@[simp] theorem signed_zero (s : Bool) : signed s 0 = 0 := by cases s <;> simp [signed]
@[simp] theorem abs_signed (s : Bool) (x : Rat) : |signed s x| = |x| := by cases s <;> simp [signed]
theorem signed_not (s : Bool) (x : Rat) : signed (!s) x = -signed s x := by cases s <;> simp [signed]
theorem signed_mul_signed (s t : Bool) (x y : Rat) : signed s x * signed t y = signed (s != t) (x * y) := by
  cases s <;> cases t <;> simp [signed]
theorem signed_eq_zero_iff (s : Bool) (x : Rat) : signed s x = 0 ↔ x = 0 := by cases s <;> simp [signed]

/-- A value with the sign that it has. -/
theorem signed_abs (x : Rat) : signed (decide (x < 0)) |x| = x := by
  by_cases h : x < 0
  · rw [decide_eq_true h, abs_of_neg h]
    exact neg_neg x
  · rw [decide_eq_false h, abs_of_nonneg (not_lt.1 h)]
    rfl

theorem signed_neg_iff {s : Bool} {x : Rat} (hx : 0 < x) : decide (signed s x < 0) = s := by
  cases s
  · exact decide_eq_false (by simpa [signed] using hx.le)
  · exact decide_eq_true (by simpa [signed] using hx)

theorem patVal_eq (f : FFmt) (ftz : Bool) (b : Nat) : patVal f ftz b = signed (patNeg f b) (magVal f (magRead f ftz b)) := by
  rw [patVal, signed]
  split <;> ring

theorem magRead_false (f : FFmt) (b : Nat) : magRead f false b = patMag f b := rfl

theorem patVal_sign_add (f : FFmt) (s : Bool) {m : Nat} (hm : m < 2 ^ (f.eb + f.fb)) :
    patVal f false (fmtSign f s + m) = signed s (magVal f m) := by
  rw [patVal_eq, magRead_false, patMag_sign_add f s hm, patNeg_sign_add f s hm]

end Sys2Proof.Machine
end

section
/-! Rounding of a magnitude: to whole multiples of a spacing, and from there to patterns (R136, R137). -/

namespace Sys2Proof.Machine

/-! ### Rounding in magnitude (R136) -/

/-- What a rounding mode does to a magnitude of a given sign. -/
inductive MagMode where
  | even | away | down | up

/-- R136: RP and RM round a magnitude up or down by its sign. -/
def magMode : Rm → Bool → MagMode
  | .rn, _ => .even
  | .ra, _ => .away
  | .rz, _ => .down
  | .rp, s => if s then .down else .up
  | .rm, s => if s then .up else .down

/-- Whether the upper neighbour is taken: the lower one is odd, the rest compared with half, the rest is not zero. -/
def MagMode.goesUp (k : MagMode) (odd : Bool) (half : Ordering) (rest : Bool) : Bool :=
  match k with
  | .even => half == .gt || (half == .eq && odd)
  | .away => half == .gt || half == .eq
  | .down => false
  | .up => rest

theorem roundUp_eq_goesUp (r : Rm) (s odd : Bool) (half : Ordering) (rest : Bool) :
    roundUp r s odd half rest = (magMode r s).goesUp odd half rest := by
  cases r with
  | rp | rm => cases s <;> cases rest <;> rfl
  | _ => rfl

/-- `n` is the number `y` rounded to an integer. -/
def IntRounds (k : MagMode) (y : ℝ) (n : Nat) : Prop :=
  match k with
  | .even => |n - y| ≤ 1 / 2 ∧ (|n - y| = 1 / 2 → n % 2 = 0)
  | .away => |n - y| ≤ 1 / 2 ∧ (|n - y| = 1 / 2 → y < n)
  | .down => (n : ℝ) ≤ y ∧ y < n + 1
  | .up => y ≤ n ∧ (n : ℝ) < y + 1

theorem IntRounds.natCast (k : MagMode) (n : Nat) : IntRounds k n n := by
  cases k <;> simp [IntRounds]

theorem IntRounds.abs_sub_lt_one {k : MagMode} {y : ℝ} {n : Nat} (h : IntRounds k y n) : |n - y| < 1 := by
  cases k with
  | even | away => exact h.1.trans_lt (by norm_num)
  | down | up => rw [abs_lt]; constructor <;> linarith [h.1, h.2]

theorem IntRounds.le_of_le {k : MagMode} {y : ℝ} {n m : Nat} (h : IntRounds k y n) (hm : (m : ℝ) ≤ y) : m ≤ n := by
  have hlt := (abs_lt.1 h.abs_sub_lt_one).1
  have : (m : ℝ) < n + 1 := by linarith
  exact Nat.le_of_lt_succ (by exact_mod_cast this)

theorem IntRounds.ge_of_ge {k : MagMode} {y : ℝ} {n m : Nat} (h : IntRounds k y n) (hm : y ≤ m) : n ≤ m := by
  have hlt := (abs_lt.1 h.abs_sub_lt_one).2
  have : (n : ℝ) < m + 1 := by linarith
  exact Nat.le_of_lt_succ (by exact_mod_cast this)

/-- A whole number and a fraction `t`, of which the mode sees how it compares with a half, and whether it is zero. -/
theorem intRounds_add_frac (k : MagMode) (n : Nat) {t : ℝ} (h0 : 0 ≤ t) (h1 : t < 1) {half : Ordering} {rest : Bool}
    (hlt : half = .lt → t < 1 / 2) (heq : half = .eq → t = 1 / 2) (hgt : half = .gt → 1 / 2 < t) (hrest : rest = true ↔ t ≠ 0) :
    IntRounds k (n + t) (if k.goesUp (n % 2 == 1) half rest then n + 1 else n) := by
  have hstay : |(n : ℝ) - (n + t)| = t := by rw [sub_add_cancel_left, abs_neg, abs_of_nonneg h0]
  have hup : |((n + 1 : Nat) : ℝ) - (n + t)| = 1 - t := by
    push_cast
    rw [add_sub_add_left_eq_sub, abs_of_nonneg (by linarith)]
  cases k with
  | even =>
    cases half with
    | lt => exact ⟨hstay.trans_le (hlt rfl).le, fun h => absurd (hstay.symm.trans h) (hlt rfl).ne⟩
    | gt =>
      have := hgt rfl
      exact ⟨hup.trans_le (by linarith), fun h => absurd (hup.symm.trans h) (by linarith)⟩
    | eq =>
      have := heq rfl
      by_cases hodd : n % 2 = 1
      · simp only [MagMode.goesUp, hodd, beq_self_eq_true, Bool.or_true, Bool.true_and, if_true]
        exact ⟨hup.trans_le (by linarith), fun _ => by omega⟩
      · simp only [MagMode.goesUp, beq_eq_false_iff_ne.2 hodd, Bool.and_false, Bool.or_false]
        exact ⟨hstay.trans_le this.le, fun _ => show n % 2 = 0 by omega⟩
  | away =>
    cases half with
    | lt => exact ⟨hstay.trans_le (hlt rfl).le, fun h => absurd (hstay.symm.trans h) (hlt rfl).ne⟩
    | gt =>
      have := hgt rfl
      exact ⟨hup.trans_le (by linarith), fun h => absurd (hup.symm.trans h) (by linarith)⟩
    | eq =>
      have := heq rfl
      exact ⟨hup.trans_le (by linarith), fun _ => show (n : ℝ) + t < (n + 1 : Nat) by push_cast; linarith⟩
  | down => exact ⟨show (n : ℝ) ≤ n + t by linarith, show (n : ℝ) + t < n + 1 by linarith⟩
  | up =>
    cases rest with
    | false =>
      obtain rfl : t = 0 := by by_contra h; exact absurd (hrest.2 h) Bool.false_ne_true
      exact ⟨show (n : ℝ) + 0 ≤ n by linarith, show (n : ℝ) < n + 0 + 1 by linarith⟩
    | true =>
      have : 0 < t := lt_of_le_of_ne h0 (hrest.1 rfl).symm
      exact ⟨show (n : ℝ) + t ≤ (n + 1 : Nat) by push_cast; linarith, show ((n + 1 : Nat) : ℝ) < n + t + 1 by push_cast; linarith⟩

/-! ### Numbers that are known by leading digits -/

/-- The model gives a magnitude as an integer `q`, an exponent, and a flag that says whether a fraction of a unit is left out. -/
structure Shows (q : Nat) (e : Int) (sticky : Bool) (v : ℝ) : Prop where
  le : q * (2 : ℝ) ^ e ≤ v
  lt : v < (q + 1) * (2 : ℝ) ^ e
  exact_iff : sticky = false ↔ v = q * (2 : ℝ) ^ e

theorem shows_exact (q : Nat) (e : Int) : Shows q e false (q * (2 : ℝ) ^ e) := by
  have : (0 : ℝ) < 2 ^ e := by positivity
  exact ⟨le_rfl, by linarith, by simp⟩

theorem Shows.scale {q : Nat} {e : Int} {sticky : Bool} {v : ℝ} (h : Shows q e sticky v) (j : Int) :
    Shows q (e + j) sticky (v * (2 : ℝ) ^ j) := by
  have hj : (0 : ℝ) < 2 ^ j := by positivity
  constructor
  · rw [zpow_add₀ (by norm_num), ← mul_assoc]
    exact mul_le_mul_of_nonneg_right h.le hj.le
  · rw [zpow_add₀ (by norm_num), ← mul_assoc]
    exact mul_lt_mul_of_pos_right h.lt hj
  · rw [zpow_add₀ (by norm_num), ← mul_assoc, mul_left_inj' hj.ne']
    exact h.exact_iff

theorem Shows.two_pow_le {q : Nat} {e : Int} {sticky : Bool} {v : ℝ} (h : Shows q e sticky v) (hq : q ≠ 0) :
    (2 : ℝ) ^ ((q.log2 : Int) + e) ≤ v := by
  refine le_trans ?_ h.le
  rw [zpow_add₀ (by norm_num), zpow_natCast]
  exact mul_le_mul_of_nonneg_right (by exact_mod_cast Nat.log2_self_le hq) (by positivity)

theorem Shows.lt_two_pow {q : Nat} {e : Int} {sticky : Bool} {v : ℝ} (h : Shows q e sticky v) :
    v < (2 : ℝ) ^ ((q.log2 : Int) + e + 1) := by
  refine h.lt.trans_le ?_
  rw [add_right_comm, zpow_add₀ (by norm_num)]
  refine mul_le_mul_of_nonneg_right ?_ (by positivity)
  exact_mod_cast Nat.succ_le_of_lt (Nat.lt_log2_self (n := q))

/-- How the rest `r` of a division by 2^d, with a fraction of a unit where `sticky`, compares with half of 2^d. -/
def restHalf (d r : Nat) (sticky : Bool) : Ordering := if r * 2 < 2 ^ d then .lt else if r * 2 = 2 ^ d && !sticky then .eq else .gt

section
variable {d r : Nat} {sticky : Bool} {t : ℝ} (hle : r ≤ t * 2 ^ d) (hlt : t * 2 ^ d < r + 1) (hexact : sticky = false ↔ t * 2 ^ d = r)

include hle hlt in
theorem frac_mem (hr : r < 2 ^ d) : 0 ≤ t ∧ t < 1 := by
  have hD : (0 : ℝ) < 2 ^ d := by positivity
  have hr : (r : ℝ) + 1 ≤ 2 ^ d := by exact_mod_cast hr
  exact ⟨nonneg_of_mul_nonneg_left (le_trans (Nat.cast_nonneg _) hle) hD, by nlinarith⟩

include hle hexact in
theorem rest_ne_zero_iff : (r != 0 || sticky) = true ↔ t ≠ 0 := by
  rw [← not_iff_not, not_not]
  simp only [Bool.or_eq_true, bne_iff_ne, ne_eq, not_or, not_not, Bool.not_eq_true, hexact]
  constructor
  · rintro ⟨rfl, h⟩
    exact (mul_eq_zero.1 (h.trans Nat.cast_zero)).resolve_right (by positivity)
  · rintro rfl
    rw [zero_mul] at hle ⊢
    have hr : (r : ℝ) = 0 := le_antisymm hle (Nat.cast_nonneg _)
    exact ⟨by exact_mod_cast hr, hr.symm⟩

include hlt in
theorem lt_half_of_restHalf (hd : d ≠ 0) (h : restHalf d r sticky = .lt) : t < 1 / 2 := by
  have hD : (0 : ℝ) < 2 ^ d := by positivity
  have heven : 2 ^ d = 2 * 2 ^ (d - 1) := by rw [← pow_succ', Nat.sub_add_cancel (by omega)]
  rw [restHalf] at h
  split at h
  next hlt2 =>
    have : (r : ℝ) * 2 + 2 ≤ 2 ^ d := by exact_mod_cast (by omega : r * 2 + 2 ≤ 2 ^ d)
    nlinarith
  next => split at h <;> cases h

include hexact in
theorem eq_half_of_restHalf (h : restHalf d r sticky = .eq) : t = 1 / 2 := by
  have hD : (0 : ℝ) < 2 ^ d := by positivity
  rw [restHalf] at h
  split at h
  next => cases h
  next =>
    split at h
    next heq =>
      simp only [Bool.and_eq_true, decide_eq_true_eq, Bool.not_eq_true', hexact] at heq
      obtain ⟨hr, ht⟩ := heq
      have : (r : ℝ) * 2 = 2 ^ d := by exact_mod_cast hr
      nlinarith
    next => cases h

include hle hexact in
theorem half_lt_of_restHalf (h : restHalf d r sticky = .gt) : 1 / 2 < t := by
  have hD : (0 : ℝ) < 2 ^ d := by positivity
  rw [restHalf] at h
  split at h
  next => cases h
  next hge =>
    split at h
    next => cases h
    next hne =>
      simp only [Bool.and_eq_true, decide_eq_true_eq, Bool.not_eq_true', hexact, not_and] at hne
      by_cases heq : r * 2 = 2 ^ d
      · have : (r : ℝ) * 2 = 2 ^ d := by exact_mod_cast heq
        have := lt_of_le_of_ne hle (Ne.symm (hne heq))
        nlinarith
      · have : (2 : ℝ) ^ d < (r : ℝ) * 2 := by exact_mod_cast (by omega : 2 ^ d < r * 2)
        nlinarith

end

/-- A whole number and a proper fraction are no other whole number. -/
theorem frac_eq_zero_of_eq_natCast {n m : Nat} {t : ℝ} (h0 : 0 ≤ t) (h1 : t < 1) (h : (n : ℝ) + t = m) : t = 0 := by
  have hle : (n : ℝ) ≤ m := by linarith
  have hlt : (m : ℝ) < n + 1 := by linarith
  have hnm : n = m := le_antisymm (by exact_mod_cast hle) (Nat.le_of_lt_succ (by exact_mod_cast hlt))
  rw [hnm] at h
  linarith

/-- R136: the rounding to a spacing, and whether it was exact. -/
theorem roundGrid_spec (r : Rm) (s : Bool) {q : Nat} {e g : Int} {sticky : Bool} {v : ℝ} (h : Shows q e sticky v)
    (hg : sticky = true → e < g) : IntRounds (magMode r s) (v / (2 : ℝ) ^ g) (roundGrid r s q e sticky g).1 ∧
      ((roundGrid r s q e sticky g).2 = true ↔ v = (roundGrid r s q e sticky g).1 * (2 : ℝ) ^ g) := by
  have hg0 : (0 : ℝ) < 2 ^ g := by positivity
  by_cases hge : g ≤ e
  · have hsticky : sticky = false := by
      by_contra hs
      exact absurd (hg (by simpa using hs)) (by omega)
    have hv : v = (q * 2 ^ (e - g).toNat : Nat) * (2 : ℝ) ^ g := by
      rw [h.exact_iff.1 hsticky]
      push_cast
      rw [mul_assoc, ← zpow_natCast, ← zpow_add₀ (by norm_num), Int.toNat_of_nonneg (by omega), Int.sub_add_cancel]
    simp only [roundGrid, if_pos hge, hsticky, Bool.not_false, true_iff]
    rw [hv, mul_div_cancel_right₀ _ hg0.ne']
    exact ⟨IntRounds.natCast _ _, rfl⟩
  · obtain ⟨d, hd⟩ : ∃ d : Nat, g = e + d := ⟨(g - e).toNat, by omega⟩
    have hd0 : d ≠ 0 := by rintro rfl; omega
    have hdd : (g - e).toNat = d := by omega
    have hq : (q : ℝ) = (q / 2 ^ d : Nat) * 2 ^ d + (q % 2 ^ d : Nat) := by exact_mod_cast (Nat.div_add_mod' q (2 ^ d)).symm
    have hpow : (2 : ℝ) ^ g = 2 ^ e * 2 ^ d := by rw [hd, zpow_add₀ (by norm_num), zpow_natCast]
    have he : (0 : ℝ) < 2 ^ e := by positivity
    obtain ⟨t, ht⟩ : ∃ t : ℝ, v = 2 ^ e * (((q / 2 ^ d : Nat) + t) * 2 ^ d) :=
      ⟨v / (2 ^ e * 2 ^ d) - (q / 2 ^ d : Nat), by field_simp; ring⟩
    have hle : ((q % 2 ^ d : Nat) : ℝ) ≤ t * 2 ^ d := by
      have := h.le
      rw [ht, mul_comm _ ((2 : ℝ) ^ e), hq] at this
      linarith [le_of_mul_le_mul_left this he]
    have hlt : t * 2 ^ d < (q % 2 ^ d : Nat) + 1 := by
      have := h.lt
      rw [ht, mul_comm _ ((2 : ℝ) ^ e), hq] at this
      linarith [lt_of_mul_lt_mul_left this he.le]
    have hexact : sticky = false ↔ t * 2 ^ d = (q % 2 ^ d : Nat) := by
      rw [h.exact_iff, ht, mul_comm _ ((2 : ℝ) ^ e), mul_right_inj' he.ne', hq]
      constructor <;> intro h <;> linarith
    obtain ⟨ht0, ht1⟩ := frac_mem hle hlt (Nat.mod_lt _ (by positivity))
    have hrest := rest_ne_zero_iff hle hexact
    have hscale : v / (2 : ℝ) ^ g = (q / 2 ^ d : Nat) + t := by rw [ht, hpow]; field_simp
    have hround := intRounds_add_frac (magMode r s) (q / 2 ^ d) ht0 ht1 (lt_half_of_restHalf hlt hd0) (eq_half_of_restHalf hexact)
      (half_lt_of_restHalf hle hexact) hrest
    have hmodel : roundGrid r s q e sticky g = (if (magMode r s).goesUp (q / 2 ^ d % 2 == 1) (restHalf d (q % 2 ^ d) sticky)
        (q % 2 ^ d != 0 || sticky) then q / 2 ^ d + 1 else q / 2 ^ d, !(q % 2 ^ d != 0 || sticky)) := by
      simp only [roundGrid, if_neg hge, hdd, roundUp_eq_goesUp]
      rfl
    rw [hmodel, ← div_eq_iff hg0.ne', hscale]
    refine ⟨hround, ?_⟩
    rw [Bool.not_eq_true', ← Bool.not_eq_true, hrest, not_not]
    constructor
    · rintro rfl
      rw [add_zero] at hround ⊢
      exact congrArg _ (le_antisymm (hround.le_of_le le_rfl) (hround.ge_of_ge le_rfl))
    · exact frac_eq_zero_of_eq_natCast ht0 ht1

end Sys2Proof.Machine
end

section
/-! Rounding to patterns: without an upper end, and with the pattern of infinity as the end (R136, R137). -/

namespace Sys2Proof.Machine

/-- The value of a magnitude as a real number. -/
def magReal (f : FFmt) (p : Nat) : ℝ := ((magVal f p : Rat) : ℝ)

theorem magReal_strictMono (f : FFmt) : StrictMono (magReal f) := fun _ _ h => Rat.cast_lt.2 (magVal_strictMono f h)

theorem magReal_grid (f : FFmt) {k n : Nat} (hk : k = 0 ∨ 2 ^ f.fb ≤ n) (hn : n ≤ 2 ^ (f.fb + 1)) :
    magReal f (k * 2 ^ f.fb + n) = n * (2 : ℝ) ^ (fmtLow f + k) := by
  rw [magReal, magVal_grid f hk hn]
  push_cast
  rfl

theorem magReal_add_le_succ (f : FFmt) {k p : Nat} (hk : k = 0 ∨ (k + 1) * 2 ^ f.fb ≤ p) :
    magReal f p + (2 : ℝ) ^ (fmtLow f + k) ≤ magReal f (p + 1) := by
  have := Rat.cast_le (K := ℝ).2 (magVal_add_le_succ f hk)
  push_cast at this
  exact this

theorem magReal_binade (f : FFmt) (k : Nat) : magReal f ((k + 1) * 2 ^ f.fb) = (2 : ℝ) ^ (fmtLow f + f.fb + k) := by
  rw [magReal, magVal_binade]
  push_cast
  rfl

/-- `b` is the pattern to which the magnitude `v` rounds, where the exponent has no upper end. -/
def PatRounds (f : FFmt) (k : MagMode) (v : ℝ) (b : Nat) : Prop :=
  match k with
  | .even => ∀ m, m ≠ b → |magReal f b - v| < |magReal f m - v| ∨ (|magReal f b - v| = |magReal f m - v| ∧ b % 2 = 0)
  | .away => ∀ m, m ≠ b → |magReal f b - v| < |magReal f m - v| ∨ (|magReal f b - v| = |magReal f m - v| ∧ m < b)
  | .down => magReal f b ≤ v ∧ ∀ m, magReal f m ≤ v → m ≤ b
  | .up => v ≤ magReal f b ∧ ∀ m, m < b → magReal f m < v

/-- A pattern whose neighbours are a spacing `u` away, or further, or lie on the other side of `v`. -/
structure Spaced (f : FFmt) (u v : ℝ) (b : Nat) : Prop where
  above : ∀ m, b < m → magReal f b + u ≤ magReal f m
  below : ∀ m, m < b → magReal f m ≤ magReal f b - u ∨ (magReal f m < magReal f b ∧ magReal f b ≤ v)

theorem Spaced.nearer {f : FFmt} {u v : ℝ} {b m : Nat} (h : Spaced f u v b) (hu : |magReal f b - v| ≤ u / 2) (hm : m ≠ b) :
    |magReal f b - v| < |magReal f m - v| ∨ (|magReal f b - v| = |magReal f m - v| ∧ |magReal f b - v| = u / 2 ∧
      (b < m → magReal f b ≤ v) ∧ (m < b → v ≤ magReal f b)) := by
  obtain ⟨hlo, hhi⟩ := abs_le.1 hu
  obtain hmb | hbm := Nat.lt_or_gt_of_ne hm
  · obtain hstep | ⟨hlt, hle⟩ := h.below m hmb
    · rw [abs_of_nonpos (by linarith : magReal f m - v ≤ 0)]
      obtain heq | hne := eq_or_ne (|magReal f b - v|) (-(magReal f m - v))
      · refine .inr ⟨heq, by linarith, fun h => absurd h (by omega), fun _ => ?_⟩
        by_contra hbv
        rw [abs_of_nonpos (by linarith)] at heq hu
        linarith
      · exact .inl (lt_of_le_of_ne (by linarith) hne)
    · refine .inl ?_
      rw [abs_of_nonpos (by linarith : magReal f b - v ≤ 0), abs_of_nonpos (by linarith)]
      linarith
  · have hstep := h.above m hbm
    rw [abs_of_nonneg (by linarith : 0 ≤ magReal f m - v)]
    obtain heq | hne := eq_or_ne (|magReal f b - v|) (magReal f m - v)
    · refine .inr ⟨heq, by linarith, fun _ => ?_, fun h => absurd h (by omega)⟩
      by_contra hbv
      rw [abs_of_nonneg (by linarith)] at heq hu
      linarith
    · exact .inl (lt_of_le_of_ne (by linarith) hne)

/-- A rounding to a whole multiple of the spacing is a rounding to a pattern. -/
theorem IntRounds.patRounds {f : FFmt} (hf : f.Wide) {mode : MagMode} {k n : Nat} {y : ℝ} (h : IntRounds mode y n)
    (hk : k = 0 ∨ (2 : ℝ) ^ f.fb ≤ y) (hy : y ≤ 2 ^ (f.fb + 1)) :
    PatRounds f mode (y * (2 : ℝ) ^ (fmtLow f + k)) (k * 2 ^ f.fb + n) ∧ (k = 0 ∨ 2 ^ f.fb ≤ n) ∧ n ≤ 2 ^ (f.fb + 1) := by
  have hkn : k = 0 ∨ 2 ^ f.fb ≤ n := hk.imp_right fun hy => h.le_of_le (by exact_mod_cast hy)
  have hn : n ≤ 2 ^ (f.fb + 1) := h.ge_of_ge (by exact_mod_cast hy)
  refine ⟨?_, hkn, hn⟩
  have hu : (0 : ℝ) < (2 : ℝ) ^ (fmtLow f + k) := by positivity
  have hval := magReal_grid f hkn hn
  have hspaced : Spaced f ((2 : ℝ) ^ (fmtLow f + k)) (y * (2 : ℝ) ^ (fmtLow f + k)) (k * 2 ^ f.fb + n) := by
    constructor
    · intro m hm
      refine (magReal_add_le_succ f (k := k) ?_).trans ((magReal_strictMono f).monotone hm)
      exact hkn.imp_right fun h => by rw [Nat.succ_mul]; omega
    · intro m hm
      by_cases hlow : k = 0 ∨ (k + 1) * 2 ^ f.fb < k * 2 ^ f.fb + n
      · left
        obtain ⟨p, hp⟩ := Nat.exists_eq_add_of_lt (Nat.zero_lt_of_lt hm)
        rw [Nat.zero_add] at hp
        have hstep := magReal_add_le_succ f (k := k) (p := p) (hlow.imp_right fun h => by omega)
        rw [← hp] at hstep
        have := (magReal_strictMono f).monotone (show m ≤ p by omega)
        linarith
      · rw [not_or, not_lt, Nat.succ_mul] at hlow
        refine .inr ⟨magReal_strictMono f hm, ?_⟩
        rw [hval]
        refine mul_le_mul_of_nonneg_right ?_ hu.le
        have hn2 : n = 2 ^ f.fb := le_antisymm (by omega) (hkn.resolve_left hlow.1)
        rw [hn2]
        exact_mod_cast hk.resolve_left hlow.1
  have hdiff : magReal f (k * 2 ^ f.fb + n) - y * (2 : ℝ) ^ (fmtLow f + k) = (n - y) * (2 : ℝ) ^ (fmtLow f + k) := by
    rw [hval]; ring
  have habs : |magReal f (k * 2 ^ f.fb + n) - y * (2 : ℝ) ^ (fmtLow f + k)| = |n - y| * (2 : ℝ) ^ (fmtLow f + k) := by
    rw [hdiff, abs_mul, abs_of_pos hu]
  have heven : (k * 2 ^ f.fb + n) % 2 = n % 2 := by
    have : 2 ^ f.fb = 2 * 2 ^ (f.fb - 1) := by rw [← pow_succ', Nat.sub_add_cancel hf.fb_pos]
    rw [this, Nat.mul_left_comm, Nat.mul_add_mod]
  have hhalf (hle : |n - y| ≤ 1 / 2) : |magReal f (k * 2 ^ f.fb + n) - y * (2 : ℝ) ^ (fmtLow f + k)| ≤ (2 : ℝ) ^ (fmtLow f + k) / 2 := by
    rw [habs]
    nlinarith
  have htie (heq : |magReal f (k * 2 ^ f.fb + n) - y * (2 : ℝ) ^ (fmtLow f + k)| = (2 : ℝ) ^ (fmtLow f + k) / 2) : |n - y| = 1 / 2 := by
    rw [habs] at heq
    exact mul_right_cancel₀ hu.ne' (by linarith)
  cases mode with
  | even =>
    intro m hm
    refine (hspaced.nearer (hhalf h.1) hm).imp_right fun ⟨heq, hu2, _, _⟩ => ⟨heq, ?_⟩
    rw [heven]
    exact h.2 (htie hu2)
  | away =>
    intro m hm
    refine (hspaced.nearer (hhalf h.1) hm).imp_right fun ⟨heq, hu2, habove, _⟩ => ⟨heq, ?_⟩
    have hlt := h.2 (htie hu2)
    by_contra hmb
    have := habove (by omega)
    nlinarith
  | down =>
    have hle : magReal f (k * 2 ^ f.fb + n) ≤ y * (2 : ℝ) ^ (fmtLow f + k) := by
      rw [hval]
      exact mul_le_mul_of_nonneg_right h.1 hu.le
    refine ⟨hle, fun m hm => ?_⟩
    by_contra hbm
    have := hspaced.above m (by omega)
    rw [hval] at this
    have := h.2
    nlinarith
  | up =>
    refine ⟨by rw [hval]; exact mul_le_mul_of_nonneg_right h.1 hu.le, fun m hm => ?_⟩
    obtain hstep | ⟨hlt, hle⟩ := hspaced.below m hm
    · rw [hval] at hstep
      have := h.2
      nlinarith
    · linarith

/-! ### Order -/

theorem PatRounds.le_of_le {f : FFmt} {k : MagMode} {v : ℝ} {b p : Nat} (h : PatRounds f k v b) (hp : magReal f p ≤ v) : p ≤ b := by
  by_contra hlt
  have hmono := magReal_strictMono f (Nat.lt_of_not_le hlt)
  have hne : p ≠ b := by omega
  cases k with
  | even | away =>
    have := h p hne
    rw [abs_of_nonpos (by linarith), abs_of_nonpos (by linarith : magReal f p - v ≤ 0)] at this
    obtain h | ⟨h, -⟩ := this <;> linarith
  | down => exact hlt (h.2 p hp)
  | up => linarith [h.1]

theorem PatRounds.ge_of_ge {f : FFmt} {k : MagMode} {v : ℝ} {b p : Nat} (h : PatRounds f k v b) (hp : v ≤ magReal f p) : b ≤ p := by
  by_contra hlt
  have hmono := magReal_strictMono f (Nat.lt_of_not_le hlt)
  have hne : p ≠ b := by omega
  cases k with
  | even | away =>
    have := h p hne
    rw [abs_of_nonneg (by linarith), abs_of_nonneg (by linarith : 0 ≤ magReal f p - v)] at this
    obtain h | ⟨h, -⟩ := this <;> linarith
  | down => linarith [h.1]
  | up => linarith [h.2 p (by omega)]

/-! ### The upper end (R137) -/

/-- R137: what a magnitude beyond the largest finite one becomes. -/
def overMag (f : FFmt) : MagMode → Nat
  | .down => fmtMax f
  | _ => fmtInf f

/-- A rounded magnitude brought within the format. -/
def capMag (f : FFmt) (k : MagMode) (b : Nat) : Nat := if fmtInf f ≤ b then overMag f k else b

theorem overMag_le (f : FFmt) (k : MagMode) : overMag f k ≤ fmtInf f := by
  cases k with
  | down => exact Nat.sub_le _ _
  | _ => exact le_rfl

theorem fmtMax_le_overMag (f : FFmt) (k : MagMode) : fmtMax f ≤ overMag f k := by
  cases k with
  | down => exact le_rfl
  | _ => exact Nat.sub_le _ _

theorem capMag_le (f : FFmt) (k : MagMode) (b : Nat) : capMag f k b ≤ fmtInf f := by
  rw [capMag]
  split
  · exact overMag_le f k
  · omega

/-- Below the largest finite magnitude the end of the format makes no difference. -/
theorem lt_capMag_iff {f : FFmt} {k : MagMode} {b m : Nat} (hm : m < fmtInf f) : capMag f k b < m ↔ b < m := by
  have := fmtMax_le_overMag f k
  rw [fmtMax] at this
  rw [capMag]
  split <;> omega

theorem FFmt.Wide.inf_pos {f : FFmt} (hf : f.Wide) : 0 < fmtInf f := by
  rw [hf.inf_eq]
  positivity

theorem capMag_of_le {f : FFmt} {k : MagMode} {b : Nat} (hk : overMag f k = fmtInf f) (hb : b ≤ fmtInf f) : capMag f k b = b := by
  rw [capMag]
  split
  next hge => rw [hk]; exact le_antisymm hge hb
  next => rfl

theorem abs_magReal_sub (f : FFmt) (n : Nat) (v : Rat) : |magReal f n - (v : ℝ)| = ((abs (magVal f n - v) : Rat) : ℝ) := by
  rw [magReal, Rat.cast_abs, Rat.cast_sub]

/-- Where the nearest pattern lies beyond infinity, infinity is the nearest within the format. -/
theorem infinity_nearest {f : FFmt} {v : Rat} {b n : Nat} (hnear : |magReal f b - v| ≤ |magReal f (fmtInf f) - v|) (hb : fmtInf f < b)
    (hn : n < fmtInf f) : abs (magVal f (fmtInf f) - v) < abs (magVal f n - v) := by
  have hmono := magReal_strictMono f hb
  have hv : magReal f (fmtInf f) ≤ v := by
    by_contra hlt
    rw [abs_of_nonneg (by linarith), abs_of_nonneg (by linarith)] at hnear
    linarith
  have hv : magVal f (fmtInf f) ≤ v := Rat.cast_le.1 hv
  have := magVal_strictMono f hn
  rw [abs_of_nonpos (by linarith), abs_of_nonpos (by linarith)]
  linarith

/-- R137: the nearest magnitude within the format, with the rule `tie` where two are equally near. -/
theorem nearest_capMag {f : FFmt} {k : MagMode} {v : Rat} {b : Nat} (hk : overMag f k = fmtInf f) {tie : Nat → Prop}
    (h : ∀ m, m ≠ b → |magReal f b - v| < |magReal f m - v| ∨ (|magReal f b - v| = |magReal f m - v| ∧ tie m)) (n : Nat)
    (hn : n ≤ fmtInf f) (hne : n ≠ capMag f k b) : abs (magVal f (capMag f k b) - v) < abs (magVal f n - v) ∨
      (abs (magVal f (capMag f k b) - v) = abs (magVal f n - v) ∧ b = capMag f k b ∧ tie n) := by
  by_cases hover : fmtInf f < b
  · have hcap : capMag f k b = fmtInf f := (if_pos hover.le).trans hk
    rw [hcap] at hne ⊢
    exact .inl (infinity_nearest ((h (fmtInf f) (by omega)).elim le_of_lt fun h => h.1.le) hover (by omega))
  · rw [capMag_of_le hk (not_lt.1 hover)] at hne ⊢
    refine (h n hne).imp (fun h => ?_) fun h => ⟨?_, rfl, h.2⟩
    · simpa only [abs_magReal_sub, Rat.cast_lt] using h
    · simpa only [abs_magReal_sub, Rat.cast_inj] using h.1

theorem down_capMag {f : FFmt} (hf : f.Wide) {v : Rat} {b : Nat} (h : PatRounds f .down v b) :
    capMag f .down b < fmtInf f ∧ magVal f (capMag f .down b) ≤ v ∧ ∀ n, n < fmtInf f → magVal f n ≤ v → n ≤ capMag f .down b := by
  obtain ⟨hb, hmax⟩ := h
  rw [capMag]
  split
  next hover =>
    have hmono : magVal f (fmtMax f) ≤ magVal f b := (magVal_strictMono f).monotone ((Nat.sub_le _ _).trans hover)
    exact ⟨Nat.sub_lt hf.inf_pos Nat.one_pos, hmono.trans (Rat.cast_le.1 hb), fun n hn _ => Nat.le_sub_one_of_lt hn⟩
  next hfit => exact ⟨by omega, Rat.cast_le.1 hb, fun n _ hn => hmax n (Rat.cast_le.2 hn)⟩

theorem up_capMag {f : FFmt} {v : Rat} {b : Nat} (h : PatRounds f .up v b) :
    (capMag f .up b = fmtInf f ∨ v ≤ magVal f (capMag f .up b)) ∧ ∀ n, n < capMag f .up b → magVal f n < v := by
  obtain ⟨hb, hmin⟩ := h
  rw [capMag]
  split
  next hover => exact ⟨.inl rfl, fun n hn => Rat.cast_lt.1 (hmin n (lt_of_lt_of_le hn hover))⟩
  next hfit => exact ⟨.inr (Rat.cast_le.1 hb), fun n hn => Rat.cast_lt.1 (hmin n hn)⟩

/-- R136, R137: the pattern of a sign and of the magnitude that the mode chooses for it is the rounding. -/
theorem roundsTo_of_patRounds {f : FFmt} (hf : f.Wide) {r : Rm} {s : Bool} {x : Rat} (hs : decide (x < 0) = s) {b : Nat}
    (h : PatRounds f (magMode r s) (abs x : Rat) b) : RoundsTo f r x (fmtSign f s + capMag f (magMode r s) b) := by
  have hle := capMag_le f (magMode r s) b
  have hmag := patMag_sign_add f s (hle.trans_lt hf.inf_lt)
  unfold RoundsTo
  simp only [hs, hmag]
  refine ⟨trivial, hle, ?_⟩
  cases r with
  | rn =>
    exact fun n hn hne => (nearest_capMag rfl h n hn hne).imp_right fun ⟨heq, hb, heven⟩ => ⟨heq, by rwa [← hb]⟩
  | ra =>
    exact fun n hn hne => (nearest_capMag rfl h n hn hne).imp_right fun ⟨heq, hb, hlt⟩ => ⟨heq, by rwa [← hb]⟩
  | rz => cases s <;> exact down_capMag hf h
  | rp =>
    cases s
    · exact up_capMag h
    · exact down_capMag hf h
  | rm =>
    cases s
    · exact down_capMag hf h
    · exact up_capMag h

end Sys2Proof.Machine
end

section
/-! The rounding of the model: a pattern and its conditions (R137, R138, R160). -/

namespace Sys2Proof.Machine

/-! ### The pattern before the upper end is seen -/

/-- The exponent of the spacing to which a magnitude of leading digits `q`, exponent `e` is rounded. -/
def gridExp (f : FFmt) (q : Nat) (e : Int) : Int := max ((q.log2 : Int) + e - f.fb) (fmtLow f)

/-- The pattern to which it rounds. -/
def gridBits (f : FFmt) (r : Rm) (s : Bool) (q : Nat) (e : Int) (sticky : Bool) : Nat :=
  (gridExp f q e - fmtLow f).toNat * 2 ^ f.fb + (roundGrid r s q e sticky (gridExp f q e)).1

/-- R160: whether the rounding with the exponent unbounded below lies below the smallest normal. -/
def tinyMag (f : FFmt) (r : Rm) (s : Bool) (q : Nat) (e : Int) (sticky : Bool) : Bool :=
  (q.log2 : Int) + e < fmtLow f + f.fb &&
    (roundGrid r s q e sticky ((q.log2 : Int) + e - f.fb)).1 < 2 ^ (fmtLow f + f.fb - ((q.log2 : Int) + e - f.fb)).toNat

theorem roundGrid_add (r : Rm) (s : Bool) (q : Nat) (e : Int) (sticky : Bool) (g j : Int) :
    roundGrid r s q (e + j) sticky (g + j) = roundGrid r s q e sticky g := by
  simp only [roundGrid, add_le_add_iff_right, add_sub_add_right_eq_sub]

section
variable {f : FFmt} (hf : f.Wide) (r : Rm) (s : Bool) {q : Nat} (hq : q ≠ 0) {e : Int} {sticky : Bool} {v : ℝ} (h : Shows q e sticky v)
  (hst : sticky = true → f.fb < q.log2)

include hq h hst in
/-- Rounded to the spacing of its leading digit, a magnitude fills the fraction. -/
theorem roundGrid_top : 2 ^ f.fb ≤ (roundGrid r s q e sticky ((q.log2 : Int) + e - f.fb)).1 ∧
    (roundGrid r s q e sticky ((q.log2 : Int) + e - f.fb)).1 ≤ 2 ^ (f.fb + 1) := by
  obtain ⟨hround, -⟩ := roundGrid_spec r s h (g := (q.log2 : Int) + e - f.fb) fun hs => by have := hst hs; omega
  have hpow : (0 : ℝ) < 2 ^ ((q.log2 : Int) + e - f.fb) := by positivity
  constructor
  · refine hround.le_of_le ?_
    rw [le_div_iff₀ hpow]
    push_cast
    rw [← zpow_natCast, ← zpow_add₀ (by norm_num)]
    rw [add_sub_cancel]
    exact h.two_pow_le hq
  · refine hround.ge_of_ge ?_
    rw [div_le_iff₀ hpow]
    push_cast
    rw [← zpow_natCast, ← zpow_add₀ (by norm_num)]
    convert h.lt_two_pow.le using 2
    push_cast
    omega

include hf hq h hst in
theorem gridBits_spec : PatRounds f (magMode r s) v (gridBits f r s q e sticky) ∧
    ((roundGrid r s q e sticky (gridExp f q e)).2 = true ↔ v = magReal f (gridBits f r s q e sticky)) ∧
    (gridExp f q e = fmtLow f ∨ 2 ^ f.fb ≤ (roundGrid r s q e sticky (gridExp f q e)).1) ∧
    (roundGrid r s q e sticky (gridExp f q e)).1 ≤ 2 ^ (f.fb + 1) := by
  have hlow : fmtLow f ≤ gridExp f q e := le_max_right _ _
  have htop : (q.log2 : Int) + e - f.fb ≤ gridExp f q e := le_max_left _ _
  obtain ⟨hround, hexact⟩ := roundGrid_spec r s h (g := gridExp f q e) fun hs => by have := hst hs; omega
  have hpow : (0 : ℝ) < 2 ^ gridExp f q e := by positivity
  have hk : fmtLow f + (gridExp f q e - fmtLow f).toNat = gridExp f q e := by omega
  have hbelow : (gridExp f q e - fmtLow f).toNat = 0 ∨ (2 : ℝ) ^ f.fb ≤ v / (2 : ℝ) ^ gridExp f q e := by
    by_cases hg : gridExp f q e = fmtLow f
    · exact .inl (by omega)
    · refine .inr ?_
      have hg : gridExp f q e = (q.log2 : Int) + e - f.fb := (max_choice _ _).resolve_right hg
      rw [le_div_iff₀ hpow, ← zpow_natCast, ← zpow_add₀ (by norm_num), hg]
      rw [add_sub_cancel]
      exact h.two_pow_le hq
  have habove : v / (2 : ℝ) ^ gridExp f q e ≤ 2 ^ (f.fb + 1) := by
    rw [div_le_iff₀ hpow, ← zpow_natCast, ← zpow_add₀ (by norm_num)]
    refine h.lt_two_pow.le.trans (zpow_le_zpow_right₀ (by norm_num) ?_)
    push_cast
    omega
  obtain ⟨hpat, hkn, hn⟩ := hround.patRounds hf hbelow habove
  rw [hk, div_mul_cancel₀ _ hpow.ne'] at hpat
  refine ⟨hpat, ?_, hkn.imp_left fun h => by omega, hn⟩
  rw [hexact, gridBits, magReal_grid f hkn hn, hk]

include hf hq h hst in
/-- R160, overflow: the rounding of a quarter lies two binades lower, unless both lie far below the upper end. -/
theorem inf_le_gridBits_iff : fmtInf f ≤ gridBits f r s q e sticky ↔
    fmtInf f ≤ capMag f (magMode r s) (gridBits f r s q (e - 2) sticky) + 2 * 2 ^ f.fb := by
  obtain ⟨-, -, -, hn⟩ := gridBits_spec hf r s hq h hst
  obtain ⟨-, -, -, hn4⟩ := gridBits_spec hf r s hq (h.scale (-2)) hst
  have h3 := hf.mul_le_inf (k := 7) (by have := hf.fb_pos; omega)
  have hF : 0 < 2 ^ f.fb := by positivity
  have hcap := lt_capMag_iff (f := f) (k := magMode r s) (b := gridBits f r s q (e - 2) sticky) (m := fmtInf f - 2 * 2 ^ f.fb) (by omega)
  rw [pow_succ] at hn hn4
  rw [← sub_eq_add_neg] at hn4
  by_cases hbig : fmtLow f + 2 ≤ (q.log2 : Int) + e - f.fb
  · have hg : gridExp f q e = (q.log2 : Int) + e - f.fb := max_eq_left (by omega)
    have hg4 : gridExp f q (e - 2) = gridExp f q e + -2 := by rw [hg, gridExp, max_eq_left (by omega)]; ring
    have hsame : gridBits f r s q e sticky = gridBits f r s q (e - 2) sticky + 2 * 2 ^ f.fb := by
      rw [gridBits, gridBits, hg4, sub_eq_add_neg e, roundGrid_add]
      rw [show (gridExp f q e - fmtLow f).toNat = (gridExp f q e + -2 - fmtLow f).toNat + 2 by omega, Nat.add_mul]
      ring
    omega
  · have hg4 : gridExp f q (e - 2) = fmtLow f := max_eq_right (by omega)
    have hg : (gridExp f q e - fmtLow f).toNat ≤ 1 := by rw [gridExp]; omega
    have hmul := Nat.mul_le_mul_right (2 ^ f.fb) hg
    have h1 : gridBits f r s q e sticky < fmtInf f := by rw [gridBits]; omega
    have h4 : gridBits f r s q (e - 2) sticky ≤ 2 * 2 ^ f.fb := by
      rw [gridBits, hg4, sub_self, Int.toNat_zero, Nat.zero_mul, Nat.zero_add, ← hg4]
      omega
    omega

end

end Sys2Proof.Machine
end

section
/-! The conditions of a rounded result, and the rounding of the model as R137, R138 and R160 state it. -/

namespace Sys2Proof.Machine

theorem two_pow_mul_lt {n k m F : Nat} (hn : n ≤ 2 * F) (hk : 3 ≤ k) (hm : k * F ≤ m) (hF : 0 < F) : n < m := by
  have := Nat.mul_le_mul_right F hk
  omega

section
variable {f : FFmt} (hf : f.Wide) (r : Rm) (s : Bool) {q : Nat} (hq : q ≠ 0) {e : Int} {sticky : Bool} {v : ℝ} (h : Shows q e sticky v)
  (hst : sticky = true → f.fb < q.log2)
include hf hq h hst

/-- R160, underflow: tiny after rounding, seen where the value is moved up into the normal range. -/
theorem tinyMag_iff : tinyMag f r s q e sticky = true ↔
    capMag f (magMode r s) (gridBits f r s q (e + (f.fb + 2 : Nat)) sticky) < (f.fb + 3) * 2 ^ f.fb := by
  have hF : 0 < 2 ^ f.fb := by positivity
  have hbias := hf.bias
  have hinf : (f.fb + 3) * 2 ^ f.fb < fmtInf f := by
    rw [hf.inf_eq]
    exact Nat.mul_lt_mul_of_pos_right (by omega) hF
  obtain ⟨hmin, hmax⟩ := roundGrid_top r s hq h hst
  rw [lt_capMag_iff hinf]
  obtain ⟨-, -, -, hmax1⟩ := gridBits_spec hf r s hq (h.scale (f.fb + 2 : Nat)) hst
  rw [pow_succ] at hmax hmax1
  simp only [tinyMag, Bool.and_eq_true, decide_eq_true_eq]
  by_cases hlow : (q.log2 : Int) + e + 2 < fmtLow f
  · have hg1 : gridExp f q (e + (f.fb + 2 : Nat)) = fmtLow f := max_eq_right (by push_cast; omega)
    have hbits : gridBits f r s q (e + (f.fb + 2 : Nat)) sticky < (f.fb + 3) * 2 ^ f.fb := by
      rw [gridBits, hg1, sub_self, Int.toNat_zero, Nat.zero_mul, Nat.zero_add, ← hg1]
      exact two_pow_mul_lt (by omega) (Nat.le_add_left 3 f.fb) le_rfl hF
    have hexp : f.fb + 2 ≤ (fmtLow f + f.fb - ((q.log2 : Int) + e - f.fb)).toNat := by omega
    have hpow := Nat.pow_le_pow_right (n := 2) (by decide) hexp
    rw [pow_add] at hpow
    exact iff_of_true ⟨by omega, by omega⟩ hbits
  · obtain ⟨a, ha⟩ : ∃ a : Nat, (q.log2 : Int) + e + 2 = fmtLow f + a := ⟨((q.log2 : Int) + e + 2 - fmtLow f).toNat, by omega⟩
    have hg1 : gridExp f q (e + (f.fb + 2 : Nat)) = ((q.log2 : Int) + e - f.fb) + (f.fb + 2 : Nat) := by
      rw [gridExp, max_eq_left (by push_cast; omega)]
      ring
    have hbits : gridBits f r s q (e + (f.fb + 2 : Nat)) sticky
        = a * 2 ^ f.fb + (roundGrid r s q e sticky ((q.log2 : Int) + e - f.fb)).1 := by
      rw [gridBits, hg1, roundGrid_add]
      congr 2
      push_cast
      omega
    rw [hbits]
    generalize (roundGrid r s q e sticky ((q.log2 : Int) + e - f.fb)).1 = n at hmin hmax
    obtain hhigh | hlast | hsmall : f.fb + 2 ≤ a ∨ a = f.fb + 1 ∨ a ≤ f.fb := by omega
    · refine iff_of_false (fun hc => by omega) ?_
      have := Nat.mul_le_mul_right (2 ^ f.fb) hhigh
      rw [not_lt, show f.fb + 3 = f.fb + 2 + 1 by rfl, Nat.succ_mul]
      omega
    · have hexp : (fmtLow f + f.fb - ((q.log2 : Int) + e - f.fb)).toNat = f.fb + 1 := by omega
      rw [hexp, hlast, show f.fb + 3 = f.fb + 1 + 2 by rfl, Nat.add_mul (f.fb + 1), pow_succ]
      constructor
      · rintro ⟨-, hn⟩
        omega
      · intro hn
        exact ⟨by omega, by omega⟩
    · have hexp : f.fb + 2 ≤ (fmtLow f + f.fb - ((q.log2 : Int) + e - f.fb)).toNat := by omega
      have hpow := Nat.pow_le_pow_right (n := 2) (by decide) hexp
      have hmul : (f.fb + 3) * 2 ^ f.fb = a * 2 ^ f.fb + (f.fb + 3 - a) * 2 ^ f.fb := by rw [← Nat.add_mul]; congr 1; omega
      have hn := two_pow_mul_lt (n := n) (by omega) (by omega : 3 ≤ f.fb + 3 - a) le_rfl hF
      rw [pow_add] at hpow
      exact iff_of_true ⟨by omega, by omega⟩ (by omega)

end

/-- The model's rounding by its cases: beyond the largest finite value, flushed under FTZ, and otherwise. -/
theorem roundMag_eq (f : FFmt) (r : Rm) (ftz s : Bool) {q : Nat} (hq : q ≠ 0) (e : Int) (sticky : Bool) :
    roundMag f r ftz s q e sticky =
      if fmtInf f ≤ gridBits f r s q e sticky then (fmtSign f s + overMag f (magMode r s), { ofl := true, nx := true })
      else if (ftz && (roundGrid r s q e sticky (gridExp f q e)).1 != 0 && (roundGrid r s q e sticky (gridExp f q e)).1 < 2 ^ f.fb &&
        gridExp f q e = fmtLow f) = true then (fmtSign f s, { uf := true, nx := true })
      else (fmtSign f s + gridBits f r s q e sticky, { uf := tinyMag f r s q e sticky && !(roundGrid r s q e sticky (gridExp f q e)).2
                                                       nx := !(roundGrid r s q e sticky (gridExp f q e)).2 }) := by
  unfold roundMag
  rw [if_neg hq]
  have hover : (match r with
      | .rn | .ra => fmtInf f
      | .rz => fmtMax f
      | .rp => if s then fmtMax f else fmtInf f
      | .rm => if s then fmtInf f else fmtMax f) = overMag f (magMode r s) := by cases r <;> cases s <;> rfl
  rw [← hover]
  rfl

/-- A value times a power of two has the same leading digits and the same sign. -/
theorem Shows.scale_rat {q : Nat} {e : Int} {sticky : Bool} {x y : Rat} {s : Bool} (h : Shows q e sticky (abs x : Rat))
    (hs : decide (x < 0) = s) (j : Int) (hy : y = x * (2 : Rat) ^ j) : Shows q (e + j) sticky (abs y : Rat) ∧ decide (y < 0) = s := by
  have hpow : (0 : Rat) < 2 ^ j := by positivity
  subst hy
  refine ⟨?_, hs ▸ decide_eq_decide.2 ⟨fun h => ?_, fun h => mul_neg_of_neg_of_pos h hpow⟩⟩
  · rw [abs_mul, abs_of_pos hpow]
    push_cast
    exact_mod_cast h.scale j
  · exact neg_of_mul_neg_left h hpow.le

theorem signed_eq_iff {s : Bool} {x m : Rat} (hs : decide (x < 0) = s) (hm : 0 ≤ m) : signed s m = x ↔ abs x = m := by
  constructor
  · rintro rfl
    rw [abs_signed, abs_of_nonneg hm]
  · rintro rfl
    rw [← hs, signed_abs]

/-- R137: a magnitude that rounds beyond the format is no finite pattern. -/
theorem overMag_lt_of_patRounds {f : FFmt} {k : MagMode} {v : ℝ} {b : Nat} (h : PatRounds f k v b) (hb : fmtInf f ≤ b)
    (hk : overMag f k < fmtInf f) : magReal f (overMag f k) < v := by
  cases k with
  | down => exact (magReal_strictMono f (hk.trans_le hb)).trans_le h.1
  | _ => exact absurd hk (lt_irrefl _)

/-- R137, R138, R160: the model rounds a magnitude that is not zero, and signals, as the rules say. -/
theorem roundMag_rounded {f : FFmt} (hf : f.Wide) (r : Rm) (ftz : Bool) {s : Bool} {x : Rat} (hs : decide (x < 0) = s) {q : Nat} (hq : q ≠ 0)
    {e : Int} {sticky : Bool} (h : Shows q e sticky (abs x : Rat)) (hst : sticky = true → f.fb < q.log2) (zs : Bool) :
    Rounded f r ftz x zs (roundMag f r ftz s q e sticky).1 (roundMag f r ftz s q e sticky).2 := by
  have hF : 0 < 2 ^ f.fb := by positivity
  have hx : x ≠ 0 := by
    rintro rfl
    have := (h.two_pow_le hq).trans_lt' (by positivity)
    simp at this
  obtain ⟨h1, hs1⟩ := h.scale_rat hs (f.fb + 2 : Nat) (y := x * 2 ^ (f.fb + 2)) (by rw [zpow_natCast])
  obtain ⟨h2, hs2⟩ := h.scale_rat hs (-2) (y := x / 4) (by norm_num [div_eq_mul_inv])
  obtain ⟨hpat, hexact, hnorm, hn⟩ := gridBits_spec hf r s hq h hst
  have hcap (b : Nat) := (capMag_le f (magMode r s) b).trans_lt hf.inf_lt
  rw [Rounded, if_neg hx]
  refine ⟨_, _, _, roundsTo_of_patRounds hf hs hpat, roundsTo_of_patRounds hf hs1 (gridBits_spec hf r s hq h1 hst).1,
    roundsTo_of_patRounds hf hs2 (gridBits_spec hf r s hq h2 hst).1, ?_⟩
  simp only [patMag_sign_add f s (hcap _), patVal_sign_add f s (hcap _), signed_eq_iff hs (magVal_nonneg f _)]
  have hofl := inf_le_gridBits_iff hf r s hq h hst
  rw [sub_eq_add_neg] at hofl
  have hinf := hf.mul_le_inf (k := 3) (by omega)
  have huf : decide (capMag f (magMode r s) (gridBits f r s q (e + (f.fb + 2 : Nat)) sticky) < (f.fb + 3) * 2 ^ f.fb)
      = tinyMag f r s q e sticky := by
    rw [Bool.eq_iff_iff, decide_eq_true_iff]
    exact (tinyMag_iff hf r s hq h hst).symm
  rw [roundMag_eq f r ftz s hq, ← decide_eq_decide.2 hofl, huf]
  by_cases hover : fmtInf f ≤ gridBits f r s q e sticky
  · have hcapEq : capMag f (magMode r s) (gridBits f r s q e sticky) = overMag f (magMode r s) := if_pos hover
    have hmax := fmtMax_le_overMag f (magMode r s)
    rw [fmtMax] at hmax
    have hnx : ¬ (overMag f (magMode r s) < fmtInf f ∧ abs x = magVal f (overMag f (magMode r s))) := by
      rintro ⟨hlt, heq⟩
      have := overMag_lt_of_patRounds hpat hover hlt
      rw [heq] at this
      exact absurd this (lt_irrefl _)
    have htiny : tinyMag f r s q e sticky = false := by
      rw [tinyMag, Bool.and_eq_false_iff]
      refine .inl (decide_eq_false fun hlt => ?_)
      have hg : gridExp f q e = fmtLow f := max_eq_right (by omega)
      rw [gridBits, hg, sub_self, Int.toNat_zero, Nat.zero_mul, Nat.zero_add, ← hg] at hover
      rw [pow_succ] at hn
      omega
    rw [if_pos hover, hcapEq, if_neg (by omega), decide_eq_true hnx, decide_eq_true hover, htiny]
    exact ⟨rfl, rfl⟩
  · have hcapEq : capMag f (magMode r s) (gridBits f r s q e sticky) = gridBits f r s q e sticky := if_neg hover
    have hflush : ((ftz && (roundGrid r s q e sticky (gridExp f q e)).1 != 0 && (roundGrid r s q e sticky (gridExp f q e)).1 < 2 ^ f.fb &&
        gridExp f q e = fmtLow f) = true) ↔ ftz = true ∧ 0 < gridBits f r s q e sticky ∧ gridBits f r s q e sticky < 2 ^ f.fb := by
      simp only [Bool.and_eq_true, decide_eq_true_eq, bne_iff_ne, and_assoc, gridBits]
      rcases hnorm with hg | hnorm
      · rw [hg, sub_self, Int.toNat_zero, Nat.zero_mul, Nat.zero_add]
        simp only [and_true, Nat.pos_iff_ne_zero]
      · refine and_congr_right fun _ => iff_of_false (fun hc => ?_) fun hc => ?_ <;> omega
    have hnx : decide (¬ (gridBits f r s q e sticky < fmtInf f ∧ abs x = magVal f (gridBits f r s q e sticky)))
        = !(roundGrid r s q e sticky (gridExp f q e)).2 := by
      have hcast : abs x = magVal f (gridBits f r s q e sticky) ↔ ((abs x : Rat) : ℝ) = magReal f (gridBits f r s q e sticky) := by
        rw [magReal, Rat.cast_inj]
      rw [Bool.eq_iff_iff, decide_eq_true_iff, Bool.not_eq_true', ← Bool.not_eq_true, hexact, hcast]
      exact not_congr (and_iff_right (not_le.1 hover))
    rw [if_neg hover, hcapEq, decide_eq_false hover, hnx]
    by_cases hfl : ftz = true ∧ 0 < gridBits f r s q e sticky ∧ gridBits f r s q e sticky < 2 ^ f.fb
    · rw [if_pos (hflush.2 hfl), if_pos hfl, hs]
      exact ⟨rfl, rfl⟩
    · rw [if_neg (fun hc => hfl (hflush.1 hc)), if_neg hfl, Bool.and_comm (tinyMag f r s q e sticky)]
      exact ⟨rfl, rfl⟩

end Sys2Proof.Machine
end

section
/-! What the model reads in a pattern, and its exact sums and products (R133, R135, R138, R159). -/

namespace Sys2Proof.Machine

/-! ### Reading a pattern -/

/-- What the model reads in a pattern: a NaN, an infinity, or a multiple of the spacing of a binade. -/
inductive PatView (f : FFmt) (ftz : Bool) (b : Nat) : Fp → Prop
  | nan (hnan : patNaN f b = true) (hinf : patInf f b = false) : PatView f ftz b (.nan (patSig f b))
  | inf (hnan : patNaN f b = false) (hsig : patSig f b = false) (hinf : patInf f b = true) (hread : magRead f ftz b = fmtInf f) :
      PatView f ftz b (.inf (patNeg f b))
  | fin (hnan : patNaN f b = false) (hsig : patSig f b = false) (hinf : patInf f b = false) (k m : Nat)
      (hread : magRead f ftz b = k * 2 ^ f.fb + m) (hk : k = 0 ∨ 2 ^ f.fb ≤ m) (hm : m < 2 ^ (f.fb + 1)) :
      PatView f ftz b (.fin (patNeg f b) m (fmtLow f + k))

theorem two_pow_fb_le_inf {f : FFmt} (hf : f.Wide) : 2 ^ f.fb ≤ fmtInf f := by
  have := hf.mul_le_inf (k := 1) (by omega)
  omega

theorem patView {f : FFmt} (hf : f.Wide) (ftz : Bool) (b : Nat) : PatView f ftz b (fpOf f ftz b) := by
  have hF : 0 < 2 ^ f.fb := by positivity
  have hE : 0 < 2 ^ f.eb := by positivity
  have hlt := patMag_lt f b
  have hex : b / 2 ^ f.fb % 2 ^ f.eb = patMag f b / 2 ^ f.fb := by
    rw [patMag, pow_add, Nat.mul_comm (2 ^ f.eb), Nat.mod_mul_right_div_self]
  have hfr : b % 2 ^ f.fb = patMag f b % 2 ^ f.fb := by
    rw [patMag, pow_add, Nat.mul_comm (2 ^ f.eb), Nat.mod_mul_right_mod]
  have hdiv := Nat.div_add_mod' (patMag f b) (2 ^ f.fb)
  have hrest := Nat.mod_lt (patMag f b) hF
  have hinf := two_pow_fb_le_inf hf
  have hlow : fmtLow f = fmtLow f + (0 : Nat) := (add_zero _).symm
  simp only [fpOf, hex, hfr]
  rw [fmtInf] at hinf
  split
  next hmax =>
    rw [hmax] at hdiv
    split
    next h0 =>
      rw [h0, Nat.add_zero] at hdiv
      have hmag : patMag f b = fmtInf f := hdiv.symm
      have hnan : patNaN f b = false := by rw [patNaN, hmag]; exact decide_eq_false (lt_irrefl _)
      refine .inf hnan (by rw [patSig, hnan]; rfl) (by rw [patInf, hmag]; exact beq_self_eq_true _) ?_
      rw [magRead, hmag, decide_eq_false (not_lt.2 (two_pow_fb_le_inf hf)), Bool.and_false, if_neg Bool.false_ne_true]
    next h0 =>
      have hmag : patMag f b = fmtInf f + patMag f b % 2 ^ f.fb := hdiv.symm
      have hnan : patNaN f b = true := decide_eq_true (by omega)
      have hsig : decide (patMag f b % 2 ^ f.fb < 2 ^ (f.fb - 1)) = patSig f b := by
        rw [patSig, hnan, Bool.true_and]
        exact decide_eq_decide.2 (by omega)
      rw [hsig]
      exact .nan hnan (by rw [patInf]; exact beq_false_of_ne (by omega))
  next hmax =>
    have hfin : patMag f b < fmtInf f := by
      rw [fmtInf, ← Nat.div_lt_iff_lt_mul hF]
      have : patMag f b / 2 ^ f.fb < 2 ^ f.eb := by rwa [Nat.div_lt_iff_lt_mul hF, ← pow_add]
      omega
    have hnan : patNaN f b = false := decide_eq_false (by omega)
    have hsig : patSig f b = false := by rw [patSig, hnan]; rfl
    have hnotinf : patInf f b = false := beq_false_of_ne (by omega)
    split
    next h0 =>
      have hsub : patMag f b < 2 ^ f.fb := (Nat.div_eq_zero_iff_lt hF).1 h0
      rw [Nat.mod_eq_of_lt hsub, hlow]
      refine .fin hnan hsig hnotinf 0 _ ?_ (.inl rfl) ?_
      · rw [magRead, decide_eq_true hsub, Bool.and_true, Nat.zero_mul, Nat.zero_add]
      · rw [pow_succ]
        split <;> omega
    next h0 =>
      obtain ⟨k, hk⟩ := Nat.exists_eq_succ_of_ne_zero h0
      have hnorm : ¬ patMag f b < 2 ^ f.fb := fun h => h0 (Nat.div_eq_of_lt h)
      rw [hk] at hdiv ⊢
      have hexp : fmtLow f + ((Nat.succ k : Nat) : Int) - 1 = fmtLow f + (k : Int) := by push_cast; ring
      rw [hexp]
      refine .fin hnan hsig hnotinf k _ ?_ (.inr (Nat.le_add_left _ _)) ?_
      · rw [magRead, decide_eq_false hnorm, Bool.and_false, if_neg Bool.false_ne_true]
        rw [Nat.succ_mul] at hdiv
        omega
      · rw [pow_succ]
        omega

/-- A magnitude read as zero has no digits. -/
theorem grid_eq_zero_iff {f : FFmt} {k m : Nat} (hk : k = 0 ∨ 2 ^ f.fb ≤ m) : k * 2 ^ f.fb + m = 0 ↔ m = 0 := by
  have : 0 < 2 ^ f.fb := by positivity
  constructor
  · omega
  · rintro rfl
    obtain rfl : k = 0 := hk.resolve_right (by omega)
    rw [Nat.zero_mul]

/-! ### Exact values -/

/-- The exact value of a finite number. -/
def fpRat : Fp → Rat
  | .fin s m e => signed s (m * (2 : Rat) ^ e)
  | _ => 0

/-- The sign of an infinity. -/
def fpInf : Fp → Option Bool
  | .inf s => some s
  | _ => none

/-- Whether a number is a zero. -/
def fpZero : Fp → Bool
  | .fin _ m _ => m == 0
  | _ => false

/-- The value that the model reads is that of the pattern. -/
theorem fpRat_of_grid {f : FFmt} {ftz : Bool} {b k m : Nat} (hread : magRead f ftz b = k * 2 ^ f.fb + m) (hk : k = 0 ∨ 2 ^ f.fb ≤ m)
    (hm : m < 2 ^ (f.fb + 1)) : fpRat (.fin (patNeg f b) m (fmtLow f + k)) = patVal f ftz b := by
  rw [patVal_eq, hread, magVal_grid f hk hm.le, fpRat]

theorem Rounded.of_sign {f : FFmt} {r : Rm} {ftz : Bool} {x : Rat} {zs zs' : Bool} {b : Nat} {c : Conds} (h : Rounded f r ftz x zs b c)
    (hz : x = 0 → zs = zs') : Rounded f r ftz x zs' b c := by
  unfold Rounded at h ⊢
  split
  next h0 => rwa [if_pos h0, hz h0] at h
  next h0 => rwa [if_neg h0] at h

/-- R137: a finite value rounds as the rules say; a zero keeps its sign. -/
theorem roundFp_fin {f : FFmt} (hf : f.Wide) (r : Rm) (ftz s : Bool) (m : Nat) (e : Int) :
    Rounded f r ftz (signed s (m * (2 : Rat) ^ e)) s (roundFp f r ftz (.fin s m e)).1 (roundFp f r ftz (.fin s m e)).2 := by
  by_cases hm : m = 0
  · subst hm
    rw [Rounded, if_pos (by simp)]
    exact ⟨rfl, rfl⟩
  · have hpos : (0 : Rat) < m * 2 ^ e := by
      have : 0 < m := Nat.pos_of_ne_zero hm
      positivity
    refine roundMag_rounded hf r ftz (signed_neg_iff hpos) hm ?_ (fun h => absurd h Bool.false_ne_true) s
    rw [abs_signed, abs_of_pos hpos]
    push_cast
    exact shows_exact m e

theorem fpInt_mul (s : Bool) (m : Nat) {e g : Int} (h : g ≤ e) : (fpInt s m e g : Rat) * (2 : Rat) ^ g = signed s (m * (2 : Rat) ^ e) := by
  have hpow : (2 : Rat) ^ e = 2 ^ (e - g).toNat * 2 ^ g := by
    rw [← zpow_natCast, ← zpow_add₀ (by norm_num), Int.toNat_of_nonneg (by omega), Int.sub_add_cancel]
  rw [fpInt, hpow, ← mul_assoc]
  cases s <;> simp [signed]

/-- R137 item 3: the exact sum, and the sign of an exact zero. -/
theorem finAdd_spec (r : Rm) (s1 : Bool) (m1 : Nat) (e1 : Int) (s2 : Bool) (m2 : Nat) (e2 : Int) :
    ∃ s m e, finAdd r s1 m1 e1 s2 m2 e2 = .fin s m e ∧
      signed s (m * (2 : Rat) ^ e) = signed s1 (m1 * (2 : Rat) ^ e1) + signed s2 (m2 * (2 : Rat) ^ e2) ∧
      (signed s (m * (2 : Rat) ^ e) = 0 → s = if s1 == s2 then s1 else r == .rm) := by
  have hsum := congrArg₂ (· + ·) (fpInt_mul s1 m1 (min_le_left e1 e2)) (fpInt_mul s2 m2 (min_le_right e1 e2))
  simp only [← add_mul] at hsum
  simp only [finAdd]
  generalize hx : fpInt s1 m1 e1 (min e1 e2) + fpInt s2 m2 e2 (min e1 e2) = x
  have hx : ((fpInt s1 m1 e1 (min e1 e2) : Rat) + fpInt s2 m2 e2 (min e1 e2)) = (x : Rat) := by rw [← hx]; push_cast; rfl
  rw [hx] at hsum
  have hpow : (0 : Rat) < 2 ^ min e1 e2 := by positivity
  split
  next h0 =>
    refine ⟨_, _, _, rfl, ?_, fun _ => ?_⟩
    · rw [← hsum, h0]
      simp
    · cases s1 <;> cases s2 <;> rfl
  next h0 =>
    have hval : signed (decide (x < 0)) ((x.natAbs : Rat) * 2 ^ min e1 e2) = x * 2 ^ min e1 e2 := by
      rw [Nat.cast_natAbs, Int.cast_abs]
      by_cases hneg : x < 0
      · rw [decide_eq_true hneg, abs_of_neg (by exact_mod_cast hneg)]
        simp [signed]
      · rw [decide_eq_false hneg, abs_of_nonneg (by exact_mod_cast not_lt.1 hneg)]
        rfl
    refine ⟨_, _, _, rfl, hval.trans hsum, fun hz => ?_⟩
    rw [hval] at hz
    exact absurd ((mul_eq_zero.1 hz).resolve_right hpow.ne') (by exact_mod_cast h0)

/-! ### Sums and products -/

/-- R135, R137: the model rounds a number and adds the invalid condition. -/
theorem finish_rule {f : FFmt} (hf : f.Wide) (r : Rm) (ftz : Bool) (v : Fp) (inv : Bool) (hinv : inv = true → fpNaN v = true) :
    FloatRule f r ftz (fpNaN v) (fpSig v || inv) (fpInf v) (fpRat v) (fpSign v) (finish f r ftz (v, inv)).1 (finish f r ftz (v, inv)).2 := by
  have hvalid (h : fpNaN v = false) : inv = false := by
    cases hi : inv
    · rfl
    · exact absurd ((hinv hi).symm.trans h) Bool.true_eq_false.mp
  cases v with
  | nan sig => exact ⟨rfl, rfl⟩
  | inf s => obtain rfl := hvalid rfl; exact ⟨rfl, rfl⟩
  | fin s m e =>
    obtain rfl := hvalid rfl
    have hfinish : finish f r ftz (.fin s m e, false) = roundFp f r ftz (.fin s m e) := by simp only [finish, Bool.or_false]
    rw [hfinish]
    exact roundFp_fin hf r ftz s m e

/-- The parts of a result that a NaN or an infinity hides do not matter. -/
theorem FloatRule.congr {f : FFmt} {r : Rm} {ftz nan nan' nv nv' : Bool} {inf inf' : Option Bool} {x x' : Rat} {zs zs' : Bool} {b : Nat}
    {c : Conds} (h : FloatRule f r ftz nan nv inf x zs b c) (hnan : nan = nan') (hnv : nan = true → nv = nv')
    (hinf : nan = false → inf = inf') (hx : nan = false → inf = none → x = x' ∧ (x = 0 → zs = zs')) :
    FloatRule f r ftz nan' nv' inf' x' zs' b c := by
  subst hnan
  cases nan with
  | true => obtain rfl := hnv rfl; exact h
  | false =>
    obtain rfl := hinf rfl
    cases inf with
    | some s => exact h
    | none =>
      obtain ⟨rfl, hz⟩ := hx rfl rfl
      exact Rounded.of_sign h hz

/-- Two infinities of opposite signs. -/
def infClash : Fp → Fp → Bool
  | .inf s, .inf t => s != t
  | _, _ => false

/-- R159: the model's exact sum. -/
theorem fpAdd_spec (r : Rm) (a b : Fp) :
    fpNaN (fpAdd r a b).1 = (fpNaN a || fpNaN b || infClash a b) ∧ fpSig (fpAdd r a b).1 = false ∧
    (fpAdd r a b).2 = (fpSig a || fpSig b || infClash a b) ∧
    (fpNaN (fpAdd r a b).1 = false → fpInf (fpAdd r a b).1 = (fpInf a).or (fpInf b) ∧
      (fpInf (fpAdd r a b).1 = none → fpRat (fpAdd r a b).1 = fpRat a + fpRat b ∧
        (fpRat (fpAdd r a b).1 = 0 → fpSign (fpAdd r a b).1 = if fpSign a == fpSign b then fpSign a else r == .rm))) := by
  cases a with
  | nan x => cases b <;> simp [fpAdd, fpNaN, fpSig, infClash]
  | inf s =>
    cases b with
    | nan y => simp [fpAdd, fpNaN, fpSig, infClash]
    | inf t => cases s <;> cases t <;> simp [fpAdd, fpNaN, fpSig, infClash, fpInf]
    | fin t m e => simp [fpAdd, fpNaN, fpSig, infClash, fpInf]
  | fin s m e =>
    cases b with
    | nan y => simp [fpAdd, fpNaN, fpSig, infClash]
    | inf t => simp [fpAdd, fpNaN, fpSig, infClash, fpInf]
    | fin t n k =>
      obtain ⟨s', m', e', hadd, hval, hsign⟩ := finAdd_spec r s m e t n k
      rw [fpAdd, hadd]
      exact ⟨rfl, rfl, rfl, fun _ => ⟨rfl, fun _ => ⟨hval, hsign⟩⟩⟩

/-- An invalid condition of an operand is one of a NaN. -/
theorem fpNaN_of_fpSig {v : Fp} (h : fpSig v = true) : fpNaN v = true := by
  cases v with
  | nan x => rfl
  | _ => exact absurd h Bool.false_ne_true

/-- R135: an invalid sum is a NaN. -/
theorem fpNaN_fpAdd_of_invalid {r : Rm} {a b : Fp} (h : (fpAdd r a b).2 = true) : fpNaN (fpAdd r a b).1 = true := by
  obtain ⟨hnan, -, hinv, -⟩ := fpAdd_spec r a b
  simp only [hinv, Bool.or_eq_true] at h
  simp only [hnan, Bool.or_eq_true]
  exact h.imp_left (Or.imp fpNaN_of_fpSig fpNaN_of_fpSig)

/-- A product of zero and infinity. -/
def mulClash : Fp → Fp → Bool
  | .inf _, .fin _ m _ => m == 0
  | .fin _ m _, .inf _ => m == 0
  | _, _ => false

/-- R159: the model's exact product. -/
theorem fpMul_spec (a b : Fp) :
    fpNaN (fpMul a b).1 = (fpNaN a || fpNaN b || mulClash a b) ∧ fpSig (fpMul a b).1 = false ∧
    (fpMul a b).2 = (fpSig a || fpSig b || mulClash a b) ∧
    (fpNaN (fpMul a b).1 = false → fpInf (fpMul a b).1 = (if (fpInf a).isSome || (fpInf b).isSome then some (fpSign a != fpSign b) else none) ∧
      (fpInf (fpMul a b).1 = none → fpRat (fpMul a b).1 = fpRat a * fpRat b ∧ fpSign (fpMul a b).1 = (fpSign a != fpSign b))) := by
  cases a with
  | nan x => cases b <;> simp [fpMul, fpNaN, fpSig, mulClash]
  | inf s =>
    cases b with
    | nan y => simp [fpMul, fpNaN, fpSig, mulClash]
    | inf t => simp [fpMul, fpNaN, fpSig, mulClash, fpInf, fpSign]
    | fin t m e => by_cases hm : m = 0 <;> simp [fpMul, fpNaN, fpSig, mulClash, fpInf, fpSign, hm]
  | fin s m e =>
    cases b with
    | nan y => simp [fpMul, fpNaN, fpSig, mulClash]
    | inf t => by_cases hm : m = 0 <;> simp [fpMul, fpNaN, fpSig, mulClash, fpInf, fpSign, hm]
    | fin t n k =>
      refine ⟨rfl, rfl, rfl, fun _ => ⟨rfl, fun _ => ⟨?_, rfl⟩⟩⟩
      rw [fpMul, fpRat, fpRat, fpRat, signed_mul_signed, Nat.cast_mul, zpow_add₀ (by norm_num)]
      congr 1
      ring

/-- R135: an invalid product is a NaN. -/
theorem fpNaN_fpMul_of_invalid {a b : Fp} (h : (fpMul a b).2 = true) : fpNaN (fpMul a b).1 = true := by
  obtain ⟨hnan, -, hinv, -⟩ := fpMul_spec a b
  simp only [hinv, Bool.or_eq_true] at h
  simp only [hnan, Bool.or_eq_true]
  exact h.imp_left (Or.imp fpNaN_of_fpSig fpNaN_of_fpSig)

end Sys2Proof.Machine
end

section
/-! FADD, FSUB, FMUL, FMA and FMS round the exact result once (R159 to R161). -/

namespace Sys2Proof.Machine

/-! ### A number and the pattern it was read from -/

/-- What a number keeps of the pattern `b`. -/
structure ReadFrom (f : FFmt) (ftz : Bool) (b : Nat) (v : Fp) : Prop where
  nan : fpNaN v = patNaN f b
  sig : fpSig v = patSig f b
  inf : fpInf v = if patInf f b then some (patNeg f b) else none
  zero : fpZero v = (magRead f ftz b == 0)
  val : patNaN f b = false → patInf f b = false → fpRat v = patVal f ftz b
  sign : patNaN f b = false → fpSign v = patNeg f b

theorem FFmt.Wide.magRead_ne_zero {f : FFmt} (hf : f.Wide) (ftz : Bool) {b : Nat} (h : fmtInf f ≤ patMag f b) : magRead f ftz b ≠ 0 := by
  have := two_pow_fb_le_inf hf
  have := hf.inf_pos
  rw [magRead, decide_eq_false (by omega), Bool.and_false, if_neg Bool.false_ne_true]
  omega

theorem PatView.readFrom {f : FFmt} (hf : f.Wide) {ftz : Bool} {b : Nat} {v : Fp} (h : PatView f ftz b v) : ReadFrom f ftz b v := by
  cases h with
  | nan hnan hinf =>
    exact ⟨hnan.symm, rfl, by rw [hinf]; rfl, (beq_false_of_ne (hf.magRead_ne_zero ftz (of_decide_eq_true hnan).le)).symm,
      fun h => absurd (h.symm.trans hnan) Bool.false_ne_true, fun h => absurd (h.symm.trans hnan) Bool.false_ne_true⟩
  | inf hnan hsig hinf hread =>
    exact ⟨hnan.symm, hsig.symm, by rw [hinf]; rfl, by rw [hread, beq_false_of_ne hf.inf_pos.ne']; rfl,
      fun _ h => absurd (h.symm.trans hinf) Bool.false_ne_true, fun _ => rfl⟩
  | fin hnan hsig hinf k m hread hk hm =>
    refine ⟨hnan.symm, hsig.symm, by rw [hinf]; rfl, ?_, fun _ _ => fpRat_of_grid hread hk hm, fun _ => rfl⟩
    rw [fpZero, Bool.eq_iff_iff, beq_iff_eq, beq_iff_eq, hread, grid_eq_zero_iff hk]

theorem readFrom_fpOf {f : FFmt} (hf : f.Wide) (ftz : Bool) (b : Nat) : ReadFrom f ftz b (fpOf f ftz b) := (patView hf ftz b).readFrom hf

/-- A number that is no infinity is read from a pattern that is none. -/
theorem ReadFrom.inf_false {f : FFmt} {ftz : Bool} {b : Nat} {v : Fp} (h : ReadFrom f ftz b v) (hv : fpInf v = none) : patInf f b = false := by
  rw [h.inf] at hv
  cases hi : patInf f b
  · rfl
  · rw [hi] at hv; cases hv

/-- The pattern with the other sign. -/
def patFlip (f : FFmt) (b : Nat) : Nat := if patNeg f b then patMag f b else fmtSign f true + patMag f b

theorem patFlip_eq (f : FFmt) (b : Nat) : patFlip f b = fmtSign f (!patNeg f b) + patMag f b := by
  rw [patFlip]
  cases patNeg f b
  · rfl
  · exact (Nat.zero_add _).symm

theorem patMag_patFlip (f : FFmt) (b : Nat) : patMag f (patFlip f b) = patMag f b := by
  rw [patFlip_eq, patMag_sign_add f _ (patMag_lt f b)]

theorem patNeg_patFlip (f : FFmt) (b : Nat) : patNeg f (patFlip f b) = !patNeg f b := by
  rw [patFlip_eq, patNeg_sign_add f _ (patMag_lt f b)]

theorem patNaN_patFlip (f : FFmt) (b : Nat) : patNaN f (patFlip f b) = patNaN f b := by rw [patNaN, patNaN, patMag_patFlip]
theorem patSig_patFlip (f : FFmt) (b : Nat) : patSig f (patFlip f b) = patSig f b := by
  rw [patSig, patSig, patNaN_patFlip, patMag_patFlip]
theorem patInf_patFlip (f : FFmt) (b : Nat) : patInf f (patFlip f b) = patInf f b := by rw [patInf, patInf, patMag_patFlip]
theorem magRead_patFlip (f : FFmt) (ftz : Bool) (b : Nat) : magRead f ftz (patFlip f b) = magRead f ftz b := by
  rw [magRead, magRead, patMag_patFlip]
theorem patVal_patFlip (f : FFmt) (ftz : Bool) (b : Nat) : patVal f ftz (patFlip f b) = -patVal f ftz b := by
  rw [patVal_eq, patVal_eq, patNeg_patFlip, magRead_patFlip, signed_not]

theorem ReadFrom.neg {f : FFmt} {ftz : Bool} {b : Nat} {v : Fp} (h : ReadFrom f ftz b v) : ReadFrom f ftz (patFlip f b) (fpNeg v) := by
  constructor
  · rw [patNaN_patFlip, ← h.nan]; cases v <;> rfl
  · rw [patSig_patFlip, ← h.sig]; cases v <;> rfl
  · have hmap : fpInf (fpNeg v) = (fpInf v).map (!·) := by cases v <;> rfl
    rw [patInf_patFlip, patNeg_patFlip, hmap, h.inf]
    split <;> rfl
  · rw [magRead_patFlip, ← h.zero]; cases v <;> rfl
  · intro h1 h2
    rw [patNaN_patFlip] at h1
    rw [patInf_patFlip] at h2
    have hneg : fpRat (fpNeg v) = -fpRat v := by cases v <;> simp [fpRat, fpNeg, signed_not]
    rw [hneg, h.val h1 h2, patVal_patFlip]
  · intro h1
    rw [patNaN_patFlip] at h1
    rw [patNeg_patFlip, ← h.sign h1]
    cases v with
    | nan x => exact absurd (h.nan.trans h1) (Bool.noConfusion)
    | _ => rfl

/-- The addend of FMA, or its opposite for FMS. -/
def patAddend (f : FFmt) (neg : Bool) (b : Nat) : Nat := if neg then patFlip f b else b
def fpAddend (neg : Bool) (v : Fp) : Fp := if neg then fpNeg v else v

theorem ReadFrom.addend {f : FFmt} {ftz : Bool} {b : Nat} {v : Fp} (h : ReadFrom f ftz b v) (neg : Bool) :
    ReadFrom f ftz (patAddend f neg b) (fpAddend neg v) := by
  cases neg
  · exact h
  · exact h.neg

theorem patAddend_spec (f : FFmt) (ftz neg : Bool) (b : Nat) : patNaN f (patAddend f neg b) = patNaN f b ∧
    patSig f (patAddend f neg b) = patSig f b ∧ patInf f (patAddend f neg b) = patInf f b ∧
    patNeg f (patAddend f neg b) = (patNeg f b != neg) ∧
    patVal f ftz (patAddend f neg b) = if neg then -patVal f ftz b else patVal f ftz b := by
  cases neg
  · exact ⟨rfl, rfl, rfl, (Bool.xor_false _).symm, rfl⟩
  · exact ⟨patNaN_patFlip .., patSig_patFlip .., patInf_patFlip .., (patNeg_patFlip ..).trans (Bool.xor_true _).symm, patVal_patFlip ..⟩

theorem patNaN_of_patSig {f : FFmt} {b : Nat} (h : patNaN f b = false) : patSig f b = false := by rw [patSig, h]; rfl

theorem infClash_eq (a b : Fp) : infClash a b = (match fpInf a, fpInf b with
    | some s, some t => s != t
    | _, _ => false) := by cases a <;> cases b <;> rfl

theorem mulClash_eq (a b : Fp) : mulClash a b = ((fpInf a).isSome && fpZero b || (fpZero a && (fpInf b).isSome)) := by
  cases a <;> cases b <;> simp [mulClash, fpInf, fpZero]

theorem ReadFrom.mulClash {f : FFmt} {ftz : Bool} {x y : Nat} {a b : Fp} (hx : ReadFrom f ftz x a) (hy : ReadFrom f ftz y b) :
    mulClash a b = mulBad f ftz x y := by
  rw [mulClash_eq, hx.inf, hy.inf, hx.zero, hy.zero, mulBad]
  cases patInf f x <;> cases patInf f y <;> rfl

/-! ### The rules of R159 -/

section
variable {f : FFmt} (hf : f.Wide) (r : Rm) (ftz : Bool)
include hf

theorem floatSum_of_readFrom {x y : Nat} {a b : Fp} (hx : ReadFrom f ftz x a) (hy : ReadFrom f ftz y b) :
    FloatSum f r ftz x y (finish f r ftz (fpAdd r a b)).1 (finish f r ftz (fpAdd r a b)).2 := by
  obtain ⟨hnan, hsig, hinv, hnum⟩ := fpAdd_spec r a b
  have hclash : infClash a b = (patInf f x && patInf f y && patNeg f x != patNeg f y) := by
    rw [infClash_eq, hx.inf, hy.inf]
    cases patInf f x <;> cases patInf f y <;> rfl
  have hinf : (fpInf a).or (fpInf b) = if patInf f x then some (patNeg f x) else if patInf f y then some (patNeg f y) else none := by
    rw [hx.inf, hy.inf]
    cases patInf f x <;> rfl
  refine (finish_rule hf r ftz _ _ fpNaN_fpAdd_of_invalid).congr (by rw [hnan, hx.nan, hy.nan, hclash])
    (fun _ => by rw [hsig, hinv, hx.sig, hy.sig, hclash, Bool.false_or]) (fun h => (hnum h).1.trans hinf) fun h hfin => ?_
  obtain ⟨hor, hval⟩ := hnum h
  obtain ⟨hrat, hsign⟩ := hval hfin
  rw [hor, Option.or_eq_none_iff] at hfin
  rw [hnan, Bool.or_eq_false_iff, Bool.or_eq_false_iff, hx.nan, hy.nan] at h
  obtain ⟨⟨hnx, hny⟩, -⟩ := h
  rw [← hx.val hnx (hx.inf_false hfin.1), ← hy.val hny (hy.inf_false hfin.2), ← hx.sign hnx, ← hy.sign hny]
  exact ⟨hrat, hsign⟩

theorem fAdd_rule (x y : Nat) : FloatSum f r ftz x y (fAdd f r ftz x y).1 (fAdd f r ftz x y).2 :=
  floatSum_of_readFrom hf r ftz (readFrom_fpOf hf ftz x) (readFrom_fpOf hf ftz y)

theorem fSub_rule (x y : Nat) : FloatSum f r ftz x (patFlip f y) (fSub f r ftz x y).1 (fSub f r ftz x y).2 :=
  floatSum_of_readFrom hf r ftz (readFrom_fpOf hf ftz x) (readFrom_fpOf hf ftz y).neg

theorem fMul_rule (x y : Nat) : FloatProduct f r ftz x y (fMul f r ftz x y).1 (fMul f r ftz x y).2 := by
  have hx := readFrom_fpOf hf ftz x
  have hy := readFrom_fpOf hf ftz y
  obtain ⟨hnan, hsig, hinv, hnum⟩ := fpMul_spec (fpOf f ftz x) (fpOf f ftz y)
  have hclash := hx.mulClash hy
  have hsigns (h : fpNaN (fpMul (fpOf f ftz x) (fpOf f ftz y)).1 = false) : patNaN f x = false ∧ patNaN f y = false := by
    rw [hnan, Bool.or_eq_false_iff, Bool.or_eq_false_iff, hx.nan, hy.nan] at h
    exact h.1
  refine (finish_rule hf r ftz _ _ fpNaN_fpMul_of_invalid).congr (by rw [hnan, hx.nan, hy.nan, hclash])
    (fun _ => by rw [hsig, hinv, hx.sig, hy.sig, hclash, Bool.false_or]) (fun h => ?_) fun h hfin => ?_
  · obtain ⟨hnx, hny⟩ := hsigns h
    rw [(hnum h).1, hx.inf, hy.inf, hx.sign hnx, hy.sign hny]
    cases patInf f x <;> cases patInf f y <;> rfl
  · obtain ⟨hnx, hny⟩ := hsigns h
    obtain ⟨hor, hval⟩ := hnum h
    obtain ⟨hrat, hsign⟩ := hval hfin
    rw [hor] at hfin
    have hnone : fpInf (fpOf f ftz x) = none ∧ fpInf (fpOf f ftz y) = none := by
      cases hi : fpInf (fpOf f ftz x) <;> cases hj : fpInf (fpOf f ftz y) <;> simp [hi, hj] at hfin ⊢
    rw [← hx.val hnx (hx.inf_false hnone.1), ← hy.val hny (hy.inf_false hnone.2), ← hx.sign hnx, ← hy.sign hny]
    exact ⟨hrat, fun _ => hsign⟩

/-- R161: the exact product, then the exact sum with the addend or its opposite, then one rounding. -/
theorem fFma_rule (neg : Bool) (x y z : Nat) : FloatFused f r ftz neg x y z (fFma f r ftz neg x y z).1 (fFma f r ftz neg x y z).2 := by
  have hx := readFrom_fpOf hf ftz x
  have hy := readFrom_fpOf hf ftz y
  have hz := (readFrom_fpOf hf ftz z).addend neg
  obtain ⟨hznan, hzsig, hzinf, hzneg, hzval⟩ := patAddend_spec f ftz neg z
  have hmodel : fFma f r ftz neg x y z = finish f r ftz ((fpAdd r (fpMul (fpOf f ftz x) (fpOf f ftz y)).1 (fpAddend neg (fpOf f ftz z))).1,
      (fpAdd r (fpMul (fpOf f ftz x) (fpOf f ftz y)).1 (fpAddend neg (fpOf f ftz z))).2 || (fpMul (fpOf f ftz x) (fpOf f ftz y)).2) := rfl
  rw [hmodel]
  obtain ⟨hpnan, hpsig, hpinv, hpnum⟩ := fpMul_spec (fpOf f ftz x) (fpOf f ftz y)
  have hpbad := fpNaN_fpMul_of_invalid (a := fpOf f ftz x) (b := fpOf f ftz y)
  generalize (fpMul (fpOf f ftz x) (fpOf f ftz y)).2 = inv at *
  generalize (fpMul (fpOf f ftz x) (fpOf f ftz y)).1 = p at *
  generalize fpAddend neg (fpOf f ftz z) = c at *
  rw [hx.nan, hy.nan, hx.mulClash hy] at hpnan
  rw [hx.sig, hy.sig, hx.mulClash hy] at hpinv
  obtain ⟨hnan, hsig, hinv, hnum⟩ := fpAdd_spec r p c
  rw [hz.nan, hznan] at hnan
  rw [hpsig, hz.sig, hzsig, Bool.false_or] at hinv
  have hinvalid : ((fpAdd r p c).2 || inv) = true → fpNaN (fpAdd r p c).1 = true := by
    rw [Bool.or_eq_true]
    rintro (h | h)
    · exact fpNaN_fpAdd_of_invalid h
    · rw [hnan, hpbad h]
      rfl
  have hrule := finish_rule hf r ftz _ _ hinvalid
  cases hp : fpNaN p with
  | true =>
    have hclash : infClash p c = false := by
      cases p with
      | nan _ => rfl
      | _ => exact absurd hp Bool.false_ne_true
    have hsum : fpNaN (fpAdd r p c).1 = true := by rw [hnan, hp]; rfl
    rw [hp, eq_comm, Bool.or_eq_true, Bool.or_eq_true, or_assoc] at hpnan
    refine hrule.congr ?_ (fun _ => ?_) (fun h => absurd (hsum.symm.trans h) Bool.true_eq_false.mp)
      fun h => absurd (hsum.symm.trans h) Bool.true_eq_false.mp
    · rw [hsum]
      rcases hpnan with h | h | h <;> simp [h]
    · have hperm : ∀ a b c d : Bool, (false || (c || false || (a || b || d))) = (a || b || c || d) := by decide
      rw [hsig, hinv, hpinv, hclash, hperm]
      rcases hpnan with h | h | h <;> simp [h]
  | false =>
    rw [hp, eq_comm, Bool.or_eq_false_iff, Bool.or_eq_false_iff] at hpnan
    obtain ⟨⟨hnx, hny⟩, hbad⟩ := hpnan
    obtain ⟨hpinf, hpval⟩ := hpnum hp
    rw [hx.inf, hy.inf, hx.sign hnx, hy.sign hny] at hpinf
    rw [hx.sign hnx, hy.sign hny] at hpval
    have hbig : fpInf p = if patInf f x || patInf f y then some (patNeg f x != patNeg f y) else none := by
      rw [hpinf]
      cases patInf f x <;> cases patInf f y <;> rfl
    have hcinf : fpInf c = if patInf f z then some (patNeg f z != neg) else none := by rw [hz.inf, hzinf, hzneg]
    have hclash : infClash p c = ((patInf f x || patInf f y) && patInf f z && (patNeg f x != patNeg f y) != (patNeg f z != neg)) := by
      rw [infClash_eq, hbig, hcinf]
      cases (patInf f x || patInf f y) <;> cases patInf f z <;> rfl
    refine hrule.congr ?_ (fun _ => ?_) (fun h => ?_) fun h hfin => ?_
    · rw [hnan, hp, hclash, hnx, hny, hbad]
      rfl
    · rw [hsig, hinv, hpinv, hclash, hbad, patNaN_of_patSig hnx, patNaN_of_patSig hny, hnx, hny]
      simp only [Bool.false_or, Bool.or_false, Bool.not_false, Bool.true_and]
    · rw [(hnum h).1, hbig, hcinf, hnx, hny]
      cases (patInf f x || patInf f y) <;> rfl
    · obtain ⟨hor, hval⟩ := hnum h
      obtain ⟨hrat, hsign⟩ := hval hfin
      rw [hor, Option.or_eq_none_iff] at hfin
      obtain ⟨hpfin, hcfin⟩ := hfin
      obtain ⟨hprat, hpsign⟩ := hpval hpfin
      rw [hnan, hp, Bool.or_eq_false_iff, Bool.false_or] at h
      obtain ⟨hnz, -⟩ := h
      have hxy : patInf f x = false ∧ patInf f y = false := by
        rw [hbig] at hpfin
        cases hix : patInf f x <;> cases hiy : patInf f y <;> simp [hix, hiy] at hpfin ⊢
      rw [← hx.val hnx hxy.1, ← hy.val hny hxy.2, ← hprat, ← hzval, ← hz.val (hznan.trans hnz) (hz.inf_false hcfin), ← hpsign, ← hzneg,
        ← hz.sign (hznan.trans hnz)]
      exact ⟨hrat, hsign⟩

end

end Sys2Proof.Machine
end

section
/-! The floating-point words: element by element, with their conditions (R159 to R161). -/

namespace Sys2Proof.Machine

/-! ### Words that signal conditions -/

/-- R160: without ARITHEN no lane traps. -/
theorem arithTraps_of_noArith {s : State} {w : Nat} (h : NoArith s w) (m : Lanes) (cond : Nat → Conds) :
    arithTraps (getWarp s w) m cond = [] := if_neg (by rw [h]; exact Bool.false_ne_true)

/-- The elements of a result together, and their conditions together. -/
def packed (wd es : Nat) (R : Nat → Nat × Conds) : Nat × Conds :=
  (((List.range es).map fun e => (R e).1 * 2 ^ (wd * e)).sum, ((List.range es).map fun e => (R e).2).foldl condsOr {})

theorem condsOr_none (c : Conds) : condsOr {} c = c := rfl

theorem packed_one (wd : Nat) (R : Nat → Nat × Conds) : packed wd 1 R = R 0 := by
  simp [packed, condsOr_none, List.range_succ]

theorem packed_two (wd : Nat) (R : Nat → Nat × Conds) : packed wd 2 R = ((R 0).1 + 2 ^ wd * (R 1).1, condsOr (R 0).2 (R 1).2) := by
  simp [packed, condsOr_none, List.range_succ, Nat.mul_comm]

/-- A floating-point word whose model packs the elements `R` is described by what holds of them. -/
theorem floatWord_of_packed {s : State} {c : Ctl} {w : Nat} {set act : Lanes} {srcs : List Opd} {d : Opd} {i : Instr} {k lat es wd : Nat}
    {g : State → Warp → Issue → Nat → Nat × Conds} (hi : exec i s = floatWord s c srcs d k lat g) (h : Issues s c w set act)
    (hf : StreamsFit s w set act srcs (some d)) (ha : NoArith s w) (R : Nat → Nat → Nat × Conds)
    (hg : ∀ u, g (advance s w set) (getWarp (advance s w set) w) (issueAt s w set act) u = packed wd es (R u))
    {P : Nat → Nat → Nat → Conds → Prop} (hP : ∀ u e, e < es → P u e (R u e).1 (R u e).2) :
    FloatWord s w set act srcs lat d k es wd i P := by
  refine ⟨R, ?_, hP⟩
  rw [hi, floatWord_next k lat g h hf (arithTraps_of_noArith ha _ _)]
  simp only [hg]
  rfl

/-! ### Elements -/

theorem elemBits_zero (ty : Ty) (v : Nat) : elemBits ty v 0 = v % 2 ^ fmtWidth (fmtOf ty) := by
  rw [elemBits, Nat.mul_zero, pow_zero, Nat.div_one]

theorem elemCount_of_isFloat {ty : Ty} (h : ty.isFloat = true) : elemCount ty = 1 := by
  cases ty with
  | f32 | f64 | bf16 | f16 => rfl
  | _ => cases h

theorem elems2_eq_packed {ty : Ty} (hty : ty.isFloatOrPair = true) (op : Nat → Nat → Nat × Conds) (a b : Nat) :
    elems2 ty op a b = packed (fmtWidth (fmtOf ty)) (elemCount ty) fun e => op (elemBits ty a e) (elemBits ty b e) := by
  cases ty with
  | bf16x2 =>
    rw [show elemCount .bf16x2 = 2 from rfl, packed_two]
    simp only [elemBits_zero]
    rfl
  | f32 | f64 | bf16 | f16 =>
    rw [elemCount_of_isFloat rfl, packed_one]
    simp only [elemBits_zero]
    rfl
  | _ => cases hty

theorem elems3_eq_packed {ty : Ty} (hty : ty.isFloatOrPair = true) (op : Nat → Nat → Nat → Nat × Conds) (a b d : Nat) :
    elems3 ty op a b d =
      packed (fmtWidth (fmtOf ty)) (elemCount ty) fun e => op (elemBits ty a e) (elemBits ty b e) (elemBits ty d e) := by
  cases ty with
  | bf16x2 =>
    rw [show elemCount .bf16x2 = 2 from rfl, packed_two]
    simp only [elemBits_zero]
    rfl
  | f32 | f64 | bf16 | f16 =>
    rw [elemCount_of_isFloat rfl, packed_one]
    simp only [elemBits_zero]
    rfl
  | _ => cases hty

theorem floatLat_eq (ty : Ty) : floatLat ty = if ty = .f64 then 8 else 4 := by cases ty <;> rfl

/-- STATUS.FTZ of the warp. -/
def ftzAt (s : State) (w : Nat) : Bool := (getWarp s w).status.getLsbD 0

theorem ftzOf_advance (s : State) (w : Nat) (set : Lanes) : ftzOf (getWarp (advance s w set) w) = ftzAt s w := by
  rw [ftzOf, getWarp_advance_status]
  rfl

section
variable {s : State} {c : Ctl} {w : Nat} {set act : Lanes} {ty : Ty} {d a b : Opd} (h : Issues s c w set act)
  (hf : StreamsFit s w set act [a, b] (some d)) (ha : NoArith s w) (hty : ty.isFloatOrPair = true)
include h hf ha hty

theorem float2_word {i : Instr} {op : Bool → Nat → Nat → Nat × Conds} (hi : exec i s = float2 s c ty d a b op)
    {P : Nat → Nat → Nat → Conds → Prop}
    (hP : ∀ u e, P u e (op (ftzAt s w) (elemBits ty (reads s w a ty.regs u) e) (elemBits ty (reads s w b ty.regs u) e)).1
      (op (ftzAt s w) (elemBits ty (reads s w a ty.regs u) e) (elemBits ty (reads s w b ty.regs u) e)).2) :
    FloatWord s w set act [a, b] (if ty = .f64 then 8 else 4) d ty.regs (elemCount ty) (fmtWidth (fmtOf ty)) i P := by
  rw [← floatLat_eq]
  exact floatWord_of_packed (hi.trans rfl) h hf ha _ (fun u => by
    simp only [issueAt_w, srcVal_advance, ftzOf_advance]
    exact elems2_eq_packed hty _ _ _) fun u e _ => hP u e

theorem float3_word {i : Instr} {op : Bool → Nat → Nat → Nat → Nat × Conds} (hi : exec i s = float3 s c ty d a b op)
    {P : Nat → Nat → Nat → Conds → Prop}
    (hP : ∀ u e, P u e
      (op (ftzAt s w) (elemBits ty (reads s w a ty.regs u) e) (elemBits ty (reads s w b ty.regs u) e) (elemBits ty (reads s w d ty.regs u) e)).1
      (op (ftzAt s w) (elemBits ty (reads s w a ty.regs u) e) (elemBits ty (reads s w b ty.regs u) e) (elemBits ty (reads s w d ty.regs u) e)).2) :
    FloatWord s w set act [a, b] (if ty = .f64 then 8 else 4) d ty.regs (elemCount ty) (fmtWidth (fmtOf ty)) i P := by
  rw [← floatLat_eq]
  exact floatWord_of_packed (hi.trans rfl) h hf ha _ (fun u => by
    simp only [issueAt_w, srcVal_advance, ftzOf_advance]
    exact elems3_eq_packed hty _ _ _ _) fun u e _ => hP u e

end

/-! ### The arms of R159 -/

section
variable (c : Ctl) (ty : Ty) (r : Rm) (d a b : Opd) (s : State)

theorem exec_fsub : exec (.fsub c ty r d a b) s = execFsub c ty r d a b s := rfl
theorem exec_fmul : exec (.fmul c ty r d a b) s = execFmul c ty r d a b s := rfl
theorem exec_fma : exec (.fma c ty r d a b) s = execFma c ty r d a b s := rfl
theorem exec_fms : exec (.fms c ty r d a b) s = execFms c ty r d a b s := rfl

end

end Sys2Proof.Machine

open Sys2Proof Sys2Proof.Machine

/-- Settles O9: each element is the rounding of the exact sum, product or sum of a product, by the rules of the model's exact numbers. -/
theorem floatArithmeticRoundsOnce : Obligations.FloatArithmeticRoundsOnce := by
  unfold Obligations.FloatArithmeticRoundsOnce
  intro s c w set act ty r d a b h hf ha hty
  have hwide := wide_fmtOf ty
  exact ⟨float2_word h hf ha hty (exec_fadd ..) fun u e => fAdd_rule hwide r _ _ _,
    float2_word h hf ha hty (exec_fsub ..) fun u e => fSub_rule hwide r _ _ _,
    float2_word h hf ha hty (exec_fmul ..) fun u e => fMul_rule hwide r _ _ _,
    float3_word h hf ha hty (exec_fma ..) fun u e => fFma_rule hwide r _ false _ _ _,
    float3_word h hf ha hty (exec_fms ..) fun u e => fFma_rule hwide r _ true _ _ _⟩

end

section
/-! Values that a format holds exactly, integers among them, and the order of the numbers read from patterns (R136, R162, R163). -/

namespace Sys2Proof.Machine

/-! ### Exact values -/

/-- A value of at most as many digits as the fraction holds, in units no finer than the smallest subnormal, is a pattern's. -/
theorem FFmt.Wide.exists_magVal {f : FFmt} (hf : f.Wide) {q : Nat} {e : Int} (hq : q < 2 ^ (f.fb + 1)) (he : fmtLow f ≤ e)
    (hlt : (q : Rat) * 2 ^ e < 2 ^ ((fmtBias f : Int) + 1)) : ∃ p, p < fmtInf f ∧ magVal f p = q * (2 : Rat) ^ e := by
  obtain rfl | hq0 := Nat.eq_zero_or_pos q
  · exact ⟨0, hf.inf_pos, by simp⟩
  · have hlog : q.log2 < f.fb + 1 := (Nat.log2_lt hq0.ne').2 hq
    have hgrid : gridExp f q e ≤ e := max_le (by omega) he
    obtain ⟨-, hexact, -⟩ := gridBits_spec hf .rn false hq0.ne' (shows_exact q e) (fun h => absurd h Bool.false_ne_true)
    have hval := hexact.1 (by rw [roundGrid, if_pos hgrid]; rfl)
    have hval : magVal f (gridBits f .rn false q e false) = q * (2 : Rat) ^ e := by
      refine Rat.cast_injective (α := ℝ) (hval.symm.trans ?_)
      push_cast
      rfl
    refine ⟨_, ?_, hval⟩
    rwa [← (magVal_strictMono f).lt_iff_lt, hval, hf.magVal_inf]

/-- A value that the format holds rounds to its own pattern, without a condition; under FTZ where it is no subnormal. -/
theorem roundMag_of_magVal {f : FFmt} (hf : f.Wide) (r : Rm) {ftz : Bool} (s : Bool) {q p : Nat} {e : Int}
    (hval : magVal f p = q * (2 : Rat) ^ e) (hp : p < fmtInf f) (hz : ftz = true → p = 0 ∨ 2 ^ f.fb ≤ p) :
    roundMag f r ftz s q e false = (fmtSign f s + p, {}) := by
  obtain rfl | hq := Nat.eq_zero_or_pos q
  · rw [Nat.cast_zero, zero_mul, magVal_eq_zero_iff] at hval
    rw [hval]
    rfl
  · have hp0 : p ≠ 0 := by
      rintro rfl
      have : (0 : Rat) < q * 2 ^ e := by positivity
      rw [← hval, magVal_zero] at this
      exact lt_irrefl _ this
    have hreal : magReal f p = q * (2 : ℝ) ^ e := by
      rw [magReal, hval]
      push_cast
      rfl
    obtain ⟨hpat, hexact, -⟩ := gridBits_spec hf r s hq.ne' (shows_exact q e) (fun h => absurd h Bool.false_ne_true)
    have hbits : gridBits f r s q e false = p := le_antisymm (hpat.ge_of_ge hreal.ge) (hpat.le_of_le hreal.le)
    rw [hbits] at hexact
    have hflush : ¬ (ftz && (roundGrid r s q e false (gridExp f q e)).1 != 0 && (roundGrid r s q e false (gridExp f q e)).1 < 2 ^ f.fb &&
        gridExp f q e = fmtLow f) = true := by
      simp only [Bool.and_eq_true, decide_eq_true_eq]
      rintro ⟨⟨⟨hfz, -⟩, hlt⟩, hg⟩
      rw [gridBits, hg, sub_self, Int.toNat_zero, Nat.zero_mul, Nat.zero_add, ← hg] at hbits
      have := hz hfz
      omega
    rw [roundMag_eq f r ftz s hq.ne', hbits, hexact.2 hreal.symm, if_neg (not_le.2 hp), if_neg hflush]
    simp

/-- An integer of no more bits than the fraction is a pattern's value. -/
theorem FFmt.Wide.exists_magVal_natCast {f : FFmt} (hf : f.Wide) {n : Nat} (hn : n ≤ 2 ^ f.fb) : ∃ p, p < fmtInf f ∧ magVal f p = n := by
  have hbias := hf.bias
  have hpow : 2 ^ f.fb < 2 ^ (f.fb + 1) := Nat.pow_lt_pow_right (by decide) (Nat.lt_succ_self _)
  obtain ⟨p, hp, hval⟩ := hf.exists_magVal (q := n) (e := 0) (by omega) (by rw [fmtLow]; omega) (by
    have hle : (n : Rat) ≤ 2 ^ (f.fb : Int) := by rw [zpow_natCast]; exact_mod_cast hn
    rw [zpow_zero, mul_one]
    exact hle.trans_lt (zpow_lt_zpow_right₀ (by norm_num) (by omega)))
  exact ⟨p, hp, by rw [hval, zpow_zero, mul_one]⟩

/-! ### A pattern without its subnormals -/

/-- The pattern of the value that a form reads: under FTZ a subnormal becomes the zero of its sign. -/
def flushed (f : FFmt) (ftz : Bool) (x : Nat) : Nat := fmtSign f (patNeg f x) + magRead f ftz x

theorem magRead_le (f : FFmt) (ftz : Bool) (b : Nat) : magRead f ftz b ≤ patMag f b := by
  rw [magRead]
  split <;> omega

theorem patNeg_flushed (f : FFmt) (ftz : Bool) (x : Nat) : patNeg f (flushed f ftz x) = patNeg f x :=
  patNeg_sign_add f _ ((magRead_le f ftz x).trans_lt (patMag_lt f x))

theorem patVal_flushed (f : FFmt) (ftz : Bool) (x : Nat) : patVal f false (flushed f ftz x) = patVal f ftz x := by
  rw [flushed, patVal_sign_add f _ ((magRead_le f ftz x).trans_lt (patMag_lt f x)), patVal_eq]

/-- A number is read as a magnitude up to that of infinity. -/
theorem patMag_le_inf {f : FFmt} {b : Nat} (hnan : patNaN f b = false) : patMag f b ≤ fmtInf f := not_lt.1 (of_decide_eq_false hnan)

theorem patMag_lt_inf {f : FFmt} {b : Nat} (hnan : patNaN f b = false) (hinf : patInf f b = false) : patMag f b < fmtInf f :=
  lt_of_le_of_ne (patMag_le_inf hnan) (by simpa [patInf] using hinf)

/-- R162: the pattern of a number that was read from one. -/
theorem roundFp_of_view {f : FFmt} (hf : f.Wide) {ftz : Bool} {b : Nat} {v : Fp} (h : PatView f ftz b v) (hnan : patNaN f b = false) :
    (roundFp f .rn false v).1 = flushed f ftz b := by
  cases h with
  | nan hn => exact absurd (hnan.symm.trans hn) Bool.false_ne_true
  | inf _ _ _ hread => rw [flushed, hread]; rfl
  | fin _ _ hinf k m hread hk hm =>
    have hlt := (magRead_le f ftz b).trans_lt (patMag_lt_inf hnan hinf)
    rw [roundFp, roundMag_of_magVal hf .rn _ (p := magRead f ftz b) _ hlt (fun h => absurd h Bool.false_ne_true)]
    · rfl
    · rw [hread, magVal_grid f hk hm.le]

/-! ### Order -/

theorem abs_patVal (f : FFmt) (ftz : Bool) (b : Nat) : |patVal f ftz b| = magVal f (magRead f ftz b) := by
  rw [patVal_eq, abs_signed, abs_of_nonneg (magVal_nonneg f _)]

/-- A finite value lies between the infinities. -/
theorem abs_patVal_lt {f : FFmt} {ftz : Bool} {b : Nat} (hnan : patNaN f b = false) (hinf : patInf f b = false) :
    |patVal f ftz b| < magVal f (fmtInf f) := by
  rw [abs_patVal]
  exact magVal_strictMono f ((magRead_le f ftz b).trans_lt (patMag_lt_inf hnan hinf))

/-- Numbers of one exponent compare as their integers. -/
theorem compare_fpInt (s t : Bool) (m n : Nat) (e k : Int) : compare (fpInt s m e (min e k)) (fpInt t n k (min e k))
    = compare (fpRat (.fin s m e)) (fpRat (.fin t n k)) := by
  have hmono : StrictMono fun x : Int => (x : Rat) * 2 ^ min e k :=
    fun x y h => mul_lt_mul_of_pos_right (Int.cast_lt.2 h) (by positivity)
  simp only [fpRat, ← fpInt_mul s m (min_le_left e k), ← fpInt_mul t n (min_le_right e k), ← cmp_eq_compare]
  exact (hmono.cmp_map_eq _ _).symm

/-- R163: numbers compare as the values of their patterns. -/
theorem fpCmp_of_view {f : FFmt} (hf : f.Wide) {ftz : Bool} {x y : Nat} {v w : Fp} (hx : PatView f ftz x v) (hy : PatView f ftz y w)
    (hnx : patNaN f x = false) (hny : patNaN f y = false) : fpCmp v w = compare (patVal f ftz x) (patVal f ftz y) := by
  have hpos : 0 < magVal f (fmtInf f) := by rw [← magVal_zero f]; exact magVal_strictMono f hf.inf_pos
  cases hx with
  | nan hn => exact absurd (hnx.symm.trans hn) Bool.false_ne_true
  | inf _ _ _ hrx =>
    cases hy with
    | nan hn => exact absurd (hny.symm.trans hn) Bool.false_ne_true
    | inf _ _ _ hry =>
      have hlt : -magVal f (fmtInf f) < magVal f (fmtInf f) := by linarith
      rw [patVal_eq, patVal_eq, hrx, hry]
      cases patNeg f x <;> cases patNeg f y
      · exact (compare_eq_iff_eq.2 rfl).symm
      · exact (compare_gt_iff_gt.2 hlt).symm
      · exact (compare_lt_iff_lt.2 hlt).symm
      · exact (compare_eq_iff_eq.2 rfl).symm
    | fin _ _ hinf =>
      obtain ⟨hlo, hhi⟩ := abs_lt.1 (abs_patVal_lt (ftz := ftz) hny hinf)
      rw [patVal_eq f ftz x, hrx]
      cases patNeg f x
      · exact (compare_gt_iff_gt.2 hhi).symm
      · exact (compare_lt_iff_lt.2 hlo).symm
  | fin _ _ hinf k m hrx hk hm =>
    cases hy with
    | nan hn => exact absurd (hny.symm.trans hn) Bool.false_ne_true
    | inf _ _ _ hry =>
      obtain ⟨hlo, hhi⟩ := abs_lt.1 (abs_patVal_lt (ftz := ftz) hnx hinf)
      rw [patVal_eq f ftz y, hry]
      cases patNeg f y
      · exact (compare_lt_iff_lt.2 hhi).symm
      · exact (compare_gt_iff_gt.2 hlo).symm
    | fin _ _ _ j n hry hj hn =>
      rw [← fpRat_of_grid hrx hk hm, ← fpRat_of_grid hry hj hn]
      exact compare_fpInt ..

/-- R162: the order of patterns in which -0 is less than +0. -/
def patLe (f : FFmt) (x y : Nat) : Prop :=
  patVal f false x < patVal f false y ∨ (patVal f false x = patVal f false y ∧ (patNeg f x || !patNeg f y) = true)

theorem patLe_refl (f : FFmt) (x : Nat) : patLe f x x := .inr ⟨rfl, by cases patNeg f x <;> rfl⟩

section
variable {f : FFmt} (hf : f.Wide) {ftz : Bool} {x y : Nat} (hnx : patNaN f x = false) (hny : patNaN f y = false)
include hf hnx hny

theorem fpLess_iff : fpLess (fpOf f ftz x) (fpOf f ftz y) = true ↔ patVal f ftz x < patVal f ftz y ∨
    (patVal f ftz x = patVal f ftz y ∧ patNeg f x = true ∧ patNeg f y = false) := by
  rw [fpLess, fpCmp_of_view hf (patView hf ftz x) (patView hf ftz y) hnx hny, (readFrom_fpOf hf ftz x).sign hnx,
    (readFrom_fpOf hf ftz y).sign hny]
  cases h : compare (patVal f ftz x) (patVal f ftz y) with
  | lt => exact iff_of_true rfl (.inl (compare_lt_iff_lt.1 h))
  | gt =>
    have h := compare_gt_iff_gt.1 h
    exact iff_of_false Bool.false_ne_true (by rintro (h1 | ⟨h1, -⟩) <;> linarith)
  | eq =>
    have h := compare_eq_iff_eq.1 h
    simp [h]

theorem patLe_of_fpLess (h : fpLess (fpOf f ftz x) (fpOf f ftz y) = true) : patLe f (flushed f ftz x) (flushed f ftz y) := by
  rw [patLe, patVal_flushed, patVal_flushed, patNeg_flushed, patNeg_flushed]
  refine ((fpLess_iff hf hnx hny).1 h).imp_right fun ⟨heq, hx, _⟩ => ⟨heq, by rw [hx]; rfl⟩

theorem patLe_of_not_fpLess (h : fpLess (fpOf f ftz x) (fpOf f ftz y) = false) : patLe f (flushed f ftz y) (flushed f ftz x) := by
  rw [← Bool.not_eq_true, fpLess_iff hf hnx hny, not_or, not_lt] at h
  obtain ⟨hle, hneg⟩ := h
  rw [patLe, patVal_flushed, patVal_flushed, patNeg_flushed, patNeg_flushed]
  refine hle.lt_or_eq.imp_right fun heq => ⟨heq, ?_⟩
  cases hx : patNeg f x with
  | false => exact Bool.or_true _
  | true =>
    rw [Bool.eq_true_of_not_eq_false fun hy => hneg ⟨heq.symm, hx, hy⟩]
    rfl

end

/-! ### FMIN and FMAX (R162) -/

/-- R162: what FMIN and FMAX give for two patterns. -/
def MinMaxRule (f : FFmt) (ftz num isMax : Bool) (x1 x2 y : Nat) (q : Conds) : Prop :=
  q = { nv := patSig f x1 || patSig f x2 } ∧
  ((patNaN f x1 && patNaN f x2) = true ∨ (num = false ∧ (patNaN f x1 || patNaN f x2) = true) → y = fmtNaN f) ∧
  (num = true → patNaN f x1 = true → patNaN f x2 = false → y = flushed f ftz x2) ∧
  (num = true → patNaN f x2 = true → patNaN f x1 = false → y = flushed f ftz x1) ∧
  (patNaN f x1 = false → patNaN f x2 = false → (y = flushed f ftz x1 ∨ y = flushed f ftz x2) ∧
    if isMax then patLe f (flushed f ftz x1) y ∧ patLe f (flushed f ftz x2) y
    else patLe f y (flushed f ftz x1) ∧ patLe f y (flushed f ftz x2))

theorem fMinMax_rule {f : FFmt} (hf : f.Wide) (isMax num ftz : Bool) (x1 x2 : Nat) :
    MinMaxRule f ftz num isMax x1 x2 (fMinMax f isMax num ftz x1 x2).1 (fMinMax f isMax num ftz x1 x2).2 := by
  have h1 := readFrom_fpOf hf ftz x1
  have h2 := readFrom_fpOf hf ftz x2
  have hpick (b : Nat) := roundFp_of_view hf (patView hf ftz b)
  simp only [fMinMax, h1.nan, h2.nan, h1.sig, h2.sig]
  cases hn1 : patNaN f x1 with
  | true =>
    cases hn2 : patNaN f x2 with
    | true => simp [MinMaxRule, hn1, hn2]
    | false => cases num <;> simp [MinMaxRule, hn1, hn2, hpick]
  | false =>
    cases hn2 : patNaN f x2 with
    | true => cases num <;> simp [MinMaxRule, hn1, hn2, hpick]
    | false =>
      refine ⟨rfl, by simp [hn1, hn2], by simp [hn1], by simp [hn2], fun _ _ => ?_⟩
      cases hless : fpLess (fpOf f ftz x1) (fpOf f ftz x2) with
      | true =>
        have hle := patLe_of_fpLess hf hn1 hn2 hless
        cases isMax
        · exact ⟨.inl (hpick x1 hn1), by simpa [hpick x1 hn1] using ⟨patLe_refl f _, hle⟩⟩
        · exact ⟨.inr (hpick x2 hn2), by simpa [hpick x2 hn2] using ⟨hle, patLe_refl f _⟩⟩
      | false =>
        have hle := patLe_of_not_fpLess hf hn1 hn2 hless
        cases isMax
        · exact ⟨.inr (hpick x2 hn2), by simpa [hpick x2 hn2] using ⟨hle, patLe_refl f _⟩⟩
        · exact ⟨.inl (hpick x1 hn1), by simpa [hpick x1 hn1] using ⟨patLe_refl f _, hle⟩⟩

end Sys2Proof.Machine
end

section
/-! FSETP, FCLASS and FRND: comparisons of values, the class of the bits, and integral values (R163 to R165). -/

namespace Sys2Proof.Machine

/-! ### FSETP (R163) -/

/-- R163: a comparison of two values of which either may be no number. -/
def fcmpHolds (cmp : FCmp) (un : Prop) (v1 v2 : Rat) : Prop :=
  match cmp with
  | .eq => ¬ un ∧ v1 = v2 | .ne => ¬ un ∧ v1 ≠ v2 | .lt => ¬ un ∧ v1 < v2 | .le => ¬ un ∧ v1 ≤ v2
  | .gt => ¬ un ∧ v1 > v2 | .ge => ¬ un ∧ v1 ≥ v2 | .num => ¬ un | .nan => un
  | .equ => un ∨ v1 = v2 | .neu => un ∨ v1 ≠ v2 | .ltu => un ∨ v1 < v2 | .leu => un ∨ v1 ≤ v2
  | .gtu => un ∨ v1 > v2 | .geu => un ∨ v1 ≥ v2

theorem fCompare_iff {f : FFmt} (hf : f.Wide) (ftz : Bool) (x y : Nat) (cmp : FCmp) : fCompare cmp (fpOf f ftz x) (fpOf f ftz y) = true ↔
    fcmpHolds cmp ((patNaN f x || patNaN f y) = true) (patVal f ftz x) (patVal f ftz y) := by
  simp only [fCompare, (readFrom_fpOf hf ftz x).nan, (readFrom_fpOf hf ftz y).nan]
  cases hun : patNaN f x || patNaN f y with
  | true => cases cmp <;> simp [fcmpHolds]
  | false =>
    obtain ⟨hnx, hny⟩ := Bool.or_eq_false_iff.1 hun
    rw [fpCmp_of_view hf (patView hf ftz x) (patView hf ftz y) hnx hny]
    cases cmp <;> simp [fcmpHolds, compare_lt_iff_lt, compare_gt_iff_gt]

theorem tyFp_of_isFloat {ty : Ty} (h : ty.isFloat = true) (ftz : Bool) (x : Nat) : tyFp ty ftz x = fpOf (fmtOf ty) ftz (elemBits ty x 0) := by
  rw [elemBits_zero]
  cases ty with
  | f32 | f64 | bf16 | f16 => rfl
  | _ => cases h

/-! ### FCLASS (R164) -/

/-- R164: the classes in their order; a pattern is in one of them. -/
def patClasses (f : FFmt) (x : Nat) : List Bool :=
  let m := patMag f x
  let neg := patNeg f x
  [patSig f x, patNaN f x && !patSig f x, neg && patInf f x, neg && decide (2 ^ f.fb ≤ m) && decide (m < fmtInf f),
    neg && decide (0 < m) && decide (m < 2 ^ f.fb), neg && m == 0, !neg && m == 0, !neg && decide (0 < m) && decide (m < 2 ^ f.fb),
    !neg && decide (2 ^ f.fb ≤ m) && decide (m < fmtInf f), !neg && patInf f x]

/-- A magnitude is subnormal where its digits do not fill the fraction. -/
theorem grid_lt_iff {f : FFmt} {k m : Nat} (hk : k = 0 ∨ 2 ^ f.fb ≤ m) : k * 2 ^ f.fb + m < 2 ^ f.fb ↔ m < 2 ^ f.fb := by
  constructor
  · omega
  · intro h
    obtain rfl : k = 0 := hk.resolve_right (by omega)
    omega

/-- R164: the model's class is the one that the pattern is in. -/
theorem patClasses_getD {f : FFmt} (hf : f.Wide) (x : Nat) {n : Nat} (hn : n < 10) :
    (patClasses f x).getD n false = true ↔ n = fClass f x := by
  have hF : 0 < 2 ^ f.fb := by positivity
  have hsub := two_pow_fb_le_inf hf
  have hview := patView hf false x
  rw [fClass]
  generalize fpOf f false x = v at hview
  cases hview with
  | nan hnan hinf =>
    have hmag : fmtInf f < patMag f x := of_decide_eq_true hnan
    have hmag0 : patMag f x ≠ 0 := by omega
    have hmagsub : 2 ^ f.fb ≤ patMag f x := by omega
    cases hsig : patSig f x <;> interval_cases n <;> simp [patClasses, hnan, hinf, hsig, hmag0, hmagsub, hmag.le]
  | inf hnan hsig hinf hread =>
    rw [magRead_false] at hread
    cases hneg : patNeg f x <;> interval_cases n <;> simp [patClasses, hnan, hinf, hsig, hneg, hread, hf.inf_pos.ne', hsub]
  | fin hnan hsig hinf k m hread hk hm =>
    have hlt := patMag_lt_inf hnan hinf
    rw [magRead_false] at hread
    have hzero := grid_eq_zero_iff hk
    have hsubnormal := grid_lt_iff hk
    rw [← hread] at hzero hsubnormal
    by_cases hm0 : m = 0
    · have hmag := hzero.2 hm0
      cases hneg : patNeg f x <;> interval_cases n <;> simp [patClasses, hnan, hinf, hsig, hneg, hmag, hm0]
    · have hmag : patMag f x ≠ 0 := fun h => hm0 (hzero.1 h)
      by_cases hmsub : m < 2 ^ f.fb
      · have hmagsub := hsubnormal.2 hmsub
        cases hneg : patNeg f x <;> interval_cases n <;>
          simp [patClasses, hnan, hinf, hsig, hneg, hmag, hm0, hmsub, hmagsub, Nat.pos_of_ne_zero hmag]
      · have hmagsub : 2 ^ f.fb ≤ patMag f x := not_lt.1 fun h => hmsub (hsubnormal.1 h)
        cases hneg : patNeg f x <;> interval_cases n <;>
          simp [patClasses, hnan, hinf, hsig, hneg, hmag, hm0, hmsub, hmagsub, hlt]

theorem fClass_lt (f : FFmt) (x : Nat) : fClass f x < 10 := by
  rw [fClass]
  repeat' split
  all_goals decide

/-- R164: the mask has the bit of the class. -/
theorem mask_fClass_iff {f : FFmt} (hf : f.Wide) (mask : BitVec 10) (x : Nat) : mask.getLsbD (fClass f x) = true ↔
    ∃ n, n < 10 ∧ mask.getLsbD n = true ∧ (patClasses f x).getD n false = true := by
  constructor
  · exact fun h => ⟨_, fClass_lt f x, h, (patClasses_getD hf x (fClass_lt f x)).2 rfl⟩
  · rintro ⟨n, hn, hmask, hcls⟩
    rwa [← (patClasses_getD hf x hn).1 hcls]

/-! ### Rounding to an integer (R136) -/

/-- The integer of a sign and a magnitude. -/
def signedInt (s : Bool) (n : Nat) : Int := if s then -(n : Int) else n

theorem cast_signedInt (s : Bool) (n : Nat) : (signedInt s n : Rat) = signed s n := by cases s <;> simp [signedInt, signed]

/-- A difference of values of one sign is that of their magnitudes. -/
theorem abs_signed_sub (s : Bool) (x y : Rat) : |signed s x - signed s y| = |y - x| := by
  cases s
  · exact abs_sub_comm x y
  · exact congrArg _ (by simp only [signed, if_true]; ring)

/-- R136: a magnitude rounded by its sign is the value rounded. -/
theorem IntRounds.roundsInt {r : Rm} {s : Bool} {y : Rat} {n : Nat} (h : IntRounds (magMode r s) (y : ℝ) n) (hy : 0 ≤ y) :
    RoundsInt r (signed s y) (signedInt s n) := by
  have hdist : |signed s y - (signedInt s n : Rat)| = |(n : Rat) - y| := by rw [cast_signedInt, abs_signed_sub]
  have hreal : ((|(n : Rat) - y| : Rat) : ℝ) = |(n : ℝ) - y| := by push_cast; rfl
  have hhalf (h : |(n : ℝ) - y| ≤ 1 / 2) : |(n : Rat) - y| ≤ 1 / 2 := by
    rw [← Rat.cast_le (K := ℝ), hreal]
    push_cast
    exact h
  have htie (h : |(n : Rat) - y| = 1 / 2) : |(n : ℝ) - y| = 1 / 2 := by
    rw [← hreal, h]
    push_cast
    rfl
  have hdown (h : IntRounds .down (y : ℝ) n) : (n : Int) = ⌊y⌋ :=
    (Int.floor_eq_iff.2 ⟨by exact_mod_cast h.1, by exact_mod_cast h.2⟩).symm
  have hup (h : IntRounds .up (y : ℝ) n) : (n : Int) = ⌈y⌉ :=
    (Int.ceil_eq_iff.2 ⟨by have : (n : Rat) < y + 1 := by exact_mod_cast h.2
                           push_cast; linarith, by exact_mod_cast h.1⟩).symm
  cases r with
  | rn =>
    rw [RoundsInt, hdist]
    refine ⟨hhalf h.1, fun heq => ?_⟩
    have := h.2 (htie heq)
    rw [signedInt]
    split <;> omega
  | ra =>
    rw [RoundsInt, hdist]
    refine ⟨hhalf h.1, fun heq => ?_⟩
    have hlt : y < n := by exact_mod_cast h.2 (htie heq)
    rw [cast_signedInt, abs_signed, abs_signed, abs_of_nonneg hy, abs_of_nonneg (Nat.cast_nonneg n)]
    exact hlt.le
  | rz =>
    have hn := hdown h
    rw [RoundsInt]
    cases s
    · exact hn.trans (if_neg (not_lt.2 hy)).symm
    · show -(n : Int) = if -y < 0 then ⌈-y⌉ else ⌊-y⌋
      split
      next => rw [Int.ceil_neg, hn]
      next h0 =>
        obtain rfl : y = 0 := by linarith
        simp [hn]
  | rp =>
    cases s
    · exact hup h
    · show -(n : Int) = ⌈-y⌉
      rw [Int.ceil_neg, hdown h]
  | rm =>
    cases s
    · exact hdown h
    · show -(n : Int) = ⌊-y⌋
      rw [Int.floor_neg, hup h]

/-- R165, R170: the model's rounding to an integer, and whether it was exact. -/
theorem roundInt_spec (r : Rm) (s : Bool) (m : Nat) (e : Int) :
    RoundsInt r (signed s (m * (2 : Rat) ^ e)) (signedInt s (roundInt r s m e).1) ∧
      ((roundInt r s m e).2 = true ↔ ((roundInt r s m e).1 : Rat) = m * (2 : Rat) ^ e) := by
  obtain ⟨hround, hexact⟩ := roundGrid_spec r s (shows_exact m e) (g := 0) (fun h => absurd h Bool.false_ne_true)
  have hval : (((m * (2 : Rat) ^ e : Rat)) : ℝ) = m * (2 : ℝ) ^ e := by push_cast; rfl
  rw [zpow_zero, div_one, ← hval] at hround
  rw [zpow_zero, mul_one, ← hval] at hexact
  refine ⟨hround.roundsInt (by positivity), hexact.trans ?_⟩
  rw [eq_comm]
  norm_cast

/-! ### FRND (R165) -/

/-- R165: the integral value that the mode chooses, with the sign of the operand. -/
def RoundRule (f : FFmt) (r : Rm) (ftz : Bool) (x y : Nat) (cd : Conds) : Prop :=
  if patNaN f x then y = fmtNaN f ∧ cd = { nv := patSig f x }
  else if patInf f x then y = x ∧ cd = {}
  else cd = {} ∧ patNeg f y = patNeg f x ∧ patMag f y < fmtInf f ∧ y < 2 ^ fmtWidth f ∧
    ∃ n : Int, patVal f false y = n ∧ RoundsInt r (patVal f ftz x) n

/-- The integer that a finite number rounds to is a value of its format. -/
theorem exists_magVal_roundInt {f : FFmt} (hf : f.Wide) (r : Rm) (s : Bool) {k m p : Nat} (hp : p = k * 2 ^ f.fb + m)
    (hk : k = 0 ∨ 2 ^ f.fb ≤ m) (hm : m < 2 ^ (f.fb + 1)) (hlt : p < fmtInf f) :
    ∃ p, p < fmtInf f ∧ magVal f p = (roundInt r s m (fmtLow f + k)).1 := by
  by_cases he : 0 ≤ fmtLow f + (k : Int)
  · refine ⟨p, hlt, ?_⟩
    rw [hp, magVal_grid f hk hm.le]
    have hexact : (roundInt r s m (fmtLow f + k)).2 = true := by rw [roundInt, roundGrid, if_pos he]; rfl
    exact ((roundInt_spec r s m _).2.1 hexact).symm
  · obtain ⟨hround, -⟩ := roundGrid_spec r s (shows_exact m (fmtLow f + k)) (g := 0) (fun h => absurd h Bool.false_ne_true)
    refine hf.exists_magVal_natCast (hround.ge_of_ge ?_)
    have hm : (m : ℝ) ≤ 2 ^ (f.fb + 1) := by exact_mod_cast hm.le
    have hpow : (2 : ℝ) ^ (fmtLow f + (k : Int)) ≤ 2⁻¹ := by
      rw [← zpow_neg_one]
      exact zpow_le_zpow_right₀ (by norm_num) (by omega)
    rw [zpow_zero, div_one]
    push_cast
    calc (m : ℝ) * 2 ^ (fmtLow f + (k : Int)) ≤ 2 ^ (f.fb + 1) * 2⁻¹ := mul_le_mul hm hpow (by positivity) (by positivity)
      _ = 2 ^ f.fb := by rw [pow_succ]; ring

theorem fRnd_rule {f : FFmt} (hf : f.Wide) (r : Rm) (ftz : Bool) {x : Nat} (hx : x < 2 ^ fmtWidth f) :
    RoundRule f r ftz x (fRnd f r ftz x).1 (fRnd f r ftz x).2 := by
  have hview := patView hf ftz x
  rw [RoundRule, fRnd]
  generalize fpOf f ftz x = v at hview
  cases hview with
  | nan hnan => simp only [hnan, if_true, and_self]
  | inf hnan hsig hinf =>
    simp only [hnan, hinf, Bool.false_eq_true, if_false, if_true, and_true]
    rw [← eq_of_beq hinf, sign_add_patMag hx]
  | fin hnan hsig hinf k m hread hk hm =>
    simp only [hnan, hinf, Bool.false_eq_true, if_false]
    obtain ⟨p, hp, hval⟩ := exists_magVal_roundInt hf r (patNeg f x) hread hk hm
      ((magRead_le f ftz x).trans_lt (patMag_lt_inf hnan hinf))
    have hplt := hp.trans hf.inf_lt
    rw [roundMag_of_magVal hf .rn (patNeg f x) (p := p) (by rw [hval, zpow_zero, mul_one]) hp (fun h => absurd h Bool.false_ne_true)]
    refine ⟨trivial, patNeg_sign_add f _ hplt, by rwa [patMag_sign_add f _ hplt], fmtSign_add_lt f _ hplt,
      signedInt (patNeg f x) (roundInt r (patNeg f x) m (fmtLow f + k)).1, ?_, ?_⟩
    · rw [patVal_sign_add f _ hplt, hval, cast_signedInt]
    · rw [← fpRat_of_grid hread hk hm]
      exact (roundInt_spec r _ m _).1

/-! ### The arms of R162 to R165 -/

section
variable (c : Ctl) (ty : Ty) (d a b : Opd) (s : State)

theorem exec_fmin (num : Bool) : exec (.fmin c num ty d a b) s = execFmin c num ty d a b s := rfl
theorem exec_fmax (num : Bool) : exec (.fmax c num ty d a b) s = execFmax c num ty d a b s := rfl
theorem exec_fsetp (cmp : FCmp) (q : PComb) : exec (.fsetp c cmp ty q d a b) s = execFsetp c cmp ty q d a b s := rfl
theorem exec_fclass (mask : BitVec 10) : exec (.fclass c ty mask d a) s = execFclass c ty mask d a s := rfl
theorem exec_frnd (r : Rm) : exec (.frnd c ty r d a) s = execFrnd c ty r d a s := rfl

end

theorem elemBits_lt (ty : Ty) (v e : Nat) : elemBits ty v e < 2 ^ fmtWidth (fmtOf ty) := Nat.mod_lt _ (by positivity)

end Sys2Proof.Machine

open Sys2Proof Sys2Proof.Machine

/-- Settles O10: the model's numbers compare as the values of their patterns, and the integer that FRND chooses is a value of the format. -/
theorem floatComparisonsAndRounding : Obligations.FloatComparisonsAndRounding := by
  unfold Obligations.FloatComparisonsAndRounding
  refine ⟨fun s c w set act ty d a b num h hf ha hty => ?minmax, fun s c w set act ty d a h ha hty => ⟨fun b cmp q hf => ?fsetp,
    fun mask hf => ?fclass, fun r hf => ?frnd⟩⟩
  case minmax =>
    have hwide := wide_fmtOf ty
    exact ⟨float2_word h hf ha hty (exec_fmin ..) fun u e => fMinMax_rule hwide false num _ _ _,
      float2_word h hf ha hty (exec_fmax ..) fun u e => fMinMax_rule hwide true num _ _ _⟩
  case fsetp =>
    rw [← floatLat_eq]
    refine floatWord_of_packed ((exec_fsetp ..).trans rfl) h hf ha (fun u _ =>
      ((combine q (fCompare cmp (fpOf (fmtOf ty) (ftzAt s w) (elemBits ty (reads s w a ty.regs u) 0))
        (fpOf (fmtOf ty) (ftzAt s w) (elemBits ty (reads s w b ty.regs u) 0))) (predAt s w q.c.toNat u)).toNat,
        { nv := fpSig (fpOf (fmtOf ty) (ftzAt s w) (elemBits ty (reads s w a ty.regs u) 0)) ||
            fpSig (fpOf (fmtOf ty) (ftzAt s w) (elemBits ty (reads s w b ty.regs u) 0)) })) (fun u => ?_) fun u e _ => ?_
    · simp only [issueAt_w, srcVal_advance, ftzOf_advance, pBit_advance, packed_one, tyFp_of_isFloat hty]
      rfl
    · have hwide := wide_fmtOf ty
      refine ⟨?_, Bool.toNat_le _, ?_⟩
      · rw [(readFrom_fpOf hwide _ _).sig, (readFrom_fpOf hwide _ _).sig]
      · rw [Bool.toNat_eq_one, combine_iff, fCompare_iff hwide]
        rfl
  case fclass =>
    rw [← floatLat_eq]
    refine floatWord_of_packed ((exec_fclass ..).trans rfl) h hf ha (fun u _ =>
      ((mask.getLsbD (fClass (fmtOf ty) (elemBits ty (reads s w a ty.regs u) 0))).toNat, {})) (fun u => ?_) fun u e _ => ?_
    · simp only [issueAt_w, srcVal_advance, packed_one, elemBits_zero]
      rfl
    · refine ⟨rfl, Bool.toNat_le _, ?_⟩
      rw [Bool.toNat_eq_one]
      exact mask_fClass_iff (wide_fmtOf ty) mask _
  case frnd =>
    rw [← floatLat_eq]
    refine floatWord_of_packed ((exec_frnd ..).trans rfl) h hf ha (fun u _ =>
      fRnd (fmtOf ty) r (ftzAt s w) (elemBits ty (reads s w a ty.regs u) 0)) (fun u => ?_) fun u e _ =>
        fRnd_rule (wide_fmtOf ty) r _ (elemBits_lt ty _ 0)
    simp only [issueAt_w, srcVal_advance, ftzOf_advance, packed_one, elemBits_zero]
    rfl

end

section
/-! The tapered formats: the codes in order, and the nearest code of a value (R139 to R141). -/

namespace Sys2Proof.Machine

/-- Scaled magnitudes compare as their values. -/
theorem cmpMag_eq (m1 : Nat) (e1 : Int) (m2 : Nat) (e2 : Int) :
    cmpMag m1 e1 m2 e2 = compare ((m1 : Rat) * 2 ^ e1) ((m2 : Rat) * 2 ^ e2) := by
  have hmono : StrictMono fun x : Nat => (x : Rat) * 2 ^ min e1 e2 :=
    fun x y h => mul_lt_mul_of_pos_right (Nat.cast_lt.2 h) (by positivity)
  have hval (m : Nat) {e : Int} (h : min e1 e2 ≤ e) : ((m * 2 ^ (e - min e1 e2).toNat : Nat) : Rat) * 2 ^ min e1 e2 = m * 2 ^ e := by
    push_cast
    rw [mul_assoc, ← zpow_natCast, ← zpow_add₀ (by norm_num), Int.toNat_of_nonneg (by omega), Int.sub_add_cancel]
  simp only [cmpMag, ← cmp_eq_compare]
  rw [← hval m1 (min_le_left ..), ← hval m2 (min_le_right ..)]
  exact (hmono.cmp_map_eq _ _).symm

/-! ### The codes in order (R139) -/

/-- The positive codes rise with their values. -/
def TapRises (n : Nat) : Prop := ∀ j k, 0 < j → j < k → k < 2 ^ (n - 1) → tapVal n j < tapVal n k

theorem tapRises_of_steps {n : Nat} (h : ∀ c < 2 ^ (n - 1) - 2,
    cmpMag (tapMag n (c + 1)).1 (tapMag n (c + 1)).2 (tapMag n (c + 2)).1 (tapMag n (c + 2)).2 = .lt) : TapRises n := by
  intro j k hj hjk
  induction k, hjk using Nat.le_induction with
  | base =>
    intro hk
    obtain ⟨c, rfl⟩ := Nat.exists_eq_succ_of_ne_zero hj.ne'
    have := h c (by omega)
    rwa [cmpMag_eq, compare_lt_iff_lt] at this
  | succ k hle ih =>
    intro hk
    obtain ⟨c, rfl⟩ := Nat.exists_eq_succ_of_ne_zero (by omega : k ≠ 0)
    have := h c (by omega)
    rw [cmpMag_eq, compare_lt_iff_lt] at this
    exact (ih (by omega)).trans this

theorem tapRises_eight : TapRises 8 := tapRises_of_steps (by decide +kernel)
theorem tapRises_six : TapRises 6 := tapRises_of_steps (by decide)

/-- The largest code whose value is no greater; 0 where there is none. -/
theorem tapBelow_spec (n m : Nat) (e : Int) (c : Nat) : tapBelow n m e c ≤ c ∧
    (0 < tapBelow n m e c → tapVal n (tapBelow n m e c) ≤ m * (2 : Rat) ^ e) ∧
    ∀ k, tapBelow n m e c < k → k ≤ c → m * (2 : Rat) ^ e < tapVal n k := by
  induction c with
  | zero => exact ⟨le_rfl, fun h => absurd h (lt_irrefl _), fun k h1 h2 => absurd h2 (by omega)⟩
  | succ c ih =>
    have hcmp := cmpMag_eq (tapMag n (c + 1)).1 (tapMag n (c + 1)).2 m e
    simp only [tapBelow]
    split
    next h =>
      refine ⟨le_rfl, fun _ => ?_, fun k h1 h2 => absurd h2 (by omega)⟩
      rw [hcmp, bne_iff_ne, ne_eq, compare_gt_iff_gt, not_lt] at h
      exact h
    next h =>
      obtain ⟨hle, hval, habove⟩ := ih
      rw [hcmp, bne_iff_ne, not_not, compare_gt_iff_gt] at h
      refine ⟨by omega, hval, fun k h1 h2 => ?_⟩
      obtain h2 | rfl := Nat.le_or_eq_of_le_succ h2
      · exact habove k h1 h2
      · exact h

/-! ### The nearest code (R141) -/

section
variable {n : Nat} (hn : TapRises n) {v : Rat}
include hn

/-- A code above one that is not below the value is further away. -/
theorem farther_above {c k : Nat} (hc : 0 < c) (hv : v ≤ tapVal n c) (hck : c < k) (hk : k < 2 ^ (n - 1)) :
    abs (tapVal n c - v) < abs (tapVal n k - v) := by
  have := hn c k hc hck hk
  rw [abs_of_nonneg (by linarith), abs_of_nonneg (by linarith)]
  linarith

theorem farther_below {c k : Nat} (hv : tapVal n c ≤ v) (hk : 0 < k) (hkc : k < c) (hc : c < 2 ^ (n - 1)) :
    abs (tapVal n c - v) < abs (tapVal n k - v) := by
  have := hn k c hk hkc hc
  rw [abs_of_nonpos (by linarith), abs_of_nonpos (by linarith)]
  linarith

section
variable {l : Nat} (hl : 0 < l) (htop : l + 1 < 2 ^ (n - 1)) (hlo : tapVal n l ≤ v) (hhi : v < tapVal n (l + 1))
include hl htop hlo hhi

/-- Of two neighbours the lower one is the nearest where the value is not beyond the middle. -/
theorem nearest_lower (hmid : 2 * v ≤ tapVal n l + tapVal n (l + 1)) {k : Nat} (hk : 0 < k) (hkt : k < 2 ^ (n - 1)) (hne : k ≠ l) :
    abs (tapVal n l - v) < abs (tapVal n k - v) ∨ (abs (tapVal n l - v) = abs (tapVal n k - v) ∧ 2 * v = tapVal n l + tapVal n (l + 1)) := by
  obtain hlt | hgt := Nat.lt_or_gt_of_ne hne
  · exact .inl (farther_below hn hlo hk hlt (by omega))
  · have hle : tapVal n (l + 1) ≤ tapVal n k := by
      obtain rfl | h := Nat.eq_or_lt_of_le hgt
      · exact le_rfl
      · exact (hn _ _ (by omega) h hkt).le
    rw [abs_of_nonpos (by linarith), abs_of_nonneg (by linarith)]
    obtain h | h := (show -(tapVal n l - v) ≤ tapVal n k - v by linarith).lt_or_eq
    · exact .inl h
    · exact .inr ⟨h, by linarith⟩

theorem nearest_upper (hmid : tapVal n l + tapVal n (l + 1) ≤ 2 * v) {k : Nat} (hk : 0 < k) (hkt : k < 2 ^ (n - 1)) (hne : k ≠ l + 1) :
    abs (tapVal n (l + 1) - v) < abs (tapVal n k - v) ∨
      (abs (tapVal n (l + 1) - v) = abs (tapVal n k - v) ∧ 2 * v = tapVal n l + tapVal n (l + 1)) := by
  obtain hlt | hgt := Nat.lt_or_gt_of_ne hne
  · have hle : tapVal n k ≤ tapVal n l := by
      obtain rfl | h := Nat.eq_or_lt_of_le (Nat.le_of_lt_succ hlt)
      · exact le_rfl
      · exact (hn _ _ hk h (by omega)).le
    rw [abs_of_nonneg (by linarith), abs_of_nonpos (by linarith)]
    obtain h | h := (show tapVal n (l + 1) - v ≤ -(tapVal n k - v) by linarith).lt_or_eq
    · exact .inl h
    · exact .inr ⟨h, by linarith⟩
  · exact .inl (farther_above hn (by omega) hhi.le hgt hkt)

end

end

/-- The code that is nearest to a magnitude, as the model picks it. -/
def tapNearest (n m : Nat) (e : Int) : Nat :=
  let lo := tapBelow n m e (2 ^ (n - 1) - 1)
  if lo = 0 then 1
  else if lo = 2 ^ (n - 1) - 1 then 2 ^ (n - 1) - 1
  else
    match compare (2 * (m * (2 : Rat) ^ e)) (tapVal n lo + tapVal n (lo + 1)) with
    | .lt => lo
    | .gt => lo + 1
    | .eq => if lo % 2 = 0 then lo else lo + 1

/-- The comparison with the middle of two codes is made on whole numbers. -/
theorem cmpMag_middle (m : Nat) (e : Int) (x1 : Nat) (y1 : Int) (x2 : Nat) (y2 : Int) :
    cmpMag m (e + 1) (x1 * 2 ^ (y1 - min y1 y2).toNat + x2 * 2 ^ (y2 - min y1 y2).toNat) (min y1 y2)
      = compare (2 * (m * (2 : Rat) ^ e)) (x1 * (2 : Rat) ^ y1 + x2 * (2 : Rat) ^ y2) := by
  have hval (x : Nat) {y : Int} (h : min y1 y2 ≤ y) : (x : Rat) * 2 ^ (y - min y1 y2).toNat * 2 ^ min y1 y2 = x * 2 ^ y := by
    rw [mul_assoc, ← zpow_natCast, ← zpow_add₀ (by norm_num), Int.toNat_of_nonneg (by omega), Int.sub_add_cancel]
  rw [cmpMag_eq, zpow_add_one₀ (by norm_num)]
  congr 1
  · ring
  · push_cast
    rw [add_mul, hval x1 (min_le_left ..), hval x2 (min_le_right ..)]

theorem tapEncode_fin (n : Nat) (s : Bool) {m : Nat} (hm : m ≠ 0) (e : Int) :
    tapEncode n (.fin s m e) = if s then 2 ^ n - tapNearest n m e else tapNearest n m e := by
  simp only [tapEncode, if_neg hm, cmpMag_middle]
  rfl

/-- R141: it is the nearest code, and the even one of two that are equally near. -/
theorem tapNearest_spec {n : Nat} (hn : TapRises n) (h2 : 2 ≤ n) (m : Nat) (e : Int) :
    0 < tapNearest n m e ∧ tapNearest n m e < 2 ^ (n - 1) ∧ ∀ k, 0 < k → k < 2 ^ (n - 1) → k ≠ tapNearest n m e →
      abs (tapVal n (tapNearest n m e) - m * (2 : Rat) ^ e) < abs (tapVal n k - m * (2 : Rat) ^ e) ∨
        (abs (tapVal n (tapNearest n m e) - m * (2 : Rat) ^ e) = abs (tapVal n k - m * (2 : Rat) ^ e) ∧ tapNearest n m e % 2 = 0) := by
  have hpow : 1 < 2 ^ (n - 1) := Nat.one_lt_two_pow (by omega)
  obtain ⟨hle, hlo, habove⟩ := tapBelow_spec n m e (2 ^ (n - 1) - 1)
  rw [tapNearest]
  generalize tapBelow n m e (2 ^ (n - 1) - 1) = lo at hle hlo habove
  generalize (m : Rat) * 2 ^ e = v at hlo habove
  split
  next h0 =>
    refine ⟨by omega, by omega, fun k hk hkt hne => .inl ?_⟩
    exact farther_above hn (by omega) (habove 1 (by omega) (by omega)).le (by omega) hkt
  next h0 =>
    have hlo := hlo (by omega)
    split
    next htop =>
      rw [htop] at hlo
      exact ⟨by omega, by omega, fun k hk hkt hne => .inl (farther_below hn hlo hk (by omega) (by omega))⟩
    next htop =>
      have hl : 0 < lo := by omega
      have ht : lo + 1 < 2 ^ (n - 1) := by omega
      have hhi := habove (lo + 1) (by omega) (by omega)
      cases hc : compare (2 * v) (tapVal n lo + tapVal n (lo + 1)) with
      | lt =>
        have hc := compare_lt_iff_lt.1 hc
        exact ⟨hl, Nat.lt_of_succ_lt ht, fun k hk hkt hne => (nearest_lower hn hl ht hlo hhi hc.le hk hkt hne).imp_right
          fun h => absurd h.2 hc.ne⟩
      | gt =>
        have hc := compare_gt_iff_gt.1 hc
        exact ⟨Nat.succ_pos lo, ht, fun k hk hkt hne => (nearest_upper hn hl ht hlo hhi hc.le hk hkt hne).imp_right
          fun h => absurd h.2 hc.ne'⟩
      | eq =>
        have hc := compare_eq_iff_eq.1 hc
        by_cases heven : lo % 2 = 0
        · simp only [if_pos heven]
          exact ⟨hl, by omega, fun k hk hkt hne => (nearest_lower hn hl ht hlo hhi hc.le hk hkt hne).imp_right
            fun h => ⟨h.1, heven⟩⟩
        · simp only [if_neg heven]
          exact ⟨by omega, ht, fun k hk hkt hne => (nearest_upper hn hl ht hlo hhi hc.ge hk hkt hne).imp_right
            fun h => ⟨h.1, by omega⟩⟩

theorem tapEncode_code {n : Nat} (hn : TapRises n) (h2 : 2 ≤ n) (s : Bool) {m : Nat} (hm : m ≠ 0) (e : Int) :
    TapCode n s (signed s (m * (2 : Rat) ^ e)) (tapEncode n (.fin s m e)) := by
  obtain ⟨hpos, hlt, hnear⟩ := tapNearest_spec hn h2 m e
  refine ⟨_, hpos, hlt, tapEncode_fin n s hm e, ?_⟩
  rwa [abs_signed, abs_of_nonneg (show (0 : Rat) ≤ m * 2 ^ e by positivity)]

end Sys2Proof.Machine
end

section
/-! CVT: each pair of types by its row (R168 to R170). -/

namespace Sys2Proof.Machine

/-! ### Integer results (R132, R170) -/

/-- The type of the registers that hold a value of an integer type. -/
def regTy (ty : Ty) : Ty :=
  if ty.size = 8 then (if tySigned ty then .s64 else .u64) else (if tySigned ty then .s32 else .u32)

theorem tyBits_regTy (ty : Ty) : tyBits (regTy ty) = 32 * ty.regs := by cases ty <;> rfl

theorem tySigned_regTy (ty : Ty) : tySigned (regTy ty) = tySigned ty := by cases ty <;> rfl

/-- The integer that registers hold is that of their own type. -/
theorem regInt_eq_intVal {ty : Ty} {b : Nat} (hb : b < 2 ^ (32 * ty.regs)) : regInt ty b = intVal (regTy ty) b := by
  simp only [regInt, intVal, tySigned_regTy, tyBits_regTy, Nat.mod_eq_of_lt hb]

theorem regTy_range (ty : Ty) : tyMin (regTy ty) ≤ tyMin ty ∧ tyMax ty ≤ tyMax (regTy ty) := by cases ty <;> decide

/-- R132: a value of an integer type is what its registers hold. -/
theorem regInt_wrapTo {ty : Ty} {n : Int} (h : tyMin ty ≤ n ∧ n ≤ tyMax ty) : regInt ty (wrapTo (32 * ty.regs) n) = n := by
  obtain ⟨hmin, hmax⟩ := regTy_range ty
  rw [regInt_eq_intVal (wrapTo_lt _ _), ← tyBits_regTy]
  exact intVal_wrapTo ⟨hmin.trans h.1, h.2.trans hmax⟩

/-- R132: the registers of a result hold the value of the type that agrees with it modulo 2^w. -/
theorem intRes_eq {ty : Ty} (hty : ty.isAnyInt = true) (n : Int) : intRes ty n = wrapTo (32 * ty.regs) (intVal ty (wrapTo (tyBits ty) n)) := by
  have hwide (h : tyBits ty = 32 * ty.regs) : wrapTo (tyBits ty) n = wrapTo (32 * ty.regs) (intVal ty (wrapTo (tyBits ty) n)) := by
    rw [← h, wrapTo_eq_of_modEq (intVal_modEq ty _), Nat.mod_eq_of_lt (wrapTo_lt _ _)]
  cases ty with
  | u32 | s32 | u64 | s64 => exact hwide rfl
  | u16 | s16 | u8 | s8 => rfl
  | _ => cases hty

theorem intRes_result {ty : Ty} (hty : ty.isAnyInt = true) (n : Int) : IntResult ty n (intRes ty n) := by
  have hmem := intVal_mem ty (wrapTo (tyBits ty) n)
  have hval := regInt_wrapTo hmem
  rw [intRes_eq hty]
  refine ⟨wrapTo_lt _ _, by rw [hval]; exact hmem.1, by rw [hval]; exact hmem.2, ?_⟩
  obtain ⟨q, hq⟩ := ((intVal_modEq ty (wrapTo (tyBits ty) n)).trans (wrapTo_modEq _ n)).dvd
  exact ⟨q, by rw [hval]; linear_combination hq⟩

/-! ### What CVT reads (R134, R138, R140) -/

/-- A number of the model as CVT reads it. -/
def fpRead : Fp → Read
  | .nan sig => .nan sig
  | .inf s => .inf s
  | .fin s m e => .num s (signed s (m * (2 : Rat) ^ e))

/-- R139, R140: a tapered code. -/
def tapRead (n v : Nat) : Read :=
  if v % 2 ^ n = 0 then .num false 0
  else if v % 2 ^ n = 2 ^ (n - 1) then .nan false
  else if v % 2 ^ n < 2 ^ (n - 1) then .num false (tapVal n (v % 2 ^ n)) else .num true (-tapVal n (2 ^ n - v % 2 ^ n))

theorem tapRead_eq {n : Nat} (hn : 1 ≤ n) (v : Nat) : tapRead n v = fpRead (tapOf n v) := by
  have hP : 0 < 2 ^ n := by positivity
  have hlt := Nat.mod_lt v hP
  simp only [tapRead, tapOf]
  generalize v % 2 ^ n = c at hlt
  split
  next => simp [fpRead]
  next =>
    split
    next => rfl
    next =>
      split
      next hpos => rw [Nat.testBit_lt_two_pow hpos]; rfl
      next hneg =>
        rw [Nat.testBit_of_two_pow_le_and_two_pow_add_one_gt (not_lt.1 hneg) (by rwa [Nat.sub_add_cancel hn])]
        rfl

/-- R134: an integer, read exactly. -/
def intFp (x : Int) : Fp := .fin (x < 0) x.natAbs 0

theorem fpRead_intFp (x : Int) : fpRead (intFp x) = .num (decide (x < 0)) x := by
  rw [intFp, fpRead, zpow_zero, mul_one, Nat.cast_natAbs, Int.cast_abs]
  congr 1
  have := signed_abs (x : Rat)
  rwa [decide_eq_decide.2 (Int.cast_lt_zero (R := Rat))] at this

/-- R133, R138: a pattern. -/
def patRead (f : FFmt) (ftz : Bool) (p : Nat) : Read :=
  if patNaN f p then .nan (patSig f p) else if patInf f p then .inf (patNeg f p) else .num (patNeg f p) (patVal f ftz p)

theorem patRead_eq {f : FFmt} (hf : f.Wide) (ftz : Bool) (p : Nat) : patRead f ftz p = fpRead (fpOf f ftz p) := by
  have hview := patView hf ftz p
  rw [patRead]
  generalize fpOf f ftz p = v at hview
  cases hview with
  | nan hnan => rw [hnan]; rfl
  | inf hnan hsig hinf => rw [hnan, hinf]; rfl
  | fin hnan hsig hinf k m hread hk hm =>
    rw [hnan, hinf, ← fpRat_of_grid hread hk hm]
    rfl

/-- What CVT converts: an integer exactly, another type by its format. -/
def cvtSource (src : Ty) (ftz : Bool) (v : Nat) : Fp := if src.isAnyInt then intFp (intVal src v) else tyFp src ftz v

theorem readsAs_eq (src : Ty) (ftz : Bool) (v : Nat) : readsAs src ftz v = fpRead (cvtSource src ftz v) := by
  cases src with
  | u32 | s32 | u64 | s64 | u16 | s16 | u8 | s8 => exact (fpRead_intFp _).symm
  | t8 => exact tapRead_eq (by decide) v
  | t6 => exact tapRead_eq (by decide) v
  | _ => exact patRead_eq (wide_fmtOf _) ftz _

/-! ### The rows (R169, R170) -/

theorem convert_eq (dst src : Ty) (r : Rm) (ftz : Bool) (v : Nat) : convert dst src r ftz v =
    if dst = .t8 ∨ dst = .t6 then (tapEncode (if dst = .t8 then 8 else 6) (cvtSource src ftz v), {})
    else if dst.isAnyInt ∧ src.isAnyInt then (intRes dst (intVal src v), {})
    else if dst.isAnyInt then (intRes dst (toInt dst r (cvtSource src ftz v)).1, (toInt dst r (cvtSource src ftz v)).2)
    else roundFp (fmtOf dst) r ftz (cvtSource src ftz v) := by
  rw [convert, cvtSource]
  cases hsrc : src.isAnyInt <;> cases dst <;> rfl

/-- R141: the row of a tapered destination. -/
theorem tapEncode_rule {n : Nat} (hn : TapRises n) (h2 : 2 ≤ n) (v : Fp) : match fpRead v with
    | .nan _ => tapEncode n v = 2 ^ (n - 1)
    | .inf neg => tapEncode n v = if neg then 2 ^ (n - 1) + 1 else 2 ^ (n - 1) - 1
    | .num neg x => if x = 0 then tapEncode n v = 0 else TapCode n neg x (tapEncode n v) := by
  cases v with
  | nan => rfl
  | inf s =>
    have hpow : 2 ^ n = 2 * 2 ^ (n - 1) := by rw [← pow_succ', Nat.sub_add_cancel (by omega)]
    have hpos : 0 < 2 ^ (n - 1) := by positivity
    cases s
    · rfl
    · show 2 ^ n - (2 ^ (n - 1) - 1) = 2 ^ (n - 1) + 1
      omega
  | fin s m e =>
    simp only [fpRead, signed_eq_zero_iff]
    split
    next h0 =>
      have hm : m = 0 := by simpa [zpow_ne_zero] using h0
      rw [hm]
      rfl
    next h0 =>
      have hm : m ≠ 0 := by
        rintro rfl
        simp at h0
      exact tapEncode_code hn h2 s hm e

/-- R170: the row of an integer destination. -/
theorem toInt_rule {ty : Ty} (hty : ty.isAnyInt = true) (r : Rm) (v : Fp) : match fpRead v with
    | .nan _ => intRes ty (toInt ty r v).1 = 0 ∧ (toInt ty r v).2 = { nv := true }
    | .inf neg => IntResult ty (if neg then tyMin ty else tyMax ty) (intRes ty (toInt ty r v).1) ∧ (toInt ty r v).2 = { nv := true }
    | .num _ x => ∃ n : Int, RoundsInt r x n ∧
      if n < tyMin ty then IntResult ty (tyMin ty) (intRes ty (toInt ty r v).1) ∧ (toInt ty r v).2 = { nv := true }
      else if tyMax ty < n then IntResult ty (tyMax ty) (intRes ty (toInt ty r v).1) ∧ (toInt ty r v).2 = { nv := true }
      else IntResult ty n (intRes ty (toInt ty r v).1) ∧ (toInt ty r v).2 = { nx := decide ((n : Rat) ≠ x) } := by
  cases v with
  | nan =>
    refine ⟨?_, rfl⟩
    cases ty with
    | u32 | s32 | u64 | s64 | u16 | s16 | u8 | s8 => rfl
    | _ => cases hty
  | inf s => exact ⟨intRes_result hty _, rfl⟩
  | fin s m e =>
    obtain ⟨hround, hexact⟩ := roundInt_spec r s m e
    refine ⟨signedInt s (roundInt r s m e).1, hround, ?_⟩
    have hmodel : toInt ty r (.fin s m e) = if signedInt s (roundInt r s m e).1 < tyMin ty then (tyMin ty, { nv := true })
        else if tyMax ty < signedInt s (roundInt r s m e).1 then (tyMax ty, { nv := true })
        else (signedInt s (roundInt r s m e).1, { nx := !(roundInt r s m e).2 }) := rfl
    rw [hmodel]
    split
    next => exact ⟨intRes_result hty _, rfl⟩
    next =>
      split
      next => exact ⟨intRes_result hty _, rfl⟩
      next =>
        refine ⟨intRes_result hty _, congrArg (fun b => ({ nx := b } : Conds)) ?_⟩
        have hval : (signedInt s (roundInt r s m e).1 : Rat) = signed s (m * (2 : Rat) ^ e) ↔ ((roundInt r s m e).1 : Rat) = m * (2 : Rat) ^ e := by
          rw [cast_signedInt]
          cases s <;> simp [signed]
        rw [Bool.eq_iff_iff, Bool.not_eq_true', ← Bool.not_eq_true, hexact, decide_eq_true_iff, ne_eq, hval]

/-- R169: the row of a floating-point destination. -/
theorem roundFp_rule {f : FFmt} (hf : f.Wide) (r : Rm) (ftz : Bool) (v : Fp) : match fpRead v with
    | .nan sig => (roundFp f r ftz v).1 = fmtNaN f ∧ (roundFp f r ftz v).2 = { nv := sig }
    | .inf neg => (roundFp f r ftz v).1 = fmtSign f neg + fmtInf f ∧ (roundFp f r ftz v).2 = {}
    | .num neg x => Rounded f r ftz x neg (roundFp f r ftz v).1 (roundFp f r ftz v).2 := by
  cases v with
  | nan => exact ⟨rfl, rfl⟩
  | inf s => exact ⟨rfl, rfl⟩
  | fin s m e => exact roundFp_fin hf r ftz s m e

/-- R169: CVT converts by the row that matches its types. -/
theorem convert_rule (dst src : Ty) (r : Rm) (ftz : Bool) (v : Nat) :
    ConvertRule dst src r ftz v (convert dst src r ftz v).1 (convert dst src r ftz v).2 := by
  rw [ConvertRule, convert_eq, readsAs_eq]
  split
  next htap =>
    obtain rfl | rfl := htap
    · exact ⟨rfl, tapEncode_rule tapRises_eight (by decide) _⟩
    · exact ⟨rfl, tapEncode_rule tapRises_six (by decide) _⟩
  next =>
    split
    next hint => exact ⟨intRes_result hint.1 _, rfl⟩
    next =>
      split
      next hint => exact toInt_rule hint r _
      next => exact roundFp_rule (wide_fmtOf dst) r ftz _

/-! ### The arms of R168 -/

section
variable (c : Ctl) (dst src : Ty) (r : Rm) (d a b : Opd) (s : State)

theorem exec_cvt : exec (.cvt c dst src r d a) s = execCvt c dst src r d a s := rfl
theorem exec_cvtPack : exec (.cvtPack c r d a b) s = execCvtPack c r d a b s := rfl
theorem exec_cvtHi : exec (.cvtHi c dst r d a) s = execCvtHi c dst r d a s := rfl
theorem exec_cvtSat : exec (.cvtSat c dst src r d a) s = floatWord s c [a] d dst.regs 6 fun s x i t =>
    (intRes dst (clampTo dst (intVal src (srcVal s i.w x a src.regs t))), {}) := rfl

end

/-- A conversion reads the low 16 bits of a BF16 source. -/
theorem ConvertRule.of_mod {dst : Ty} {r : Rm} {ftz : Bool} {v b : Nat} {c : Conds} (h : ConvertRule dst .bf16 r ftz (v % 65536) b c) :
    ConvertRule dst .bf16 r ftz v b c := by
  have hread : readsAs .bf16 ftz (v % 65536) = readsAs .bf16 ftz v := by
    show patRead fmtBF16 ftz (v % 65536 % 65536) = patRead fmtBF16 ftz (v % 65536)
    rw [Nat.mod_mod]
  rw [ConvertRule, hread] at h
  simpa [ConvertRule, Ty.isAnyInt] using h

end Sys2Proof.Machine

open Sys2Proof Sys2Proof.Machine

/-- Settles O11: the source is read as a number of the model, and each row of the destination is a rule about such a number. -/
theorem conversionsFollowTheirTable : Obligations.ConversionsFollowTheirTable := by
  unfold Obligations.ConversionsFollowTheirTable
  refine fun s c w set act r d a h ha => ⟨fun dst src _ _ hf => ?cvt, fun b hf => ?pack, fun dst _ hf => ?hi, fun dst src hdst _ hf => ?sat⟩
  case cvt =>
    refine floatWord_of_packed ((exec_cvt ..).trans rfl) h hf ha (fun u _ => convert dst src r (ftzAt s w) (reads s w a src.regs u))
      (fun u => ?_) fun u e _ => convert_rule ..
    simp only [issueAt_w, srcVal_advance, ftzOf_advance, packed_one]
    rfl
  case pack =>
    refine floatWord_of_packed ((exec_cvtPack ..).trans rfl) h hf ha
      (fun u e => convert .bf16 .f32 r (ftzAt s w) (reads s w (if e = 0 then a else b) 1 u)) (fun u => ?_) fun u e _ => convert_rule ..
    simp only [issueAt_w, srcVal_advance, ftzOf_advance, packed_two]
    rfl
  case hi =>
    refine floatWord_of_packed ((exec_cvtHi ..).trans rfl) h hf ha
      (fun u _ => convert dst .bf16 r (ftzAt s w) (reads s w a 1 u / 65536 % 65536)) (fun u => ?_) fun u e _ => (convert_rule ..).of_mod
    simp only [issueAt_w, srcVal_advance, ftzOf_advance, packed_one]
    rfl
  case sat =>
    refine floatWord_of_packed (exec_cvtSat ..) h hf ha
      (fun u _ => (intRes dst (clampTo dst (intVal src (reads s w a src.regs u))), {})) (fun u => ?_) fun u e _ => ⟨rfl, ?_⟩
    · simp only [issueAt_w, srcVal_advance, packed_one]
      rfl
    · rw [← clampTo_eq]
      exact intRes_result hdst _

end

section
/-! FDIV, FRCP, FSQRT and FRSQ: leading digits of quotients and roots, and their rounding (R166, R167). -/

namespace Sys2Proof.Machine

/-! ### Leading digits of quotients and roots -/

theorem shows_div (a : Nat) {b : Nat} (hb : b ≠ 0) : Shows (a / b) 0 (a % b != 0) ((a : ℝ) / b) := by
  have hb0 : (0 : ℝ) < b := by exact_mod_cast Nat.pos_of_ne_zero hb
  have ha : (a : ℝ) = (a / b : Nat) * b + (a % b : Nat) := by exact_mod_cast (Nat.div_add_mod' a b).symm
  have hlt : ((a % b : Nat) : ℝ) < b := by exact_mod_cast Nat.mod_lt a (Nat.pos_of_ne_zero hb)
  constructor
  · rw [zpow_zero, mul_one, le_div_iff₀ hb0, ha]
    linarith [Nat.cast_nonneg (α := ℝ) (a % b)]
  · rw [zpow_zero, mul_one, div_lt_iff₀ hb0, ha]
    linarith
  · rw [zpow_zero, mul_one, div_eq_iff hb0.ne', ha, add_eq_left, bne_eq_false_iff_eq, Nat.cast_eq_zero]

/-- The model's square root, bit by bit, is the integer square root. -/
theorem isqrt_eq_sqrt_of_lt (x n r : Nat) (hle : r * r ≤ x) (hlt : x < (r + 2 ^ n) * (r + 2 ^ n)) : isqrt x n r = Nat.sqrt x := by
  induction n generalizing r with
  | zero => exact Nat.eq_sqrt.2 ⟨hle, hlt⟩
  | succ n ih =>
    rw [isqrt]
    split
    next h =>
      refine ih _ h ?_
      rw [pow_succ, Nat.mul_two, ← Nat.add_assoc] at hlt
      exact hlt
    next h => exact ih _ hle (not_le.1 h)

theorem isqrt_eq_sqrt (x : Nat) : isqrt x (x.log2 / 2 + 1) 0 = Nat.sqrt x := by
  refine isqrt_eq_sqrt_of_lt x _ 0 (Nat.zero_le _) ?_
  rw [Nat.zero_add, ← pow_add]
  exact (Nat.lt_log2_self (n := x)).trans_le (Nat.pow_le_pow_right (by decide) (by omega))

theorem shows_sqrt (x : Nat) : Shows (Nat.sqrt x) 0 (Nat.sqrt x * Nat.sqrt x != x) (√(x : ℝ)) := by
  constructor
  · rw [zpow_zero, mul_one]
    exact Real.nat_sqrt_le_real_sqrt
  · rw [zpow_zero, mul_one]
    exact Real.real_sqrt_lt_nat_sqrt_succ
  · rw [zpow_zero, mul_one, bne_eq_false_iff_eq, Real.sqrt_eq_iff_mul_self_eq (Nat.cast_nonneg x) (Nat.cast_nonneg _)]
    rw [eq_comm (a := (x : ℝ))]
    exact_mod_cast Iff.rfl

/-- A number of at least 2^64 has more bits than the fraction of any format of the special functions. -/
theorem lt_log2_of_two_pow_le {fb q : Nat} (hfb : fb < 64) (hq : 2 ^ 64 ≤ q) : fb < q.log2 :=
  hfb.trans_le ((Nat.le_log2 (by omega)).2 hq)

/-! ### FDIV and FRCP (R167) -/

/-- The digits of a quotient of two values that are not zero. -/
theorem divParts_shows {m1 m2 : Nat} (hm1 : m1 ≠ 0) (hm2 : m2 ≠ 0) (e1 e2 : Int) :
    Shows (divParts m1 e1 m2 e2).1 (divParts m1 e1 m2 e2).2.1 (divParts m1 e1 m2 e2).2.2 (m1 * (2 : ℝ) ^ e1 / (m2 * (2 : ℝ) ^ e2)) ∧
      2 ^ 64 ≤ (divParts m1 e1 m2 e2).1 := by
  constructor
  · have h := (shows_div (m1 * 2 ^ (128 + m2.log2)) hm2).scale (e1 - e2 - (128 + m2.log2 : Nat))
    rw [zero_add] at h
    have hval (k : Nat) : ((m1 * 2 ^ k : Nat) : ℝ) / m2 * 2 ^ (e1 - e2 - (k : Int)) = m1 * 2 ^ e1 / (m2 * 2 ^ e2) := by
      push_cast
      rw [zpow_sub₀ (by norm_num), zpow_sub₀ (by norm_num), zpow_natCast]
      field_simp
    rwa [hval] at h
  · have hpow : 0 < 2 ^ m2.log2 := by positivity
    have hlt := (Nat.lt_log2_self (n := m2)).le
    show 2 ^ 64 ≤ m1 * 2 ^ (128 + m2.log2) / m2
    rw [Nat.le_div_iff_mul_le (Nat.pos_of_ne_zero hm2)]
    calc 2 ^ 64 * m2 ≤ 2 ^ 64 * 2 ^ (m2.log2 + 1) := Nat.mul_le_mul_left _ hlt
      _ ≤ 2 ^ (128 + m2.log2) := by rw [← pow_add]; exact Nat.pow_le_pow_right (by decide) (by omega)
      _ ≤ m1 * 2 ^ (128 + m2.log2) := Nat.le_mul_of_pos_left _ (Nat.pos_of_ne_zero hm1)

theorem signed_div_signed (s t : Bool) (x y : Rat) : signed s x / signed t y = signed (s != t) (x / y) := by
  cases s <;> cases t <;> simp [signed, neg_div, div_neg]

/-- The quotient of two finite values, rounded. -/
theorem roundMag_div {f : FFmt} (hf : f.Wide) (hfb : f.fb < 64) (r : Rm) (ftz s t : Bool) {m1 m2 : Nat} (hm1 : m1 ≠ 0) (hm2 : m2 ≠ 0)
    (e1 e2 : Int) (zs : Bool) : Rounded f r ftz (signed s (m1 * (2 : Rat) ^ e1) / signed t (m2 * (2 : Rat) ^ e2)) zs
      (roundMag f r ftz (s != t) (divParts m1 e1 m2 e2).1 (divParts m1 e1 m2 e2).2.1 (divParts m1 e1 m2 e2).2.2).1
      (roundMag f r ftz (s != t) (divParts m1 e1 m2 e2).1 (divParts m1 e1 m2 e2).2.1 (divParts m1 e1 m2 e2).2.2).2 := by
  obtain ⟨hshows, hq⟩ := divParts_shows hm1 hm2 e1 e2
  have hpos : (0 : Rat) < m1 * 2 ^ e1 / (m2 * 2 ^ e2) := by
    have : 0 < m1 := Nat.pos_of_ne_zero hm1
    have : 0 < m2 := Nat.pos_of_ne_zero hm2
    positivity
  rw [signed_div_signed]
  refine roundMag_rounded hf r ftz (signed_neg_iff hpos) (by omega) ?_ (fun _ => lt_log2_of_two_pow_le hfb hq) zs
  rw [abs_signed, abs_of_pos hpos]
  push_cast
  exact hshows

theorem fDiv_rule {f : FFmt} (hf : f.Wide) (hfb : f.fb < 64) (r : Rm) (ftz : Bool) (x y : Nat) :
    FloatQuotient f r ftz x y (fDiv f r ftz x y).1 (fDiv f r ftz x y).2 := by
  have hx := patView hf ftz x
  have hy := patView hf ftz y
  have hbig {b : Nat} (h : fmtInf f ≤ patMag f b) : (magRead f ftz b == 0) = false := beq_false_of_ne (hf.magRead_ne_zero ftz h)
  rw [FloatQuotient, fDiv]
  generalize fpOf f ftz x = v at hx
  generalize fpOf f ftz y = w at hy
  cases hx with
  | nan hnx hix =>
    have hzx := hbig (of_decide_eq_true hnx).le
    cases hy with
    | nan hny hiy => simp [hnx, hix, hzx]
    | inf hny hsy hiy => simp [hnx, hix, hzx, hsy]
    | fin hny hsy hiy => simp [hnx, hix, hzx, hsy]
  | inf hnx hsx hix hrx =>
    have hzx : (magRead f ftz x == 0) = false := beq_false_of_ne (hrx ▸ hf.inf_pos.ne')
    cases hy with
    | nan hny hiy => simp [hny, hsx, hiy, hzx]
    | inf hny hsy hiy => simp [hnx, hny, hix, hiy]
    | fin hny hsy hiy => simp [hnx, hny, hix, hiy, hzx]
  | fin hnx hsx hix k m hrx hk hm =>
    cases hy with
    | nan hny hiy =>
      have hzy := hbig (of_decide_eq_true hny).le
      simp [hny, hsx, hix, hzy]
    | inf hny hsy hiy hry =>
      have hzy : (magRead f ftz y == 0) = false := beq_false_of_ne (hry ▸ hf.inf_pos.ne')
      simp [hnx, hny, hix, hiy, hzy]
    | fin hny hsy hiy j n hry hj hn =>
      have hzx : (magRead f ftz x == 0) = decide (m = 0) := by rw [Bool.eq_iff_iff, beq_iff_eq, decide_eq_true_iff, hrx, grid_eq_zero_iff hk]
      have hzy : (magRead f ftz y == 0) = decide (n = 0) := by rw [Bool.eq_iff_iff, beq_iff_eq, decide_eq_true_iff, hry, grid_eq_zero_iff hj]
      simp only [hnx, hny, hix, hiy, hsx, hsy, hzx, hzy, Bool.false_and, Bool.false_or, Bool.false_eq_true, if_false]
      by_cases hn0 : n = 0
      · by_cases hm0 : m = 0
        · simp [hn0, hm0]
        · simp [hn0, hm0]
      · rw [← fpRat_of_grid hrx hk hm, ← fpRat_of_grid hry hj hn]
        by_cases hm0 : m = 0
        · subst hm0
          simp [hn0, fpRat, Rounded]
        · simp only [hn0, hm0, decide_false, Bool.and_false, Bool.false_eq_true, if_false]
          exact roundMag_div hf hfb r ftz _ _ hm0 hn0 _ _ _

end Sys2Proof.Machine
end

section
/-! FSQRT and FRSQ: roots lie among the normal values, and never half-way between two of them (R167). -/

namespace Sys2Proof.Machine

/-! ### Rounding among the normal values -/

/-- A magnitude from the smallest normal up to half the largest power of two rounds without overflow, underflow or flush. -/
theorem roundMag_normal {f : FFmt} (hf : f.Wide) (r : Rm) (ftz s : Bool) {q : Nat} (hq : q ≠ 0) {e : Int} {sticky : Bool} {v : ℝ}
    (h : Shows q e sticky v) (hst : sticky = true → f.fb < q.log2) (hlo : (2 : ℝ) ^ (fmtLow f + f.fb) ≤ v) (hhi : v ≤ 2 ^ (fmtBias f : Int)) :
    ∃ b nx, roundMag f r ftz s q e sticky = (fmtSign f s + b, { nx := nx }) ∧ (nx = true ↔ v ≠ magReal f b) ∧
      PatRounds f (magMode r s) v b ∧ 2 ^ f.fb ≤ b ∧ b < fmtInf f := by
  have hF : 0 < 2 ^ f.fb := by positivity
  have hbias := hf.bias
  obtain ⟨hpat, hexact, -⟩ := gridBits_spec hf r s hq h hst
  have hmin : 2 ^ f.fb ≤ gridBits f r s q e sticky := by
    have := magReal_binade f 0
    rw [Nat.zero_add, Nat.one_mul, Nat.cast_zero, add_zero] at this
    exact hpat.le_of_le (this.trans_le hlo)
  have hmax : gridBits f r s q e sticky < fmtInf f := by
    have hval : magReal f ((2 * fmtBias f - 1 + 1) * 2 ^ f.fb) = 2 ^ (fmtBias f : Int) := by
      rw [magReal_binade, fmtLow]
      congr 1
      push_cast [Nat.cast_sub (by omega : 1 ≤ 2 * fmtBias f)]
      ring
    refine (hpat.ge_of_ge (hhi.trans hval.ge)).trans_lt ?_
    rw [hf.inf_eq]
    exact Nat.mul_lt_mul_of_pos_right (by omega) hF
  have htop : fmtLow f + f.fb ≤ (q.log2 : Int) + e :=
    Int.le_of_lt_add_one ((zpow_lt_zpow_iff_right₀ (by norm_num : (1 : ℝ) < 2)).1 (hlo.trans_lt h.lt_two_pow))
  have htiny : tinyMag f r s q e sticky = false := by
    rw [tinyMag, decide_eq_false (not_lt.2 htop), Bool.false_and]
  have hflush : ¬ (ftz && (roundGrid r s q e sticky (gridExp f q e)).1 != 0 && (roundGrid r s q e sticky (gridExp f q e)).1 < 2 ^ f.fb &&
      gridExp f q e = fmtLow f) = true := by
    simp only [Bool.and_eq_true, decide_eq_true_eq]
    rintro ⟨⟨-, hlt⟩, hg⟩
    rw [gridBits, hg, sub_self, Int.toNat_zero, Nat.zero_mul, Nat.zero_add, ← hg] at hmin
    omega
  refine ⟨_, !(roundGrid r s q e sticky (gridExp f q e)).2, ?_, ?_, hpat, hmin, hmax⟩
  · rw [roundMag_eq f r ftz s hq, if_neg (not_le.2 hmax), if_neg hflush, htiny]
    rfl
  · rw [Bool.not_eq_true', ← Bool.not_eq_true, hexact]

/-! ### Digits of roots -/

theorem sqrt_mul_zpow {x : ℝ} (hx : 0 ≤ x) (j : Int) : √(x * (2 : ℝ) ^ (2 * j)) = √x * (2 : ℝ) ^ j := by
  rw [Real.sqrt_mul hx, two_mul, zpow_add₀ (by norm_num), Real.sqrt_mul_self (by positivity)]

theorem sqrtParts_shows {m : Nat} (hm : m ≠ 0) (e : Int) :
    Shows (sqrtParts m e).1 (sqrtParts m e).2.1 (sqrtParts m e).2.2 (√(m * (2 : ℝ) ^ e)) ∧ 2 ^ 64 ≤ (sqrtParts m e).1 := by
  simp only [sqrtParts, isqrt_eq_sqrt]
  obtain ⟨k, hk⟩ : ∃ k : Nat, k = 128 + (e % 2).toNat := ⟨_, rfl⟩
  rw [← hk]
  constructor
  · have h := (shows_sqrt (m * 2 ^ k)).scale ((e - k) / 2)
    rw [zero_add, ← sqrt_mul_zpow (Nat.cast_nonneg _)] at h
    have hval : ((m * 2 ^ k : Nat) : ℝ) * (2 : ℝ) ^ (2 * ((e - k) / 2)) = m * (2 : ℝ) ^ e := by
      push_cast
      rw [mul_assoc, ← zpow_natCast, ← zpow_add₀ (by norm_num)]
      congr 2
      omega
    rwa [hval] at h
  · rw [Nat.le_sqrt, ← pow_add]
    exact (Nat.pow_le_pow_right (by decide) (by omega)).trans (Nat.le_mul_of_pos_left _ (Nat.pos_of_ne_zero hm))

/-- The digits of a root of a quotient that is no integer: those of the root of its integer part. -/
theorem shows_sqrt_div (a : Nat) {n : Nat} (hn : n ≠ 0) :
    Shows (Nat.sqrt (a / n)) 0 (Nat.sqrt (a / n) * Nat.sqrt (a / n) * n != a) (√((a : ℝ) / n)) := by
  have hn0 : (0 : ℝ) < n := by exact_mod_cast Nat.pos_of_ne_zero hn
  have hpos : (0 : ℝ) ≤ (a : ℝ) / n := by positivity
  constructor
  · rw [zpow_zero, mul_one, Real.le_sqrt (Nat.cast_nonneg _) hpos, le_div_iff₀ hn0]
    have := Nat.mul_le_mul_right n (Nat.sqrt_le (a / n))
    exact_mod_cast (by rw [pow_two]; exact this.trans (Nat.div_mul_le_self a n) : Nat.sqrt (a / n) ^ 2 * n ≤ a)
  · rw [zpow_zero, mul_one, Real.sqrt_lt' (by positivity), div_lt_iff₀ hn0]
    have := (Nat.div_lt_iff_lt_mul (Nat.pos_of_ne_zero hn)).1 (Nat.lt_succ_sqrt (a / n))
    rw [← pow_two] at this
    exact_mod_cast this
  · rw [zpow_zero, mul_one, bne_eq_false_iff_eq, Real.sqrt_eq_iff_mul_self_eq hpos (Nat.cast_nonneg _), div_eq_iff hn0.ne', eq_comm]
    norm_cast

theorem rsqParts_shows {m : Nat} (hm : m ≠ 0) (e : Int) :
    Shows (rsqParts m e).1 (rsqParts m e).2.1 (rsqParts m e).2.2 (√(m * (2 : ℝ) ^ e)⁻¹) ∧ 2 ^ 64 ≤ (rsqParts m e).1 := by
  simp only [rsqParts, isqrt_eq_sqrt]
  obtain ⟨j, hj⟩ : ∃ j : Nat, j = (e % 2).toNat := ⟨_, rfl⟩
  obtain ⟨n, hn⟩ : ∃ n : Nat, n = m * 2 ^ j := ⟨_, rfl⟩
  obtain ⟨k, hk⟩ : ∃ k : Nat, k = 128 + n.log2 := ⟨_, rfl⟩
  rw [← hj, ← hn, ← hk]
  have hn0 : n ≠ 0 := by rw [hn]; positivity
  constructor
  · have h := (shows_sqrt_div (4 ^ k) hn0).scale (-((e - e % 2) / 2) - k)
    rw [zero_add, ← sqrt_mul_zpow (by positivity)] at h
    have hval : ((4 ^ k : Nat) : ℝ) / n * (2 : ℝ) ^ (2 * (-((e - e % 2) / 2) - (k : Int))) = (m * (2 : ℝ) ^ e)⁻¹ := by
      have hexp : 2 * (-((e - e % 2) / 2) - (k : Int)) = -e + j - 2 * k := by omega
      have h4 : ((4 ^ k : Nat) : ℝ) = (2 : ℝ) ^ (2 * (k : Int)) := by
        rw [zpow_mul, zpow_natCast]
        norm_num
      have hm0 : (m : ℝ) ≠ 0 := by exact_mod_cast hm
      rw [hexp, h4, hn, zpow_sub₀ (by norm_num), zpow_add₀ (by norm_num), zpow_neg]
      push_cast
      rw [zpow_natCast]
      field_simp
    rwa [hval] at h
  · have hlt := (Nat.lt_log2_self (n := n)).le
    rw [Nat.le_sqrt, Nat.le_div_iff_mul_le (Nat.pos_of_ne_zero hn0), ← pow_add]
    calc 2 ^ (64 + 64) * n ≤ 2 ^ (64 + 64) * 2 ^ (n.log2 + 1) := Nat.mul_le_mul_left _ hlt
      _ ≤ 2 ^ (2 * k) := by rw [← pow_add]; exact Nat.pow_le_pow_right (by decide) (by omega)
      _ = 4 ^ k := by rw [pow_mul]; norm_num

/-! ### Squares of patterns and of their midpoints -/

section
variable {x v : Rat} (hx : 0 ≤ x)
include hx

theorem cast_lt_sqrt_iff : (x : ℝ) < √(v : ℝ) ↔ x * x < v := by
  rw [Real.lt_sqrt (by exact_mod_cast hx), pow_two]
  exact_mod_cast Iff.rfl

theorem sqrt_le_cast_iff : √(v : ℝ) ≤ x ↔ v ≤ x * x := by rw [← not_lt, cast_lt_sqrt_iff hx, not_lt]

variable (hv : 0 ≤ v)
include hv

theorem cast_le_sqrt_iff : (x : ℝ) ≤ √(v : ℝ) ↔ x * x ≤ v := by
  rw [Real.le_sqrt (by exact_mod_cast hx) (by exact_mod_cast hv), pow_two]
  exact_mod_cast Iff.rfl

theorem sqrt_lt_cast_iff : √(v : ℝ) < x ↔ v < x * x := by rw [← not_le, cast_le_sqrt_iff hx hv, not_le]

theorem sqrt_eq_cast_iff : √(v : ℝ) = x ↔ x * x = v := by
  rw [le_antisymm_iff, le_antisymm_iff, sqrt_le_cast_iff hx, cast_le_sqrt_iff hx hv, and_comm]

end

/-- An odd number has the fewest digits of all that differ from it by a power of two. -/
theorem odd_le_of_mul_zpow_eq {a m : Nat} (ha : a % 2 = 1) {i j : Int} (h : (a : Rat) * 2 ^ i = m * 2 ^ j) : a ≤ m := by
  obtain hle | hlt := le_or_gt j i
  · have hm : (a : Rat) * 2 ^ (i - j).toNat = m := by
      rw [← zpow_natCast, Int.toNat_of_nonneg (by omega), zpow_sub₀ (by norm_num), ← mul_div_assoc, h]
      field_simp
    have hm : a * 2 ^ (i - j).toNat = m := by exact_mod_cast hm
    exact hm ▸ Nat.le_mul_of_pos_right a (by positivity)
  · have hm : (m : Rat) * 2 ^ (j - i).toNat = a := by
      rw [← zpow_natCast, Int.toNat_of_nonneg (by omega), zpow_sub₀ (by norm_num), ← mul_div_assoc, ← h]
      field_simp
    have hm : m * 2 ^ (j - i).toNat = a := by exact_mod_cast hm
    obtain ⟨d, hd⟩ := Nat.exists_eq_succ_of_ne_zero (by omega : (j - i).toNat ≠ 0)
    rw [hd, pow_succ, ← Nat.mul_assoc] at hm
    omega

/-- No value of the format is the square of a midpoint of two neighbours, unless these are subnormal. -/
theorem midpoint_sq_ne {f : FFmt} (hf : f.Wide) {p m : Nat} (hp : 2 ^ f.fb ≤ p + 1) (hm : m < 2 ^ (f.fb + 1)) (e : Int) :
    (magVal f p + magVal f (p + 1)) * (magVal f p + magVal f (p + 1)) ≠ 4 * (m * (2 : Rat) ^ e) := by
  obtain ⟨k, n, rfl, hk, hn⟩ := exists_grid f p
  have hF : 2 ≤ 2 ^ f.fb := Nat.pow_le_pow_right (n := 2) (by decide) hf.fb_pos
  have hn2 : 2 ^ f.fb ≤ n + 1 := by
    obtain rfl | hk := hk
    · omega
    · omega
  rw [Nat.add_assoc, magVal_grid f hk hn.le, magVal_grid f (hk.imp_right (by omega)) hn]
  intro h
  have hodd : ((2 * n + 1) * (2 * n + 1)) % 2 = 1 := by rw [Nat.mul_mod, Nat.mul_add_mod]
  have hle := odd_le_of_mul_zpow_eq (a := (2 * n + 1) * (2 * n + 1)) (m := m) (i := (fmtLow f + k) + (fmtLow f + k)) (j := e + 2) hodd (by
    rw [zpow_add₀ (by norm_num) (fmtLow f + (k : Int)), zpow_add₀ (by norm_num) e, zpow_two]
    push_cast at h ⊢
    linear_combination h)
  rw [pow_succ] at hm
  have : 3 * (2 * n + 1) ≤ (2 * n + 1) * (2 * n + 1) := Nat.mul_le_mul_right _ (by omega)
  omega

/-- The nearest pattern is at least as near as each of its neighbours. -/
theorem midpoints_of_nearest {f : FFmt} {t : ℝ} {b : Nat} (hb : 0 < b) (h : ∀ p, |magReal f b - t| ≤ |magReal f p - t|) :
    magReal f (b - 1) + magReal f b ≤ 2 * t ∧ 2 * t ≤ magReal f b + magReal f (b + 1) := by
  have hlow := magReal_strictMono f (Nat.sub_lt hb Nat.one_pos)
  have hhigh := magReal_strictMono f (Nat.lt_succ_self b)
  constructor
  · have := sq_le_sq.2 (h (b - 1))
    nlinarith
  · have := sq_le_sq.2 (h (b + 1))
    rw [Nat.succ_eq_add_one] at hhigh
    nlinarith

/-! ### FSQRT and FRSQ (R167) -/

/-- The rule of a root, by the mode. -/
def RootRounds (f : FFmt) (r : Rm) (v : Rat) (b : Nat) : Prop :=
  let m := magVal f
  match r with
  | .rz | .rm => m b * m b ≤ v ∧ v < m (b + 1) * m (b + 1)
  | .rp => v ≤ m b * m b ∧ m (b - 1) * m (b - 1) < v
  | .rn | .ra => (m (b - 1) + m b) * (m (b - 1) + m b) < 4 * v ∧ 4 * v < (m b + m (b + 1)) * (m b + m (b + 1))

section
variable {f : FFmt} (hf : f.Wide) {m : Nat} (hm : m < 2 ^ (f.fb + 1)) {e : Int} {v : Rat} (hv : v = m * 2 ^ e) {b : Nat} (hb : 2 ^ f.fb ≤ b)
include hf hm hv hb

/-- A root is never half-way between two normal patterns, so the nearer one is strictly nearer. -/
theorem nearest_root (h : ∀ p, |magReal f b - √(v : ℝ)| ≤ |magReal f p - √(v : ℝ)|) :
    (magVal f (b - 1) + magVal f b) * (magVal f (b - 1) + magVal f b) < 4 * v ∧
      4 * v < (magVal f b + magVal f (b + 1)) * (magVal f b + magVal f (b + 1)) := by
  have hF : 0 < 2 ^ f.fb := by positivity
  have hsucc : b - 1 + 1 = b := by omega
  obtain ⟨hlow, hhigh⟩ := midpoints_of_nearest (by omega) h
  have hlow : (((magVal f (b - 1) + magVal f b) / 2 : Rat) : ℝ) ≤ √(v : ℝ) := by
    push_cast
    rw [magReal, magReal] at hlow
    linarith
  have hhigh : √(v : ℝ) ≤ (((magVal f b + magVal f (b + 1)) / 2 : Rat) : ℝ) := by
    push_cast
    rw [magReal, magReal] at hhigh
    linarith
  have hv0 : 0 ≤ v := by rw [hv]; positivity
  rw [cast_le_sqrt_iff (div_nonneg (add_nonneg (magVal_nonneg f _) (magVal_nonneg f _)) (by norm_num)) hv0] at hlow
  rw [sqrt_le_cast_iff (div_nonneg (add_nonneg (magVal_nonneg f _) (magVal_nonneg f _)) (by norm_num))] at hhigh
  have hne1 := midpoint_sq_ne hf (p := b - 1) (by omega) hm e
  have hne2 := midpoint_sq_ne hf (p := b) (by omega) hm e
  rw [hsucc, ← hv] at hne1
  rw [← hv] at hne2
  exact ⟨lt_of_le_of_ne (by linarith) hne1, lt_of_le_of_ne (by linarith) hne2.symm⟩

theorem rootRounds_of_patRounds {r : Rm} (h : PatRounds f (magMode r false) (√(v : ℝ)) b) : RootRounds f r v b := by
  have hF : 0 < 2 ^ f.fb := by positivity
  have hnear {tie : Nat → Prop} (h : ∀ p, p ≠ b → |magReal f b - √(v : ℝ)| < |magReal f p - √(v : ℝ)| ∨
      (|magReal f b - √(v : ℝ)| = |magReal f p - √(v : ℝ)| ∧ tie p)) (p : Nat) : |magReal f b - √(v : ℝ)| ≤ |magReal f p - √(v : ℝ)| := by
    obtain rfl | hp := eq_or_ne p b
    · exact le_rfl
    · exact (h p hp).elim le_of_lt fun h => h.1.le
  have hv0 : 0 ≤ v := by rw [hv]; positivity
  have hdown (h : PatRounds f .down (√(v : ℝ)) b) : magVal f b * magVal f b ≤ v ∧ v < magVal f (b + 1) * magVal f (b + 1) := by
    refine ⟨(cast_le_sqrt_iff (magVal_nonneg f b) hv0).1 h.1, (sqrt_lt_cast_iff (magVal_nonneg f _) hv0).1 (not_le.1 fun hle => ?_)⟩
    have := h.2 (b + 1) hle
    omega
  cases r with
  | rn => exact nearest_root hf hm hv hb (hnear h)
  | ra => exact nearest_root hf hm hv hb (hnear h)
  | rz => exact hdown h
  | rm => exact hdown h
  | rp => exact ⟨(sqrt_le_cast_iff (magVal_nonneg f b)).1 h.1, (cast_lt_sqrt_iff (magVal_nonneg f _)).1 (h.2 (b - 1) (by omega))⟩

end

/-- The neighbours of a pattern to which a value rounds, down or up, lie on both sides of it. -/
theorem neighbours_of_directed {f : FFmt} {k : MagMode} (hk : k = .down ∨ k = .up) {t : ℝ} {b : Nat} (hb : 0 < b) (h : PatRounds f k t b) :
    magReal f (b - 1) < t ∧ t < magReal f (b + 1) := by
  have hlow := magReal_strictMono f (Nat.sub_lt hb Nat.one_pos)
  have hhigh := magReal_strictMono f (Nat.lt_succ_self b)
  obtain rfl | rfl := hk
  · refine ⟨hlow.trans_le h.1, not_le.1 fun hle => ?_⟩
    have := h.2 _ hle
    omega
  · exact ⟨h.2 _ (Nat.sub_lt hb Nat.one_pos), h.1.trans_lt hhigh⟩

/-- The values of a format that are not zero. -/
theorem finite_mem {f : FFmt} (hf : f.Wide) {p : Nat} (hp : p ≠ 0) (hlt : p < fmtInf f) :
    (2 : ℝ) ^ fmtLow f ≤ magVal f p ∧ (magVal f p : ℝ) ≤ (2 : ℝ) ^ ((fmtBias f : Int) + 1) := by
  constructor
  · have h1 := magReal_grid f (k := 0) (n := 1) (.inl rfl) (Nat.one_le_two_pow)
    rw [Nat.zero_mul, Nat.zero_add, Nat.cast_one, one_mul, Nat.cast_zero, add_zero] at h1
    exact h1.symm.trans_le ((magReal_strictMono f).monotone (Nat.one_le_iff_ne_zero.2 hp))
  · have hinf : ((magVal f (fmtInf f) : Rat) : ℝ) = (2 : ℝ) ^ ((fmtBias f : Int) + 1) := by
      rw [hf.magVal_inf]
      push_cast
      rfl
    exact ((magReal_strictMono f).monotone hlt.le).trans hinf.le

theorem sqrt_two_zpow (j : Int) : √((2 : ℝ) ^ (2 * j)) = (2 : ℝ) ^ j := by
  have := sqrt_mul_zpow (zero_le_one' ℝ) j
  simpa using this

section
variable {f : FFmt} (hf : f.Wide) (hfb : f.fb < 64) {k m p : Nat} (hp : p = k * 2 ^ f.fb + m) (hk : k = 0 ∨ 2 ^ f.fb ≤ m)
  (hm : m < 2 ^ (f.fb + 1)) (hm0 : m ≠ 0) (hlt : p < fmtInf f)
include hf hfb hp hk hm hm0 hlt

theorem fsqrt_fin (r : Rm) (ftz : Bool) : ∃ b nx,
    roundMag f r ftz false (sqrtParts m (fmtLow f + k)).1 (sqrtParts m (fmtLow f + k)).2.1 (sqrtParts m (fmtLow f + k)).2.2 = (b, { nx := nx }) ∧
      0 < b ∧ b < fmtInf f ∧ nx = decide (magVal f b * magVal f b ≠ magVal f p) ∧ RootRounds f r (magVal f p) b := by
  have hF : 0 < 2 ^ f.fb := by positivity
  have hbias := hf.bias
  have hval : magVal f p = m * 2 ^ (fmtLow f + k) := by rw [hp, magVal_grid f hk hm.le]
  obtain ⟨hmin, hmax⟩ := finite_mem hf (p := p) (by rw [hp, ne_eq, grid_eq_zero_iff hk]; exact hm0) hlt
  obtain ⟨hshows, hq⟩ := sqrtParts_shows hm0 (fmtLow f + k)
  have hroot : √((m : ℝ) * 2 ^ (fmtLow f + (k : Int))) = √((magVal f p : Rat) : ℝ) := by
    rw [hval]
    push_cast
    rfl
  rw [hroot] at hshows
  obtain ⟨b, nx, hround, hnx, hpat, hlow, hinf⟩ := roundMag_normal hf r ftz false (by omega) hshows (fun _ => lt_log2_of_two_pow_le hfb hq)
    (by rw [← sqrt_two_zpow]
        exact Real.sqrt_le_sqrt ((zpow_le_zpow_right₀ (by norm_num) (by rw [fmtLow]; omega)).trans hmin))
    (by rw [← sqrt_two_zpow]
        exact Real.sqrt_le_sqrt (hmax.trans (zpow_le_zpow_right₀ (by norm_num) (by omega))))
  have hsign : fmtSign f false + b = b := Nat.zero_add b
  rw [hsign] at hround
  refine ⟨b, nx, hround, by omega, hinf, ?_, rootRounds_of_patRounds hf hm hval hlow hpat⟩
  rw [Bool.eq_iff_iff, hnx, magReal, ne_eq, sqrt_eq_cast_iff (magVal_nonneg f b) (magVal_nonneg f p), decide_eq_true_iff]

theorem frsq_fin {r : Rm} (hr : r = .rp ∨ r = .rz) (ftz : Bool) : ∃ b nx,
    roundMag f r ftz false (rsqParts m (fmtLow f + k)).1 (rsqParts m (fmtLow f + k)).2.1 (rsqParts m (fmtLow f + k)).2.2 = (b, { nx := nx }) ∧
      0 < b ∧ b < fmtInf f ∧ nx = decide (magVal f b * magVal f b * magVal f p ≠ 1) ∧
      magVal f (b - 1) * magVal f (b - 1) * magVal f p < 1 ∧ 1 < magVal f (b + 1) * magVal f (b + 1) * magVal f p := by
  have hF : 0 < 2 ^ f.fb := by positivity
  have hbias := hf.bias
  have hval : magVal f p = m * 2 ^ (fmtLow f + k) := by rw [hp, magVal_grid f hk hm.le]
  obtain ⟨hmin, hmax⟩ := finite_mem hf (p := p) (by rw [hp, ne_eq, grid_eq_zero_iff hk]; exact hm0) hlt
  have hfb0 := hf.fb_pos
  have hpos : (0 : ℝ) < magVal f p := lt_of_lt_of_le (by positivity) hmin
  have hposQ : (0 : Rat) < magVal f p := by exact_mod_cast hpos
  obtain ⟨hshows, hq⟩ := rsqParts_shows hm0 (fmtLow f + k)
  have hroot : √((m : ℝ) * 2 ^ (fmtLow f + (k : Int)))⁻¹ = √(((magVal f p)⁻¹ : Rat) : ℝ) := by
    rw [hval]
    push_cast
    rfl
  rw [hroot] at hshows
  obtain ⟨b, nx, hround, hnx, hpat, hlow, hinf⟩ := roundMag_normal hf r ftz false (by omega) hshows (fun _ => lt_log2_of_two_pow_le hfb hq)
    (by rw [← sqrt_two_zpow, Rat.cast_inv]
        refine Real.sqrt_le_sqrt ((zpow_le_zpow_right₀ (by norm_num) ?_).trans ((zpow_neg _ _).le.trans (inv_anti₀ hpos hmax)))
        rw [fmtLow]; omega)
    (by rw [← sqrt_two_zpow, Rat.cast_inv]
        refine Real.sqrt_le_sqrt ((inv_anti₀ (by positivity) hmin).trans ((zpow_neg _ _).ge.trans (zpow_le_zpow_right₀ (by norm_num) ?_)))
        rw [fmtLow]; omega)
  have hsign : fmtSign f false + b = b := Nat.zero_add b
  rw [hsign] at hround
  obtain ⟨hbelow, habove⟩ := neighbours_of_directed (by rcases hr with rfl | rfl; exacts [.inr rfl, .inl rfl]) (by omega) hpat
  rw [magReal, cast_lt_sqrt_iff (magVal_nonneg f _), ← one_div, lt_div_iff₀ hposQ] at hbelow
  rw [magReal, sqrt_lt_cast_iff (magVal_nonneg f _) (inv_nonneg.2 hposQ.le), inv_lt_iff_one_lt_mul₀ hposQ] at habove
  refine ⟨b, nx, hround, by omega, hinf, ?_, hbelow, habove⟩
  rw [Bool.eq_iff_iff, hnx, magReal, ne_eq, sqrt_eq_cast_iff (magVal_nonneg f b) (inv_nonneg.2 hposQ.le), decide_eq_true_iff, ne_eq,
    mul_eq_one_iff_eq_inv₀ hposQ.ne']

end

end Sys2Proof.Machine
end

section
/-! The special functions: FSQRT and FRSQ of every pattern, the special inputs and the exact cases of the approximate functions (R167). -/

namespace Sys2Proof.Machine

/-! ### FSQRT and FRSQ -/

/-- The value of a finite pattern whose sign is not set. -/
theorem patVal_of_not_neg {f : FFmt} {ftz : Bool} {b : Nat} (h : patNeg f b = false) : patVal f ftz b = magVal f (magRead f ftz b) := by
  rw [patVal_eq, h]
  rfl

theorem fSqrt_rule {f : FFmt} (hf : f.Wide) (hfb : f.fb < 64) (r : Rm) (ftz : Bool) (x : Nat) :
    FloatRoot f r ftz x (fSqrt f r ftz x).1 (fSqrt f r ftz x).2 := by
  have hx := patView hf ftz x
  unfold FloatRoot
  rw [fSqrt]
  generalize fpOf f ftz x = v at hx
  cases hx with
  | nan hnan => simp [hnan]
  | inf hnan hsig hinf hread => cases hneg : patNeg f x <;> simp [hnan, hinf, hread, hf.inf_pos.ne']
  | fin hnan hsig hinf k m hread hk hm =>
    have hzero : magRead f ftz x = 0 ↔ m = 0 := by rw [hread, grid_eq_zero_iff hk]
    by_cases hm0 : m = 0
    · simp [hnan, hzero, hm0]
    · cases hneg : patNeg f x with
      | true => simp [hnan, hzero, hm0]
      | false =>
        have hlt := (magRead_le f ftz x).trans_lt (patMag_lt_inf hnan hinf)
        obtain ⟨b, nx, hround, hpos, hfin, hnx, hroot⟩ := fsqrt_fin hf hfb hread hk hm hm0 hlt r ftz
        simp only [hnan, hzero, hm0, hinf, Bool.false_eq_true, if_false, hround, hnx, patVal_of_not_neg hneg]
        exact ⟨hpos, hfin, trivial, hroot⟩

theorem fRsq_rule {f : FFmt} (hf : f.Wide) (hfb : f.fb < 64) (ftz : Bool) (x : Nat) :
    FloatReciprocalRoot f ftz x (fRsq f ftz x).1 (fRsq f ftz x).2 := by
  have hx := patView hf ftz x
  rw [FloatReciprocalRoot, fRsq]
  generalize fpOf f ftz x = v at hx
  cases hx with
  | nan hnan => simp [hnan]
  | inf hnan hsig hinf hread => cases hneg : patNeg f x <;> simp [hnan, hinf, hread, hf.inf_pos.ne']
  | fin hnan hsig hinf k m hread hk hm =>
    have hzero : magRead f ftz x = 0 ↔ m = 0 := by rw [hread, grid_eq_zero_iff hk]
    by_cases hm0 : m = 0
    · simp [hnan, hzero, hm0]
    · cases hneg : patNeg f x with
      | true => simp [hnan, hzero, hm0]
      | false =>
        have hlt := (magRead_le f ftz x).trans_lt (patMag_lt_inf hnan hinf)
        have hmode : (if Config.frsqUp (BitVec.ofNat 64 x) ftz then Rm.rp else .rz) = .rp ∨
            (if Config.frsqUp (BitVec.ofNat 64 x) ftz then Rm.rp else .rz) = .rz := by split <;> simp
        obtain ⟨b, nx, hround, hpos, hfin, hnx, hsides⟩ := frsq_fin hf hfb hread hk hm hm0 hlt hmode ftz
        simp only [hnan, hzero, hm0, hinf, Bool.false_eq_true, if_false, hround, hnx, patVal_of_not_neg hneg]
        exact ⟨hpos, hfin, trivial, hsides⟩

/-! ### FSIN, FCOS and FTANH -/

section
variable (c : Ctl) (d a : Opd) (ftz : Bool) (x : Nat)

theorem fSin_rule : ApproxRule (.fsin c d a) ftz x (fSinCos false ftz x).1 (fSinCos false ftz x).2 := by
  have hx := patView wide_fmtF32 ftz x
  simp only [ApproxRule, fSinCos]
  generalize fpOf fmtF32 ftz x = v at hx
  cases hx with
  | nan hnan => simp [hnan]
  | inf hnan hsig hinf hread => simp [hnan, hinf]
  | fin hnan hsig hinf k m hread hk hm =>
    have hzero : magRead fmtF32 ftz x = 0 ↔ m = 0 := by rw [hread, grid_eq_zero_iff hk]
    by_cases hm0 : m = 0
    · simp [hnan, hinf, hzero, hm0]
    · simp [hnan, hinf, hzero, hm0, approxOut]

theorem fCos_rule : ApproxRule (.fcos c d a) ftz x (fSinCos true ftz x).1 (fSinCos true ftz x).2 := by
  have hx := patView wide_fmtF32 ftz x
  have hone : fmtOne fmtF32 = 0x3F800000 := by decide
  simp only [ApproxRule, fSinCos]
  generalize fpOf fmtF32 ftz x = v at hx
  cases hx with
  | nan hnan => simp [hnan]
  | inf hnan hsig hinf hread => simp [hnan, hinf]
  | fin hnan hsig hinf k m hread hk hm =>
    have hzero : magRead fmtF32 ftz x = 0 ↔ m = 0 := by rw [hread, grid_eq_zero_iff hk]
    by_cases hm0 : m = 0
    · simp [hnan, hinf, hzero, hm0, hone]
    · simp [hnan, hinf, hzero, hm0, approxOut]

theorem fTanh_rule : ApproxRule (.ftanh c d a) ftz x (fTanh ftz x).1 (fTanh ftz x).2 := by
  have hx := patView wide_fmtF32 ftz x
  have hone : fmtOne fmtF32 = 0x3F800000 := by decide
  simp only [ApproxRule, fTanh]
  generalize fpOf fmtF32 ftz x = v at hx
  cases hx with
  | nan hnan => simp [hnan]
  | inf hnan hsig hinf hread => simp [hnan, hinf, hone]
  | fin hnan hsig hinf k m hread hk hm =>
    have hzero : magRead fmtF32 ftz x = 0 ↔ m = 0 := by rw [hread, grid_eq_zero_iff hk]
    by_cases hm0 : m = 0
    · simp [hnan, hinf, hzero, hm0]
    · simp [hnan, hinf, hzero, hm0, approxOut]

end

/-! ### FEX2 -/

/-- The integer part of a magnitude, and whether there is no other part, as FEX2 computes them. -/
def wholePart (m : Nat) (e : Int) : Nat := if 0 ≤ e then m * 2 ^ e.toNat else m / 2 ^ (-e).toNat
def isWhole (m : Nat) (e : Int) : Bool := m = 0 || 0 ≤ e || m % 2 ^ (-e).toNat = 0

theorem wholePart_spec (m : Nat) (e : Int) : wholePart m e = ⌊(m : Rat) * 2 ^ e⌋₊ ∧
    (isWhole m e = true ↔ (m : Rat) * 2 ^ e = ⌊(m : Rat) * 2 ^ e⌋₊) := by
  rw [wholePart, isWhole]
  by_cases he : 0 ≤ e
  · have hval : (m : Rat) * 2 ^ e = ((m * 2 ^ e.toNat : Nat) : Rat) := by
      push_cast
      rw [← zpow_natCast, Int.toNat_of_nonneg he]
    rw [hval, Nat.floor_natCast]
    simp [he]
  · have hval : (m : Rat) * 2 ^ e = (m : Rat) / ((2 ^ (-e).toNat : Nat) : Rat) := by
      push_cast
      rw [← zpow_natCast, Int.toNat_of_nonneg (by omega), zpow_neg, div_inv_eq_mul]
    have hpos : (0 : Rat) < ((2 ^ (-e).toNat : Nat) : Rat) := by positivity
    rw [if_neg he, hval, Nat.floor_div_eq_div, decide_eq_false he, Bool.or_false, div_eq_iff hpos.ne']
    refine ⟨rfl, ?_⟩
    have hdiv := Nat.div_add_mod' m (2 ^ (-e).toNat)
    norm_cast
    simp only [Bool.or_eq_true, decide_eq_true_eq]
    constructor
    · rintro (rfl | h)
      · simp
      · omega
    · intro h
      exact .inr (by omega)

/-- A value is an integer where its magnitude is a whole number. -/
theorem signed_eq_floor_iff (s : Bool) {w : Rat} (hw : 0 ≤ w) : signed s w = ⌊signed s w⌋ ↔ w = ⌊w⌋₊ := by
  constructor
  · intro h
    have habs : w = ((⌊signed s w⌋.natAbs : Nat) : Rat) := by
      rw [Nat.cast_natAbs, Int.cast_abs, ← h, abs_signed, abs_of_nonneg hw]
    rw [habs, Nat.floor_natCast]
  · intro h
    have hint : signed s w = (signedInt s ⌊w⌋₊ : Rat) := by rw [cast_signedInt, ← h]
    rw [hint, Int.floor_intCast]

/-- A power of two in the range of the normal values of FP32 is exact. -/
theorem roundMag_two_pow (ftz : Bool) {n : Int} (hlo : -126 ≤ n) (hhi : n ≤ 127) : ∃ p, p < fmtInf fmtF32 ∧ magVal fmtF32 p = 2 ^ n ∧
    roundMag fmtF32 .rn ftz false 1 n false = (p, {}) := by
  obtain ⟨k, rfl⟩ : ∃ k : Nat, n = (k : Int) - 126 := ⟨(n + 126).toNat, by omega⟩
  have hlow : fmtLow fmtF32 + fmtF32.fb + k = (k : Int) - 126 := by rw [show fmtLow fmtF32 + fmtF32.fb = -126 from rfl]; ring
  have hval := magVal_binade fmtF32 k
  rw [hlow] at hval
  have hlt : (k + 1) * 2 ^ fmtF32.fb < fmtInf fmtF32 := by
    show (k + 1) * 2 ^ 23 < 255 * 2 ^ 23
    omega
  refine ⟨_, hlt, hval, ?_⟩
  rw [roundMag_of_magVal wide_fmtF32 .rn false (by rw [hval, Nat.cast_one, one_mul]) hlt fun _ => .inr (Nat.le_mul_of_pos_left _ (Nat.succ_pos k))]
  rw [show fmtSign fmtF32 false = 0 from rfl, Nat.zero_add]

theorem fEx2_fin_eq {ftz : Bool} {x : Nat} {s : Bool} {m : Nat} {e : Int} (h : fpOf fmtF32 ftz x = .fin s m e) : ∃ y,
    fEx2 ftz x = if (!s && decide (128 ≤ wholePart m e)) = true then (fmtInf fmtF32, { ofl := true, nx := true })
      else if (isWhole m e && !(s && decide (126 < wholePart m e))) = true then ((roundMag fmtF32 .rn ftz false 1 (signedInt s (wholePart m e)) false).1, {})
      else (y, { nx := true, uf := s && decide (126 ≤ wholePart m e) }) := by
  rw [fEx2, h]
  exact ⟨_, rfl⟩

section
variable (s : Bool) {w : Rat} (hw : 0 ≤ w)
include hw

theorem le_signed_iff : (!s && decide (128 ≤ ⌊w⌋₊)) = true ↔ 128 ≤ signed s w := by
  rw [Bool.and_eq_true, decide_eq_true_iff, Nat.le_floor_iff hw]
  cases s
  · simp [signed]
  · simp only [signed, if_true, Bool.not_true, Bool.false_eq_true, false_and, false_iff, not_le]
    linarith

theorem signed_le_iff : (s && decide (126 ≤ ⌊w⌋₊)) = true ↔ signed s w ≤ -126 := by
  rw [Bool.and_eq_true, decide_eq_true_iff, Nat.le_floor_iff hw]
  cases s
  · simp only [signed, Bool.false_eq_true, if_false, false_and, false_iff, not_le]
    linarith
  · simp [signed]

theorem le_signed_of_whole_iff (h : w = ⌊w⌋₊) : (!(s && decide (126 < ⌊w⌋₊))) = true ↔ -126 ≤ signed s w := by
  rw [Bool.not_eq_true', Bool.and_eq_false_iff, decide_eq_false_iff_not, not_lt, ← Nat.cast_le (α := Rat), ← h]
  cases s
  · simp only [signed, Bool.false_eq_true, if_false, true_or, true_iff]
    linarith
  · simp [signed]

end

/-- FEX2 of a finite value, by that value. -/
theorem fEx2_fin {ftz : Bool} {x : Nat} {s : Bool} {m : Nat} {e : Int} {w v : Rat} (h : fpOf fmtF32 ftz x = .fin s m e)
    (hw : w = m * 2 ^ e) (hv : v = signed s w) : ∃ y,
    fEx2 ftz x = if 128 ≤ v then (fmtInf fmtF32, { ofl := true, nx := true })
      else if v = ⌊v⌋ ∧ -126 ≤ v then ((roundMag fmtF32 .rn ftz false 1 (signedInt s ⌊w⌋₊) false).1, {})
      else (y, { nx := true, uf := decide (v ≤ -126) }) := by
  obtain ⟨y, hmodel⟩ := fEx2_fin_eq h
  obtain ⟨hn, hwhole⟩ := wholePart_spec m e
  have hw0 : 0 ≤ w := by rw [hw]; positivity
  rw [hn, ← hw] at hmodel
  rw [← hw] at hwhole
  subst hv
  have hexact : (isWhole m e && !(s && decide (126 < ⌊w⌋₊))) = true ↔ signed s w = ⌊signed s w⌋ ∧ -126 ≤ signed s w := by
    rw [Bool.and_eq_true, hwhole, signed_eq_floor_iff s hw0]
    exact and_congr_right (le_signed_of_whole_iff s hw0)
  have huf : (s && decide (126 ≤ ⌊w⌋₊)) = decide (signed s w ≤ -126) := by
    rw [Bool.eq_iff_iff, signed_le_iff s hw0, decide_eq_true_iff]
  rw [huf] at hmodel
  exact ⟨y, hmodel.trans (if_congr (le_signed_iff s hw0) rfl (if_congr hexact rfl rfl))⟩

theorem fEx2_rule (c : Ctl) (d a : Opd) (ftz : Bool) (x : Nat) : ApproxRule (.fex2 c d a) ftz x (fEx2 ftz x).1 (fEx2 ftz x).2 := by
  have hx := patView wide_fmtF32 ftz x
  simp only [ApproxRule]
  generalize hv : fpOf fmtF32 ftz x = v at hx
  cases hx with
  | nan hnan => simp [fEx2, hv, hnan]
  | inf hnan hsig hinf hread => simp [fEx2, hv, hnan, hinf]
  | fin hnan hsig hinf k m hread hk hm =>
    obtain ⟨w, hw⟩ : ∃ w : Rat, w = m * 2 ^ (fmtLow fmtF32 + (k : Int)) := ⟨_, rfl⟩
    have hval : patVal fmtF32 ftz x = signed (patNeg fmtF32 x) w := by rw [hw, ← fpRat_of_grid hread hk hm, fpRat]
    obtain ⟨y, hmodel⟩ := fEx2_fin hv hw hval
    have hw0 : 0 ≤ w := by rw [hw]; positivity
    simp only [hnan, hinf, Bool.false_eq_true, if_false, hmodel]
    split
    next => exact ⟨rfl, rfl⟩
    next hbig =>
      split
      next hsmall =>
        obtain ⟨hint, hlo⟩ := hsmall
        have hwhole := (signed_eq_floor_iff (patNeg fmtF32 x) hw0).1 (hval ▸ hint)
        have hexp : patVal fmtF32 ftz x = (signedInt (patNeg fmtF32 x) ⌊w⌋₊ : Rat) := by rw [cast_signedInt, ← hwhole, hval]
        rw [hexp] at hlo hbig ⊢
        have hbig : signedInt (patNeg fmtF32 x) ⌊w⌋₊ < 128 := by exact_mod_cast not_le.1 hbig
        obtain ⟨p, hp, hpval, hround⟩ := roundMag_two_pow ftz (n := signedInt (patNeg fmtF32 x) ⌊w⌋₊) (by exact_mod_cast hlo) (by omega)
        have hplt := hp.trans wide_fmtF32.inf_lt
        have hsign : fmtSign fmtF32 false + p = p := Nat.zero_add p
        rw [hround, Int.floor_intCast, ← hpval]
        exact ⟨(congrArg _ hsign.symm).trans (patVal_sign_add fmtF32 false hplt),
          (congrArg _ hsign.symm).trans (patNeg_sign_add fmtF32 false hplt), rfl⟩
      next => rfl

/-! ### FLG2 -/

/-- A magnitude is a power of two where its digits are one. -/
theorem eq_two_pow_log2_of_eq {m : Nat} {e n : Int} (h : (m : Rat) * 2 ^ e = 2 ^ n) : m = 2 ^ m.log2 := by
  have hm : (m : Rat) = 2 ^ (n - e) := by
    rw [zpow_sub₀ (by norm_num), ← h]
    field_simp
  have hpos : 0 ≤ n - e := by
    have : (0 : Rat) < m := by rw [hm]; positivity
    have : (1 : Rat) ≤ m := by exact_mod_cast Nat.one_le_iff_ne_zero.2 (by rintro rfl; simp at this)
    rw [hm] at this
    exact (one_le_zpow_iff_right₀ (by norm_num)).1 this
  obtain ⟨j, hj⟩ : ∃ j : Nat, n - e = j := ⟨(n - e).toNat, by omega⟩
  rw [hj, zpow_natCast] at hm
  have hm : m = 2 ^ j := by exact_mod_cast hm
  rw [hm, Nat.log2_two_pow]

theorem zpow_log2 {m : Nat} (h : m = 2 ^ m.log2) (e : Int) : (m : Rat) * 2 ^ e = 2 ^ ((m.log2 : Int) + e) := by
  rw [zpow_add₀ (by norm_num), zpow_natCast]
  congr 1
  exact_mod_cast h

theorem signedInt_natAbs (n : Int) : signedInt (decide (n < 0)) n.natAbs = n := by
  rw [signedInt]
  by_cases h : n < 0
  · rw [decide_eq_true h, if_pos rfl]
    omega
  · rw [decide_eq_false h, if_neg Bool.false_ne_true]
    omega

/-- An integer of few bits is exact in FP32, also under FTZ. -/
theorem roundMag_int (ftz : Bool) {n : Int} (hn : n.natAbs ≤ 2 ^ 23) : ∃ p, p < fmtInf fmtF32 ∧
    roundMag fmtF32 .rn ftz (n < 0) n.natAbs 0 false = (fmtSign fmtF32 (n < 0) + p, {}) ∧ magVal fmtF32 p = n.natAbs := by
  obtain ⟨p, hp, hval⟩ := wide_fmtF32.exists_magVal_natCast (n := n.natAbs) hn
  refine ⟨p, hp, roundMag_of_magVal wide_fmtF32 .rn _ (by rw [hval, zpow_zero, mul_one]) hp fun _ => ?_, hval⟩
  obtain h0 | h0 := Nat.eq_zero_or_pos n.natAbs
  · rw [h0, Nat.cast_zero, magVal_eq_zero_iff] at hval
    exact .inl hval
  · right
    have hmin := magVal_binade fmtF32 0
    rw [Nat.zero_add, Nat.one_mul, show fmtLow fmtF32 + fmtF32.fb + (0 : Nat) = -126 from rfl] at hmin
    rw [← (magVal_strictMono fmtF32).le_iff_le, hval, hmin]
    have : (1 : Rat) ≤ n.natAbs := by exact_mod_cast h0
    exact (zpow_le_one_of_nonpos₀ (by norm_num) (by norm_num)).trans this

theorem fLg2_rule (c : Ctl) (d a : Opd) (ftz : Bool) (x : Nat) : ApproxRule (.flg2 c d a) ftz x (fLg2 ftz x).1 (fLg2 ftz x).2 := by
  have hx := patView wide_fmtF32 ftz x
  simp only [ApproxRule, fLg2]
  generalize fpOf fmtF32 ftz x = v at hx
  cases hx with
  | nan hnan => simp [hnan]
  | inf hnan hsig hinf hread => cases hneg : patNeg fmtF32 x <;> simp [hnan, hinf, hread, wide_fmtF32.inf_pos.ne']
  | fin hnan hsig hinf k m hread hk hm =>
    have hzero : magRead fmtF32 ftz x = 0 ↔ m = 0 := by rw [hread, grid_eq_zero_iff hk]
    by_cases hm0 : m = 0
    · simp [hnan, hzero, hm0]
    cases hneg : patNeg fmtF32 x with
    | true => simp [hnan, hzero, hm0]
    | false =>
      have hval : patVal fmtF32 ftz x = m * 2 ^ (fmtLow fmtF32 + (k : Int)) := by
        rw [patVal_of_not_neg hneg, hread, magVal_grid fmtF32 hk hm.le]
      simp only [hnan, hzero, hm0, hinf, Bool.false_eq_true, if_false, hval]
      by_cases hpow : m = 2 ^ m.log2
      · have hlog : m.log2 < 24 := (Nat.log2_lt hm0).2 hm
        have hk255 : k < 255 := by
          have hlt := (magRead_le fmtF32 ftz x).trans_lt (patMag_lt_inf hnan hinf)
          rw [hread] at hlt
          have : k * 2 ^ 23 + m < 255 * 2 ^ 23 := hlt
          omega
        obtain ⟨p, hp, hround, hpval⟩ := roundMag_int ftz (n := (m.log2 : Int) + (fmtLow fmtF32 + k)) (by
          rw [show fmtLow fmtF32 = -149 from rfl]
          omega)
        have hplt := hp.trans wide_fmtF32.inf_lt
        rw [if_pos hpow, hround, zpow_log2 hpow]
        generalize (m.log2 : Int) + (fmtLow fmtF32 + k) = n at *
        refine ⟨fun n' hn' => ?_, fun h => absurd rfl (h n)⟩
        obtain rfl : n = n' := zpow_right_injective₀ (by norm_num : (0 : Rat) < 2) (by norm_num) hn'
        refine ⟨?_, by rwa [patMag_sign_add _ _ hplt], ?_, rfl⟩
        · rw [patVal_sign_add _ _ hplt, hpval, ← cast_signedInt, signedInt_natAbs]
        · rintro rfl
          rw [Int.natAbs_zero, Nat.cast_zero, magVal_eq_zero_iff] at hpval
          rw [hpval]
          rfl
      · rw [if_neg hpow]
        exact ⟨fun n hn => absurd (eq_two_pow_log2_of_eq hn) hpow, fun _ => ⟨rfl, rfl, rfl, rfl⟩⟩

end Sys2Proof.Machine
end

section
/-! The special functions as words: their issue, with their sources as they stand, and their completion (R166, R160). -/

namespace Sys2Proof.Machine

/-! ### Issue -/

/-- Of parts that are made one for each lane, the first with a lane's number is that lane's. -/
theorem find_part_of_lane {g : Nat → Part} (hg : ∀ t, (g t).lane = t) {l : List Nat} {u : Nat} (hu : u ∈ l) :
    (l.map g).find? (fun p => p.lane == u) = some (g u) := by
  induction l with
  | nil => cases hu
  | cons t l ih =>
    rw [List.map_cons, List.find?_cons, hg]
    by_cases htu : t = u
    · rw [htu, beq_self_eq_true]
    · rw [beq_false_of_ne htu]
      exact ih ((List.mem_cons.1 hu).resolve_left (Ne.symm htu))

theorem partOf_of_lanes {o : Op} {m : Lanes} {g : Nat → Part} (ho : o.parts = (laneList m).map g) (hg : ∀ t, (g t).lane = t) {u : Nat}
    (hu : u < 32) (hm : m.getLsbD u = true) : partOf o u = g u := by
  rw [partOf, ho, find_part_of_lane hg ((mem_laneList m u).2 ⟨hu, hm⟩)]
  rfl

/-- The record of a special function at issue: its word, its lanes, STATUS, and its sources `f` and `g` in each active lane. -/
structure SpecialIssued (o : Op) (w : Nat) (i : Instr) (act : Lanes) (c : Ctl) (status : Nat) (f g : Nat → Nat) : Prop where
  warp : o.warp = w
  kind : o.kind = .word i
  lanes : o.lanes = act
  cf : o.cf = setOf c
  poison : o.poison = 0
  clobber : o.clobber = []
  args : o.args = [status % 4]
  val : ∀ u, u < 32 → act.getLsbD u = true → (partOf o u).val = BitVec.ofNat 128 (f u)
  cmp : ∀ u, u < 32 → act.getLsbD u = true → (partOf o u).cmp = BitVec.ofNat 128 (g u)

/-- R166: a special function whose streams fit becomes incomplete. -/
theorem specialOp_next {s : State} {c : Ctl} {w : Nat} {set act : Lanes} {srcs : List Opd} {d : Opd} (h : Issues s c w set act)
    (hf : StreamsFit s w set act srcs (some d)) (i : Instr) (k : Nat) : ∃ o,
    specialOp i c srcs d k s = .next (newOp (afterReads s w set act srcs 0) o) ∧
      SpecialIssued o w i act c (getWarp s w).status.toNat (reads s w (srcs.getD 0 d) k) (reads s w (srcs.getD 1 d) k) := by
  obtain ⟨hbad, hfaults⟩ := hf
  unfold specialOp
  rw [issue_next h]
  simp only [issueAt_w, issueAt_act, streamBad_advance, popFaults_advance, hbad, hfaults, trapLanes_nil, and_not_zero, h.live,
    deliver_nil, srcVal_advance, getWarp_advance_status, Bool.false_eq_true, if_false]
  refine ⟨_, rfl, rfl, rfl, rfl, rfl, rfl, rfl, rfl, fun u hu hm => ?_, fun u hu hm => ?_⟩
  · rw [partOf_of_lanes rfl (fun _ => rfl) hu hm]
    rfl
  · rw [partOf_of_lanes rfl (fun _ => rfl) hu hm]
    rfl

/-! ### Completion -/

/-- The special functions are the words that write a destination when they complete. -/
theorem specialDst_cases {i : Instr} {e : Opd × Nat} (h : specialDst i = some e) :
    (∃ c ty r d a, i = .frcp c ty r d a) ∨ (∃ c ty d a, i = .frsq c ty d a) ∨ (∃ c ty r d a, i = .fsqrt c ty r d a) ∨
      (∃ c ty r d a b, i = .fdiv c ty r d a b) ∨ (∃ c d a, i = .fex2 c d a) ∨ (∃ c d a, i = .flg2 c d a) ∨ (∃ c d a, i = .fsin c d a) ∨
      (∃ c d a, i = .fcos c d a) ∨ ∃ c d a, i = .ftanh c d a := by
  unfold specialDst at h
  split at h <;> simp_all

/-- R166, R160: without ARITHEN and without an overwritten source, a special function completes in all its lanes. -/
theorem specialFunctionDone_next {s : State} {id : Nat} {o : Op} {i : Instr} {d : Opd} {k : Nat} (hmsg : s.msg = some (.specialFunctionDone id))
    (hop : mapGet s.ops id = some o) (hkind : o.kind = .word i) (hdst : specialDst i = some (d, k)) (hpoison : o.poison = 0)
    (harith : (o.args.getD 0 0).testBit 1 = false) {R : Nat → Nat × Conds}
    (hR : R = fun u => specialVal i ((o.args.getD 0 0).testBit 0) (partOf o u).val.toNat (partOf o u).cmp.toNat) :
    execSpecialFunctionDone s = .next (finishOp (setFlags (retDst s o d k o.lanes fun u => (R u).1) o.warp 0 o.lanes fun u => (R u).2) id) := by
  refine event_next hmsg ?_
  have hclean (u : Nat) : o.poison.getLsbD u = false := by
    rw [hpoison]
    exact BitVec.getLsbD_zero
  subst hR
  simp only [hop, hkind, hdst, hclean, harith, Bool.false_eq_true, if_false, List.map_nil, List.filter_nil, trapLanes_nil,
    and_not_zero, deliver_nil]

theorem fb_fmtOf_lt (ty : Ty) : (fmtOf ty).fb < 64 := by cases ty <;> decide

theorem fRcp_rule (ty : Ty) (r : Rm) (ftz : Bool) (x : Nat) :
    FloatQuotient (fmtOf ty) r ftz (fmtBias (fmtOf ty) * 2 ^ (fmtOf ty).fb) x (fRcp (fmtOf ty) r ftz x).1 (fRcp (fmtOf ty) r ftz x).2 :=
  fDiv_rule (wide_fmtOf ty) (fb_fmtOf_lt ty) r ftz _ _

/-! ### The arms of R166 -/

section
variable (c : Ctl) (ty : Ty) (r : Rm) (d a b : Opd) (s : State)

theorem exec_frcp : exec (.frcp c ty r d a) s = execFrcp c ty r d a s := rfl
theorem exec_frsq : exec (.frsq c ty d a) s = execFrsq c ty d a s := rfl
theorem exec_fsqrt : exec (.fsqrt c ty r d a) s = execFsqrt c ty r d a s := rfl
theorem exec_fdiv : exec (.fdiv c ty r d a b) s = execFdiv c ty r d a b s := rfl
theorem exec_fex2 : exec (.fex2 c d a) s = execFex2 c d a s := rfl
theorem exec_flg2 : exec (.flg2 c d a) s = execFlg2 c d a s := rfl
theorem exec_fsin : exec (.fsin c d a) s = execFsin c d a s := rfl
theorem exec_fcos : exec (.fcos c d a) s = execFcos c d a s := rfl
theorem exec_ftanh : exec (.ftanh c d a) s = execFtanh c d a s := rfl
theorem exec_specialFunctionDone : exec .specialFunctionDone s = execSpecialFunctionDone s := rfl

end

end Sys2Proof.Machine

open Sys2Proof Sys2Proof.Machine

/-- Settles O13: at issue the sources go into the word's record; at completion the rule of each function holds of what they were. -/
theorem specialFunctionsComplete : Obligations.SpecialFunctionsComplete := by
  unfold Obligations.SpecialFunctionsComplete
  refine ⟨fun s c w set act d a b ty r h => ⟨fun hf i hi => ?wide, fun hf i hi => ?single, fun hf => ?quotient⟩,
    fun s id o i d k hmsg hop hkind hdst hpoison harith => ?completion⟩
  case wide =>
    obtain ⟨o, hnext, ho⟩ := specialOp_next h hf i ty.regs
    refine ⟨o, ?_, ho.warp, ho.kind, ho.lanes, ho.cf, ho.poison, ho.clobber, ho.args, ho.val⟩
    rw [← hnext]
    simp only [List.mem_cons, List.not_mem_nil, or_false] at hi
    obtain rfl | rfl | rfl := hi
    · exact exec_frcp ..
    · exact exec_frsq ..
    · exact exec_fsqrt ..
  case single =>
    obtain ⟨o, hnext, ho⟩ := specialOp_next h hf i 1
    refine ⟨o, ?_, ho.warp, ho.kind, ho.lanes, ho.cf, ho.poison, ho.clobber, ho.args, ho.val⟩
    rw [← hnext]
    simp only [List.mem_cons, List.not_mem_nil, or_false] at hi
    obtain rfl | rfl | rfl | rfl | rfl := hi
    · exact exec_fex2 ..
    · exact exec_flg2 ..
    · exact exec_fsin ..
    · exact exec_fcos ..
    · exact exec_ftanh ..
  case quotient =>
    obtain ⟨o, hnext, ho⟩ := specialOp_next h hf (.fdiv c ty r d a b) ty.regs
    exact ⟨o, (exec_fdiv ..).trans hnext, ho.warp, ho.kind, ho.lanes, ho.cf, ho.poison, ho.clobber, ho.args,
      fun u hu hm => ⟨ho.val u hu hm, ho.cmp u hu hm⟩⟩
  case completion =>
    refine ⟨_, (exec_specialFunctionDone s).trans (specialFunctionDone_next hmsg hop hkind hdst hpoison harith rfl), fun u => ?_⟩
    obtain ⟨_, ty, r, _, _, rfl⟩ | ⟨_, ty, _, _, rfl⟩ | ⟨_, ty, r, _, _, rfl⟩ | ⟨_, ty, r, _, _, _, rfl⟩ | ⟨_, _, _, rfl⟩ | ⟨_, _, _, rfl⟩ |
      ⟨_, _, _, rfl⟩ | ⟨_, _, _, rfl⟩ | ⟨_, _, _, rfl⟩ := specialDst_cases hdst
    · exact fun _ _ => fRcp_rule ty r _ _
    · exact fun _ _ => fRsq_rule (wide_fmtOf ty) (fb_fmtOf_lt ty) _ _
    · exact fun _ _ => fSqrt_rule (wide_fmtOf ty) (fb_fmtOf_lt ty) r _ _
    · exact fun _ _ => fDiv_rule (wide_fmtOf ty) (fb_fmtOf_lt ty) r _ _ _
    · exact fun _ => fEx2_rule ..
    · exact fun _ => fLg2_rule ..
    · exact fun _ => fSin_rule ..
    · exact fun _ => fCos_rule ..
    · exact fun _ => fTanh_rule ..

end

section
/-! The tiles of a lane exchange word: its lanes, its masks, and the ranks of its lanes (R172, R178, R181). -/

namespace Sys2Proof.Machine

/-! ### Tiles of L lanes (R171, R172) -/

/-- R171: LPART divides the warp into tiles. -/
theorem tileSize_dvd {L : Nat} (h : L ∈ [2, 4, 8, 16, 32]) : 0 < L ∧ L ∣ 32 :=
  (by decide : ∀ L ∈ [2, 4, 8, 16, 32], 0 < L ∧ L ∣ 32) L h

section
variable {L : Nat} (u : Nat) {v k : Nat}

theorem first_add_div (hk : k < L) : (u / L * L + k) / L = u / L := by
  rw [Nat.mul_comm, Nat.mul_add_div (by omega), Nat.div_eq_of_lt hk, Nat.add_zero]

theorem first_add_mod (hk : k < L) : (u / L * L + k) % L = k := by
  rw [Nat.mul_comm, Nat.mul_add_mod, Nat.mod_eq_of_lt hk]

theorem first_add_lt (hL : L ∣ 32) (hk : k < L) {u : Nat} (hu : u < 32) : u / L * L + k < 32 := by
  obtain ⟨n, hn⟩ := hL
  have : u / L < n := Nat.div_lt_of_lt_mul (by rwa [← hn])
  calc u / L * L + k < (u / L + 1) * L := by rw [Nat.succ_mul]; omega
    _ ≤ n * L := Nat.mul_le_mul_right L this
    _ = 32 := by rw [hn, Nat.mul_comm]

/-- A lane of a tile is its first lane and a position. -/
theorem first_add_pos_of_tile (h : v / L = u / L) : u / L * L + v % L = v := by rw [← h, Nat.div_add_mod']

/-- In one tile, positions are ordered as lanes. -/
theorem mod_lt_mod_iff_of_tile {u v : Nat} (h : v / L = u / L) : v % L < u % L ↔ v < u := by
  have hv := first_add_pos_of_tile u h
  have hu := Nat.div_add_mod' u L
  omega

theorem mod_eq_mod_iff_of_tile {u v : Nat} (h : v / L = u / L) : v % L = u % L ↔ v = u := by
  have hv := first_add_pos_of_tile u h
  have hu := Nat.div_add_mod' u L
  omega

end

/-! ### Ranks (R181) -/

/-- Of a list in ascending order, the elements below the one at `j` are `j`. -/
theorem length_filter_lt_getElem {l : List Nat} (h : l.Pairwise (· < ·)) {j : Nat} (hj : j < l.length) :
    (l.filter (· < l[j])).length = j := by
  induction l generalizing j with
  | nil => cases hj
  | cons x xs ih =>
    obtain ⟨hx, hxs⟩ := List.pairwise_cons.1 h
    cases j with
    | zero =>
      rw [List.getElem_cons_zero, List.length_eq_zero_iff, List.filter_eq_nil_iff]
      intro y hy
      rw [decide_eq_true_eq, not_lt]
      obtain rfl | hy := List.mem_cons.1 hy
      · exact le_rfl
      · exact (hx y hy).le
    | succ j =>
      have hj : j < xs.length := Nat.lt_of_succ_lt_succ hj
      rw [List.getElem_cons_succ, List.filter_cons, if_pos (decide_eq_true (hx _ (List.getElem_mem hj))), List.length_cons, ih hxs hj]

/-- The selected lanes of the tile of lane `u`, ascending. -/
def tileLanes (L : Nat) (sel : Nat → Bool) (u : Nat) : List Nat := (List.range 32).filter fun v => v / L == u / L && sel v

/-- R181: the rank of a lane: the selected lanes of its tile below it. -/
def laneRank (L : Nat) (sel : Nat → Bool) (u : Nat) : Nat :=
  ((List.range 32).filter fun v => v / L == u / L && v < u && sel v).length

section
variable {L : Nat} {sel : Nat → Bool} {u v : Nat}

theorem mem_tileLanes : v ∈ tileLanes L sel u ↔ v < 32 ∧ v / L = u / L ∧ sel v = true := by
  simp [tileLanes]

theorem tileLanes_of_tile (h : v / L = u / L) : tileLanes L sel v = tileLanes L sel u := by rw [tileLanes, tileLanes, h]

theorem laneRank_eq : laneRank L sel u = ((tileLanes L sel u).filter (· < u)).length := by
  rw [laneRank, tileLanes, List.filter_filter]
  congr 2
  funext v
  rw [Bool.and_assoc, Bool.and_left_comm]

/-- R181: the selected lane at place `j` has rank `j`. -/
theorem laneRank_getElem_tileLanes {j : Nat} (hj : j < (tileLanes L sel u).length) : laneRank L sel (tileLanes L sel u)[j] = j := by
  have htile := (mem_tileLanes.1 (List.getElem_mem hj)).2.1
  rw [laneRank_eq, tileLanes_of_tile htile]
  exact length_filter_lt_getElem (List.Pairwise.filter _ List.pairwise_lt_range) hj

end

/-! ### The word at work -/

/-- The lane exchange word that issues, on the state in which its threads have moved on. -/
def tilesAt (s : State) (w : Nat) (set act : Lanes) : Tiles := tilesOf (advance s w set) (issueAt s w set act)

section
variable {s : State} {c : Ctl} {w : Nat} {set act : Lanes}

theorem laneWord_next (h : Issues s c w set act) (f : Tiles → State → State) :
    laneWord s c f = .next (f (tilesAt s w set act) (advance s w set)) := issue_next h _

@[simp] theorem tilesAt_w : (tilesAt s w set act).i.w = w := rfl
@[simp] theorem tilesAt_act : (tilesAt s w set act).i.act = act := rfl
@[simp] theorem tilesAt_l : (tilesAt s w set act).l = lpartOf s (getWarp s w) := lpartOf_advance ..
@[simp] theorem tilesAt_early : (tilesAt s w set act).early = lpartEarly s (getWarp s w) := lpartEarly_advance ..
@[simp] theorem tilesAt_status : (tilesAt s w set act).x.status = (getWarp s w).status := getWarp_advance_status ..
@[simp] theorem tilesAt_val (o : Opd) (k t : Nat) : (tilesAt s w set act).val o k t = reads s w o k t := srcVal_advance ..
@[simp] theorem tilesAt_srcPred (o : Opd) (t : Nat) :
    srcPred (tilesAt s w set act).s w (tilesAt s w set act).x o t = readsP s w o t := srcPred_advance ..
@[simp] theorem tilesAt_pos (t : Nat) : (tilesAt s w set act).pos t = t % lpartOf s (getWarp s w) := by rw [Tiles.pos, tilesAt_l]
@[simp] theorem tilesAt_tb (t : Nat) :
    (tilesAt s w set act).tb t = t / lpartOf s (getWarp s w) * lpartOf s (getWarp s w) := by
  rw [Tiles.tb, tilesAt_l]
  have := Nat.div_add_mod' t (lpartOf s (getWarp s w))
  omega

/-- R172: the active lanes of a tile. -/
theorem tilesAt_tile (t : Nat) : (tilesAt s w set act).tile t =
    (List.range 32).filter fun v => v / lpartOf s (getWarp s w) == t / lpartOf s (getWarp s w) && act.getLsbD v := by
  rw [Tiles.tile, laneList, List.filter_filter, tilesAt_l, tilesAt_act]

/-- R181: the selected lanes of a tile. -/
theorem tilesAt_selected (neg : Bool) (b : Opd) (u : Nat) : (tilesAt s w set act).selected neg b u =
    tileLanes (lpartOf s (getWarp s w)) (fun v => act.getLsbD v && (readsP s w b v != neg)) u := by
  rw [Tiles.selected, tilesAt_tile, List.filter_filter, tileLanes]
  refine List.filter_congr fun v _ => ?_
  rw [tilesAt_w, tilesAt_srcPred, Bool.and_comm, Bool.and_assoc]

/-- R173: where LPART is in force, a word writes its value in the active lanes that it selects. -/
theorem tilesAt_out (he : lpartEarly s (getWarp s w) = false) (d : Opd) (k : Nat) (p : Nat → Bool) (f : Nat → Nat) :
    (tilesAt s w set act).out (advance s w set) d k p f = written s w set (laneSet fun t => act.getLsbD t && p t) [] 8 d k f := by
  simp only [Tiles.out, Tiles.lanes, tilesAt_early, he, tilesAt_act, Bool.false_eq_true, if_false]
  rfl

theorem tilesAt_out_all (he : lpartEarly s (getWarp s w) = false) (d : Opd) (k : Nat) (f : Nat → Nat) :
    (tilesAt s w set act).out (advance s w set) d k (fun _ => true) f = written s w set act [] 8 d k f := by
  rw [tilesAt_out he]
  simp only [Bool.and_true, laneSet_getLsbD]

theorem tilesAt_outP (he : lpartEarly s (getWarp s w) = false) (t : State) (n : Nat) (f : Nat → Bool) :
    (tilesAt s w set act).outP t n f = putP t w 8 n act f := by
  simp only [Tiles.outP, tilesAt_early, he, tilesAt_w, tilesAt_act, Bool.false_eq_true, if_false]

/-! ### Masks (R178) -/

theorem testBit_foldl_or_two_pow (g : Nat → Nat) (l : List Nat) (m j : Nat) :
    (l.foldl (fun m u => m ||| 2 ^ g u) m).testBit j = (m.testBit j || l.any fun u => g u == j) := by
  induction l generalizing m with
  | nil => simp
  | cons a l ih => simp [ih, Nat.testBit_or, Nat.testBit_two_pow, Bool.or_assoc, beq_eq_decide]

theorem testBit_mask_any (t j : Nat) (p : Nat → Bool) : ((tilesAt s w set act).mask t p).testBit j =
    (((tilesAt s w set act).tile t).filter p).any fun u => u % lpartOf s (getWarp s w) == j := by
  rw [Tiles.mask, testBit_foldl_or_two_pow, Nat.zero_testBit, Bool.false_or]
  simp only [tilesAt_pos]

variable (hL : lpartOf s (getWarp s w) ∈ [2, 4, 8, 16, 32])
include hL

/-- R178: a mask has no bit from LPART on. -/
theorem mask_lt (t : Nat) (p : Nat → Bool) : (tilesAt s w set act).mask t p < 2 ^ lpartOf s (getWarp s w) := by
  refine Nat.lt_pow_two_of_testBit _ fun j hj => ?_
  rw [testBit_mask_any, List.any_eq_false]
  intro v _ hv
  have := Nat.mod_lt v (tileSize_dvd hL).1
  rw [beq_iff_eq] at hv
  omega

/-- R178: bit `k` of a mask stands for position `k` of the tile. -/
theorem testBit_mask {t k : Nat} (ht : t < 32) (hk : k < lpartOf s (getWarp s w)) (p : Nat → Bool) :
    let v := t / lpartOf s (getWarp s w) * lpartOf s (getWarp s w) + k
    ((tilesAt s w set act).mask t p).testBit k = (act.getLsbD v && p v) := by
  intro v
  obtain ⟨_, hdvd⟩ := tileSize_dvd hL
  rw [testBit_mask_any, tilesAt_tile, Bool.eq_iff_iff, List.any_eq_true, Bool.and_eq_true]
  simp only [List.mem_filter, List.mem_range, Bool.and_eq_true, beq_iff_eq]
  constructor
  · rintro ⟨v', ⟨⟨_, htile, hact⟩, hp⟩, rfl⟩
    have hv : v = v' := first_add_pos_of_tile t htile
    exact hv ▸ ⟨hact, hp⟩
  · rintro ⟨hact, hp⟩
    exact ⟨v, ⟨⟨first_add_lt hdvd hk ht, first_add_div t hk, hact⟩, hp⟩, first_add_mod t hk⟩

/-- R178: two masks of a tile are equal where their conditions agree in its active lanes. -/
theorem mask_eq_mask_iff {t : Nat} (ht : t < 32) (p q : Nat → Bool) :
    (tilesAt s w set act).mask t p = (tilesAt s w set act).mask t q ↔
      ∀ v < 32, v / lpartOf s (getWarp s w) = t / lpartOf s (getWarp s w) → act.getLsbD v = true → p v = q v := by
  constructor
  · intro h v _ htile hact
    have hbit := congrArg (Nat.testBit · (v % lpartOf s (getWarp s w))) h
    have hpos := Nat.mod_lt v (tileSize_dvd hL).1
    simpa only [testBit_mask hL ht hpos, first_add_pos_of_tile t htile, hact, Bool.true_and] using hbit
  · intro h
    rw [Tiles.mask, Tiles.mask, List.filter_congr fun v hv => ?_]
    simp only [tilesAt_tile, List.mem_filter, List.mem_range, Bool.and_eq_true, beq_iff_eq] at hv
    obtain ⟨hv, htile, hact⟩ := hv
    exact h v hv htile hact

/-- R178: no active lane of the tile says no. -/
theorem mask_eq_all_iff {t : Nat} (ht : t < 32) (p : Nat → Bool) (neg : Bool) :
    (tilesAt s w set act).mask t (fun v => p v != neg) = (tilesAt s w set act).mask t (fun _ => true) ↔
      ∀ v, v / lpartOf s (getWarp s w) = t / lpartOf s (getWarp s w) → ¬ (v < 32 ∧ act.getLsbD v = true ∧ p v = neg) := by
  rw [mask_eq_mask_iff hL ht]
  simp only [bne_iff_ne]
  exact ⟨fun h v htile ⟨hv, hact, hp⟩ => h v hv htile hact hp, fun h v hv htile hact hp => h v htile ⟨hv, hact, hp⟩⟩

/-- R178: no active lane of the tile says yes. -/
theorem mask_eq_zero_iff {t : Nat} (ht : t < 32) (p : Nat → Bool) (neg : Bool) :
    (tilesAt s w set act).mask t (fun v => p v != neg) = 0 ↔
      ∀ v, v / lpartOf s (getWarp s w) = t / lpartOf s (getWarp s w) → ¬ (v < 32 ∧ act.getLsbD v = true ∧ p v ≠ neg) := by
  have hzero : (tilesAt s w set act).mask t (fun _ => false) = 0 := by rw [Tiles.mask, List.filter_false]; rfl
  rw [← hzero, mask_eq_mask_iff hL ht]
  simp only [bne_eq_false_iff_eq]
  exact ⟨fun h v htile ⟨hv, hact, hp⟩ => hp (h v hv htile hact), fun h v hv htile hact => not_not.1 fun hp => h v htile ⟨hv, hact, hp⟩⟩

/-- R178: the bits of a mask below a lane's position are as many as the lanes of its tile below it that are in the mask. -/
theorem popNat_mask_mod {t : Nat} (ht : t < 32) (p : Nat → Bool) :
    popNat ((tilesAt s w set act).mask t p % 2 ^ (t % lpartOf s (getWarp s w))) 32 =
      ((List.range 32).filter fun v =>
        v / lpartOf s (getWarp s w) == t / lpartOf s (getWarp s w) && v < t && act.getLsbD v && p v).length := by
  have hbit {k : Nat} (hk : k < lpartOf s (getWarp s w)) := testBit_mask (set := set) (act := act) hL ht hk p
  obtain ⟨hpos, hdvd⟩ := tileSize_dvd hL
  generalize lpartOf s (getWarp s w) = L at *
  have hposn := Nat.mod_lt t hpos
  have hL32 := Nat.le_of_dvd (by decide) hdvd
  have hinj : Function.Injective (t / L * L + ·) := fun a b hab => Nat.add_left_cancel hab
  have hperm : (((List.range 32).filter fun j => ((tilesAt s w set act).mask t p % 2 ^ (t % L)).testBit j).map (t / L * L + ·)).Perm
      ((List.range 32).filter fun v => v / L == t / L && v < t && act.getLsbD v && p v) := by
    refine (List.perm_ext_iff_of_nodup ((List.nodup_range.filter _).map hinj) (List.nodup_range.filter _)).2 fun v => ?_
    simp only [List.mem_map, List.mem_filter, List.mem_range, Nat.testBit_mod_two_pow, Bool.and_eq_true, decide_eq_true_eq, beq_iff_eq]
    constructor
    · rintro ⟨j, ⟨_, hj, hm⟩, rfl⟩
      have hjL := hj.trans hposn
      rw [hbit hjL, Bool.and_eq_true] at hm
      have htile := first_add_div t hjL
      exact ⟨first_add_lt hdvd hjL ht, ⟨⟨htile, (mod_lt_mod_iff_of_tile htile).1 (by rwa [first_add_mod t hjL])⟩, hm.1⟩, hm.2⟩
    · rintro ⟨hv, ⟨⟨htile, hlt⟩, hact⟩, hp⟩
      have hvL := Nat.mod_lt v hpos
      refine ⟨v % L, ⟨hvL.trans_le hL32, (mod_lt_mod_iff_of_tile htile).2 hlt, ?_⟩, first_add_pos_of_tile t htile⟩
      rw [hbit hvL, first_add_pos_of_tile t htile, hact, hp]
      rfl
  rw [popNat, ← hperm.length_eq, List.length_map]

end

end Sys2Proof.Machine
end

section
/-! Lane exchange words: LPARTSET, SHFL, the votes, MATCH, COMPRESS, EXPAND and the slides (R175, R177, R178, R180 to R182). -/

namespace Sys2Proof.Machine

/-! ### The arms of R175 to R182 -/

section
variable (c : Ctl) (ty : Ty) (neg : Bool) (vp : Option (BitVec 3)) (d a b : Opd) (s : State)

theorem exec_lpartset : exec (.lpartset c a) s = execLpartset c a s := rfl
theorem exec_shflIdx : exec (.shflIdx c ty vp d a b) s = shflWord s c ty vp d a b shflIdxAt := rfl
theorem exec_shflUp : exec (.shflUp c ty vp d a b) s = shflWord s c ty vp d a b shflUpAt := rfl
theorem exec_shflDown : exec (.shflDown c ty vp d a b) s = shflWord s c ty vp d a b shflDownAt := rfl
theorem exec_shflXor : exec (.shflXor c ty vp d a b) s = shflWord s c ty vp d a b shflXorAt := rfl
theorem exec_voteAll : exec (.voteAll c neg d a) s = voteWord s c neg d a fun m e => m == e := rfl
theorem exec_voteAny : exec (.voteAny c neg d a) s = voteWord s c neg d a fun m _ => m != 0 := rfl
theorem exec_voteEq : exec (.voteEq c neg d a) s = voteWord s c neg d a fun m e => m == e || m == 0 := rfl
theorem exec_voteBallot : exec (.voteBallot c neg d a) s = execVoteBallot c neg d a s := rfl
theorem exec_lanepfx : exec (.lanepfx c neg d a) s = execLanepfx c neg d a s := rfl
theorem exec_matchLanes : exec (.matchLanes c ty d a) s = execMatchLanes c ty d a s := rfl
theorem exec_compress : exec (.compress c neg ty d a b) s = execCompress c neg ty d a b s := rfl
theorem exec_expand : exec (.expand c neg ty d a b) s = execExpand c neg ty d a b s := rfl
theorem exec_slideup : exec (.slideup c ty d a b) s = execSlideup c ty d a b s := rfl
theorem exec_slidedn : exec (.slidedn c ty d a b) s = execSlidedn c ty d a b s := rfl

end

/-! ### LPARTSET (R175) -/

section
variable (s : State) (x : Warp) (v : Nat)

theorem lpartOf_setLpart : lpartOf s (setLpart s x v) = lpartOf s x := by
  have hnone : (setLpart s x v).lpartNext.filter (fun e => e.1 ≤ s.clock) = [] := by
    simp only [List.filter_eq_nil_iff, setLpart, List.mem_append, List.mem_filter, List.mem_singleton, decide_eq_true_eq]
    rintro e (⟨-, he⟩ | rfl) <;> omega
  conv_lhs => rw [lpartOf, hnone]
  rfl

theorem lpartOf_setLpart_of_le {k : Nat} (hk : s.clock + 8 ≤ k) : lpartOf { s with clock := k } (setLpart s x v) = v := by
  simp only [lpartOf, setLpart, List.filter_append, List.filter_singleton, decide_eq_true hk, cond_true, List.map_append, List.map_cons,
    List.map_nil, List.getLastD_concat]

theorem lpartEarly_setLpart {k : Nat} (hk : k < s.clock + 8) : lpartEarly { s with clock := k } (setLpart s x v) = true :=
  List.any_eq_true.2 ⟨(s.clock + 8, v), List.mem_append_right _ (List.mem_singleton_self _), decide_eq_true hk⟩

end

section
variable {s : State} {c : Ctl} {w : Nat} {set act : Lanes} (h : Issues s c w set act) (d a b : Opd) (ty : Ty) (neg : Bool)
include h

theorem lpartset_next (hv : readsOnce s w act a 1 ∈ [2, 4, 8, 16, 32]) : exec (.lpartset c a) s =
    .next (setWarp (advance s w set) w (setLpart (advance s w set) (getWarp (advance s w set) w) (readsOnce s w act a 1))) := by
  rw [exec_lpartset, execLpartset, issue_next h]
  simp only [lowVal_advance, if_pos hv]
  rfl

theorem lpartset_trap (hv : readsOnce s w act a 1 ∉ [2, 4, 8, 16, 32]) :
    exec (.lpartset c a) s = .next (trapSet (advance s w set) (issueAt s w set act) causeOperand) := by
  rw [exec_lpartset, execLpartset, issue_next h]
  simp only [lowVal_advance, if_neg hv]

end

/-! ### SHFL (R177) -/

/-- R177: the lane whose value a form moves to lane `u`, where its place stands in the tile. -/
def shflSource (s : State) (w : Nat) (f : Nat → Nat → Nat → Nat × Bool) (b : Opd) (u : Nat) : Option Nat :=
  let L := lpartOf s (getWarp s w)
  let r := f L (u % L) (reads s w b 1 u)
  if r.2 then some (u / L * L + r.1) else none

/-- The same where that lane is active. -/
def shflActive (s : State) (w : Nat) (act : Lanes) (f : Nat → Nat → Nat → Nat × Bool) (b : Opd) (u : Nat) : Option Nat :=
  (shflSource s w f b u).filter fun v => act.getLsbD v

section
variable (s : State) (w : Nat) (b : Opd) (u : Nat)

theorem shflSource_idx : shflSource s w shflIdxAt b u =
    some (u / lpartOf s (getWarp s w) * lpartOf s (getWarp s w) + reads s w b 1 u % lpartOf s (getWarp s w)) := rfl

theorem shflSource_xor : shflSource s w shflXorAt b u = some (u / lpartOf s (getWarp s w) * lpartOf s (getWarp s w) +
    Nat.xor (u % lpartOf s (getWarp s w)) (reads s w b 1 u % lpartOf s (getWarp s w))) := rfl

theorem shflSource_up : shflSource s w shflUpAt b u =
    if reads s w b 1 u ≤ u % lpartOf s (getWarp s w) then some (u - reads s w b 1 u) else none := by
  simp only [shflSource, shflUpAt, decide_eq_true_eq]
  split
  · have := Nat.div_add_mod' u (lpartOf s (getWarp s w))
    exact congrArg some (by omega)
  · rfl

theorem shflSource_down : shflSource s w shflDownAt b u =
    if u % lpartOf s (getWarp s w) + reads s w b 1 u < lpartOf s (getWarp s w) then some (u + reads s w b 1 u) else none := by
  simp only [shflSource, shflDownAt, decide_eq_true_eq]
  split
  · have := Nat.div_add_mod' u (lpartOf s (getWarp s w))
    exact congrArg some (by omega)
  · rfl

theorem isSome_shflActive (act : Lanes) (f : Nat → Nat → Nat → Nat × Bool) : (shflActive s w act f b u).isSome = true ↔
    ∃ v, shflSource s w f b u = some v ∧ v < 32 ∧ act.getLsbD v = true := by
  simp only [shflActive, Option.isSome_iff_exists, Option.filter_eq_some_iff]
  exact exists_congr fun v => and_congr_right fun _ => ⟨fun hv => ⟨BitVec.lt_of_getLsbD hv, hv⟩, And.right⟩

end

section
variable {s : State} {c : Ctl} {w : Nat} {set act : Lanes} (h : Issues s c w set act) (he : lpartEarly s (getWarp s w) = false)
  (d a b : Opd) (ty : Ty) (neg : Bool)
include h he

/-- R177: an active source lane gives its value, and a lane without one keeps its own; the predicate says which. -/
theorem shflWord_eq (vp : Option (BitVec 3)) (f : Nat → Nat → Nat → Nat × Bool) : shflWord s c ty vp d a b f = .next
    (let t := written s w set act [] 8 d ty.regs fun u => reads s w a ty.regs ((shflActive s w act f b u).getD u)
     vp.elim t fun n => putP t w 8 n.toNat act fun u => (shflActive s w act f b u).isSome) := by
  have hlane (u : Nat) : (shflActive s w act f b u).isSome =
        ((f (lpartOf s (getWarp s w)) (u % lpartOf s (getWarp s w)) (reads s w b 1 u)).2 && act.getLsbD
          (u / lpartOf s (getWarp s w) * lpartOf s (getWarp s w) +
            (f (lpartOf s (getWarp s w)) (u % lpartOf s (getWarp s w)) (reads s w b 1 u)).1)) ∧
      (shflActive s w act f b u).getD u = if (shflActive s w act f b u).isSome then u / lpartOf s (getWarp s w) * lpartOf s (getWarp s w) +
            (f (lpartOf s (getWarp s w)) (u % lpartOf s (getWarp s w)) (reads s w b 1 u)).1 else u := by
    simp only [shflActive, shflSource]
    split
    next hr => rw [hr, Option.filter_some]; split <;> simp_all
    next hr => simp [hr]
  rw [shflWord, laneWord_next h]
  simp only [tilesAt_out_all he, tilesAt_outP he, tilesAt_l, tilesAt_pos, tilesAt_tb, tilesAt_val, tilesAt_act, ← (hlane _).1, ← (hlane _).2]
  cases vp <;> rfl

theorem shflWord_next (vp : Option (BitVec 3)) (f : Nat → Nat → Nat → Nat × Bool) :
    ∃ F g, (∀ u, u < 32 →
        (g u = true ↔ ∃ v, shflSource s w f b u = some v ∧ v < 32 ∧ act.getLsbD v = true) ∧
        (∀ v, shflSource s w f b u = some v → v < 32 ∧ act.getLsbD v = true → F u = reads s w a ty.regs v) ∧
        (g u = false → F u = reads s w a ty.regs u)) ∧
      (vp = none → shflWord s c ty vp d a b f = .next (written s w set act [] 8 d ty.regs F)) ∧
      ∀ n, vp = some n → shflWord s c ty vp d a b f = .next (putP (written s w set act [] 8 d ty.regs F) w 8 n.toNat act g) := by
  refine ⟨fun u => reads s w a ty.regs ((shflActive s w act f b u).getD u), _, fun u _ => ⟨isSome_shflActive s w b u act f, fun v hv hlive => ?_, fun hnone => ?_⟩, ?_, ?_⟩
  · have hv : shflActive s w act f b u = some v := by rw [shflActive, hv, Option.filter_some, if_pos hlive.2]
    simp only [hv, Option.getD_some]
  · simp only [Option.isNone_iff_eq_none.1 (Option.isSome_eq_false_iff.1 hnone), Option.getD_none]
  · rintro rfl; exact shflWord_eq h he d a b ty _ f
  · rintro n rfl; exact shflWord_eq h he d a b ty _ f

/-! ### Votes and masks (R178) -/

theorem voteWord_next (f : Nat → Nat → Bool) (n : Fin 8) : voteWord s c neg (.p n) a f = .next (putP (advance s w set) w 8 n.val act fun u =>
    f ((tilesAt s w set act).mask u fun v => readsP s w a v != neg) ((tilesAt s w set act).mask u fun _ => true)) := by
  rw [voteWord, laneWord_next h]
  simp only [tilesAt_outP he, Tiles.votes, tilesAt_w, tilesAt_srcPred]

theorem voteBallot_next : exec (.voteBallot c neg d a) s = .next (written s w set act [] 8 d 1 fun u =>
    (tilesAt s w set act).mask u fun v => readsP s w a v != neg) := by
  rw [exec_voteBallot, execVoteBallot, laneWord_next h]
  simp only [tilesAt_out_all he, Tiles.votes, tilesAt_w, tilesAt_srcPred]

theorem lanepfx_next : exec (.lanepfx c neg d a) s = .next (written s w set act [] 8 d 1 fun u =>
    popNat ((tilesAt s w set act).mask u (fun v => readsP s w a v != neg) % 2 ^ (u % lpartOf s (getWarp s w))) 32) := by
  rw [exec_lanepfx, execLanepfx, laneWord_next h]
  simp only [tilesAt_out_all he, Tiles.votes, tilesAt_w, tilesAt_srcPred, tilesAt_pos]

theorem matchLanes_next : exec (.matchLanes c ty d a) s = .next (written s w set act [] 8 d 1 fun u =>
    (tilesAt s w set act).mask u fun v => reads s w a ty.regs v == reads s w a ty.regs u) := by
  rw [exec_matchLanes, execMatchLanes, laneWord_next h]
  simp only [tilesAt_out_all he, tilesAt_val]

/-! ### COMPRESS, EXPAND and the slides (R181, R182) -/

theorem compress_next : let L := lpartOf s (getWarp s w)
    let lanes := tileLanes L fun v => act.getLsbD v && (readsP s w b v != neg)
    exec (.compress c neg ty d a b) s = .next (written s w set (laneSet fun u => act.getLsbD u && decide (u % L < (lanes u).length)) [] 8 d ty.regs
      fun u => reads s w a ty.regs ((lanes u).getD (u % L) 0)) := by
  rw [exec_compress, execCompress, laneWord_next h]
  simp only [tilesAt_out he, tilesAt_selected, tilesAt_pos, tilesAt_val]

theorem expand_next : let L := lpartOf s (getWarp s w)
    let sel (v : Nat) : Bool := act.getLsbD v && (readsP s w b v != neg)
    exec (.expand c neg ty d a b) s = .next (written s w set
      (laneSet fun u => act.getLsbD u && ((tileLanes L sel u).contains u && act.getLsbD (u / L * L + laneRank L sel u))) [] 8 d ty.regs
      fun u => reads s w a ty.regs (u / L * L + laneRank L sel u)) := by
  rw [exec_expand, execExpand, laneWord_next h]
  simp only [tilesAt_out he, tilesAt_selected, tilesAt_tb, tilesAt_val, tilesAt_act, laneRank_eq]

theorem slideup_next : let n := reads s w b 1 0
    exec (.slideup c ty d a b) s = .next (written s w set
      (laneSet fun u => act.getLsbD u && (decide (n ≤ u % lpartOf s (getWarp s w)) && act.getLsbD (u - n))) [] 8 d ty.regs
      fun u => reads s w a ty.regs (u - n)) := by
  rw [exec_slideup, execSlideup, laneWord_next h]
  simp only [tilesAt_out he, tilesAt_pos, tilesAt_val, tilesAt_act]

theorem slidedn_next : let n := reads s w b 1 0
    exec (.slidedn c ty d a b) s = .next (written s w set
      (laneSet fun u => act.getLsbD u && (decide (u % lpartOf s (getWarp s w) + n < lpartOf s (getWarp s w)) && act.getLsbD (u + n))) [] 8 d ty.regs
      fun u => reads s w a ty.regs (u + n)) := by
  rw [exec_slidedn, execSlidedn, laneWord_next h]
  simp only [tilesAt_out he, tilesAt_l, tilesAt_pos, tilesAt_val, tilesAt_act]

end

end Sys2Proof.Machine

open Sys2Proof Sys2Proof.Machine

/-- Settles O14: each word reads every source before it writes; its masks are decided bit by bit, and the lane at a place of the packed list has that rank. -/
theorem laneExchangeAndVotes : Obligations.LaneExchangeAndVotes := by
  unfold Obligations.LaneExchangeAndVotes
  refine ⟨fun s c w set act ty d a b h =>
      ⟨⟨fun hv => ?lpart, fun hv => lpartset_trap h a hv⟩, fun he hL => ⟨fun vp at_ i hi => ?shfl, ?matchLanes, fun neg => ⟨?compress, ?expand⟩, ?up, ?down⟩⟩,
    fun s c w set act neg d a h he hL => ⟨fun n i P hi => ?vote, ?ballot, ?below⟩⟩
  case lpart =>
    exact ⟨_, lpartset_next h a hv, rfl, (lpartOf_setLpart (advance s w set) _ _).trans (lpartOf_advance ..),
      fun k hk => lpartOf_setLpart_of_le (advance s w set) _ _ hk, fun k _ hk => lpartEarly_setLpart (advance s w set) _ _ hk⟩
  case shfl =>
    obtain ⟨rfl, hat⟩ | ⟨rfl, hat⟩ | ⟨rfl, hat⟩ | ⟨rfl, hat⟩ := hi
    · obtain rfl : at_ = shflSource s w shflIdxAt b := funext fun u => (hat u).trans (shflSource_idx ..).symm
      exact shflWord_next h he d a b ty vp shflIdxAt
    · obtain rfl : at_ = shflSource s w shflUpAt b := funext fun u => (hat u).trans (shflSource_up ..).symm
      exact shflWord_next h he d a b ty vp shflUpAt
    · obtain rfl : at_ = shflSource s w shflDownAt b := funext fun u => (hat u).trans (shflSource_down ..).symm
      exact shflWord_next h he d a b ty vp shflDownAt
    · obtain rfl : at_ = shflSource s w shflXorAt b := funext fun u => (hat u).trans (shflSource_xor ..).symm
      exact shflWord_next h he d a b ty vp shflXorAt
  case matchLanes =>
    refine ⟨_, matchLanes_next h he d a ty, fun u hu => ⟨mask_lt hL u _, fun k hk => ?_⟩⟩
    have hlane := first_add_lt (tileSize_dvd hL).2 hk hu
    rw [testBit_mask hL hu hk, Bool.and_eq_true, beq_iff_eq]
    exact ⟨fun ⟨hact, hval⟩ => ⟨⟨hlane, hact⟩, hval⟩, fun ⟨⟨_, hact⟩, hval⟩ => ⟨hact, hval⟩⟩
  case compress =>
    refine ⟨_, _, compress_next h he d a b ty neg, fun u hu => ⟨?_, fun hcount => ?_⟩⟩
    · rw [getLsbD_laneSet, decide_eq_true hu, Bool.true_and]
      rfl
    · have hcount : _ < (tileLanes _ (fun v => act.getLsbD v && (readsP s w b v != neg)) u).length := hcount
      obtain ⟨hv, htile, hsel⟩ := mem_tileLanes.1 (List.getElem_mem hcount)
      exact ⟨_, hv, htile, hsel, laneRank_getElem_tileLanes hcount, congrArg (reads s w a ty.regs) (List.getD_eq_getElem _ _ hcount)⟩
  case expand =>
    refine ⟨_, _, expand_next h he d a b ty neg, fun u hu => ⟨?_, rfl⟩⟩
    have hmem := mem_tileLanes (L := lpartOf s (getWarp s w)) (sel := fun v => act.getLsbD v && (readsP s w b v != neg)) (u := u) (v := u)
    rw [getLsbD_laneSet, decide_eq_true hu, Bool.true_and, Bool.eq_iff_iff]
    simp only [Bool.and_eq_true, List.contains_iff_mem, hmem]
    exact ⟨fun ⟨_, hsel, hsrc⟩ => ⟨hsel.2.2, hsrc⟩, fun ⟨hsel, hsrc⟩ => ⟨hsel.1, ⟨hu, trivial, hsel⟩, hsrc⟩⟩
  case up =>
    exact ⟨_, slideup_next h he d a b ty, fun u hu => by rw [getLsbD_laneSet, decide_eq_true hu, Bool.true_and, Bool.and_assoc]⟩
  case down =>
    exact ⟨_, slidedn_next h he d a b ty, fun u hu => by rw [getLsbD_laneSet, decide_eq_true hu, Bool.true_and, Bool.and_assoc]⟩
  case vote =>
    obtain ⟨rfl, rfl⟩ | ⟨rfl, rfl⟩ | ⟨rfl, rfl⟩ := hi
    · refine ⟨_, (exec_voteAll ..).trans (voteWord_next h he a neg _ n), fun u hu => ?_⟩
      rw [beq_iff_eq, mask_eq_all_iff hL hu]
    · refine ⟨_, (exec_voteAny ..).trans (voteWord_next h he a neg _ n), fun u hu => ?_⟩
      rw [bne_iff_ne, Ne, mask_eq_zero_iff hL hu]
      simp only [not_forall, not_not, exists_prop]
    · refine ⟨_, (exec_voteEq ..).trans (voteWord_next h he a neg _ n), fun u hu => ?_⟩
      rw [Bool.or_eq_true, beq_iff_eq, beq_iff_eq, mask_eq_all_iff hL hu, mask_eq_zero_iff hL hu]
  case ballot =>
    refine ⟨_, voteBallot_next h he d a neg, fun u hu => ⟨mask_lt hL u _, fun k hk => ?_⟩⟩
    have hlane := first_add_lt (tileSize_dvd hL).2 hk hu
    rw [testBit_mask hL hu hk, Bool.and_eq_true, bne_iff_ne]
    exact ⟨fun hyes => ⟨hlane, hyes⟩, And.right⟩
  case below => exact ⟨_, lanepfx_next h he d a neg, fun u hu => popNat_mask_mod hL hu _⟩

end

section
/-! REDUX and SCAN as words, and their integer reductions (R179). -/

namespace Sys2Proof.Machine

/-! ### Folds of an operation -/

theorem foldl_min_isLeast {α : Type} [LinearOrder α] (l : List α) (a : α) : l.foldl min a ∈ a :: l ∧ ∀ x ∈ a :: l, l.foldl min a ≤ x := by
  induction l generalizing a with
  | nil => simp
  | cons b l ih =>
    obtain ⟨hmem, hle⟩ := ih (min a b)
    obtain ⟨hmin, hle⟩ := List.forall_mem_cons.1 hle
    refine ⟨?_, List.forall_mem_cons.2 ⟨hmin.trans (min_le_left a b), List.forall_mem_cons.2 ⟨hmin.trans (min_le_right a b), hle⟩⟩⟩
    rw [List.foldl_cons, List.mem_cons, List.mem_cons, ← or_assoc]
    exact (List.mem_cons.1 hmem).imp_left fun h => (min_choice a b).imp h.trans h.trans

/-- The least of values that lie below `top`, or `top` where there is none. -/
theorem foldl_min_spec {α : Type} [LinearOrder α] {l : List α} {top : α} (h : ∀ x ∈ l, x ≤ top) :
    (l = [] → l.foldl min top = top) ∧ (l ≠ [] → l.foldl min top ∈ l ∧ ∀ x ∈ l, l.foldl min top ≤ x) := by
  cases l with
  | nil => simp
  | cons a l =>
    rw [List.foldl_cons, min_eq_right (h a List.mem_cons_self)]
    exact ⟨fun hl => absurd hl (List.cons_ne_nil a l), fun _ => foldl_min_isLeast l a⟩

theorem foldl_max_spec {α : Type} [LinearOrder α] {l : List α} {bot : α} (h : ∀ x ∈ l, bot ≤ x) :
    (l = [] → l.foldl max bot = bot) ∧ (l ≠ [] → l.foldl max bot ∈ l ∧ ∀ x ∈ l, x ≤ l.foldl max bot) :=
  foldl_min_spec (α := αᵒᵈ) h

theorem testBit_foldl_and (l : List Nat) (m j : Nat) :
    (l.foldl (· &&& ·) m).testBit j = (m.testBit j && l.all fun x => x.testBit j) := by
  induction l generalizing m with
  | nil => simp
  | cons a l ih => rw [List.foldl_cons, ih, Nat.testBit_and, List.all_cons, Bool.and_assoc]

theorem testBit_foldl_or (l : List Nat) (m j : Nat) :
    (l.foldl (· ||| ·) m).testBit j = (m.testBit j || l.any fun x => x.testBit j) := by
  induction l generalizing m with
  | nil => simp
  | cons a l ih => rw [List.foldl_cons, ih, Nat.testBit_or, List.any_cons, Bool.or_assoc]

theorem testBit_foldl_xor (l : List Nat) (m j : Nat) :
    (l.foldl (· ^^^ ·) m).testBit j = (m.testBit j ^^ (l.filter fun x => x.testBit j).length % 2 == 1) := by
  induction l generalizing m with
  | nil => simp
  | cons a l ih =>
    rw [List.foldl_cons, ih, Nat.testBit_xor, List.filter_cons, Bool.xor_assoc]
    cases a.testBit j with
    | false => rw [Bool.false_xor]; rfl
    | true =>
      rw [if_pos rfl, List.length_cons, Nat.add_mod]
      obtain h | h := Nat.mod_two_eq_zero_or_one (l.filter fun x => x.testBit j).length <;> rw [h] <;> rfl

/-! ### Values of registers -/

/-- R33: a value of one register or of a pair has 32 or 64 bits. -/
theorem reads_lt (s : State) (w : Nat) (o : Opd) {k : Nat} (hk : k = 1 ∨ k = 2) (u : Nat) : reads s w o k u < 2 ^ (32 * k) := by
  have hword (x : Word) : x.toNat < 2 ^ 32 := x.isLt
  have hle : 2 ^ 32 ≤ 2 ^ (32 * k) := Nat.pow_le_pow_right (by decide) (by omega)
  have hpair (x y : Word) : x.toNat + 2 ^ 32 * y.toNat < 2 ^ 64 := by
    have := x.isLt
    have := y.isLt
    omega
  cases o with
  | v n => obtain rfl | rfl := hk <;> simp only [reads, srcVal, if_true]; exacts [hword _, hpair _ _]
  | k n => obtain rfl | rfl := hk <;> simp only [reads, srcVal, if_true]; exacts [hword _, hpair _ _]
  | s n =>
    refine lt_of_lt_of_le ?_ hle
    simp only [reads, srcVal]
    split
    · exact Nat.mod_lt _ (by decide)
    · exact hword _
  | imm b =>
    simp only [reads, srcVal, immVal]
    split
    · exact BitVec.isLt _
    · exact (BitVec.isLt (b.setWidth 8)).trans_le ((by decide : 2 ^ 8 ≤ 2 ^ 32).trans hle)
  | _ => simp only [reads, srcVal]; positivity

theorem reads_lt_of_full (s : State) (w : Nat) (o : Opd) {ty : Ty} (hty : tyBits ty = 32 * ty.regs) (u : Nat) :
    reads s w o ty.regs u < 2 ^ tyBits ty := by
  rw [hty]
  exact reads_lt s w o (by cases ty <;> decide) u

/-! ### The word -/

section
variable {s : State} {c : Ctl} {w : Nat} {set act : Lanes} (h : Issues s c w set act) (ha : NoArith s w)
  (he : lpartEarly s (getWarp s w) = false) {op : RedOp} {ty : Ty} {r : Rm} {d a : Opd}

/-- R179: the operand set of a lane: the active lanes of its tile that a form takes, ascending. -/
def operandLanes (s : State) (w : Nat) (act : Lanes) (sel : Nat → Nat → Bool) (u : Nat) : List Nat :=
  let L := lpartOf s (getWarp s w)
  ((List.range 32).filter fun v => v / L == u / L && act.getLsbD v).filter fun v => sel (v % L) (u % L)

/-- R179: the result of a lane, and its conditions. -/
def reduction (s : State) (w : Nat) (act : Lanes) (op : RedOp) (ty : Ty) (r : Rm) (a : Opd) (sel : Nat → Nat → Bool) (u : Nat) : Nat × Conds :=
  reduce op ty r ((getWarp s w).status.getLsbD 0) ((operandLanes s w act sel u).map (reads s w a ty.regs))

include h ha he

theorem reduceWord_next (sel : Nat → Nat → Bool) : reduceWord s c op ty r d a sel = .next (setFlags
    (written s w set act [] 8 d ty.regs fun u => (reduction s w act op ty r a sel u).1) w 8 act fun u => (reduction s w act op ty r a sel u).2) := by
  have hoff : (getWarp s w).status.getLsbD 1 = false := ha
  have hval : (tilesAt s w set act).val a ty.regs = reads s w a ty.regs := funext fun u => tilesAt_val a ty.regs u
  rw [reduceWord, laneWord_next h]
  simp only [tilesAt_status, hoff, Bool.false_and, Bool.false_eq_true, if_false, tilesAt_out_all he, tilesAt_early, he, tilesAt_tile, tilesAt_pos,
    hval, tilesAt_w, tilesAt_act]
  rfl

/-- R179: a reduction is described by what holds of each lane's result. -/
theorem floatWord_of_reduceWord {i : Instr} {sel : Nat → Nat → Bool} (hi : exec i s = reduceWord s c op ty r d a sel)
    {P : Nat → Nat → Nat → Conds → Prop}
    (hP : ∀ u, P u 0 (reduction s w act op ty r a sel u).1 (reduction s w act op ty r a sel u).2) :
    FloatWord s w set act [] 8 d ty.regs 1 64 i P := by
  refine ⟨fun u _ => reduction s w act op ty r a sel u, ?_, fun u e he => ?_⟩
  · change exec i s = .next (setFlags (written s w set act [] 8 d ty.regs fun u => (packed 64 1 fun _ => reduction s w act op ty r a sel u).1)
      w 8 act fun u => (packed 64 1 fun _ => reduction s w act op ty r a sel u).2)
    simp only [packed_one]
    rw [hi, reduceWord_next h ha he]
  · obtain rfl : e = 0 := by omega
    exact hP u

end

section
variable {s : State} {w : Nat} {act : Lanes} {u : Nat}

theorem operandLanes_redux : operandLanes s w act (fun _ _ => true) u =
    (List.range 32).filter fun v => v / lpartOf s (getWarp s w) == u / lpartOf s (getWarp s w) && act.getLsbD v := List.filter_true _

theorem operandLanes_scan (excl : Bool) : operandLanes s w act (fun v u => v < u || (v == u && !excl)) u = (List.range 32).filter fun v =>
    (v / lpartOf s (getWarp s w) == u / lpartOf s (getWarp s w) && act.getLsbD v) && (v < u || (v == u && !excl)) := by
  simp only [operandLanes, List.filter_filter]
  refine List.filter_congr fun v _ => ?_
  rw [Bool.and_comm]
  cases hlane : v / lpartOf s (getWarp s w) == u / lpartOf s (getWarp s w) && act.getLsbD v with
  | false => rfl
  | true =>
    have htile := eq_of_beq (Bool.and_eq_true_iff.1 hlane).1
    simp only [mod_lt_mod_iff_of_tile htile, beq_eq_decide, mod_eq_mod_iff_of_tile htile]

theorem exec_redux (c : Ctl) (op : RedOp) (ty : Ty) (r : Rm) (d a : Opd) :
    exec (.redux c op ty r d a) s = reduceWord s c op ty r d a fun _ _ => true := rfl
theorem exec_scan (c : Ctl) (excl : Bool) (op : RedOp) (ty : Ty) (r : Rm) (d a : Opd) :
    exec (.scan c excl op ty r d a) s = reduceWord s c op ty r d a fun v u => v < u || (v == u && !excl) := rfl

end

/-! ### Integers -/

/-- R179: the reduction of integers: their sum modulo 2^w, the least or the greatest as the type compares, their bits. -/
def IntReduction (op : RedOp) (ty : Ty) (l : List Nat) (y : Nat) : Prop :=
  let ints := l.map (intVal ty)
  match op with
  | .add => (y : Int) % 2 ^ tyBits ty = (l.map fun x => (x : Int)).sum % 2 ^ tyBits ty
  | .min => (l = [] → intVal ty y = tyMax ty) ∧ (l ≠ [] → intVal ty y ∈ ints ∧ ∀ x ∈ ints, intVal ty y ≤ x)
  | .max => (l = [] → intVal ty y = tyMin ty) ∧ (l ≠ [] → intVal ty y ∈ ints ∧ ∀ x ∈ ints, x ≤ intVal ty y)
  | .and => ∀ j, j < tyBits ty → y.testBit j = l.all fun x => x.testBit j
  | .or => ∀ j, j < tyBits ty → y.testBit j = l.any fun x => x.testBit j
  | .xor => ∀ j, j < tyBits ty → y.testBit j = ((l.filter fun x => x.testBit j).length % 2 == 1)

/-- A reduction of integers signals nothing and keeps to the bits of its type. -/
def IsIntReduction (op : RedOp) (ty : Ty) (l : List Nat) (y : Nat × Conds) : Prop := y.2 = {} ∧ y.1 < 2 ^ tyBits ty ∧ IntReduction op ty l y.1

section
variable {ty : Ty} {l : List Nat}

/-- The values of a list as integers. -/
theorem map_intCast (l : List Nat) : (l.map fun x => (x : Int)) = l.map Nat.cast := by
  rw [List.map_id', List.bind_eq_flatMap]
  exact List.flatMap_pure_eq_map _ _

theorem isIntReduction_sum : IsIntReduction .add ty l (l.foldl (· + ·) 0 % 2 ^ tyBits ty, {}) := by
  refine ⟨rfl, Nat.mod_lt _ (by positivity), ?_⟩
  rw [IntReduction, ← List.sum_eq_foldl, map_intCast, ← Nat.cast_list_sum]
  push_cast
  exact Int.emod_emod _ _

theorem forall_mem_map_intVal (ty : Ty) (l : List Nat) {p : Int → Prop} (h : ∀ x, tyMin ty ≤ x ∧ x ≤ tyMax ty → p x) :
    ∀ x ∈ l.map (intVal ty), p x := List.forall_mem_map.2 fun x _ => h _ (intVal_mem ty x)

/-- One of the values of a list, or another number of the type, is held without loss. -/
theorem intVal_wrapTo_of_mem {m other : Int} (hother : tyMin ty ≤ other ∧ other ≤ tyMax ty) (hnil : l.map (intVal ty) = [] → m = other)
    (hcons : l.map (intVal ty) ≠ [] → m ∈ l.map (intVal ty)) : intVal ty (wrapTo (tyBits ty) m) = m := by
  refine intVal_wrapTo ?_
  by_cases hl : l.map (intVal ty) = []
  · rw [hnil hl]; exact hother
  · exact forall_mem_map_intVal ty l (fun _ => id) m (hcons hl)

theorem isIntReduction_min : IsIntReduction .min ty l (wrapTo (tyBits ty) ((l.map (intVal ty)).foldl min (tyMax ty)), {}) := by
  obtain ⟨hnil, hcons⟩ := foldl_min_spec (forall_mem_map_intVal ty l fun _ => And.right)
  have hval := intVal_wrapTo_of_mem ⟨tyMin_le_tyMax ty, le_rfl⟩ hnil fun hl => (hcons hl).1
  rw [List.map_eq_nil_iff] at hnil
  rw [Ne, List.map_eq_nil_iff] at hcons
  refine ⟨rfl, wrapTo_lt _ _, ?_⟩
  simp only [IntReduction, hval]
  exact ⟨hnil, hcons⟩

theorem isIntReduction_max : IsIntReduction .max ty l (wrapTo (tyBits ty) ((l.map (intVal ty)).foldl max (tyMin ty)), {}) := by
  obtain ⟨hnil, hcons⟩ := foldl_max_spec (forall_mem_map_intVal ty l fun _ => And.left)
  have hval := intVal_wrapTo_of_mem ⟨le_rfl, tyMin_le_tyMax ty⟩ hnil fun hl => (hcons hl).1
  rw [List.map_eq_nil_iff] at hnil
  rw [Ne, List.map_eq_nil_iff] at hcons
  refine ⟨rfl, wrapTo_lt _ _, ?_⟩
  simp only [IntReduction, hval]
  exact ⟨hnil, hcons⟩

theorem isIntReduction_and : IsIntReduction .and ty l (l.foldl (· &&& ·) (2 ^ tyBits ty - 1), {}) := by
  have hbit (j : Nat) := testBit_foldl_and l (2 ^ tyBits ty - 1) j
  refine ⟨rfl, Nat.lt_pow_two_of_testBit _ fun j hj => ?_, fun j hj => ?_⟩
  · rw [hbit, Nat.testBit_two_pow_sub_one, decide_eq_false (by omega), Bool.false_and]
  · rw [hbit, Nat.testBit_two_pow_sub_one, decide_eq_true hj, Bool.true_and]

variable (hl : ∀ x ∈ l, x < 2 ^ tyBits ty)
include hl

theorem testBit_of_mem {x j : Nat} (hx : x ∈ l) (hj : tyBits ty ≤ j) : ¬ x.testBit j = true := by
  rw [Nat.testBit_lt_two_pow ((hl x hx).trans_le (Nat.pow_le_pow_right (by decide) hj))]
  exact Bool.false_ne_true

theorem isIntReduction_or : IsIntReduction .or ty l (l.foldl (· ||| ·) 0, {}) := by
  have hbit (j : Nat) := (testBit_foldl_or l 0 j).trans (by rw [Nat.zero_testBit, Bool.false_or])
  exact ⟨rfl, Nat.lt_pow_two_of_testBit _ fun j hj => (hbit j).trans (List.any_eq_false.2 fun x hx => testBit_of_mem hl hx hj), fun j _ => hbit j⟩

theorem isIntReduction_xor : IsIntReduction .xor ty l (l.foldl (· ^^^ ·) 0, {}) := by
  have hbit (j : Nat) := (testBit_foldl_xor l 0 j).trans (by rw [Nat.zero_testBit, Bool.false_xor])
  refine ⟨rfl, Nat.lt_pow_two_of_testBit _ fun j hj => (hbit j).trans ?_, fun j _ => hbit j⟩
  rw [List.filter_eq_nil_iff.2 fun x hx => testBit_of_mem hl hx hj]
  rfl

theorem reduce_int (hty : ty.isInt = true) (op : RedOp) (r : Rm) (ftz : Bool) : IsIntReduction op ty l (reduce op ty r ftz l) := by
  have hne : ¬ (ty == .f32) = true := by
    cases ty with
    | f32 => cases hty
    | _ => exact Bool.false_ne_true
  rw [show reduce op ty r ftz l = _ from if_neg hne]
  cases op with
  | add => exact isIntReduction_sum
  | min => exact isIntReduction_min
  | max => exact isIntReduction_max
  | and => exact isIntReduction_and
  | or => exact isIntReduction_or hl
  | xor => exact isIntReduction_xor hl

end

end Sys2Proof.Machine
end

section
/-! REDUX and SCAN in F32: the exact sum rounded once, and the extremes (R179). -/

namespace Sys2Proof.Machine

/-! ### The exact sum of a list of patterns -/

/-- An infinity of sign `t` is in the list. -/
def hasInf (f : FFmt) (l : List Nat) (t : Bool) : Bool := l.any fun x => patInf f x && patNeg f x == t

/-- R179: infinities of both signs. -/
def infsClash (f : FFmt) (l : List Nat) : Bool := hasInf f l true && hasInf f l false

/-- The sign of the infinities in a list that has none of the other sign. -/
def infOf (f : FFmt) (l : List Nat) : Option Bool := if hasInf f l true then some true else if hasInf f l false then some false else none

/-- What the exact sum `z` of the numbers of `l` is; its second part says that it is invalid. -/
structure SumOf (f : FFmt) (r : Rm) (ftz : Bool) (l : List Nat) (z : Fp × Bool) : Prop where
  sig : fpSig z.1 = false
  nan : fpNaN z.1 = infsClash f l
  inv : z.2 = infsClash f l
  inf : infsClash f l = false → fpInf z.1 = infOf f l
  val : infsClash f l = false → fpInf z.1 = none → fpRat z.1 = (l.map (patVal f ftz)).sum
  sign : infsClash f l = false → fpInf z.1 = none → ∀ t, (∀ x ∈ l, patNeg f x = t) → fpSign z.1 = t
  zero : infsClash f l = false → fpInf z.1 = none → fpRat z.1 = 0 → (∀ t, ¬ ∀ x ∈ l, patNeg f x = t) → fpSign z.1 = (r == .rm)

theorem hasInf_append (f : FFmt) (l : List Nat) (b : Nat) (t : Bool) :
    hasInf f (l ++ [b]) t = (hasInf f l t || (patInf f b && patNeg f b == t)) := by
  rw [hasInf, List.any_append, List.any_cons, List.any_nil, Bool.or_false]
  rfl

/-- A finite number lies on the side of its sign. -/
theorem signed_fpRat {v : Fp} (hinf : fpInf v = none) (hnan : fpNaN v = false) : fpRat v = signed (fpSign v) |fpRat v| := by
  cases v with
  | nan => cases hnan
  | inf => cases hinf
  | fin s m e => rw [fpRat, abs_signed, abs_of_nonneg (by positivity)]; rfl

theorem fpSign_of_ne_zero {v : Fp} (hinf : fpInf v = none) (hnan : fpNaN v = false) (h : fpRat v ≠ 0) : fpSign v = decide (fpRat v < 0) := by
  rw [← signed_neg_iff (s := fpSign v) (abs_pos.2 h), ← signed_fpRat hinf hnan]

/-- R137 item 3: a sum of two numbers of one sign has that sign; of two signs, an exact zero has the sign of the rounding mode. -/
theorem fpSign_fpAdd {r : Rm} {a b : Fp} (ha : fpInf a = none) (hb : fpInf b = none) (hna : fpNaN a = false) (hnb : fpNaN b = false) :
    (∀ t, fpSign a = t → fpSign b = t → fpSign (fpAdd r a b).1 = t) ∧
    (fpRat (fpAdd r a b).1 = 0 → fpSign a ≠ fpSign b → fpSign (fpAdd r a b).1 = (r == .rm)) := by
  obtain ⟨hnan, -, -, hnum⟩ := fpAdd_spec r a b
  have hclash : infClash a b = false := by rw [infClash_eq, ha]
  rw [hna, hnb, hclash] at hnan
  obtain ⟨hinf, hval⟩ := hnum hnan
  rw [ha, hb] at hinf
  obtain ⟨hrat, hzero⟩ := hval hinf
  refine ⟨fun t hat hbt => ?_, fun h hne => (hzero h).trans (if_neg (by simpa using hne))⟩
  by_cases h : fpRat (fpAdd r a b).1 = 0
  · rw [hzero h, hat, hbt, beq_self_eq_true, if_pos rfl]
  · rw [fpSign_of_ne_zero hinf hnan h]
    rw [signed_fpRat ha hna, signed_fpRat hb hnb, hat, hbt] at hrat
    have h1 := abs_nonneg (fpRat a)
    have h2 := abs_nonneg (fpRat b)
    cases t with
    | false =>
      simp only [signed, Bool.false_eq_true, if_false] at hrat
      exact decide_eq_false (by rw [hrat]; exact not_lt.2 (add_nonneg h1 h2))
    | true =>
      simp only [signed, if_true] at hrat
      exact decide_eq_true (lt_of_le_of_ne (by rw [hrat]; linarith) h)

section
variable {f : FFmt} {r : Rm} {ftz : Bool} {l : List Nat} {z : Fp × Bool} {b : Nat} {v : Fp}

/-- A sum meets an infinity of the other sign where the list with the new number has both. -/
theorem SumOf.infClash_append (h : SumOf f r ftz l z) (hv : ReadFrom f ftz b v) (hl : infsClash f l = false) :
    infClash z.1 v = infsClash f (l ++ [b]) := by
  have hinf := h.inf hl
  rw [infClash_eq, hinf, hv.inf]
  simp only [infsClash, infOf, hasInf_append] at hl ⊢
  generalize hasInf f l true = p at hl ⊢
  generalize hasInf f l false = n at hl ⊢
  generalize patInf f b = i
  generalize patNeg f b = s
  decide +revert

theorem SumOf.infOf_append (h : SumOf f r ftz l z) (hv : ReadFrom f ftz b v) (hl : infsClash f (l ++ [b]) = false) :
    infsClash f l = false ∧ (fpInf z.1).or (fpInf v) = infOf f (l ++ [b]) := by
  have hclash : infsClash f l = false := by
    simp only [infsClash, hasInf_append] at hl ⊢
    generalize hasInf f l true = p at hl ⊢
    generalize hasInf f l false = n at hl ⊢
    generalize patInf f b = i at hl
    generalize patNeg f b = s at hl
    decide +revert
  refine ⟨hclash, ?_⟩
  rw [h.inf hclash, hv.inf]
  simp only [infsClash, infOf, hasInf_append] at hl ⊢
  generalize hasInf f l true = p at hl ⊢
  generalize hasInf f l false = n at hl ⊢
  generalize patInf f b = i at hl ⊢
  generalize patNeg f b = s at hl ⊢
  decide +revert

theorem infsClash_append (h : infsClash f l = true) (b : Nat) : infsClash f (l ++ [b]) = true := by
  rw [infsClash, Bool.and_eq_true] at h
  rw [infsClash, hasInf_append, hasInf_append, h.1, h.2]
  rfl

/-- R159, R179: one more number is added. -/
theorem SumOf.append (h : SumOf f r ftz l z) (hv : ReadFrom f ftz b v) (hnan : patNaN f b = false) :
    SumOf f r ftz (l ++ [b]) ((fpAdd r z.1 v).1, z.2 || (fpAdd r z.1 v).2) := by
  obtain ⟨hsumNaN, hsumSig, hsumInv, hsum⟩ := fpAdd_spec r z.1 v
  have hvnan : fpNaN v = false := hv.nan.trans hnan
  have hvsig : fpSig v = false := hv.sig.trans (patNaN_of_patSig hnan)
  rw [h.nan, hvnan, Bool.or_false] at hsumNaN
  rw [h.sig, hvsig, Bool.false_or, Bool.false_or] at hsumInv
  have hclash : (infsClash f l || infClash z.1 v) = infsClash f (l ++ [b]) := by
    cases hl : infsClash f l with
    | true => rw [infsClash_append hl]; rfl
    | false => rw [h.infClash_append hv hl]; rfl
  rw [hclash] at hsumNaN
  have hfinite (hl : infsClash f (l ++ [b]) = false) (hfin : fpInf (fpAdd r z.1 v).1 = none) :
      infsClash f l = false ∧ fpInf z.1 = none ∧ fpInf v = none ∧ fpNaN z.1 = false := by
    rw [(hsum (hsumNaN.trans hl)).1, Option.or_eq_none_iff] at hfin
    have hl := (h.infOf_append hv hl).1
    exact ⟨hl, hfin.1, hfin.2, h.nan.trans hl⟩
  refine ⟨hsumSig, hsumNaN, ?_, fun hl => ?_, fun hl hfin => ?_, fun hl hfin t ht => ?_, fun hl hfin h0 hmixed => ?_⟩
  · rw [h.inv, hsumInv, hclash]
  · exact (hsum (hsumNaN.trans hl)).1.trans (h.infOf_append hv hl).2
  · obtain ⟨hl', hz, hvfin, -⟩ := hfinite hl hfin
    rw [((hsum (hsumNaN.trans hl)).2 hfin).1, h.val hl' hz, hv.val hnan (hv.inf_false hvfin), List.map_append, List.sum_append]
    simp
  · obtain ⟨hl', hz, hvfin, hznan⟩ := hfinite hl hfin
    obtain ⟨hone, hlast⟩ := List.forall_mem_append.1 ht
    exact (fpSign_fpAdd hz hvfin hznan hvnan).1 t (h.sign hl' hz t hone) ((hv.sign hnan).trans (hlast b List.mem_cons_self))
  · obtain ⟨hl', hz, hvfin, hznan⟩ := hfinite hl hfin
    obtain ⟨hsame, hdiff⟩ := fpSign_fpAdd (r := r) hz hvfin hznan hvnan
    by_cases hne : fpSign z.1 = fpSign v
    · have hz0 : fpRat z.1 = 0 := by
        have hrat := ((hsum (hsumNaN.trans hl)).2 hfin).1.symm.trans h0
        have hzside := signed_fpRat hz hznan
        have hvside := signed_fpRat hvfin hvnan
        have := abs_nonneg (fpRat z.1)
        have := abs_nonneg (fpRat v)
        rw [hne] at hzside
        cases hs : fpSign v <;> simp only [hs, signed, Bool.false_eq_true, if_false, if_true] at hzside hvside <;> linarith
      have hl_mixed : ∀ t, ¬ ∀ x ∈ l, patNeg f x = t := fun t ht => hmixed t <| List.forall_mem_append.2
        ⟨ht, List.forall_mem_singleton.2 <| (hv.sign hnan).symm.trans <| hne.symm.trans <| h.sign hl' hz t ht⟩
      exact (hsame _ rfl hne.symm).trans (h.zero hl' hz hz0 hl_mixed)
    · exact hdiff h0 hne

variable (hf : f.Wide)
include hf

/-- R179: one number is its own sum. -/
theorem sumOf_singleton {a : Nat} (hnan : patNaN f a = false) : SumOf f r ftz [a] (fpOf f ftz a, false) := by
  have ha := readFrom_fpOf hf ftz a
  have hone (t : Bool) : hasInf f [a] t = (patInf f a && patNeg f a == t) := by rw [hasInf, List.any_cons, List.any_nil, Bool.or_false]
  have hclash : infsClash f [a] = false := by
    rw [infsClash, hone, hone]
    cases patInf f a <;> cases patNeg f a <;> rfl
  refine ⟨ha.sig.trans (patNaN_of_patSig hnan), (ha.nan.trans hnan).trans hclash.symm, hclash.symm, fun _ => ?_, fun _ hfin => ?_, fun _ _ t ht => ?_,
    fun _ _ _ hmixed => (hmixed (patNeg f a) (List.forall_mem_singleton.2 rfl)).elim⟩
  · rw [ha.inf, infOf, hone, hone]
    cases patInf f a <;> cases patNeg f a <;> rfl
  · simpa using ha.val hnan (ha.inf_false hfin)
  · exact (ha.sign hnan).trans (ht a List.mem_cons_self)

theorem SumOf.foldl {l' : List Nat} (h : SumOf f r ftz l z) (hnan : ∀ x ∈ l', patNaN f x = false) :
    SumOf f r ftz (l ++ l') ((l'.map (fpOf f ftz)).foldl (fun z b => ((fpAdd r z.1 b).1, z.2 || (fpAdd r z.1 b).2)) z) := by
  induction l' generalizing l z with
  | nil => rwa [List.append_nil]
  | cons b l' ih =>
    obtain ⟨hb, hl'⟩ := List.forall_mem_cons.1 hnan
    rw [List.append_cons]
    exact ih (h.append (readFrom_fpOf hf ftz b) hb) hl'

/-- R179: the model's sum of the numbers of a list that holds no NaN. -/
theorem sumOf_sumFp (hnan : ∀ x ∈ l, patNaN f x = false) (hl : l ≠ []) : SumOf f r ftz l (sumFp r (l.map (fpOf f ftz))) := by
  have hany : (l.map (fpOf f ftz)).any fpNaN = false := by
    rw [List.any_map, List.any_eq_false]
    exact fun x hx => by rw [Function.comp_apply, (readFrom_fpOf hf ftz x).nan, hnan x hx]; exact Bool.false_ne_true
  cases l with
  | nil => exact absurd rfl hl
  | cons a l =>
    obtain ⟨ha, hl⟩ := List.forall_mem_cons.1 hnan
    rw [show sumFp r ((a :: l).map (fpOf f ftz)) = _ from if_neg (by rw [hany]; exact Bool.false_ne_true)]
    exact (sumOf_singleton hf ha).foldl hf hl

/-! ### Its rounding -/

omit hf in
/-- Where no infinity has the other sign, the first one has the sign of all. -/
theorem infOf_eq_find (h : infsClash f l = false) : infOf f l = (l.find? (patInf f)).map (patNeg f) := by
  cases hfind : l.find? (patInf f) with
  | none =>
    have hnone (t : Bool) : hasInf f l t = false := List.any_eq_false.2 fun x hx => by
      rw [Bool.eq_false_of_not_eq_true (List.find?_eq_none.1 hfind x hx)]
      exact Bool.false_ne_true
    rw [infOf, hnone, hnone]
    rfl
  | some x =>
    have hx : hasInf f l (patNeg f x) = true :=
      List.any_eq_true.2 ⟨x, List.mem_of_find?_eq_some hfind, by rw [List.find?_some hfind, beq_self_eq_true]; rfl⟩
    rw [infsClash] at h
    rw [Option.map_some, infOf]
    generalize patNeg f x = s at hx ⊢
    cases s with
    | true => rw [hx]; rfl
    | false =>
      rw [hx, Bool.and_true] at h
      rw [h, hx]
      rfl

/-- R179: the exact sum, rounded once. -/
theorem sumFp_rule (l : List Nat) :
    let both := l.any (fun x => patInf f x && patNeg f x) && l.any fun x => patInf f x && !patNeg f x
    FloatRule f r ftz (l.any (patNaN f) || both) (if l.any (patNaN f) then l.any (patSig f) else both)
      ((l.find? (patInf f)).map (patNeg f)) ((l.map (patVal f ftz)).sum)
      (if l.all (fun x => !patNeg f x) then false else if l.all (patNeg f) then true else r == .rm)
      (finish f r ftz (sumFp r (l.map (fpOf f ftz)))).1 (finish f r ftz (sumFp r (l.map (fpOf f ftz)))).2 := by
  intro both
  have hread (x : Nat) := readFrom_fpOf hf ftz x
  have hany : (l.map (fpOf f ftz)).any fpNaN = l.any (patNaN f) := by
    rw [List.any_map]; exact congrArg l.any (funext fun x => (hread x).nan)
  cases hnan : l.any (patNaN f) with
  | true =>
    have hsig : (l.map (fpOf f ftz)).any fpSig = l.any (patSig f) := by
      rw [List.any_map]; exact congrArg l.any (funext fun x => (hread x).sig)
    rw [show sumFp r (l.map (fpOf f ftz)) = _ from if_pos (hany.trans hnan), hsig]
    exact (finish_rule hf r ftz (.nan false) _ fun _ => rfl).congr rfl (fun _ => Bool.false_or _) (fun h => absurd h Bool.true_eq_false.mp)
      fun h => absurd h Bool.true_eq_false.mp
  | false =>
    obtain rfl | hl := eq_or_ne l []
    · refine (finish_rule hf r ftz (.fin false 0 0) false nofun).congr rfl (fun _ => rfl) (fun _ => rfl) fun _ _ => ⟨?_, fun _ => rfl⟩
      simp [fpRat]
    · have hsum := sumOf_sumFp (r := r) (ftz := ftz) hf (fun x hx => Bool.eq_false_of_not_eq_true (List.any_eq_false.1 hnan x hx)) hl
      have hboth : infsClash f l = both := by
        simp only [infsClash, hasInf, both, beq_true, beq_false]
      generalize sumFp r (l.map (fpOf f ftz)) = z at hsum ⊢
      refine (finish_rule hf r ftz z.1 z.2 fun hinv => hsum.nan.trans (hsum.inv.symm.trans hinv)).congr ?_ (fun _ => ?_) (fun h => ?_) fun h hfin => ?_
      · rw [hsum.nan, hboth]; rfl
      · rw [hsum.sig, hsum.inv, hboth]; rfl
      · have hclash := hsum.nan.symm.trans h
        rw [hsum.inf hclash, infOf_eq_find hclash]
      · have hclash := hsum.nan.symm.trans h
        refine ⟨hsum.val hclash hfin, fun h0 => ?_⟩
        split
        next hpos => exact hsum.sign hclash hfin false fun x hx => by simpa using List.all_eq_true.1 hpos x hx
        next hpos =>
          split
          next hneg => exact hsum.sign hclash hfin true fun x hx => List.all_eq_true.1 hneg x hx
          next hneg =>
            refine hsum.zero hclash hfin h0 fun t ht => ?_
            cases t with
            | false => exact hpos (List.all_eq_true.2 fun x hx => by rw [ht x hx]; rfl)
            | true => exact hneg (List.all_eq_true.2 ht)

end

end Sys2Proof.Machine
end

section
/-! REDUX and SCAN in F32: minimum and maximum; what REDUX and SCAN give (R179). -/

namespace Sys2Proof.Machine

/-! ### The order of patterns (R162) -/

theorem patLe_trans {f : FFmt} {x y z : Nat} (hxy : patLe f x y) (hyz : patLe f y z) : patLe f x z := by
  rcases hxy with hxy | ⟨hxy, hs⟩
  · exact .inl (hyz.elim hxy.trans fun h => hxy.trans_eq h.1)
  · rcases hyz with hyz | ⟨hyz, ht⟩
    · exact .inl (hxy.trans_lt hyz)
    · refine .inr ⟨hxy.trans hyz, ?_⟩
      generalize patNeg f x = a at hs ⊢
      generalize patNeg f y = b at hs ht
      generalize patNeg f z = c at ht ⊢
      decide +revert

section
variable {f : FFmt} {ftz : Bool} {x : Nat}

theorem patMag_flushed (f : FFmt) (ftz : Bool) (x : Nat) : patMag f (flushed f ftz x) = magRead f ftz x :=
  patMag_sign_add f _ ((magRead_le f ftz x).trans_lt (patMag_lt f x))

theorem flushed_flushed (f : FFmt) (ftz : Bool) (x : Nat) : flushed f ftz (flushed f ftz x) = flushed f ftz x := by
  have hmag : magRead f ftz (flushed f ftz x) = magRead f ftz x := by
    rw [magRead, patMag_flushed]
    by_cases h : (ftz && decide (patMag f x < 2 ^ f.fb)) = true
    · have hx : magRead f ftz x = 0 := if_pos h
      rw [hx, ite_self]
    · have hx : magRead f ftz x = patMag f x := if_neg h
      rw [hx, if_neg h]
  rw [flushed, patNeg_flushed, hmag, flushed]

theorem patNaN_flushed (h : patNaN f x = false) (ftz : Bool) : patNaN f (flushed f ftz x) = false := by
  rw [patNaN, patMag_flushed]
  exact decide_eq_false (not_lt.2 ((magRead_le f ftz x).trans (patMag_le_inf h)))

/-- R135: the default NaN is a quiet one. -/
theorem patNaN_fmtNaN {f : FFmt} (hf : f.Wide) : patNaN f (fmtNaN f) = true ∧ patSig f (fmtNaN f) = false := by
  have hhalf : 0 < 2 ^ (f.fb - 1) := by positivity
  have hmag : patMag f (fmtNaN f) = fmtNaN f := by
    refine Nat.mod_eq_of_lt ?_
    have hfb : 2 ^ f.fb = 2 * 2 ^ (f.fb - 1) := by rw [← pow_succ', Nat.sub_add_cancel hf.fb_pos]
    have hexp : 2 ^ f.eb * 2 ^ f.fb = (2 ^ f.eb - 1) * 2 ^ f.fb + 2 ^ f.fb := by
      rw [← Nat.succ_mul, Nat.succ_eq_add_one, Nat.sub_add_cancel Nat.one_le_two_pow]
    rw [pow_add, hexp, fmtNaN, fmtInf]
    omega
  rw [patSig, patNaN, hmag, fmtNaN]
  exact ⟨decide_eq_true (by omega), by rw [decide_eq_false (lt_irrefl _), Bool.and_false]⟩

end

/-! ### The extreme of a list -/

/-- R162, R179: `z` is the least (the greatest) of the patterns of a list, with the conditions of all. -/
structure ExtremeOf (f : FFmt) (isMax ftz : Bool) (l : List Nat) (z : Nat × Conds) : Prop where
  conds : z.2 = { nv := l.any (patSig f) }
  nan : l.any (patNaN f) = true → z.1 = fmtNaN f
  mem : l.any (patNaN f) = false → ∃ x ∈ l, z.1 = flushed f ftz x
  le : l.any (patNaN f) = false → ∀ x ∈ l, if isMax then patLe f (flushed f ftz x) z.1 else patLe f z.1 (flushed f ftz x)

section
variable {isMax ftz : Bool} {l : List Nat} {z : Nat × Conds} {f : FFmt} (hf : f.Wide)
include hf

omit hf in
theorem any_append_singleton (p : Nat → Bool) (l : List Nat) (b : Nat) : (l ++ [b]).any p = (l.any p || p b) := by
  rw [List.any_append, List.any_cons, List.any_nil, Bool.or_false]

theorem ExtremeOf.append (h : ExtremeOf f isMax ftz l z) (b : Nat) : ExtremeOf f isMax ftz (l ++ [b])
    ((fMinMax f isMax false ftz z.1 b).1, condsOr z.2 (fMinMax f isMax false ftz z.1 b).2) := by
  obtain ⟨hconds, hnan, -, -, hnum⟩ := fMinMax_rule hf isMax false ftz z.1 b
  obtain ⟨hznan, hzsig⟩ : patNaN f z.1 = l.any (patNaN f) ∧ patSig f z.1 = false := by
    cases hl : l.any (patNaN f) with
    | true => rw [h.nan hl]; exact patNaN_fmtNaN hf
    | false =>
      obtain ⟨x, hx, hxz⟩ := h.mem hl
      have hxnan := patNaN_flushed (Bool.eq_false_of_not_eq_true (List.any_eq_false.1 hl x hx)) ftz
      rw [hxz]
      exact ⟨hxnan, patNaN_of_patSig hxnan⟩
  rw [hznan] at hnan hnum
  rw [hzsig] at hconds
  refine ⟨?_, fun hany => ?_, fun hany => ?_, fun hany => ?_⟩
  · rw [h.conds, hconds, any_append_singleton]
    rfl
  · rw [any_append_singleton] at hany
    exact hnan (.inr ⟨rfl, hany⟩)
  all_goals
    rw [any_append_singleton, Bool.or_eq_false_iff] at hany
    obtain ⟨hl, hb⟩ := hany
    obtain ⟨x, hx, hxz⟩ := h.mem hl
    obtain ⟨hchoice, hle⟩ := hnum hl hb
    have hflush : flushed f ftz z.1 = z.1 := by rw [hxz, flushed_flushed]
    rw [hflush] at hchoice hle
  · rcases hchoice with hc | hc
    · exact ⟨x, List.mem_append_left _ hx, hc.trans hxz⟩
    · exact ⟨b, List.mem_append_right _ (List.mem_singleton_self b), hc⟩
  · have hold := h.le hl
    refine List.forall_mem_append.2 ⟨fun y hy => ?_, List.forall_mem_singleton.2 ?_⟩
    · cases isMax
      · exact patLe_trans hle.1 (hold y hy)
      · exact patLe_trans (hold y hy) hle.1
    · cases isMax
      · exact hle.2
      · exact hle.2

theorem extremeOf_singleton (isMax ftz : Bool) (a : Nat) : ExtremeOf f isMax ftz [a] (fMinMax f isMax false ftz a a) := by
  obtain ⟨hconds, hnan, -, -, hnum⟩ := fMinMax_rule hf isMax false ftz a a
  simp only [Bool.or_self, Bool.and_self, or_self, and_self] at hconds hnan hnum
  have hone (p : Nat → Bool) : [a].any p = p a := by rw [List.any_cons, List.any_nil, Bool.or_false]
  refine ⟨by rw [hone, hconds], fun hany => hnan (.inr ⟨trivial, (hone _).symm.trans hany⟩), fun hany => ?_, fun hany => ?_⟩
  all_goals obtain ⟨hval, hle⟩ := hnum ((hone _).symm.trans hany) ((hone _).symm.trans hany)
  · exact ⟨a, List.mem_singleton_self a, hval⟩
  · exact List.forall_mem_singleton.2 hle

theorem ExtremeOf.foldl (h : ExtremeOf f isMax ftz l z) (l' : List Nat) : ExtremeOf f isMax ftz (l ++ l')
    (l'.foldl (fun z b => ((fMinMax f isMax false ftz z.1 b).1, condsOr z.2 (fMinMax f isMax false ftz z.1 b).2)) z) := by
  induction l' generalizing l z with
  | nil => rwa [List.append_nil]
  | cons b l' ih =>
    rw [List.append_cons]
    exact ih (h.append hf b)

/-- R179: the extreme of the patterns of a list. -/
theorem extremeOf_cons (isMax ftz : Bool) (a : Nat) (l : List Nat) : ExtremeOf f isMax ftz (a :: l)
    (l.foldl (fun z b => ((fMinMax f isMax false ftz z.1 b).1, condsOr z.2 (fMinMax f isMax false ftz z.1 b).2)) (fMinMax f isMax false ftz a a)) :=
  (extremeOf_singleton hf isMax ftz a).foldl hf l

end

/-! ### F32 -/

/-- R162, R179: the extreme of a list in F32; of an empty one the infinity that every number passes. -/
theorem minMaxFp_rule (isMax ftz : Bool) (l : List Nat) :
    (minMaxFp isMax ftz l).2 = { nv := l.any (patSig fmtF32) } ∧
    (l = [] → (minMaxFp isMax ftz l).1 = if isMax then 0xFF800000 else 0x7F800000) ∧
    (l.any (patNaN fmtF32) = true → (minMaxFp isMax ftz l).1 = 0x7FC00000) ∧
    (l ≠ [] → l.any (patNaN fmtF32) = false → (∃ x ∈ l, (minMaxFp isMax ftz l).1 = flushed fmtF32 ftz x) ∧
      ∀ x ∈ l, if isMax then patLe fmtF32 (flushed fmtF32 ftz x) (minMaxFp isMax ftz l).1
        else patLe fmtF32 (minMaxFp isMax ftz l).1 (flushed fmtF32 ftz x)) := by
  cases l with
  | nil => exact ⟨rfl, fun _ => by cases isMax <;> rfl, fun h => absurd h Bool.false_ne_true, fun h => absurd rfl h⟩
  | cons a l =>
    have h : ExtremeOf fmtF32 isMax ftz (a :: l) (minMaxFp isMax ftz (a :: l)) := extremeOf_cons wide_fmtF32 isMax ftz a l
    exact ⟨h.conds, fun hl => absurd hl (List.cons_ne_nil a l), h.nan, fun _ hany => ⟨h.mem hany, h.le hany⟩⟩

end Sys2Proof.Machine

open Sys2Proof Sys2Proof.Machine

/-- Settles O15: integers by the folds of their operations; in F32 the exact sum and the extreme grow by one number at a time. -/
theorem reductionsAreExact : Obligations.ReductionsAreExact := by
  unfold Obligations.ReductionsAreExact
  intro s c w set act op ty r d a h ha he hL hty L z W lane rule
  have hbits : tyBits ty = 32 * ty.regs := by
    obtain hint | ⟨rfl, _⟩ := hty
    · exact tyBits_of_isInt hint
    · rfl
  have hrule (l : List Nat) (hl : ∀ x ∈ l, x < 2 ^ tyBits ty) : rule l (reduce op ty r z l).1 (reduce op ty r z l).2 := by
    obtain hint | ⟨rfl, hop⟩ := hty
    · have hne : ty ≠ .f32 := by rintro rfl; cases hint
      obtain ⟨hnone, hlt, hred⟩ := reduce_int hl hint op r z
      simp only [rule, if_neg hne]
      refine ⟨hnone, hlt, ?_⟩
      cases op with
      | _ => exact hred
    · simp only [List.mem_cons, List.not_mem_nil, or_false] at hop
      obtain rfl | rfl | rfl := hop
      · exact sumFp_rule wide_fmtF32 l
      · exact minMaxFp_rule false z l
      · exact minMaxFp_rule true z l
  have hlane (l : List Nat) := hrule (l.map (reads s w a ty.regs)) (List.forall_mem_map.2 fun v _ => reads_lt_of_full s w a hbits v)
  refine ⟨floatWord_of_reduceWord h ha he (exec_redux ..) fun u _ => ?_, fun excl => floatWord_of_reduceWord h ha he (exec_scan ..) fun u _ => ?_⟩
  · rw [reduction, operandLanes_redux]
    exact hlane _
  · rw [reduction, operandLanes_scan]
    exact hlane _

end

section
/-! The requests of a word as they are walked: a leaf that is cached changes no translation, and a request that its page allows is ready at once (R186, R190, R191). -/

namespace Sys2Proof.Machine

/-! ### A leaf serves its whole span (R186) -/

theorem div_two_pow_of_le {va va' a b : Nat} (h : va' / 2 ^ a = va / 2 ^ a) (hab : a ≤ b) : va' / 2 ^ b = va / 2 ^ b := by
  rw [← Nat.add_sub_of_le hab, pow_add, ← Nat.div_div_eq_div_mul, ← Nat.div_div_eq_div_mul, h]

theorem span_eq_pages (d : Nat) : 2 ^ (12 + 9 * d) = 2 ^ (9 * d) * 4096 := by rw [pow_add, Nat.mul_comm]; rfl

theorem mul_span_div_page (n d : Nat) : n * 2 ^ (12 + 9 * d) / 4096 = n * 2 ^ (9 * d) := by
  rw [span_eq_pages, ← Nat.mul_assoc, Nat.mul_div_cancel _ (by decide)]

theorem span_div_page (d : Nat) : 2 ^ (12 + 9 * d) / 4096 = 2 ^ (9 * d) := by
  rw [span_eq_pages, Nat.mul_div_cancel _ (by decide)]

/-- R186: every address of a leaf's span is walked to that leaf. -/
theorem walkFrom_ok {s : State} {va pa : Nat} {e : DWord} {p k d table : Nat} (h : walkFrom s va d table = .ok pa e p k) :
    ∃ j, j ≤ d ∧ k = 2 ^ (9 * j) ∧ p = va / 2 ^ (12 + 9 * j) * 2 ^ (9 * j) ∧
      ∀ va', va' / 2 ^ (12 + 9 * j) = va / 2 ^ (12 + 9 * j) → walkFrom s va' d table = .ok (entryPfn e + va' % 2 ^ (12 + 9 * j)) e p k := by
  induction d generalizing table with
  | zero =>
    unfold walkFrom at h
    dsimp only at h
    split at h
    · cases h
    split at h
    · cases h
    split at h
    · split at h
      · cases h
      · cases h
        refine ⟨0, le_rfl, span_div_page 0, mul_span_div_page _ 0, fun va' hva => ?_⟩
        unfold walkFrom
        simp only [*]
        rfl
    · split at h <;> cases h
  | succ d ih =>
    unfold walkFrom at h
    dsimp only at h
    split at h
    · cases h
    split at h
    · cases h
    split at h
    · split at h
      · cases h
      · cases h
        refine ⟨d + 1, le_rfl, span_div_page _, mul_span_div_page _ _, fun va' hva => ?_⟩
        unfold walkFrom
        simp only [*]
        rfl
    · split at h
      · cases h
      · obtain ⟨j, hj, hk, hp, hspan⟩ := ih h
        refine ⟨j, by omega, hk, hp, fun va' hva => ?_⟩
        unfold walkFrom
        simp only [div_two_pow_of_le hva (show 12 + 9 * j ≤ 12 + 9 * (d + 1) by omega), hspan va' hva, *]
        rfl

/-- R186, R190: an address in the pages of a leaf is walked to the leaf as it is cached. -/
theorem walkFrom_of_page {s : State} {va va' pa : Nat} {e : DWord} {p k d table : Nat} (h : walkFrom s va d table = .ok pa e p k)
    (hlo : p ≤ va' / 4096) (hhi : va' / 4096 < p + k) : walkFrom s va' d table = .ok (entryPfn e + va' % (k * 4096)) e p k := by
  obtain ⟨j, -, rfl, rfl, hspan⟩ := walkFrom_ok h
  have hpage : va' / 2 ^ (12 + 9 * j) = va / 2 ^ (12 + 9 * j) := by
    rw [← Nat.succ_mul] at hhi
    refine Eq.trans ?_ (Nat.div_eq_of_lt_le hlo hhi)
    rw [span_eq_pages, Nat.mul_comm, Nat.div_div_eq_div_mul]
  rw [hspan va' hpage, span_eq_pages]

/-! ### A cached leaf changes no translation (R190) -/

/-- A walk reads nothing but memory as the slices show it. -/
theorem walkFrom_congr {s t : State} (h : devNat t = devNat s) (va d table : Nat) : walkFrom t va d table = walkFrom s va d table := by
  induction d generalizing table with
  | zero => unfold walkFrom; rw [h]
  | succ d ih => unfold walkFrom; rw [h]; simp only [ih]

/-- R190: the walk of an address from its interface's root. -/
def rootWalk (s : State) (iface va : Nat) : Walk := walkFrom s va 3 (getIface s iface).ptroot.toNat

/-- R190: translations that are no stale ones stay so while what is cached is the addresses' own walks. -/
theorem NoStale.of_tlb {s : State} {iface : Nat} (h : NoStale s iface) {t : List TlbEntry} (ht : ∀ unit va,
    (cachedWalks { s with tlb := t } unit iface va).filter (fun b => !b == rootWalk s iface va) =
      (cachedWalks s unit iface va).filter fun b => !b == rootWalk s iface va) : NoStale { s with tlb := t } iface := by
  intro unit va
  have hs := h unit va
  have hwalk : walkFrom { s with tlb := t } va 3 (getIface s iface).ptroot.toNat = rootWalk s iface va := walkFrom_congr rfl _ _ _
  refine Eq.trans ?_ (hs.trans hwalk.symm)
  simp only [translate]
  rw [show getIface { s with tlb := t } iface = getIface s iface from rfl, hwalk, List.eraseDups_cons, ht, rootWalk, ← List.eraseDups_cons]

/-- R190: one more cached leaf, that of a walk from the root. -/
theorem NoStale.addTlb {s : State} {iface : Nat} (h : NoStale s iface) {va pa : Nat} {e : DWord} {p k : Nat} (hw : rootWalk s iface va = .ok pa e p k)
    (unit : Nat) : NoStale { s with tlb := if s.tlb.contains ⟨unit, iface, p, k, e⟩ then s.tlb else s.tlb ++ [⟨unit, iface, p, k, e⟩] } iface := by
  split
  · exact h
  · refine h.of_tlb fun unit' va' => ?_
    simp only [cachedWalks, List.filter_append, List.map_append]
    refine List.append_right_eq_self.2 (List.filter_eq_nil_iff.2 fun b hb => ?_)
    simp only [List.mem_map, List.mem_filter, List.mem_singleton, Bool.and_eq_true, decide_eq_true_eq] at hb
    obtain ⟨_, ⟨rfl, ⟨_, hlo⟩, hhi⟩, rfl⟩ := hb
    rw [rootWalk, walkFrom_of_page hw hlo hhi, beq_self_eq_true]
    exact Bool.false_ne_true

/-- R190: the leaf of a walk from the root is cached. -/
theorem tlbFill_noStale {s : State} {iface : Nat} (h : NoStale s iface) {va pa : Nat} {e : DWord} {p k : Nat} (hw : rootWalk s iface va = .ok pa e p k)
    (unit : Nat) : ∃ t, tlbFill s unit iface (.ok pa e p k) = { s with tlb := t } ∧ NoStale { s with tlb := t } iface := by
  refine ⟨_, rfl, ?_⟩
  have hone := h.addTlb hw unit
  split
  · refine hone.addTlb (s := { s with tlb := _ }) (va := va) (pa := pa) ?_ _
    exact (walkFrom_congr rfl _ _ _).trans hw
  · exact hone

/-! ### Requests that their pages allow (R191) -/

/-- R191: a request of an operation that is to be walked now and that its page allows. -/
structure Walkable (s : State) (o : Op) (p : Part) (pa : Nat) (e : DWord) : Prop where
  retry : p.st = .retry 0
  range : p.va < 2 ^ 48
  leaf : ∃ page k, rootWalk s (getWarp s o.warp).iface p.va = .ok pa e page k
  need : needOk (opNeed o) e = true
  span : spanParked s o.core (getWarp s o.warp).iface (p.va / 4096) = false

theorem acceptPart_ok {s : State} {id : Nat} {o : Op} {p : Part} {pa : Nat} {e : DWord} (hstale : NoStale s (getWarp s o.warp).iface)
    (hp : Walkable s o p pa e) (hdisc : discards o.kind = false) : ∃ t, acceptPart s id o p = ({ s with tlb := t }, p.translated pa e .ok, none) ∧
      NoStale { s with tlb := t } (getWarp s o.warp).iface := by
  obtain ⟨-, hrange, ⟨page, k, hleaf⟩, hneed, hspan⟩ := hp
  obtain ⟨t, ht, hstale'⟩ := tlbFill_noStale hstale hleaf o.core
  have hcheck : checkPage s o.core (getWarp s o.warp).iface p.va (opNeed o) = .ok pa e (.ok pa e page k) := by
    rw [checkPage, if_neg (not_le.2 hrange), hstale, ← rootWalk, hleaf]
    exact if_pos hneed
  refine ⟨t, ?_, hstale'⟩
  simp only [acceptPart, hspan, hcheck, hdisc, ht, Bool.false_and, Bool.false_eq_true, if_false]

/-- R191, R193: requests that their pages allow are all ready after one walk, and nothing changes but what is cached. -/
theorem acceptGo_ok {s : State} {id : Nat} {o : Op} {ps : List Part} (pa : Part → Nat) (e : Part → DWord)
    (hstale : NoStale s (getWarp s o.warp).iface) (hps : ∀ p ∈ ps, Walkable s o p (pa p) (e p)) (hdisc : discards o.kind = false)
    (hstall : ps ≠ [] → coreStalled s o.core = false) (hres : ps ≠ [] → (getWarp s o.warp).resident = true) :
    ∃ t, acceptGo id o s ps = ({ s with tlb := t }, ps.map fun p => p.translated (pa p) (e p) .ok, []) ∧
      NoStale { s with tlb := t } (getWarp s o.warp).iface := by
  induction ps using List.reverseRecOn with
  | nil => exact ⟨s.tlb, rfl, hstale⟩
  | append_singleton ps p ih =>
    obtain ⟨hps, hp⟩ := List.forall_mem_append.1 hps
    have hp := List.forall_mem_singleton.1 hp
    have hne : ps ++ [p] ≠ [] := by simp
    obtain ⟨t, hgo, hstale⟩ := ih hps (fun _ => hstall hne) (fun _ => hres hne)
    have hp' : Walkable { s with tlb := t } o p (pa p) (e p) := by
      obtain ⟨hretry, hrange, ⟨page, k, hleaf⟩, hneed, hspan⟩ := hp
      exact ⟨hretry, hrange, ⟨page, k, (walkFrom_congr rfl _ _ _).trans hleaf⟩, hneed, hspan⟩
    obtain ⟨t', hpart, hstale'⟩ := acceptPart_ok (id := id) hstale hp' hdisc
    refine ⟨t', ?_, hstale'⟩
    have hnow : walkNow { s with tlb := t } o (ps.map fun p => p.translated (pa p) (e p) .ok) p = true := by
      have hwalked : (ps.map fun p => p.translated (pa p) (e p) .ok).all (fun q => q.walked || q.st == .done) = true :=
        List.all_eq_true.2 (List.forall_mem_map.2 fun _ _ => rfl)
      have hstalled : coreStalled { s with tlb := t } o.core = false := hstall hne
      have hresident : (getWarp { s with tlb := t } o.warp).resident = true := hres hne
      simp only [walkNow, hp.retry, hstalled, hresident, hwalked, Nat.zero_le, decide_true, Bool.not_false, Bool.true_or, Bool.or_true, Bool.and_self]
    rw [acceptGo] at hgo
    simp only [acceptGo, List.foldl_append, hgo, List.foldl_cons, List.foldl_nil, hnow, if_true, hpart, List.map_append, List.map_cons, List.map_nil]

/-- R191: a new word whose requests are all allowed: they are ready, and nothing else happens. -/
theorem accept_ok {s : State} {id : Nat} {o : Op} (pa : Part → Nat) (e : Part → DWord) (hget : mapGet s.ops id = some o)
    (hstale : NoStale s (getWarp s o.warp).iface) (hps : ∀ p ∈ o.parts, Walkable s o p (pa p) (e p)) (hdisc : discards o.kind = false)
    (hstall : o.parts ≠ [] → coreStalled s o.core = false) (hres : o.parts ≠ [] → (getWarp s o.warp).resident = true) :
    ∃ t, accept s id = updOp { s with tlb := t } id fun q => { q with parts := o.parts.map fun p => p.translated (pa p) (e p) .ok } := by
  obtain ⟨t, hgo, -⟩ := acceptGo_ok (id := id) pa e hstale hps hdisc hstall hres
  refine ⟨t, ?_⟩
  unfold accept
  rw [hget]
  simp only [hgo, failLanes]
  refine congrArg (updOp _ id) (funext fun q => ?_)
  split
  case isTrue hparked =>
    obtain ⟨_, hp, hp'⟩ := List.any_eq_true.1 (Bool.and_eq_true_iff.1 hparked).1
    obtain ⟨p, -, rfl⟩ := List.mem_map.1 hp
    exact absurd hp' Bool.false_ne_true
  case isFalse => rfl

/-! ### A new operation -/

theorem mapSet_mapSet {α : Type} (m : Map α) (i : Nat) (x y : α) : mapSet (mapSet m i x) i y = mapSet m i y := by
  induction m with
  | nil => simp [mapSet]
  | cons e m ih =>
    obtain ⟨k, v⟩ := e
    simp only [mapSet]
    split
    · simp [mapSet]
    · split
      · simp [mapSet]
      · simp [mapSet, *]

/-- R111: the operations in flight, with what a new word's writes leave undefined in them. -/
def opsMarked (s : State) (o : Op) : Map Op := (o.writes.foldl (fun s r => markOps s o.warp o.lanes r) s).ops

/-- R109: the warps, with the new word counted in its counter. -/
def warpsCounted (s : State) (o : Op) : Map Warp :=
  match o.cf with
  | none => s.warps
  | some n => mapSet s.warps o.warp { getWarp s o.warp with cf := mapPut 0 (getWarp s o.warp).cf n (mapGetD (getWarp s o.warp).cf n 0 + 1) }

/-- The record of a new word as it becomes incomplete. -/
def Op.entered (o : Op) (s : State) : Op :=
  { o with core := (getWarp s o.warp).core, clobber := bothWrite s o ++ o.clobber, held := fenceHeld s s.next o }

theorem foldl_markOps (s : State) (w : Nat) (m : Lanes) (rs : List Reg) :
    rs.foldl (fun s r => markOps s w m r) s = { s with ops := (rs.foldl (fun s r => markOps s w m r) s).ops } := by
  refine List.foldlRecOn (motive := fun t : State => t = { s with ops := t.ops }) _ _ rfl fun t ht r _ => ?_
  rw [ht]
  rfl

/-- What a word that becomes incomplete changes. -/
theorem newOp_eq (s : State) (o : Op) : newOp s o = { s with
    ops := mapSet (opsMarked s o) s.next (o.entered s), warps := warpsCounted s o, next := s.next + 1 } := by
  unfold newOp warpsCounted opsMarked Op.entered
  rw [foldl_markOps]
  cases o.cf <;> rfl

/-- The parts of a new operation are its own. -/
theorem updOp_newOp (s : State) (o : Op) (ps : List Part) :
    updOp (newOp s o) s.next (fun q => { q with parts := ps }) = newOp s { o with parts := ps } := by
  rw [newOp_eq, newOp_eq]
  simp only [updOp, mapUpd, mapGet_mapSet_self, mapSet_mapSet]
  rfl

end Sys2Proof.Machine
end

section
/-! A new word whose requests are all allowed (R191): its record holds them ready, and only what is cached changes besides. -/

namespace Sys2Proof.Machine

/-! ### What the checks of a request read -/

/-- What a translation reads: memory as the slices show it, the interfaces' roots, what is cached, and the open choices. -/
theorem NoStale.congr {s t : State} {iface : Nat} (h : NoStale s iface) (hmem : devNat t = devNat s) (hifaces : t.ifaces = s.ifaces)
    (htlb : t.tlb = s.tlb) (hfree : t.free = s.free) : NoStale t iface := by
  intro unit va
  have hs := h unit va
  have hiface : getIface t iface = getIface s iface := by rw [getIface, hifaces, getIface]
  rw [hiface, walkFrom_congr hmem, ← hs]
  simp only [translate, cachedWalks, hiface, htlb, hfree, walkFrom_congr hmem]
  rfl

theorem rootWalk_congr {s t : State} (hmem : devNat t = devNat s) (hifaces : t.ifaces = s.ifaces) (iface va : Nat) :
    rootWalk t iface va = rootWalk s iface va := by
  rw [rootWalk, rootWalk, walkFrom_congr hmem, getIface, getIface, hifaces]

/-- R111: the marks of a write leave every operation its core. -/
theorem getOp_markOps_core (s : State) (w : Nat) (m : Lanes) (r : Reg) (j : Nat) : (getOp (markOps s w m r) j).core = (getOp s j).core := by
  simp only [getOp, markOps, mapGetD, mapGet_mapAll]
  cases mapGet s.ops j with
  | none => rfl
  | some o =>
    rw [Option.map_some, Option.getD_some, Option.getD_some]
    split
    · have hcore := congrArg Op.core (markOp_unmarked s m r o)
      exact hcore
    · rfl

theorem getOp_newOp_core (s : State) (o : Op) {j : Nat} (hj : j ≠ s.next) : (getOp (newOp s o) j).core = (getOp s j).core := by
  have hmarks : (getOp (o.writes.foldl (fun s r => markOps s o.warp o.lanes r) s) j).core = (getOp s j).core :=
    List.foldlRecOn (motive := fun t => (getOp t j).core = (getOp s j).core) _ _ rfl fun t ht r _ => (getOp_markOps_core t _ _ r j).trans ht
  rw [← hmarks, newOp_eq, getOp, mapGetD_mapSet, if_neg hj]
  rfl

theorem any_eq_of_forall_mem {α : Type} {l : List α} {p q : α → Bool} (h : ∀ a ∈ l, p a = q a) : l.any p = l.any q := by
  rw [Bool.eq_iff_iff, List.any_eq_true, List.any_eq_true]
  exact exists_congr fun a => and_congr_right fun ha => by rw [h a ha]

/-- R192: a new word changes no page on which a core is parked, where nothing is parked for it yet. -/
theorem spanParked_newOp {s : State} (o : Op) (hnew : ∀ q ∈ s.parks, q.2.op ≠ some s.next) (core iface page : Nat) :
    spanParked (newOp s o) core iface page = spanParked s core iface page := by
  have hparks : (newOp s o).parks = s.parks := by rw [newOp_eq]
  rw [spanParked, spanParked, hparks]
  refine any_eq_of_forall_mem fun e he => congrArg (and _) ?_
  cases hop : e.2.op with
  | none => rfl
  | some j =>
    have hj : j ≠ s.next := fun h => hnew e he (h ▸ hop)
    exact congrArg (· == core) (getOp_newOp_core s o hj)

/-! ### A new word whose requests are allowed -/

theorem Seated.iface {s t : State} (h : Seated s t) (w : Nat) : (getWarp t w).iface = (getWarp s w).iface := by
  have hseat := congrArg Warp.iface (h.warps w)
  exact hseat

theorem Seated.resident {s t : State} (h : Seated s t) (w : Nat) : (getWarp t w).resident = (getWarp s w).resident := by
  have hseat := congrArg Warp.resident (h.warps w)
  exact hseat

theorem accept_newOp {s : State} {o : Op} (pa : Part → Nat) (e : Part → DWord) (hstale : NoStale s (getWarp s o.warp).iface)
    (hps : ∀ p ∈ o.parts, Walkable s (o.entered s) p (pa p) (e p)) (hnew : o.parts ≠ [] → ∀ q ∈ s.parks, q.2.op ≠ some s.next)
    (hdisc : discards o.kind = false) (hstall : o.parts ≠ [] → coreStalled s (getWarp s o.warp).core = false)
    (hres : o.parts ≠ [] → (getWarp s o.warp).resident = true) :
    ∃ tl, accept (newOp s o) s.next = { newOp s { o with parts := o.parts.map fun p => p.translated (pa p) (e p) .ok } with tlb := tl } := by
  have hseated := (newOp_onward s o).seated
  have hiface : (getWarp (newOp s o) o.warp).iface = (getWarp s o.warp).iface := hseated.iface _
  have hresident : (getWarp (newOp s o) o.warp).resident = (getWarp s o.warp).resident := hseated.resident _
  have hget : mapGet (newOp s o).ops s.next = some (o.entered s) := by rw [newOp_eq, mapGet_mapSet_self]
  have hmem : devNat (newOp s o) = devNat s := by rw [newOp_eq]; rfl
  have hifaces : (newOp s o).ifaces = s.ifaces := by rw [newOp_eq]
  have hstale' : NoStale (newOp s o) (getWarp (newOp s o) o.warp).iface := by
    rw [hiface]
    exact hstale.congr hmem hifaces (by rw [newOp_eq]) (by rw [newOp_eq])
  have hps' : ∀ p ∈ o.parts, Walkable (newOp s o) (o.entered s) p (pa p) (e p) := by
    intro p hp
    obtain ⟨hretry, hrange, ⟨page, k, hleaf⟩, hneed, hspan⟩ := hps p hp
    refine ⟨hretry, hrange, ⟨page, k, ?_⟩, hneed, ?_⟩
    · rw [rootWalk_congr hmem hifaces]
      exact (congrArg (rootWalk s · _) hiface).trans hleaf
    · rw [spanParked_newOp o (hnew (List.ne_nil_of_mem hp))]
      exact (congrArg (spanParked s _ · _) hiface).trans hspan
  have hstalled : o.parts ≠ [] → coreStalled (newOp s o) (getWarp s o.warp).core = false := by
    intro hne
    rw [newOp_eq]
    exact hstall hne
  obtain ⟨tl, hacc⟩ := accept_ok pa e hget hstale' hps' hdisc hstalled fun hne => hresident.trans (hres hne)
  exact ⟨tl, hacc.trans (congrArg (fun t : State => { t with tlb := tl }) (updOp_newOp s o _))⟩

end Sys2Proof.Machine
end

section
/-! CSTORE: where the selected lanes are stored (R183), the word's record, and what its active threads receive (R184, R413). -/

namespace Sys2Proof.Machine

/-! ### Packed elements (R183) -/

/-- R183: how a CSTORE packs its elements: the tiles' lanes, an element's bytes, the base, and the selected lanes. -/
structure Packing where
  L : Nat
  z : Nat
  base : Nat
  sel : Nat → Bool

/-- R183: where a selected lane is stored: after the selected lanes of its tile below it, from the tile's span on. -/
def Packing.addr (k : Packing) (u : Nat) : Nat := k.base + u / k.L * (k.L * k.z) + laneRank k.L k.sel u * k.z

def Packing.lanes (k : Packing) : List Nat := (List.range 32).filter k.sel

/-- R183: the requests of the selected lanes, to be walked at once. -/
def Packing.parts (k : Packing) (val : Nat → Nat) : List Part := k.lanes.map fun u =>
  { lane := u, va := k.addr u, n := k.z, st := .retry 0, val := BitVec.ofNat 128 (val u % 2 ^ (8 * k.z)) }

/-- R183: addresses are taken modulo 2^64, and an element above 2^48 fails; none does where every element lies below. -/
theorem Packing.parts_wrapped {k : Packing} (val : Nat → Nat) (hrange : ∀ u ∈ k.lanes, k.addr u + k.z ≤ 2 ^ 48) : (k.lanes.map fun u =>
    ({ lane := u, va := k.addr u % 2 ^ 64, n := k.z, st := if k.addr u % 2 ^ 64 + k.z > 2 ^ 48 then .failed causeAccess else .retry 0
       val := BitVec.ofNat 128 (val u % 2 ^ (8 * k.z)) } : Part)) = k.parts val := by
  refine List.map_congr_left fun u hu => ?_
  have hlow := hrange u hu
  rw [Nat.mod_eq_of_lt (by omega), if_neg (not_lt.2 hlow)]

/-- R183: the packing of a CSTORE of warp `w` as it issues. -/
def packingAt (s : State) (w : Nat) (act : Lanes) (ty : Ty) (neg : Bool) (n : BitVec 3) (off : BitVec 12) (a : Opd) : Packing where
  L := lpartOf s (getWarp s w)
  z := ty.size
  base := wrapTo 64 ((readsOnce s w act a 2 : Int) + off.toInt)
  sel u := act.getLsbD u && (predAt s w n.toNat u != neg)

theorem filter_laneList (act : Lanes) (p : Nat → Bool) : (laneList act).filter p = (List.range 32).filter fun u => act.getLsbD u && p u := by
  rw [laneList, List.filter_filter]
  exact List.filter_congr fun u _ => Bool.and_comm _ _

/-- R183: the rank of a lane that CSTORE takes. -/
theorem cstoreRank_eq (act : Lanes) (p : Nat → Bool) (L u : Nat) : cstoreRank act p L u = laneRank L (fun v => act.getLsbD v && p v) u := by
  rw [cstoreRank, filter_laneList, laneRank]
  refine congrArg List.length (List.filter_congr fun v _ => ?_)
  rw [Bool.and_left_comm]

theorem size_pos (ty : Ty) : 0 < ty.size := by cases ty <;> decide

/-! ### The issue -/

/-- R275: a word whose scope is granted acts at that scope. -/
theorem withScope_advance {s : State} {w : Nat} {sc : Scope} (h : Grants s w sc) (set act : Lanes) (f : Scope → State → State) :
    withScope (advance s w set) (issueAt s w set act) sc f = f sc (advance s w set) := by
  have hiface : getIface (advance s w set) (getWarp (advance s w set) w).iface = getIface s (getWarp s w).iface := by
    rw [getWarp_advance_iface]; rfl
  have hgrant : (sc != .system || (getIface s (getWarp s w).iface).policy.getLsbD 0) = true := by
    rw [Bool.or_eq_true, bne_iff_ne]
    exact h
  simp only [withScope, demote, issueAt_w, hiface, hgrant, if_true]

theorem exec_cstore (c : Ctl) (ty : Ty) (sc : Scope) (neg : Bool) (n : BitVec 3) (off : BitVec 12) (d a b : Opd) (s : State) :
    exec (.cstore c ty sc neg n off d a b) s = execCstore c ty sc neg n off d a b s := rfl

section
variable {s : State} {c : Ctl} {w : Nat} {set act : Lanes} {sc : Scope} (h : Issues s c w set act) (hg : Grants s w sc)
  (hearly : lpartEarly s (getWarp s w) = false) (ty : Ty) (neg : Bool) (n : BitVec 3) (off : BitVec 12) (d a b : Opd)

/-- The record of a CSTORE before its requests are walked. -/
def cstoreOp (s : State) (w : Nat) (set act : Lanes) (c : Ctl) (sc : Scope) (ty : Ty) (neg : Bool) (n : BitVec 3) (off : BitVec 12) (d a b : Opd) : Op :=
  { opOf (.cstore c ty sc neg n off d a b) (issueAt s w set act) c with
    scope := sc, parts := (packingAt s w act ty neg n off a).parts (reads s w b ty.regs), args := [lpartOf s (getWarp s w), 0] }

include h hg hearly

/-- R183: a base that is not aligned to the element: counts of zero, and ALIGN. -/
theorem exec_cstore_misaligned (hz : (packingAt s w act ty neg n off a).base % ty.size ≠ 0) : exec (.cstore c ty sc neg n off d a b) s =
    .next (trapSet (writeDst (advance s w set) (issueAt s w set act) 0 d 1 act fun _ => 0) (issueAt s w set act) causeAlign 0
      (packingAt s w act ty neg n off a).base) := by
  have hz' : wrapTo 64 ((readsOnce s w act a 2 : Int) + off.toInt) % ty.size ≠ 0 := hz
  rw [exec_cstore, execCstore, issue_next h, withScope_advance hg]
  simp only [lowVal_advance, issueAt_w, lpartEarly_advance, hearly, Bool.false_eq_true, if_false, if_pos hz']
  rfl

/-- R183, R413: an aligned CSTORE asks for its elements' bytes and holds its set. -/
theorem exec_cstore_aligned (hz : (packingAt s w act ty neg n off a).base % ty.size = 0)
    (hrange : ∀ u ∈ (packingAt s w act ty neg n off a).lanes, (packingAt s w act ty neg n off a).addr u + ty.size ≤ 2 ^ 48) :
    exec (.cstore c ty sc neg n off d a b) s = .next (setCond (accept (newOp (advance s w set) (cstoreOp s w set act c sc ty neg n off d a b)) s.next)
      w set (fun _ => .waiting (.held s.next)) (issueAt s w set act).pc) := by
  have hz' : wrapTo 64 ((readsOnce s w act a 2 : Int) + off.toInt) % ty.size = 0 := hz
  rw [exec_cstore, execCstore, issue_next h, withScope_advance hg, cstoreOp, ← Packing.parts_wrapped _ hrange]
  simp only [lowVal_advance, issueAt_w, lpartEarly_advance, hearly, Bool.false_eq_true, if_false, hz', ne_eq, not_true, lpartOf_advance, pBit_advance,
    srcVal_advance, issueAt_act, filter_laneList, cstoreRank_eq]
  rfl

end

/-- R183: the elements as a CSTORE holds them: a request for each selected lane, with its value. -/
theorem Packing.parts_translated (k : Packing) (val pa : Nat → Nat) (e : Nat → DWord) :
    ((k.parts val).map fun p => p.translated (pa p.lane) (e p.lane) .ok).map (fun p => (p.lane, p.va, p.pa, p.n, p.val)) =
      k.lanes.map fun u => (u, k.addr u, pa u, k.z, BitVec.ofNat 128 (val u % 2 ^ (8 * k.z))) := by
  rw [Packing.parts, List.map_map, List.map_map]
  rfl

theorem Packing.forall_mem_parts {k : Packing} {val : Nat → Nat} {P : Part → Prop}
    (h : ∀ u ∈ k.lanes, P { lane := u, va := k.addr u, n := k.z, st := .retry 0, val := BitVec.ofNat 128 (val u % 2 ^ (8 * k.z)) }) :
    ∀ p ∈ k.parts val, P p := List.forall_mem_map.2 h

/-! ### The walks -/

section
variable {s : State} {w : Nat} {need : Need} {va pa : Nat} {e : DWord}

theorem Allows.unparked (h : Allows s w need va pa e) : ∀ q ∈ s.parks, q.2.op ≠ some s.next := by
  obtain ⟨-, -, -, hnew, -, -⟩ := h
  exact hnew

theorem Allows.unstalled (h : Allows s w need va pa e) : coreStalled s (getWarp s w).core = false := by
  obtain ⟨-, -, -, -, hstall, -⟩ := h
  exact hstall

theorem Allows.resident (h : Allows s w need va pa e) : (getWarp s w).resident = true := by
  obtain ⟨-, -, -, -, -, hres⟩ := h
  exact hres

end

section
variable {s : State} {w : Nat} {need : Need} {o : Op}

/-- R191: a request of a word that issues now is walked as the state before the advance allows. -/
theorem Walkable.of_allows {pa : Nat} {e : DWord} {p : Part} (h : Allows s w need p.va pa e) (hva : p.va < 2 ^ 48) (set : Lanes)
    (hw : o.warp = w) (hneed : opNeed (o.entered (advance s w set)) = need) (hst : p.st = .retry 0) :
    Walkable (advance s w set) (o.entered (advance s w set)) p pa e := by
  obtain ⟨⟨page, k, hleaf⟩, hok, hspan, -, -, -⟩ := h
  subst hw
  refine ⟨hst, hva, ⟨page, k, ?_⟩, hneed ▸ hok, ?_⟩
  · rw [Op.entered, getWarp_advance_iface, rootWalk_congr rfl rfl]
    exact hleaf
  · rw [Op.entered, getWarp_advance_iface, getWarp_advance_core]
    exact hspan

/-- R191: a word that issues, whose requests are all allowed. -/
theorem accept_newOp_advance (set : Lanes) (pa : Part → Nat) (e : Part → DWord) (hw : o.warp = w) (hstale : NoStale s (getWarp s w).iface)
    (hneed : opNeed (o.entered (advance s w set)) = need) (hdisc : discards o.kind = false)
    (hps : ∀ p ∈ o.parts, p.st = .retry 0 ∧ p.va < 2 ^ 48 ∧ Allows s w need p.va (pa p) (e p)) :
    ∃ tl, accept (newOp (advance s w set) o) s.next =
      { newOp (advance s w set) { o with parts := o.parts.map fun p => p.translated (pa p) (e p) .ok } with tlb := tl } := by
  subst hw
  have hsome {P : Prop} (hP : ∀ va pa e, Allows s o.warp need va pa e → P) : o.parts ≠ [] → P := by
    intro hne
    obtain ⟨p, hp⟩ := List.exists_mem_of_ne_nil _ hne
    obtain ⟨-, -, hallow⟩ := hps p hp
    exact hP _ _ _ hallow
  refine accept_newOp (s := advance s o.warp set) pa e ?stale ?walk (hsome fun _ _ _ => Allows.unparked) hdisc ?stall ?resident
  case stale =>
    rw [getWarp_advance_iface]
    exact hstale.congr rfl rfl rfl rfl
  case walk =>
    intro p hp
    obtain ⟨hst, hva, hallow⟩ := hps p hp
    exact .of_allows hallow hva set rfl hneed hst
  case stall =>
    rw [getWarp_advance_core]
    exact hsome fun _ _ _ => Allows.unstalled
  case resident =>
    rw [getWarp_advance]
    exact hsome fun _ _ _ => Allows.resident

end

section
variable {s : State} {c : Ctl} {w : Nat} {set act : Lanes} {sc : Scope} (h : Issues s c w set act) (hg : Grants s w sc)
  (hearly : lpartEarly s (getWarp s w) = false) (ty : Ty) (neg : Bool) (n : BitVec 3) (off : BitVec 12) (d a b : Opd)
include h hg hearly

/-- R183, R191, R413: a CSTORE whose elements' pages allow it: its requests are ready, and its set is held. -/
theorem exec_cstore_allowed (hstale : NoStale s (getWarp s w).iface) (hz : (packingAt s w act ty neg n off a).base % ty.size = 0)
    (pa : Nat → Nat) (e : Nat → DWord) (hallow : ∀ u ∈ (packingAt s w act ty neg n off a).lanes, (packingAt s w act ty neg n off a).addr u + ty.size ≤ 2 ^ 48 ∧
      Allows s w { w := true } ((packingAt s w act ty neg n off a).addr u) (pa u) (e u)) :
    ∃ tl, exec (.cstore c ty sc neg n off d a b) s = .next (setCond
      { newOp (advance s w set) { cstoreOp s w set act c sc ty neg n off d a b with
        parts := (cstoreOp s w set act c sc ty neg n off d a b).parts.map fun p => p.translated (pa p.lane) (e p.lane) .ok } with tlb := tl }
      w set (fun _ => .waiting (.held s.next)) (issueAt s w set act).pc) := by
  have hps : ∀ p ∈ (cstoreOp s w set act c sc ty neg n off d a b).parts,
      p.st = .retry 0 ∧ p.va < 2 ^ 48 ∧ Allows s w { w := true } p.va (pa p.lane) (e p.lane) := by
    refine Packing.forall_mem_parts fun u hu => ?_
    obtain ⟨hlow, hu⟩ := hallow u hu
    exact ⟨rfl, Nat.lt_of_lt_of_le (Nat.lt_add_of_pos_right (size_pos ty)) hlow, hu⟩
  rw [exec_cstore_aligned h hg hearly ty neg n off d a b hz fun u hu => (hallow u hu).1]
  have hwarp : (cstoreOp s w set act c sc ty neg n off d a b).warp = w := rfl
  have hneed : opNeed ((cstoreOp s w set act c sc ty neg n off d a b).entered (advance s w set)) = { w := true } := rfl
  have hdisc : discards (cstoreOp s w set act c sc ty neg n off d a b).kind = false := rfl
  obtain ⟨tl, hacc⟩ := accept_newOp_advance set (fun p => pa p.lane) (fun p => e p.lane) hwarp hstale hneed hdisc hps
  exact ⟨tl, by rw [hacc]⟩

end

end Sys2Proof.Machine
end

section
/-! CSTORE_COMPLETE (R184, R413), and O20. -/

namespace Sys2Proof.Machine

/-! ### Completion (R184) -/

theorem exec_cstoreComplete (s : State) : exec .cstoreComplete s = execCstoreComplete s := rfl

section
variable {s : State} {id : Nat} {o : Op}

/-- R184: a run whose elements are all written stops at no page. -/
theorem cstoreStop_of_done (hdone : ∀ p ∈ o.parts, p.st = .done) : cstoreStop o = none := by
  unfold cstoreStop
  dsimp only
  rw [List.filterMap_eq_nil_iff.2]
  intro p hp
  rw [hdone p hp]

/-- R184: a run whose elements are all written is settled. -/
theorem cstoreSettled_of_done (hdone : ∀ p ∈ o.parts, p.st = .done) : cstoreSettled o = true := by
  refine List.all_eq_true.2 fun p hp => ?_
  rw [Part.undone, hdone p hp]
  rfl

/-- R184, R413: the end of a run whose elements are all written: the counts, and the held threads go on. -/
theorem cstoreEnd_of_done (hget : mapGet s.ops id = some o) (n : BitVec 9) (hdone : ∀ p ∈ o.parts, p.st = .done) (hargs : o.args.getD 1 0 = 0) :
    let s1 := retV s o n.toNat o.lanes fun u => BitVec.ofNat 32 (o.parts.filter fun p => p.lane / o.args.getD 0 32 == u / o.args.getD 0 32).length
    let s2 := finishOp { s1 with parks := mapFilter s1.parks fun _ e => e.op != some id } id
    cstoreEnd s id (.v n) = wake s2 o.warp (waiting (getWarp s2 o.warp) fun v => v == .held id) fun _ => o.pc + 12 := by
  have hop : getOp s id = o := by rw [getOp, mapGetD, hget, Option.getD_some]
  have hwritten : (o.parts.filter fun p => p.st == .done) = o.parts :=
    List.filter_eq_self.2 fun p hp => beq_iff_eq.2 (hdone p hp)
  unfold cstoreEnd
  simp only [hop, hwritten, hargs, if_true, cstoreStop_of_done hdone]
  rfl

/-- R184, R413: CSTORE_COMPLETE where it is due. -/
theorem exec_cstoreComplete_next (hmsg : s.msg = some (.cstoreComplete id)) (hget : mapGet s.ops id = some o) {c : Ctl} {ty : Ty} {sc : Scope}
    {neg : Bool} {p : BitVec 3} {off : BitVec 12} {d a b : Opd} (hkind : o.kind = .word (.cstore c ty sc neg p off d a b))
    (hdone : ∀ p ∈ o.parts, p.st = .done) (hmay : publishedMay s o = true) : exec .cstoreComplete s = .next (cstoreEnd s id d) := by
  have hdue : cstoreMay s o = true := by rw [cstoreMay, cstoreSettled_of_done hdone, hmay, Bool.and_self]
  rw [exec_cstoreComplete, execCstoreComplete]
  refine event_next hmsg ?_
  simp only [hget, hkind, hdue, if_true]

end

end Sys2Proof.Machine

open Sys2Proof Sys2Proof.Machine

/-- Settles O20: the requests of a CSTORE are its selected lanes' elements, packed from each tile's span on and walked where their pages allow it; at CSTORE_COMPLETE each active thread receives the number of its tile's elements. -/
theorem cstorePacksItsTiles : Obligations.CstorePacksItsTiles := by
  unfold Obligations.CstorePacksItsTiles
  refine ⟨?issue, ?complete⟩
  case issue =>
    intro s c w set act ty sc neg n off d a b h hstale hg hearly _
    refine ⟨exec_cstore_misaligned h hg hearly ty neg n off d a b, fun pa e hz hallow => ?_⟩
    obtain ⟨tl, hexec⟩ := exec_cstore_allowed h hg hearly ty neg n off d a b hstale hz pa e fun u hu => by
      obtain ⟨hu, hsel⟩ := List.mem_filter.1 hu
      exact hallow u (List.mem_range.1 hu) hsel
    exact ⟨_, tl, hexec, rfl, rfl, rfl, rfl, rfl, rfl, rfl, Packing.parts_translated _ _ pa e⟩
  case complete =>
    intro s id o i n hmsg hget hi hkind _ hdone hargs hmay
    obtain ⟨c, ty, sc, neg, p, off, a, b, rfl⟩ := hi
    rw [exec_cstoreComplete_next hmsg hget hkind hdone hmay]
    exact congrArg _ (cstoreEnd_of_done hget n hdone hargs)

end
